-- ==== Sys2Proof/Word.lean ====
section
/-!
DEFINITION. The word types of the S2 and their plainest arithmetic.
-/
namespace Sys2Proof

/-- A byte (R5). -/
abbrev Byte := BitVec 8
/-- A 16-bit halfword. -/
abbrev W16 := BitVec 16
/-- A 32-bit register or instruction word. -/
abbrev W32 := BitVec 32
/-- A 64-bit register, SRAM word or token payload. -/
abbrev W64 := BitVec 64

/-- Bits `lo` to `lo + w - 1` of a natural number. -/
def bitsOf (n lo w : Nat) : Nat := n / 2 ^ lo % 2 ^ w

/-- The number `n` with bits `lo` to `lo + w - 1` replaced by the low `w` bits of `v`. -/
def setBits (n lo w v : Nat) : Nat := n - bitsOf n lo w * 2 ^ lo + v % 2 ^ w * 2 ^ lo

/-- Bit `i` of a natural number, as a truth value. -/
def bitOf (n i : Nat) : Bool := n / 2 ^ i % 2 == 1

/-- One for true, zero for false. -/
def b2n (b : Bool) : Nat := if b then 1 else 0

end Sys2Proof
end

