-- ==== Sys2Proof/Types.lean ====
section
/-!
DEFINITION. The data that commands carry: tokens, the names of units, and what a unit sees on its inputs.
-/
namespace Sys2Proof

/-- A gallery token (R81). `kind` 0 data, 1 control, 2 sump marker, 3 empty. -/
structure Token where
  data : W64 := 0
  addr : BitVec 28 := 0
  index : Nat := 0
  operand : Nat := 0
  tag : W16 := 0
  kind : Nat := 0
  prompt : Bool := false
  epoch : Nat := 0
  status : BitVec 4 := 0
  beat : W16 := 0
  copy : Nat := 0
deriving DecidableEq, Repr, Inhabited

/-- The empty token (R81): kind 3 and every other field 0. -/
def Token.empty : Token := { kind := 3 }

/-- A producer-consumer edge (R92): one route of a hen, or one output stream of another unit. -/
inductive Edge where
  /-- no credited edge: a stamp, a seed, a notify of the hub -/
  | none
  /-- route `r` of physical hen `h` of physical cluster `c` of die `n` -/
  | hen (n c h r : Nat)
  /-- output rule `j` of port block `i` of die `n` -/
  | port (n i j : Nat)
  /-- output stream `q` of the quantiser of physical cluster `c` of die `n` -/
  | quant (n c q : Nat)
  /-- descriptor `d` of goat `g` of physical cluster `c` of die `n` -/
  | goat (n c g d : Nat)
  /-- output port `k` of ox pair `p` of die `n` -/
  | ox (n p k : Nat)
  /-- notify output of receive queue `r` (`tx` false) or transmit queue `r` (`tx` true) of port block `i` of die `n` -/
  | mac (n i r : Nat) (tx : Bool)
  /-- seed of cycle `c` of die `n`, in the place of its back edge; it holds no credit (R94, R176) -/
  | seed (n c : Nat)
  /-- descriptor `o` of array `a`: markers only, its tokens hold no credit (R113, R175) -/
  | array (n a o : Nat)
  /-- feed of array `a` by the quantiser of physical cluster `c`: markers only (R111) -/
  | feed (n c a : Nat)
  /-- steering channel `k` of physical cluster `c` to entry `e` of hen `h`: markers only (R175) -/
  | chan (n c k h e : Nat)
deriving DecidableEq, Repr, Inhabited

/-- A token on its way together with the edge whose credit it holds. -/
structure Flit where
  tok : Token := {}
  edge : Edge := .none
deriving DecidableEq, Repr, Inhabited

/-- A physical hen: die, physical cluster (64 the spare), physical hen (64 the spare) (R22, R55). -/
structure HenRef where
  die : Nat
  clu : Nat
  hen : Nat
deriving DecidableEq, Repr, Inhabited

/-- A context of a physical hen (R55). -/
structure CtxRef where
  hen : HenRef
  ctx : Nat
deriving DecidableEq, Repr, Inhabited

/-- A unit of a compute die that receives tokens over a channel or switches at a sump marker (R36, R83, R176). -/
inductive UnitId where
  /-- physical hen -/
  | hen (h : HenRef)
  /-- steering unit of physical cluster `c` -/
  | steer (n c : Nat)
  /-- steering channel `k` of physical cluster `c` (R90, R175) -/
  | chan (n c k : Nat)
  /-- input `i` of router `r` (R83: 0 N, 1 E, 2 S, 3 W, 4 C, 5 A) -/
  | router (n r i : Nat)
  /-- stream `q` of the quantiser of physical cluster `c` -/
  | quant (n c q : Nat)
  /-- array `a` -/
  | array (n a : Nat)
  /-- gate `g` -/
  | gate (n g : Nat)
  /-- port block `i`, its extractor or composer -/
  | port (n i : Nat)
  /-- descriptor `d` of goat `g` of physical cluster `c` -/
  | goat (n c g d : Nat)
  /-- ox pair `p` -/
  | ox (n p : Nat)
  /-- bridge on side `b` (0 W, 1 N, 2 S, 3 E) -/
  | bridge (n b : Nat)
deriving DecidableEq, Repr, Inhabited

/-- A unit without a spare (R378); the acquisition engine (R300). -/
inductive LostUnit where
  | dram (n b : Nat)
  | package (p : Nat)
  | ioDie (x : Nat)
  | glowworm (e : Nat)
  | lasers
  | acquisition
deriving DecidableEq, Repr, Inhabited

/-- What the error-correcting code of a word shows at a read (R88, R127): `double v` carries the word as stored. -/
inductive Ecc where
  | clean
  | single
  | double (stored : W64)
deriving DecidableEq, Repr, Inhabited

/-- A vector on an array's feed channel (R106): 128 bytes of data, 256 in the 16-bit class. -/
structure Vec where
  data : List Byte := []
  xexp : W64 := 0
  xsub : W32 := 0
  header : W64 := 0
  tag : W16 := 0
  epoch : Nat := 0
  status : BitVec 4 := 0
  beat : W16 := 0
  copy : Nat := 0
deriving DecidableEq, Repr, Inhabited

/-- Who asks a cluster's banks for an access (R87). -/
inductive Requester where
  | ctx (x : CtxRef)
  /-- line `k` of descriptor `d` -/
  | goat (n c g d k : Nat)
  /-- the quantiser's SRAM passes (R149) -/
  | quant (n c : Nat)
deriving DecidableEq, Repr, Inhabited

/-- What reaches a port block's receiver (R185, R190): a Henist line block as it stood on the fibre, or bytes of an Ethernet frame,
its FCS included; `fin` marks the frame's end and `err` an error the PCS marks in it. -/
inductive PortPiece where
  | block (bits : BitVec 272)
  | ether (bytes : List Byte) (fin err : Bool)
deriving DecidableEq, Repr, Inhabited

/-- A Vilovote ring frame as received (R275): the lane it came on (0 A, 1 B) and its fields; its CRC was right. -/
structure RingFrame where
  lane : Nat := 0
  kind : Nat := 0
  origin : Nat := 0
  hop : Nat := 0
  flags : Nat := 0
  seq : W16 := 0
  /-- domain time in 1/256 ns, modulo 2^48 -/
  time : Nat := 0
  /-- bytes 12 to 23 -/
  body : List Byte := []
deriving DecidableEq, Repr, Inhabited

/-- A PTP message of IEEE 1588-2019 as the hub's clock takes it (R268). -/
inductive PtpMsg where
  /-- Sync from a clock: sequence, whether a Follow_Up follows, origin time and correction in 2^-16 ns -/
  | sync (source seq : Nat) (twoStep : Bool) (origin correction : Nat)
  | followUp (source seq origin correction : Nat)
  | delayReq (source seq : Nat)
  | delayResp (source seq receipt correction : Nat)
  | pdelayReq (source seq : Nat)
  | pdelayResp (source seq receipt : Nat) (twoStep : Bool) (correction : Nat)
  | pdelayRespFollowUp (source seq origin correction : Nat)
  /-- Announce: the data set the best master clock algorithm compares, best first when smaller -/
  | announce (source : Nat) (dataset : List Nat)
deriving DecidableEq, Repr, Inhabited

end Sys2Proof
end

