-- ==== Sys2Proof/Syntax.lean ====
section
/-!
DEFINITION. The commands of the block: one constructor per row of the table of commands, in its order, each with the operands
the row's rule gives it. A command is a register access, a command or frame of a protocol, an event on a pin, or an event inside
the module whose moment the manual leaves to the hardware.
-/
namespace Sys2Proof

/-- A command or event of the S2 (one constructor per row of the table). -/
inductive Instr where
  /-- `REGISTER_WRITE` (R6): A write to a register with no row of its own stores, ignores or refuses the value under its access type and R9. -/
  | registerWrite (a : Nat) (bytes : Nat) (v : Nat) (t : Nat)
  /-- `PARTCFG_WRITE` (R20): A write to PARTCFG takes effect only in die state 1 with a valid split, otherwise it is refused and part_write_refused is set. -/
  | partcfgWrite (n : Nat) (half : Option Nat) (v : Nat) (t : Nat)
  /-- `CXL_MEM_READ` (R23): A host CXL.mem read returns tier-2 or acquisition-ring data, or poisoned data outside both ranges. -/
  | cxlMemRead (a : Nat) (t : Nat)
  /-- `CXL_MEM_WRITE` (R23): A host CXL.mem write lands in tier 2 or the ring, or is dropped and counted outside both ranges. -/
  | cxlMemWrite (a : Nat) (t : Nat) (bs : List Byte)
  /-- `INVALID_CODE` (R36): The code checker sees an invalid dual-rail code, delivers a substitute token with FAULT and reports the channel. -/
  | invalidCode (u : UnitId) (f : Flit) (part_ : Nat) (row : Nat) (col : Nat) (t : Nat)
  /-- `HANDSHAKE_STALL` (R37): A handshake condition outlasts the channel's stall limit and the watchdog reports a stall. -/
  | handshakeStall (u : UnitId) (code : Nat) (part_ : Nat) (row : Nat) (col : Nat) (t : Nat)
  /-- `ARRIVAL_STAMP` (R44): An ARRIVAL stamp reaches a gate, which allocates a beat entry with its firing time. -/
  | arrivalStamp (n : Nat) (g : Nat) (beat : W16) (anchor : Nat)
  /-- `SCHEDULE_ANCHOR` (R47): A SCHEDULE-mode gate admits the next beat of its schedule and allocates its entry. -/
  | scheduleAnchor (n : Nat) (g : Nat)
  /-- `GATE_TOKEN` (R45): An output token reaches a gate and is placed in the entry of its beat. -/
  | gateToken (n : Nat) (g : Nat) (f : Flit) (t : Nat)
  /-- `GATE_FIRE` (R48): At its firing time the gate releases the entry's value or the fallback with LATE or FAULT. -/
  | gateFire (n : Nat) (g : Nat)
  /-- `GCFG_WRITE` (R54): A write to GCFG configures a disabled gate, or clears enable and frees every entry without release. -/
  | gcfgWrite (n : Nat) (g : Nat) (v : W32)
  /-- `GSLACK_MIN_WRITE` (R48): Any write to GSLACK_MIN resets the least recorded slack to 0xFFFF. -/
  | gslackMinWrite (n : Nat) (g : Nat) (v : W32)
  /-- `HEN_TOKEN` (R58): A token reaches a hen and is classified against the entry window. -/
  | henToken (h : HenRef) (f : Flit) (t : Nat)
  /-- `ADD` (R69): ALU add adds lanes with wrapping. -/
  | henAdd (x : CtxRef)
  /-- `SUB` (R69): ALU sub subtracts lanes with wrapping. -/
  | henSub (x : CtxRef)
  /-- `ADDS` (R69): ALU adds adds lanes with signed saturation. -/
  | henAdds (x : CtxRef)
  /-- `SUBS` (R69): ALU subs subtracts lanes with signed saturation. -/
  | henSubs (x : CtxRef)
  /-- `ADDUS` (R69): ALU addus adds lanes with unsigned saturation. -/
  | henAddus (x : CtxRef)
  /-- `SUBUS` (R69): ALU subus subtracts lanes with unsigned saturation. -/
  | henSubus (x : CtxRef)
  /-- `AND` (R68): ALU and forms the bitwise and. -/
  | henAnd (x : CtxRef)
  /-- `OR` (R68): ALU or forms the bitwise or. -/
  | henOr (x : CtxRef)
  /-- `XOR` (R68): ALU xor forms the bitwise exclusive or. -/
  | henXor (x : CtxRef)
  /-- `ANDN` (R68): ALU andn forms ra and not rb. -/
  | henAndn (x : CtxRef)
  /-- `SHL` (R68): ALU shl shifts each lane left. -/
  | henShl (x : CtxRef)
  /-- `SHR` (R68): ALU shr shifts each lane right logically. -/
  | henShr (x : CtxRef)
  /-- `SAR` (R68): ALU sar shifts each lane right arithmetically. -/
  | henSar (x : CtxRef)
  /-- `ROL` (R68): ALU rol rotates each lane left. -/
  | henRol (x : CtxRef)
  /-- `MIN` (R68): ALU min takes the signed lane minimum. -/
  | henMin (x : CtxRef)
  /-- `MAX` (R68): ALU max takes the signed lane maximum. -/
  | henMax (x : CtxRef)
  /-- `MINU` (R68): ALU minu takes the unsigned lane minimum. -/
  | henMinu (x : CtxRef)
  /-- `MAXU` (R68): ALU maxu takes the unsigned lane maximum. -/
  | henMaxu (x : CtxRef)
  /-- `CEQ` (R68): ALU ceq sets a lane to all ones where lanes are equal. -/
  | henCeq (x : CtxRef)
  /-- `CLT` (R68): ALU clt sets a lane to all ones where ra is signed less. -/
  | henClt (x : CtxRef)
  /-- `CLTU` (R68): ALU cltu sets a lane to all ones where ra is unsigned less. -/
  | henCltu (x : CtxRef)
  /-- `POPC` (R68): ALU popc counts set bits per lane. -/
  | henPopc (x : CtxRef)
  /-- `CLZ` (R68): ALU clz counts leading zeros per lane. -/
  | henClz (x : CtxRef)
  /-- `CTZ` (R68): ALU ctz counts trailing zeros per lane. -/
  | henCtz (x : CtxRef)
  /-- `MUL` (R68): ALU mul gives the low half of each lane product. -/
  | henMul (x : CtxRef)
  /-- `MULH` (R68): ALU mulh gives the signed high half of each lane product. -/
  | henMulh (x : CtxRef)
  /-- `MULHU` (R68): ALU mulhu gives the unsigned high half of each lane product. -/
  | henMulhu (x : CtxRef)
  /-- `DOT` (R69): ALU dot sums lane products exactly into an i64. -/
  | henDot (x : CtxRef)
  /-- `DIV` (R69): ALU div divides signed lanes, truncating. -/
  | henDiv (x : CtxRef)
  /-- `DIVU` (R69): ALU divu divides unsigned lanes. -/
  | henDivu (x : CtxRef)
  /-- `REM` (R69): ALU rem gives the signed remainder per lane. -/
  | henRem (x : CtxRef)
  /-- `REMU` (R69): ALU remu gives the unsigned remainder per lane. -/
  | henRemu (x : CtxRef)
  /-- `ADDI` (R68): ADDI adds a sign-extended immediate. -/
  | henAddi (x : CtxRef)
  /-- `ANDI` (R68): ANDI ands a zero-extended immediate. -/
  | henAndi (x : CtxRef)
  /-- `ORI` (R68): ORI ors a zero-extended immediate. -/
  | henOri (x : CtxRef)
  /-- `XORI` (R68): XORI xors a zero-extended immediate. -/
  | henXori (x : CtxRef)
  /-- `MOVZ` (R68): MOVZ places an immediate in one halfword and zeroes the rest. -/
  | henMovz (x : CtxRef)
  /-- `MOVK` (R68): MOVK replaces one halfword of rd with an immediate. -/
  | henMovk (x : CtxRef)
  /-- `SEL` (R68): SEL selects ra or rb per lane on the bit pattern of rd. -/
  | henSel (x : CtxRef)
  /-- `BFX` (R68): BFX extracts a bit field. -/
  | henBfx (x : CtxRef)
  /-- `BFI` (R68): BFI inserts a bit field. -/
  | henBfi (x : CtxRef)
  /-- `MFS` (R78): MFS reads a special value of the context. -/
  | henMfs (x : CtxRef)
  /-- `SETST` (R68): SETST ors bits into the context status. -/
  | henSetst (x : CtxRef)
  /-- `SHLI` (R68): SHLI shifts left by an immediate. -/
  | henShli (x : CtxRef)
  /-- `SHRI` (R68): SHRI shifts right logically by an immediate. -/
  | henShri (x : CtxRef)
  /-- `SARI` (R68): SARI shifts right arithmetically by an immediate. -/
  | henSari (x : CtxRef)
  /-- `FADD` (R70): FPU fadd adds floating lanes with one rounding. -/
  | henFadd (x : CtxRef)
  /-- `FSUB` (R70): FPU fsub subtracts floating lanes with one rounding. -/
  | henFsub (x : CtxRef)
  /-- `FMUL` (R70): FPU fmul multiplies floating lanes with one rounding. -/
  | henFmul (x : CtxRef)
  /-- `FMIN` (R70): FPU fmin takes minimumNumber per lane. -/
  | henFmin (x : CtxRef)
  /-- `FMAX` (R70): FPU fmax takes maximumNumber per lane. -/
  | henFmax (x : CtxRef)
  /-- `FABS` (R68): FPU fabs clears each lane's sign bit. -/
  | henFabs (x : CtxRef)
  /-- `FNEG` (R68): FPU fneg flips each lane's sign bit. -/
  | henFneg (x : CtxRef)
  /-- `FCEQ` (R68): FPU fceq compares floating lanes for equality. -/
  | henFceq (x : CtxRef)
  /-- `FCLT` (R68): FPU fclt compares floating lanes for less than. -/
  | henFclt (x : CtxRef)
  /-- `FCLE` (R68): FPU fcle compares floating lanes for less or equal. -/
  | henFcle (x : CtxRef)
  /-- `FDIV` (R70): FPU fdiv divides fp32 lanes. -/
  | henFdiv (x : CtxRef)
  /-- `FSQRT` (R70): FPU fsqrt takes fp32 square roots. -/
  | henFsqrt (x : CtxRef)
  /-- `FMA` (R70): FMA adds ra times rb to rd with one rounding per lane. -/
  | henFma (x : CtxRef)
  /-- `CVT` (R71): CVT converts lanes between formats with one rounding. -/
  | henCvt (x : CtxRef)
  /-- `LD64` (R72): LD64 issues an 8-byte SRAM load. -/
  | henLd64 (x : CtxRef)
  /-- `LD32` (R72): LD32 issues a 4-byte SRAM load. -/
  | henLd32 (x : CtxRef)
  /-- `LD16` (R72): LD16 issues a 2-byte SRAM load. -/
  | henLd16 (x : CtxRef)
  /-- `LD8` (R72): LD8 issues a 1-byte SRAM load. -/
  | henLd8 (x : CtxRef)
  /-- `ST64` (R72): ST64 issues an 8-byte SRAM store. -/
  | henSt64 (x : CtxRef)
  /-- `ST32` (R88): ST32 issues a 4-byte read-merge-write SRAM store. -/
  | henSt32 (x : CtxRef)
  /-- `ST16` (R88): ST16 issues a 2-byte read-merge-write SRAM store. -/
  | henSt16 (x : CtxRef)
  /-- `ST8` (R88): ST8 issues a 1-byte read-merge-write SRAM store. -/
  | henSt8 (x : CtxRef)
  /-- `SEND` (R73): SEND emits one token on a route once a credit is held. -/
  | henSend (x : CtxRef)
  /-- `QWAIT` (R76): QWAIT waits until the queue holds n entries for this context. -/
  | henQwait (x : CtxRef)
  /-- `QTAKE` (R76): QTAKE pops the head entry of a read queue. -/
  | henQtake (x : CtxRef)
  /-- `QPUT` (R76): QPUT appends a word to a write queue. -/
  | henQput (x : CtxRef)
  /-- `TWAIT` (R77): TWAIT suspends the context until a raw time or a time-event occurrence. -/
  | henTwait (x : CtxRef)
  /-- `BR` (R68): BR branches always. -/
  | henBr (x : CtxRef)
  /-- `BZ` (R68): BZ branches if ra is zero. -/
  | henBz (x : CtxRef)
  /-- `BNZ` (R68): BNZ branches if ra is not zero. -/
  | henBnz (x : CtxRef)
  /-- `BLT` (R68): BLT branches on signed less than. -/
  | henBlt (x : CtxRef)
  /-- `BGE` (R68): BGE branches on signed greater or equal. -/
  | henBge (x : CtxRef)
  /-- `BLTU` (R68): BLTU branches on unsigned less than. -/
  | henBltu (x : CtxRef)
  /-- `BGEU` (R68): BGEU branches on unsigned greater or equal. -/
  | henBgeu (x : CtxRef)
  /-- `BEQ` (R68): BEQ branches on equality. -/
  | henBeq (x : CtxRef)
  /-- `BNE` (R68): BNE branches on inequality. -/
  | henBne (x : CtxRef)
  /-- `END` (R79): END retires the context, passes its queues and frees it. -/
  | henEnd (x : CtxRef)
  /-- `ILLEGAL_INSTRUCTION` (R74): A context reaches an illegal word, an ECC error or flows past the code and retires at once on the illegal path. -/
  | illegalInstruction (x : CtxRef)
  /-- `SRAM_ACCESS_COMPLETE` (R86): A bank serves a waiting load, store or wide access and completes it. -/
  | sramAccessComplete (n : Nat) (c : Nat) (who : Requester) (e : Ecc) (t : Nat)
  /-- `QUEUE_CONDITION_MET` (R76): A waiting queue instruction's tag-order and fill condition comes to hold and it completes. -/
  | queueConditionMet (x : CtxRef)
  /-- `TWAIT_WAKE` (R77): The named time of a TWAIT arrives and the context becomes ready. -/
  | twaitWake (x : CtxRef) (t : Nat)
  /-- `AGE_DROP` (R80): A context bound longer than the age limit is dropped and reported. -/
  | ageDrop (x : CtxRef) (t : Nat)
  /-- `STEERING_TOKEN` (R89): A token reaches the steering unit, takes a slot and is held, matched or delivered. -/
  | steeringToken (n : Nat) (c : Nat) (f : Flit) (t : Nat)
  /-- `STEERING_AGED` (R91): A token held past the age limit is discarded, counted and reported. -/
  | steeringAged (n : Nat) (c : Nat) (t : Nat)
  /-- `STEERSTAT_WRITE` (R89): Any write to STEERSTAT sets the peak field to 0. -/
  | steerstatWrite (n : Nat) (c : Nat) (v : W32)
  /-- `CREDIT_RETURN` (R92): A credit comes back to its producer over the credit network and may release a waiting send. -/
  | creditReturn (e : Edge) (t : Nat)
  /-- `SLOT_POSITION` (R95): A running framed link sends the owner's token or an empty token in its next slot position. -/
  | slotPosition (n : Nat) (r : Nat) (o : Nat)
  /-- `ROUTER_TOKEN` (R97): A token arrives at a router input and takes a hold register for its next owned position. -/
  | routerToken (n : Nat) (r : Nat) (i : Nat) (f : Flit) (t : Nat)
  /-- `SRAM_SCRUB` (R88): A scrub read of a bank word corrects it, writes back in bulk or enters the prompt repair list. -/
  | sramScrub (n : Nat) (c : Nat) (word : Nat) (e : Ecc)
  /-- `HEN_SUBSTITUTION` (R100): The hub firmware writes the spare hen from the image store and steering maps the logical hen to it. -/
  | henSubstitution (h : HenRef) (ok : Bool) (t : Nat)
  /-- `CLUSTER_SUBSTITUTION` (R101): The hub firmware writes the spare cluster and the router switches the failed cluster to the spur. -/
  | clusterSubstitution (n : Nat) (c : Nat) (ok : Bool) (t : Nat)
  /-- `ARRAY_VECTOR` (R108): An input vector enters the array and is added to its accumulation. -/
  | arrayVector (n : Nat) (a : Nat) (v : Vec) (t : Nat)
  /-- `FILL_COMPLETE` (R110): A weight register fill ends and vectors waiting on it enter. -/
  | fillComplete (n : Nat) (a : Nat) (corrected : Nat) (uncorrected : Nat) (t : Nat)
  /-- `ARRAY_MARKER` (R111): A sump marker passes the feed, changing the epoch, invalidating registers and requesting fills. -/
  | arrayMarker (n : Nat) (a : Nat) (f : Flit) (t : Nat)
  /-- `STORE_WRITE` (R112): A management or goat write reaches a weight store set, accepted or refused by partition rules. -/
  | storeWrite (n : Nat) (a : Nat) (space : Nat) (off : Nat) (bs : List Byte) (goat : Bool)
  /-- `BALLAST_SLOT` (R124): An idle vector interval runs a ballast slot into the discard sink. -/
  | ballastSlot (n : Nat) (a : Nat)
  /-- `BALLAST_WINDOW` (R369): At the start of each 16-interval window the array sets its ballast level from Ra. -/
  | ballastWindow (n : Nat) (a : Nat)
  /-- `ARRAY_SUBSTITUTION` (R125): The firmware maps a spare row or column into a faulty array and resumes its feed. -/
  | arraySubstitution (n : Nat) (a : Nat) (t : Nat)
  /-- `STORE_SCRUB` (R127): A store scrub read corrects a word, writing back in bulk or entering the prompt repair list. -/
  | storeScrub (n : Nat) (a : Nat) (word : Nat) (ecc : Ecc)
  /-- `QUANT_WORD` (R150): A gallery word reaches a quantiser stream and is converted into its output. -/
  | quantWord (n : Nat) (c : Nat) (f0 : Flit) (t : Nat)
  /-- `QUANT_RETURN` (R121): Array return lines reach the quantiser's return stream. -/
  | quantReturn (n : Nat) (c : Nat) (t : Nat)
  /-- `SRAM_PASS` (R149): A start token begins an SRAM pass of a quantiser stream. -/
  | sramPass (n : Nat) (c : Nat) (f0 : Flit) (t : Nat)
  /-- `PASS_COMPLETE` (R149): An SRAM pass ends and its completion token goes to the notify address. -/
  | passComplete (n : Nat) (c : Nat) (q : Nat) (t : Nat)
  /-- `QSNAP_TAKE` (R156): QSNAP take copies a statistics slot into the snapshot registers. -/
  | qsnapTake (n : Nat) (c : Nat) (q : Nat)
  /-- `QSNAP_TAKE_CLEAR` (R156): QSNAP take with clear snapshots a slot and zeroes it at the same point. -/
  | qsnapTakeClear (n : Nat) (c : Nat) (q : Nat)
  /-- `QDESC_WRITE` (R156): A write to a stream descriptor configures it and zeroes its statistics slot. -/
  | qdescWrite (n : Nat) (c : Nat) (q : Nat) (w : Nat) (half : Option Nat) (v : Nat) (t : Nat)
  /-- `JOB_START` (R170): At START_TICK the mapped dies enter state 3, epoch 0, and seeds are injected. -/
  | jobStart (id : Nat)
  /-- `MARKER_ARRIVAL` (R176): A sump marker reaches a unit, which switches when markers are in on every input edge. -/
  | markerArrival (u : UnitId) (f : Flit) (t : Nat)
  /-- `UNIT_RELEASE` (R178): The hub writes a held unit's new state and releases it, returning its marker credits. -/
  | unitRelease (u : UnitId) (t : Nat)
  /-- `DRAIN_LIMIT` (R179): A switch not complete within the drain limit is forced in every prompt unit. -/
  | drainLimit (n : Nat)
  /-- `EPOCH_HOLD_EXPIRY` (R180): One millisecond after a forced reconfiguration the retired epoch value may be issued again. -/
  | epochHoldExpiry (n : Nat)
  /-- `OX_INPUT` (R181): A gallery token reaches an ox pair input port. -/
  | oxInput (n : Nat) (p : Nat) (f : Flit) (t : Nat)
  /-- `OX_CYCLE` (R182): An ox pair advances its S1 program by one cycle per handshake round. -/
  | oxCycle (n : Nat) (p : Nat)
  /-- `BLOCK_LOCK` (R187): 64 clean blocks at one alignment give the Henist receiver block lock. -/
  | blockLock (n : Nat) (i : Nat)
  /-- `LOCK_LOSS` (R187): 16 uncorrectable blocks in 64 lose lock and end any open frame as failed and cut. -/
  | lockLoss (n : Nat) (i : Nat) (t : Nat)
  /-- `FIELD_LANDED` (R195): A field's last byte lands or its end is known and the extractor releases its tokens. -/
  | fieldLanded (n : Nat) (i : Nat) (p : PortPiece) (t : Nat)
  /-- `FRAME_VERDICT` (R191): A received frame's verdict becomes known at the port block. -/
  | frameVerdict (n : Nat) (i : Nat) (t : Nat)
  /-- `REPLY_START` (R205): At the reply start the composer sends, marks PROV on, or suppresses the reply by the verdict. -/
  | replyStart (n : Nat) (g : Nat)
  /-- `CANCEL_START` (R207): A queued cancel starts in a free gap of the composer. -/
  | cancelStart (n : Nat) (i : Nat) (t : Nat)
  /-- `CANCEL_DROP` (R207): A cancel not started within the cancel limit is dropped and counted. -/
  | cancelDrop (n : Nat) (i : Nat) (t : Nat)
  /-- `LINK_FRAME` (R212): A tensor frame reaches a link-mode port and is matched to beat k of its schedule. -/
  | linkFrame (n : Nat) (i : Nat) (t : Nat)
  /-- `LINK_SUBSTITUTE` (R213): At S_k the port releases unreleased tokens of beat k with the substitute value, SUBST and LATE. -/
  | linkSubstitute (n : Nat) (i : Nat)
  /-- `GOAT_START` (R221): A start token reaches a goat descriptor and begins or queues a run. -/
  | goatStart (n : Nat) (c : Nat) (g : Nat) (f : Flit) (t : Nat)
  /-- `LINE_ISSUE` (R220): A goat issues a line when its queue has room, in rotation order. -/
  | lineIssue (n : Nat) (c : Nat) (g : Nat) (d : Nat) (t : Nat)
  /-- `LINE_COMPLETE` (R220): A read line lands and enters its queue in line order. -/
  | lineComplete (n : Nat) (c : Nat) (g : Nat) (d : Nat) (k : Nat) (corrected : Nat) (bad : Bool) (t : Nat)
  /-- `WRITE_ACCEPTED` (R220): The memory controller accepts a written line and its queue entries are freed. -/
  | writeAccepted (n : Nat) (c : Nat) (g : Nat) (d : Nat) (k : Nat) (t : Nat)
  /-- `BULK_JOB_END` (R226): The hub ends a bulk job on every die and module and frees its units. -/
  | bulkJobEnd (t : Nat)
  /-- `PATROL_SCRUB` (R226): The DRAM patrol scrubber reads, corrects and records words. -/
  | patrolScrub (tier : Nat) (n : Nat) (a : Nat) (corrected : Nat) (bad : Bool)
  /-- `REFRESH` (R217): A DRAM or LPDDR6 channel becomes unavailable for a refresh. -/
  | refresh (tier : Nat) (n : Nat) (channel : Nat) (t : Nat)
  /-- `HISTORY_FRAME` (R228): A history tap frame or gate release takes history queue entries or is dropped. -/
  | historyFrame (n : Nat) (written : Nat) (t : Nat)
  /-- `HISTQ_WRITE` (R228): Any write to HISTQ sets its peak field to 0. -/
  | histqWrite (n : Nat) (v : W32)
  /-- `PACER_PHASE` (R230): A pacer phase begins and admits or withholds bulk issue. -/
  | pacerPhase (n : Nat)
  /-- `BARRIER_TIMEOUT` (R231): A barrier incomplete for its limit ends the job with BARRIER_TIMEOUT. -/
  | barrierTimeout (b : Nat)
  /-- `INSTALL` (R238): The hub checks an install list, copies the sets, writes the new map and arms a switch. -/
  | install (n : Nat) (c : Nat) (g : Nat) (d : Nat) (t : Nat)
  /-- `CHECKPOINT_QUIESCENT` (R234): The held job becomes quiescent and the hub writes the checkpoint and releases the barrier. -/
  | checkpointQuiescent (id : Nat) (t : Nat)
  /-- `FREEZE_TIME` (R251): At the freeze time the ports send markers to a freeze epoch and stop emitting field tokens. -/
  | freezeTime
  /-- `THAW_TIME` (R253): At the resume time the switch to a new epoch runs and carry tokens are injected. -/
  | thawTime
  /-- `TINC_WRITE` (R264): A rate write rebases domain time and takes the new tinc. -/
  | tincWrite (v : W64)
  /-- `TADJ_STEP` (R264): A 64-bit write to TADJ steps domain time or is refused beyond TJUMP. -/
  | tadjStep (v : W64)
  /-- `TSET_COMMIT` (R264): A write to TSET_HI sets domain time unless a die is in state 2 or 3. -/
  | tsetCommit (v : W32)
  /-- `TIME_SNAP` (R263): TCFG.snap latches raw and domain time of one tick. -/
  | timeSnap
  /-- `TECFG_WRITE` (R271): A write to TECFG arms or disarms a time event. -/
  | tecfgWrite (e : Nat) (v : W32)
  /-- `TIME_EVENT_OCCURRENCE` (R271): An occurrence of a time event arrives, pulsing pins and waking waits. -/
  | timeEventOccurrence (e : Nat)
  /-- `TIO_CAPTURE` (R272): An active edge on a capture pin is stamped into the capture queue. -/
  | tioCapture (p : Nat) (t : Nat)
  /-- `TIO_TRIGGER` (R272): An active edge on a trigger-input pin makes a request of its rule. -/
  | tioTrigger (p : Nat) (t : Nat)
  /-- `TIOCAP_READ` (R272): A read of TIOCAP pops one captured edge. -/
  | tiocapRead (p : Nat)
  /-- `TXTS_HI_READ` (R269): A read of TXTS_HI pops one transmit timestamp entry. -/
  | txtsHiRead (t1s : Bool) (n : Nat) (i : Nat)
  /-- `SYNC` (R280): A SYNC frame is received, corrected, forwarded and used by the servo. -/
  | sync (f : RingFrame) (t : Nat)
  /-- `DELAY_REQ` (R279): A DELAY_REQ frame is received and answered with DELAY_RESP. -/
  | delayReq (f : RingFrame) (t : Nat)
  /-- `DELAY_RESP` (R279): A DELAY_RESP frame is received and the hop delay is computed. -/
  | delayResp (f : RingFrame) (t : Nat)
  /-- `ARM` (R282): An ARM frame is received, scheduling the arm change and checking the vote check. -/
  | arm (f : RingFrame) (t : Nat)
  /-- `FIRE` (R284): A FIRE frame is received and its act scheduled on an armed node. -/
  | fire (f : RingFrame) (t : Nat)
  /-- `VOTE` (R285): A VOTE frame is received and held for evaluation. -/
  | vote (f : RingFrame) (t : Nat)
  /-- `RETRACT` (R286): A RETRACT frame is received and removes its target if in time. -/
  | retract (f : RingFrame) (t : Nat)
  /-- `ARRIVE` (R287): An ARRIVE frame reports a module's barrier arrivals to the master. -/
  | arrive (f : RingFrame) (t : Nat)
  /-- `RELEASE` (R287): A RELEASE frame sets the barrier release instant or a checkpoint hold. -/
  | release (f : RingFrame) (t : Nat)
  /-- `READY` (R260): A READY frame carries a module's readiness for a multi-module start. -/
  | ready (f : RingFrame) (t : Nat)
  /-- `READY_B` (R288): A READY_B frame carries the graph digest bits. -/
  | readyB (f : RingFrame) (t : Nat)
  /-- `GO` (R288): A GO frame lets each module convert T0 and start the job. -/
  | go (f : RingFrame) (t : Nat)
  /-- `JOBEND` (R288): A JOBEND frame ends the job's part on the receiving module. -/
  | jobend (f : RingFrame) (t : Nat)
  /-- `STATUS` (R288): A STATUS frame is received and the master adds its counts into VNODE. -/
  | status (f : RingFrame) (t : Nat)
  /-- `SYNC_PERIOD` (R280): The master's sync period expires and it sends SYNC on both lanes. -/
  | syncPeriod (t : Nat)
  /-- `DELAY_PERIOD` (R279): The delay period expires and the node sends DELAY_REQ. -/
  | delayPeriod (t : Nat)
  /-- `STATUS_PERIOD` (R288): The status period expires and the node sends STATUS and checks node counts. -/
  | statusPeriod (t : Nat)
  /-- `NODE_MISSING` (R288): Three status periods pass without STATUS from a node and the master marks it missing. -/
  | nodeMissing (n : Nat) (t : Nat)
  /-- `VARM_WRITE` (R282): The master's write to VARM sends ARM for the effective time or is refused. -/
  | varmWrite (v : W64)
  /-- `ARM_EFFECTIVE` (R282): At the effective time the node becomes armed or disarmed. -/
  | armEffective
  /-- `TRIGGER_SEND` (R283): The trigger unit sends a queued request's frame within its rate limit. -/
  | triggerSend (t : Nat)
  /-- `ACT` (R284): At an act instant the node pulses pins, marks acquisition, appends VACT and raises the act source. -/
  | act
  /-- `VOTE_EVALUATION` (R285): At a vote's evaluation instant the node counts votes and may complete a voted fire. -/
  | voteEvaluation
  /-- `VACT_READ` (R284): A read of VACT pops one act entry. -/
  | vactRead
  /-- `VNODE_CLEAR` (R288): A write of clear to VNODE zeroes a node's late and fault counts. -/
  | vnodeClear (n : Nat)
  /-- `PTP_MESSAGE` (R268): A PTP event or general message reaches the hub's ordinary clock. -/
  | ptpMessage (m : PtpMsg) (t : Nat)
  /-- `ACQ_COMMIT` (R301): ACQCTL commit submits the pending acquisition configuration to admission. -/
  | acqCommit
  /-- `ACQ_STOP` (R301): ACQCTL stop disables every stream and destination at once. -/
  | acqStop
  /-- `ACQ_FRAME` (R291): A tapped frame lands and a stream makes a FRAME record or adds to a window. -/
  | acqFrame
  /-- `SEGMENT_COMMIT` (R296): A record leaves the segment delay line and is committed or discarded. -/
  | segmentCommit (k : Nat)
  /-- `TAIL_BLOCK` (R298): The tail period expires and the host destination's tail block is written. -/
  | tailBlock (d : Nat) (t : Nat)
  /-- `DATAGRAM_FLUSH` (R298): An Ethernet destination sends its datagram when full or when flush expires. -/
  | datagramFlush (d : Nat)
  /-- `LASER_FAILURE` (R306): A laser stays below 30 % for 500 ns and is marked failed and switched off. -/
  | laserFailure (l : Nat) (t : Nat)
  /-- `GLOWWORM_FAILURE` (R307): A glowworm's control path faults or all its lanes go dark and it is marked failed. -/
  | glowwormFailure (e : Nat) (t : Nat)
  /-- `CDR_LOCK_LOSS` (R308): A lane loses CDR lock and training runs again. -/
  | cdrLockLoss (e : Nat) (k : Nat) (t : Nat)
  /-- `PRBS_LOCK` (R310): The pattern checker predicts 64 bits and locks. -/
  | prbsLock (e : Nat) (k : Nat) (t : Nat)
  /-- `PRBS_LOCK_LOSS` (R310): The checker sees 64 errors in 1,024 bits, drops lock and reseeds. -/
  | prbsLockLoss (e : Nat) (k : Nat) (bits : Nat) (errs : Nat) (t : Nat)
  /-- `LINJ_GO` (R311): LINJ go starts an error injection run. -/
  | linjGo (e : Nat) (k : Nat) (v : W64)
  /-- `LINJ_STOP` (R311): Writing kind 0 ends a running injection. -/
  | linjStop (e : Nat) (k : Nat) (v : W64)
  /-- `INJECTION` (R311): The spacing count expires and one injection flips bits or a symbol. -/
  | injection (e : Nat) (k : Nat) (t : Nat)
  /-- `MAC_RECEIVE` (R313): A bulk Ethernet frame is filtered, steered to a queue or dropped. -/
  | macReceive (n : Nat) (i : Nat) (bytes : List Byte) (err : Bool) (first : Nat) (t : Nat)
  /-- `RECEIVE_RECORD` (R315): A receive queue writes a frame record when the ring has room and notifies. -/
  | receiveRecord (n : Nat) (i : Nat) (q : Nat) (t : Nat)
  /-- `RECEIVE_RELEASE` (R315): A release token frees a queue's records up to a seq. -/
  | receiveRelease (n : Nat) (i : Nat) (f : Flit) (t : Nat)
  /-- `PAUSE_REFRESH` (R316): The refresh interval expires and PAUSE is repeated. -/
  | pauseRefresh (n : Nat) (i : Nat) (t : Nat)
  /-- `PAUSE_RECEIVED` (R317): A received PAUSE or per-priority pause stops transmit queues. -/
  | pauseReceived (n : Nat) (i : Nat) (plain : Bool) (quanta : List (Nat × Nat)) (t : Nat)
  /-- `PAUSE_EXPIRY` (R317): A received pause's quanta run out and the queues resume. -/
  | pauseExpiry (n : Nat) (i : Nat) (q : Nat)
  /-- `TRANSMIT_TOKEN` (R318): A token queues a frame descriptor on a transmit queue. -/
  | transmitToken (n : Nat) (i : Nat) (f : Flit) (t : Nat)
  /-- `FRAME_SENT` (R318): A bulk frame has been sent and its notify and timestamp follow. -/
  | frameSent (n : Nat) (i : Nat) (first : Nat) (t : Nat)
  /-- `T1S_RECEIVE` (R320): A 10BASE-T1S frame enters the hub receive queue or is dropped. -/
  | t1sReceive (bytes : List Byte) (t : Nat)
  /-- `T1S_COLLISION` (R319): A collision on the segment jams and starts back-off, or discards or aborts the frame. -/
  | t1sCollision (bits : Nat) (t : Nat)
  /-- `T1S_BACKOFF` (R319): The back-off expires and the frame is retried. -/
  | t1sBackoff (clear : Bool) (t : Nat)
  /-- `LINK_DOWN` (R324): A link-down, hot reset or function-level reset resets the CXL function state only. -/
  | linkDown (kind : Nat) (t : Nat)
  /-- `LINK_TRAINED` (R324): The host link trains, setting degraded if below the strapped width or rate. -/
  | linkTrained (width : Nat) (rate : Nat) (t : Nat)
  /-- `MSIX_UNMASK` (R323): Unmasking a vector with its pending bit set sends its message. -/
  | msixUnmask (v : Nat)
  /-- `PACKET_COMMIT` (R328): A BAR2 write covering the final word commits a packet, which the firmware checks in order. -/
  | packetCommit (w : Nat) (off : Nat) (ws : List W32) (t : Nat)
  /-- `NONCE` (R341): NONCE returns the salt and a fresh device nonce bound to the window. -/
  | nonce (w : Nat) (t : Nat)
  /-- `OPEN_MAINT` (R343): OPEN_MAINT opens a maintenance session on proof of the password. -/
  | openMaint (w : Nat) (t : Nat)
  /-- `OPEN_OP` (R344): OPEN_OP opens an operating session by signature and key encapsulation. -/
  | openOp (w : Nat) (t : Nat)
  /-- `CLOSE` (R345): CLOSE ends the session, refusing with outstanding tags unless forced. -/
  | close (w : Nat) (t : Nat)
  /-- `CAPS` (R338): CAPS returns the capability list. -/
  | caps (w : Nat) (t : Nat)
  /-- `LATTAB` (R338): LATTAB returns the latency table. -/
  | lattab (w : Nat) (t : Nat)
  /-- `ATTEST` (R350): ATTEST returns a signed attestation report. -/
  | attest (w : Nat) (t : Nat)
  /-- `LOAD` (R170): LOAD reads, checks and writes an image onto the mapped dies. -/
  | load (id : Nat) (mem : Option (List Byte)) (t : Nat)
  /-- `UPDATE` (R174): UPDATE checks an update image and arms a drained reconfiguration at T. -/
  | update (id : Nat) (mem : Option (List Byte)) (t : Nat)
  /-- `STOP` (R179): STOP forces reconfiguration, disables the dies' gates and returns them to idle. -/
  | stop (id : Nat) (t : Nat)
  /-- `RESUME` (R236): RESUME loads an image and overwrites it with a checkpoint. -/
  | resume (id : Nat) (mem : Option (List Byte)) (ck : Option (List Byte)) (t : Nat)
  /-- `CHECKPOINT` (R234): CHECKPOINT arms a checkpoint at the next complete checkpoint barrier. -/
  | checkpoint (id : Nat) (t : Nat)
  /-- `FREEZE` (R251): FREEZE arms the freeze of a prompt stream at T. -/
  | freeze (id : Nat) (t : Nat)
  /-- `THAW` (R253): THAW checks a freeze save and arms the resume at T′. -/
  | thaw (id : Nat) (mem : Option (List Byte)) (t : Nat)
  /-- `STRICT` (R246): STRICT sets, clears or locks the STRICT bit. -/
  | strict (w : Nat) (t : Nat)
  /-- `JOBCTL` (R248): JOBCTL arms or disarms early-exit evaluation. -/
  | jobctl (w : Nat) (t : Nat)
  /-- `INPUTS` (R258): INPUTS declares the input digest of a bulk job. -/
  | inputs (w : Nat) (t : Nat)
  /-- `PROV` (R259): PROV returns a provenance digest and its material. -/
  | prov (w : Nat) (t : Nat)
  /-- `T1S_SEND` (R320): T1S_SEND transmits a frame on the slow-control port. -/
  | t1sSend (w : Nat) (t : Nat)
  /-- `T1S_RECV` (R320): T1S_RECV returns a frame from the hub receive queue. -/
  | t1sRecv (w : Nat) (t : Nat)
  /-- `KEY_ENROLL` (R346): KEY_ENROLL places a public key with roles in a slot. -/
  | keyEnroll (w : Nat) (t : Nat)
  /-- `KEY_REVOKE` (R346): KEY_REVOKE empties a slot and closes its sessions. -/
  | keyRevoke (w : Nat) (t : Nat)
  /-- `PASSWORD` (R343): PASSWORD replaces the stored salt and verifier. -/
  | password (w : Nat) (t : Nat)
  /-- `POLICY` (R338): POLICY writes the security policy. -/
  | policy (w : Nat) (t : Nat)
  /-- `FW_UPDATE` (R348): FW_UPDATE verifies a firmware image and writes it to the other flash copy. -/
  | fwUpdate (id : Nat) (mem : Option (List Byte)) (t : Nat)
  /-- `COMMAND_COMPLETE` (R332): A kind-C command ends and its completion entry is written, or dropped if stale. -/
  | commandComplete (id : Nat) (t : Nat)
  /-- `COMMAND_TIMEOUT` (R335): A command's deadline passes, a TIMEOUT entry is written and the tag generation advances. -/
  | commandTimeout (id : Nat)
  /-- `SESSION_IDLE` (R345): A session idle for the policy limit closes. -/
  | sessionIdle (id : Nat)
  /-- `LOCKOUT_EXPIRY` (R345): The maintenance lockout time ends and OPEN_MAINT is accepted again. -/
  | lockoutExpiry
  /-- `NONCE_EXPIRY` (R341): Ten seconds after NONCE the device nonce can no longer be consumed. -/
  | nonceExpiry (w : Nat)
  /-- `PENDING_SET` (R352): A hardware condition sets its source's pending bit. -/
  | pendingSet (src : Nat) (t : Nat)
  /-- `IPEND_WRITE` (R354): A write to IPEND replaces a group's pending word. -/
  | ipendWrite (g : Nat) (v : W32)
  /-- `TARGET_SIGNAL` (R356): A deliverable source signals an unnotified target and starts the group hold-off. -/
  | targetSignal (t : Nat) (u : Nat)
  /-- `HOLDOFF_EXPIRY` (R356): A group's hold-off timer expires and waiting sources may signal. -/
  | holdoffExpiry (g : Nat)
  /-- `ICLAIM_READ` (R357): A read of ICLAIM claims the lowest deliverable source and clears notified. -/
  | iclaimRead (t : Nat)
  /-- `ICOMPLETE_WRITE` (R358): A write to ICOMPLETE ends a claimed source's active state or counts a stray. -/
  | icompleteWrite (t : Nat) (v : W32)
  /-- `SUPPRESSED` (R362): A token becomes available for a code with suppressions and a SUPPRESSED record is written. -/
  | suppressed (code : Nat) (t : Nat)
  /-- `OLMSEL_WRITE` (R364): A write to OLMSEL selects a record into the read window. -/
  | olmselWrite (v : W64)
  /-- `POWER_SAMPLE` (R366): Every 10 µs the power manager samples input and updates P10 and W. -/
  | powerSample (volts : Nat) (amps : Nat) (t : Nat)
  /-- `CONVERTER_OVERLOAD` (R366): Input above 5.4 kW for 1 ms makes the converters assert ALERT_N. -/
  | converterOverload (t : Nat)
  /-- `SLOPE_INTERVAL` (R368): At each slope interval the manager moves each die's voltage and pacer step by at most one. -/
  | slopeInterval (tj : List Nat)
  /-- `DROOP` (R370): A droop sensor reads out of band and the die's droop flag sets. -/
  | droop (n : Nat) (t : Nat)
  /-- `DROOP_CLEAR` (R370): Every sensor reads in band and the droop flag clears. -/
  | droopClear (n : Nat) (t : Nat)
  /-- `DROOP_LONG` (R370): A droop flag set for 10 µs is counted and recorded. -/
  | droopLong (n : Nat) (t : Nat)
  /-- `DROOP_SETTLED` (R371): The rail stays in band for 200 ns and held step changes apply. -/
  | droopSettled (n : Nat) (t : Nat)
  /-- `ALERT` (R372): ALERT_N or PWRALERT_N asserts and every die is forced to step 0. -/
  | alert (rack : Bool) (t : Nat)
  /-- `ALERT_RECOVERY` (R373): Both alerts deasserted for alert_hold begin recovery of the dies. -/
  | alertRecovery (t : Nat)
  /-- `THERMAL_ALERT` (R374): A die at 110 °C is forced to step 0. -/
  | thermalAlert (n : Nat) (tj : Nat) (t : Nat)
  /-- `THERMAL_SHUTDOWN` (R374): A die at 120 °C makes the housekeeping controller remove every rail. -/
  | thermalShutdown (n : Nat) (tj : Nat) (t : Nat)
  /-- `INPUT_OUT_OF_RANGE` (R365): Input below 44 V or above 59.5 V asserts ALERT_N. -/
  | inputOutOfRange (t : Nat)
  /-- `UNDERVOLTAGE_TRIP` (R365): Input below 40 V for 100 µs removes every rail. -/
  | undervoltageTrip (t : Nat)
  /-- `OVERVOLTAGE_SHUTDOWN` (R365): Input above 62 V shuts the converters down at once. -/
  | overvoltageShutdown (t : Nat)
  /-- `DIE_FAILED` (R377): A compute die is marked failed, ending its bulk jobs and switching or stopping its prompt job. -/
  | dieFailed (n : Nat) (t : Nat)
  /-- `UNIT_LOST` (R378): A unit without a spare fails and costs what its table row states. -/
  | unitLost (u : LostUnit) (t : Nat)
  /-- `OSCILLATOR_FAILURE` (R378): The time-base oscillator fails against the housekeeping reference and every job ends. -/
  | oscillatorFailure (t : Nat)
  /-- `LOCKSTEP_MISMATCH` (R380): The hubs disagree or H0 stalls and both run self-checks. -/
  | lockstepMismatch (h0 : Bool) (h1 : Bool) (t : Nat)
  /-- `HUB_FAILOVER` (R380): H1 takes over from a retired H0, keeping time, sessions and interrupt state. -/
  | hubFailover (gap : Nat) (t : Nat)
  /-- `FLTREP_HI_READ` (R381): A read of FLTREP_HI pops one failure report. -/
  | fltrepHiRead
  /-- `INPUT_PRESENT` (R382): The input exceeds 44 V and the housekeeping stage runs. -/
  | inputPresent (straps : Nat) (osc : Bool) (hub : Option Nat) (t : Nat)
  /-- `FIRMWARE_STAGE` (R383): The hub ROM reads and verifies firmware from the strapped source, with fallback. -/
  | firmwareStage (ok0 : Bool) (ok1 : Bool) (link : Option (Nat × Nat)) (t : Nat)
  /-- `RAILS_STAGE` (R382): The compute rails are brought to step 4 with pacer 0. -/
  | railsStage (t : Nat)
  /-- `MEMORY_STAGE` (R382): All DRAM dies and LPDDR6 packages are trained. -/
  | memoryStage (bad : List LostUnit) (t : Nat)
  /-- `LASERS_STAGE` (R382): Both lasers are locked and their power checked at every combiner. -/
  | lasersStage (a : Option Nat) (b : Option Nat) (t : Nat)
  /-- `LANES_STAGE` (R382): Lit lanes train CDR and filters and Henist lanes gain block lock. -/
  | lanesStage (lanes : List (Nat × Nat × Nat × Nat)) (locks : List (Nat × Nat)) (t : Nat)
  /-- `SELF_TEST_STAGE` (R28): Firmware tests every unit, assigns spares and builds the capability list. -/
  | selfTestStage (bad : List (UnitId × Nat × Nat × Nat)) (lost : List LostUnit) (t : Nat)
  /-- `HOST_STAGE` (R382): X0 trains the CXL host link. -/
  | hostStage (link : Option (Nat × Nat)) (t : Nat)
  /-- `MOD_READY` (R382): Start-up ends and MOD_READY is released high. -/
  | modReady (t : Nat)
  /-- `RESET_N` (R389): RESET_N asserted for 100 ns resets the module except the housekeeping controller. -/
  | resetN (t : Nat)
  /-- `RESET_RELEASE` (R386): RESET_N released restarts the sequence at the housekeeping stage. -/
  | resetRelease (straps : Nat) (osc : Bool) (hub : Option Nat) (held : Nat) (t : Nat)
  /-- `PERST_N` (R389): PERST_N resets the CXL function state only. -/
  | perstN (low : Bool) (t : Nat)
  /-- `TRST_N` (R389): TRST_N or five TCK cycles with TMS high reset the TAP. -/
  | trstN
  /-- `EXTEST` (R395): EXTEST drives the SIG pins from the boundary register. -/
  | extest (pins : List Bool) (scan : List Bool)
  /-- `SAMPLE_PRELOAD` (R395): SAMPLE/PRELOAD samples the pins and preloads the boundary register. -/
  | samplePreload (pins : List Bool) (scan : List Bool)
  /-- `CLAMP` (R395): CLAMP holds the pins from the boundary register with bypass selected. -/
  | clamp (scan : List Bool)
  /-- `HIGHZ` (R395): HIGHZ places every boundary-scanned driver in high impedance. -/
  | highz (scan : List Bool)
  /-- `BYPASS` (R395): BYPASS, or any unlisted code, selects the one-bit bypass register. -/
  | bypass (code : Nat) (scan : List Bool)
  /-- `TPSEL_WRITE` (R396): A write to TPSEL selects a test pin's signal or is refused for an absent unit. -/
  | tpselWrite (p : Nat) (half : Option Nat) (v : Nat) (t : Nat)
  /-- `RC_READ` (R8): A read of exactly the containing word of an RC counter field returns its value and clears it. -/
  | rcRead (a : Nat) (bytes : Nat) (t : Nat)
  /-- `REQUEST_AREA_WRITE` (R328): A BAR2 write that does not commit starts filling a window in state 0 or 3, or is ignored and counted in state 2. -/
  | requestAreaWrite (w : Nat) (off : Nat) (ws : List W32) (t : Nat)
  /-- `SWITCH_TIME` (R175): At an update's or install's switch time T the loader places markers at the seeded entries of closed cycles and the die starts draining. -/
  | switchTime (n : Nat)
  /-- `CHECKPOINT_DRAIN_LIMIT` (R234): A checkpoint not quiescent within its drain limit is abandoned, the barrier is released and the command completes with CKPT_NOT_QUIESCENT. -/
  | checkpointDrainLimit (id : Nat)
  /-- `BARRIER_RELEASE` (R287): At the agreed release instant each module releases the barrier members' notify tokens and advances the generation. -/
  | barrierRelease (b : Nat)
  /-- `ALERT_DEASSERT` (R373): ALERT_N or PWRALERT_N deasserts, or a die's thermal alert ends, and the alert_hold timer starts. -/
  | alertDeassert (rack : Bool) (die : Option Nat) (t : Nat)
  /-- `INPUT_WITHIN_RANGE` (R365): After a shutdown above 62 V the input returns within range and the module resets. -/
  | inputWithinRange (straps : Nat) (osc : Bool) (hub : Option Nat) (t : Nat)
  /-- `CDR_LOCK` (R308): Light reaches a lane, or returns after a loss of lock, training completes and the CDR locks. -/
  | cdrLock (e : Nat) (k : Nat) (best : Nat) (oma : Nat) (t : Nat)
  /-- `SERVO_UNLOCK` (R267): A servo that receives no corrections for 4 of its periods clears TSTAT.locked. -/
  | servoUnlock (t : Nat)
  /-- `PTP_TIMER` (R268): A PTP message interval of the hub's ordinary clock expires and it sends Sync, Announce or delay messages or runs the best master clock algorithm. -/
  | ptpTimer (kind : Nat) (t : Nat)
  /-- `BAD_RING_FRAME` (R275): A ring frame with a bad CRC or in an uncorrectable block is discarded and counted in VCNT.bad. -/
  | badRingFrame (t : Nat)
  /-- `UNKNOWN_FRAME_TYPE` (R276): A ring frame of an unlisted type is forwarded, counted in VCNT.unknown and not acted on. -/
  | unknownFrameType (f : RingFrame) (t : Nat)
  /-- `INTERFRAME_GAP_END` (R209): A reply or cancel and its interframe gap finish, and a reply held behind them starts with LATE. -/
  | interframeGapEnd (n : Nat) (i : Nat)
  /-- `DRAM_HOT` (R217): A DRAM die crosses 85 °C, T1STAT.hot changes and the refresh interval is halved or restored. -/
  | dramHot (n : Nat) (b : Nat) (hot : Bool)
  /-- `RAIL_PHASE_FAILURE` (R376): The regulator detects a failed compute rail phase, masks it with the redundant phase and reports it. -/
  | railPhaseFailure (n : Nat) (t : Nat)
  /-- `PULSE_END` (R272): A time pin's output pulse reaches its width in ticks and the pin returns to inactive. -/
  | pulseEnd (p : Nat)
deriving DecidableEq, Repr

end Sys2Proof
end

