-- ==== Sys2Proof/Decode.lean ====
section
/-!
DEFINITION. The words of the table of commands. Its rows give no bits: a command is an access, a frame or an event, not a word.
-/
namespace Sys2Proof

/-- The command that a word spells by the table's bits: none, for no row gives any. -/
def decodeTableWord (_nbits _w : Nat) : Option Instr := none

end Sys2Proof
end

