-- ==== Sys2Proof/Config.lean ====
section
/-!
DEFINITION. What the manual leaves open: free values without a body, and the uninterpreted functions of published
standards (SHAKE256, KMAC, Falcon, ML-KEM, the S1 program step). Nothing can be proved of their values.
-/
namespace Sys2Proof.Config

/-- The free values, drawn in order by the counter `State.fresh` (log 3): an arbiter's choice (R48, R86), an entropy word (R341, R344). -/
opaque freeNat : Nat → Nat

/-- SHAKE256 (FIPS 202): `n` bytes of output over the input (R40, R159, R259). Uninterpreted (log 4). -/
opaque shake256 : List Byte → Nat → List Byte

/-- KMAC256 (SP 800-185): customisation, key, input, bytes of output (R342 to R344). Uninterpreted (log 4). -/
opaque kmac256 : String → List Byte → List Byte → Nat → List Byte

/-- Falcon-1024 verification: public key, message, signature (R159, R343, R347). Uninterpreted (log 4). -/
opaque falconVerify : List Byte → List Byte → List Byte → Bool

/-- Falcon-1024 signature with the identity key of the part whose serial number is given (R350). Uninterpreted (log 4). -/
opaque falconSign : Nat → List Byte → List Byte

/-- Identity public key and certificate of the part of a serial number (R349). Uninterpreted (log 4). -/
opaque identityKey : Nat → List Byte
opaque identityCert : Nat → List Byte

/-- Public key whose digest the hub fuses hold for base firmware (R348), by serial number. Uninterpreted (log 4). -/
opaque firmwareKey : Nat → List Byte

/-- ML-KEM-1024 encapsulation to a public key, with a free entropy word: ciphertext and shared secret (R344). Uninterpreted (log 4). -/
opaque mlkemEncap : List Byte → Nat → List Byte × List Byte

/-- What one S1 cycle gives: data memory, registers, words taken from each input port, and output words with their port and the
numbers of the taken words they are computed from. -/
structure S1Out where
  data : List Byte
  mach : List Byte
  taken : List (Nat × Nat)
  outs : List (Nat × W64 × List Nat)
deriving DecidableEq, Repr, Inhabited

/-- One S1 cycle of an ox pair: code, data memory, registers, cycles executed and words waiting by input port before it (R182; the S1
is described outside this manual). Uninterpreted (log 4). -/
opaque s1Step : List Byte → List Byte → List Byte → Nat → List (Nat × List W64) → S1Out

/-- S1 code names the external memory interface, which ox pairs do not have (R181). Uninterpreted (log 4). -/
opaque s1External : List Byte → Bool

end Sys2Proof.Config
end

