-- ==== Sys2Proof/Machine/Sparse.lean ====
section
/-!
DEFINITION. Sparse tables in one canonical form: keys strictly rising, and no entry equal to what an unlisted key
reads as. Every addressed memory and every array of like units of the module is held in one of these.
-/
namespace Sys2Proof.Machine

/-- A table of key and value pairs, read through `Sparse.get`. -/
abbrev Sparse (α : Type) := List (Nat × α)

/-- What the table holds at `k`, `d` where nothing is listed. -/
def Sparse.get {α : Type} (d : α) : Sparse α → Nat → α
  | [], _ => d
  | (j, v) :: m, k => if j = k then v else Sparse.get d m k

/-- The table with the entry at `k` removed. -/
def Sparse.erase {α : Type} : Sparse α → Nat → Sparse α
  | [], _ => []
  | (j, v) :: m, k => if j = k then m else (j, v) :: Sparse.erase m k

/-- The table with `v` placed at `k`, in the order of the keys. -/
def Sparse.insert {α : Type} : Sparse α → Nat → α → Sparse α
  | [], k, v => [(k, v)]
  | (j, w) :: m, k, v =>
    if k < j then (k, v) :: (j, w) :: m
    else if k = j then (k, v) :: m
    else (j, w) :: Sparse.insert m k v

/-- The table with `v` at `k`; a value equal to what an unlisted key reads as removes the entry. -/
def Sparse.set {α : Type} [DecidableEq α] (d : α) (m : Sparse α) (k : Nat) (v : α) : Sparse α :=
  if v = d then Sparse.erase m k else Sparse.insert m k v

/-- The entry listed at `k`, if any: for tables whose absence is the unit's own state (a free context). -/
def Sparse.find {α : Type} : Sparse α → Nat → Option α
  | [], _ => none
  | (j, v) :: m, k => if j = k then some v else Sparse.find m k

/-- Every listed key lies above `k`. -/
def Sparse.above {α : Type} (k : Nat) (m : Sparse α) : Bool := m.all (fun p => decide (k < p.1))

/-- The keys rise strictly. -/
def Sparse.sorted {α : Type} : Sparse α → Bool
  | [] => true
  | (k, _) :: m => Sparse.above k m && Sparse.sorted m

/-- The canonical form of a table whose unlisted keys read as `d`. -/
def Sparse.wf {α : Type} [DecidableEq α] (d : α) (m : Sparse α) : Bool :=
  Sparse.sorted m && m.all (fun p => decide (p.2 ≠ d))

/-- The canonical form of a memory of bytes: what is not listed reads as 0 (log 6). -/
def Memory.wf (m : Sparse Byte) : Bool := Sparse.wf 0 m

/-- The bytes `vs` written from address `a` upward, one byte an address, over a memory whose unlisted bytes are 0. -/
def Sparse.setBytes (m : Sparse Byte) (a : Nat) : List Byte → Sparse Byte
  | [] => m
  | v :: vs => Sparse.setBytes (Sparse.set 0 m a v) (a + 1) vs

/-- `n` bytes read from address `a` upward. -/
def Sparse.getBytes (m : Sparse Byte) (a : Nat) : Nat → List Byte
  | 0 => []
  | n + 1 => Sparse.get 0 m a :: Sparse.getBytes m (a + 1) n

/-- A little-endian number of the bytes (R5). -/
def leNat : List Byte → Nat
  | [] => 0
  | b :: bs => b.toNat + 256 * leNat bs

/-- The `n` little-endian bytes of a number (R5). -/
def leBytes : Nat → Nat → List Byte
  | 0, _ => []
  | n + 1, v => BitVec.ofNat 8 v :: leBytes n (v / 256)

/-- The list with its first element equal to `x` removed. -/
def eraseFirst {α : Type} [DecidableEq α] (x : α) : List α → List α
  | [] => []
  | y :: ys => if y = x then ys else y :: eraseFirst x ys

end Sys2Proof.Machine
end

