-- ==== Sys2Proof/Machine/Regs.lean ====
section
/-!
DEFINITION. The register map of BAR0 and of the BAR2 windows, written from the register tables of every chapter
(R6, R21, R22): each register family with its block, its offset, the number and stride of its instances, its width and its fields.
-/
namespace Sys2Proof.Machine

/-- The access types of R6. -/
inductive Acc where
  | ro | rw | wo | w1c | rc
deriving DecidableEq, Repr

/-- Where a register family lies (R21): in each compute die block, at an absolute hub offset, in each glowworm block,
in each IO die block, in the block of X0 only, or in each BAR2 window. -/
inductive Blk where
  | die | hub | gw | io | io0 | win
deriving DecidableEq, Repr

/-- A field's reset value: a constant, the instance number along dimension `d` (the die is dimension 0 of a die block), or `4w + j` of the last dimension's instance `w` (R80, R104, R128, R381). -/
inductive Rst where
  | val (n : Nat) | idx (d : Nat) | word4 (j : Nat)
deriving DecidableEq, Repr

/-- One field: its bits, its access type, its reset value and, where the chapter states one, its range (R9). -/
structure FDesc where
  lo : Nat
  w : Nat
  acc : Acc
  rst : Rst
  range : Option (Nat × Nat)
deriving DecidableEq, Repr

/-- A register family: `dims` lists instance count and stride, the outermost first, inside its block. -/
structure Reg where
  name : String
  blk : Blk
  off : Nat
  dims : List (Nat × Nat)
  width : Nat
  fields : List FDesc
deriving DecidableEq, Repr

/-- A field of a register family, by its bits. -/
structure Fld where
  reg : Reg
  lo : Nat
  w : Nat
deriving DecidableEq, Repr

/-- A field with access type, reset value and no stated range. -/
def fd (lo w : Nat) (acc : Acc) (rst : Nat) : FDesc := { lo, w, acc, rst := .val rst, range := none }

/-- A field with a stated range (R9). -/
def fr (lo w : Nat) (acc : Acc) (rst a b : Nat) : FDesc := { lo, w, acc, rst := .val rst, range := some (a, b) }

/-- `DIESTAT` (01_architecture). -/
def DIESTAT : Reg := { name := "DIESTAT", blk := .die, off := 0x4, dims := [], width := 32, fields := [
  fd 0 2 .ro 1,
  fd 2 1 .ro 0,
  fd 3 1 .w1c 0] }
def DIESTAT.state : Fld := { reg := DIESTAT, lo := 0, w := 2 }
def DIESTAT.spare_cluster_used : Fld := { reg := DIESTAT, lo := 2, w := 1 }
def DIESTAT.part_write_refused : Fld := { reg := DIESTAT, lo := 3, w := 1 }
/-- `PARTCFG` (01_architecture). -/
def PARTCFG : Reg := { name := "PARTCFG", blk := .die, off := 0x10, dims := [], width := 64, fields := [
  fd 0 7 .rw 0,
  fd 7 3 .rw 0,
  fd 16 8 .rw 0,
  fd 32 16 .rw 0] }
def PARTCFG.prompt_clusters : Fld := { reg := PARTCFG, lo := 0, w := 7 }
def PARTCFG.prompt_arrays : Fld := { reg := PARTCFG, lo := 7, w := 3 }
def PARTCFG.ox_prompt : Fld := { reg := PARTCFG, lo := 16, w := 8 }
def PARTCFG.prompt_ports : Fld := { reg := PARTCFG, lo := 32, w := 16 }
/-- `HSMON_CFG` (02_clockless_timing). -/
def HSMON_CFG : Reg := { name := "HSMON_CFG", blk := .die, off := 0x100, dims := [], width := 32, fields := [
  fr 0 12 .rw 500 40 1000,
  fr 16 11 .rw 625 100 1250,
  fd 31 1 .rw 0] }
def HSMON_CFG.prompt_limit : Fld := { reg := HSMON_CFG, lo := 0, w := 12 }
def HSMON_CFG.bulk_limit : Fld := { reg := HSMON_CFG, lo := 16, w := 11 }
def HSMON_CFG.lock : Fld := { reg := HSMON_CFG, lo := 31, w := 1 }
/-- `HSMON_LAST` (02_clockless_timing). -/
def HSMON_LAST : Reg := { name := "HSMON_LAST", blk := .die, off := 0x108, dims := [], width := 64, fields := [
  fd 0 8 .ro 0,
  fd 8 16 .ro 0,
  fd 24 3 .ro 0,
  fd 27 1 .ro 0,
  fd 31 1 .w1c 0,
  fd 32 32 .ro 0] }
def HSMON_LAST.unit_class : Fld := { reg := HSMON_LAST, lo := 0, w := 8 }
def HSMON_LAST.unit : Fld := { reg := HSMON_LAST, lo := 8, w := 16 }
def HSMON_LAST.kind : Fld := { reg := HSMON_LAST, lo := 24, w := 3 }
def HSMON_LAST.prompt : Fld := { reg := HSMON_LAST, lo := 27, w := 1 }
def HSMON_LAST.valid : Fld := { reg := HSMON_LAST, lo := 31, w := 1 }
def HSMON_LAST.when : Fld := { reg := HSMON_LAST, lo := 32, w := 32 }
/-- `HSMON_CNT` (02_clockless_timing). -/
def HSMON_CNT : Reg := { name := "HSMON_CNT", blk := .die, off := 0x110, dims := [], width := 32, fields := [
  fd 0 16 .rc 0,
  fd 16 16 .rc 0] }
def HSMON_CNT.stalls : Fld := { reg := HSMON_CNT, lo := 0, w := 16 }
def HSMON_CNT.codes : Fld := { reg := HSMON_CNT, lo := 16, w := 16 }
/-- `GATEPRES` (02_clockless_timing). -/
def GATEPRES : Reg := { name := "GATEPRES", blk := .die, off := 0xD0000, dims := [], width := 64, fields := [
  fd 0 64 .ro 0] }
def GATEPRES.enabled : Fld := { reg := GATEPRES, lo := 0, w := 64 }
/-- `GEPOCH` (02_clockless_timing). -/
def GEPOCH : Reg := { name := "GEPOCH", blk := .die, off := 0xD0008, dims := [], width := 32, fields := [
  fd 0 2 .ro 0] }
def GEPOCH.epoch : Fld := { reg := GEPOCH, lo := 0, w := 2 }
/-- `GCFG` (02_clockless_timing). -/
def GCFG : Reg := { name := "GCFG", blk := .die, off := 0xD1000, dims := [(64, 0x100)], width := 32, fields := [
  fd 0 1 .rw 0,
  fd 1 1 .rw 0,
  fd 2 2 .rw 0,
  fr 4 2 .rw 0 0 2,
  fd 6 3 .rw 0,
  fd 9 4 .rw 0,
  fd 13 1 .rw 0,
  fd 14 4 .rw 0,
  fd 18 1 .rw 0] }
def GCFG.enable : Fld := { reg := GCFG, lo := 0, w := 1 }
def GCFG.mode : Fld := { reg := GCFG, lo := 1, w := 1 }
def GCFG.fallback : Fld := { reg := GCFG, lo := 2, w := 2 }
def GCFG.redundancy : Fld := { reg := GCFG, lo := 4, w := 2 }
def GCFG.tokens : Fld := { reg := GCFG, lo := 6, w := 3 }
def GCFG.port : Fld := { reg := GCFG, lo := 9, w := 4 }
def GCFG.target : Fld := { reg := GCFG, lo := 13, w := 1 }
def GCFG.dest : Fld := { reg := GCFG, lo := 14, w := 4 }
def GCFG.irq : Fld := { reg := GCFG, lo := 18, w := 1 }
/-- `GDEADLINE` (02_clockless_timing). -/
def GDEADLINE : Reg := { name := "GDEADLINE", blk := .die, off := 0xD1004, dims := [(64, 0x100)], width := 32, fields := [
  fr 0 16 .rw 380 380 40000,
  fd 16 11 .rw 0] }
def GDEADLINE.deadline : Fld := { reg := GDEADLINE, lo := 0, w := 16 }
def GDEADLINE.offset : Fld := { reg := GDEADLINE, lo := 16, w := 11 }
/-- `GSCHED_BASE` (02_clockless_timing). -/
def GSCHED_BASE : Reg := { name := "GSCHED_BASE", blk := .die, off := 0xD1008, dims := [(64, 0x100)], width := 64, fields := [
  fd 0 3 .rw 0,
  fd 3 61 .rw 0] }
def GSCHED_BASE.vernier : Fld := { reg := GSCHED_BASE, lo := 0, w := 3 }
def GSCHED_BASE.tick : Fld := { reg := GSCHED_BASE, lo := 3, w := 61 }
/-- `GSCHED_PERIOD` (02_clockless_timing). -/
def GSCHED_PERIOD : Reg := { name := "GSCHED_PERIOD", blk := .die, off := 0xD1010, dims := [(64, 0x100)], width := 32, fields := [
  fr 0 32 .rw 20 20 4294967295] }
def GSCHED_PERIOD.period : Fld := { reg := GSCHED_PERIOD, lo := 0, w := 32 }
/-- `GSTAT` (02_clockless_timing). -/
def GSTAT : Reg := { name := "GSTAT", blk := .die, off := 0xD1018, dims := [(64, 0x100)], width := 32, fields := [
  fd 0 7 .ro 0,
  fd 7 1 .w1c 0,
  fd 8 1 .w1c 0,
  fd 9 1 .w1c 0,
  fd 10 1 .w1c 0,
  fd 16 16 .ro 0] }
def GSTAT.pending : Fld := { reg := GSTAT, lo := 0, w := 7 }
def GSTAT.late : Fld := { reg := GSTAT, lo := 7, w := 1 }
def GSTAT.fault : Fld := { reg := GSTAT, lo := 8, w := 1 }
def GSTAT.overrun : Fld := { reg := GSTAT, lo := 9, w := 1 }
def GSTAT.window : Fld := { reg := GSTAT, lo := 10, w := 1 }
def GSTAT.last_beat : Fld := { reg := GSTAT, lo := 16, w := 16 }
/-- `GSLACK_MIN` (02_clockless_timing). -/
def GSLACK_MIN : Reg := { name := "GSLACK_MIN", blk := .die, off := 0xD101C, dims := [(64, 0x100)], width := 32, fields := [
  fd 0 16 .rw 65535] }
def GSLACK_MIN.slack : Fld := { reg := GSLACK_MIN, lo := 0, w := 16 }
/-- `GACCEPT` (02_clockless_timing). -/
def GACCEPT : Reg := { name := "GACCEPT", blk := .die, off := 0xD1020, dims := [(64, 0x100)], width := 64, fields := [
  fd 0 64 .rw 0] }
def GACCEPT.value : Fld := { reg := GACCEPT, lo := 0, w := 64 }
/-- `GREJECT` (02_clockless_timing). -/
def GREJECT : Reg := { name := "GREJECT", blk := .die, off := 0xD1028, dims := [(64, 0x100)], width := 64, fields := [
  fd 0 64 .rw 0] }
def GREJECT.value : Fld := { reg := GREJECT, lo := 0, w := 64 }
/-- `HENCFG` (03_hens). -/
def HENCFG : Reg := { name := "HENCFG", blk := .die, off := 0x30600, dims := [(65, 0x2000)], width := 32, fields := [
  fd 0 8 .rw 50,
  fd 8 16 .rw 0,
  fd 31 1 .rw 0] }
def HENCFG.age_prompt : Fld := { reg := HENCFG, lo := 0, w := 8 }
def HENCFG.age_bulk : Fld := { reg := HENCFG, lo := 8, w := 16 }
def HENCFG.lock : Fld := { reg := HENCFG, lo := 31, w := 1 }
/-- `HSTAT` (03_hens). -/
def HSTAT : Reg := { name := "HSTAT", blk := .die, off := 0x30800, dims := [(65, 0x2000), (65, 0x20)], width := 32, fields := [
  fd 0 6 .ro 0,
  fd 6 1 .ro 0,
  fd 7 1 .ro 0,
  { lo := 8, w := 6, acc := .ro, rst := .idx 2, range := none },
  fd 14 2 .ro 0,
  fd 16 1 .w1c 0,
  fd 17 1 .w1c 0,
  fd 18 1 .w1c 0] }
def HSTAT.live : Fld := { reg := HSTAT, lo := 0, w := 6 }
def HSTAT.failed : Fld := { reg := HSTAT, lo := 6, w := 1 }
def HSTAT.standing_in : Fld := { reg := HSTAT, lo := 7, w := 1 }
def HSTAT.logical : Fld := { reg := HSTAT, lo := 8, w := 6 }
def HSTAT.epoch : Fld := { reg := HSTAT, lo := 14, w := 2 }
def HSTAT.fault_seen : Fld := { reg := HSTAT, lo := 16, w := 1 }
def HSTAT.age_drop : Fld := { reg := HSTAT, lo := 17, w := 1 }
def HSTAT.illegal : Fld := { reg := HSTAT, lo := 18, w := 1 }
/-- `HCNT_ISSUE` (03_hens). -/
def HCNT_ISSUE : Reg := { name := "HCNT_ISSUE", blk := .die, off := 0x30808, dims := [(65, 0x2000), (65, 0x20)], width := 64, fields := [
  fd 0 64 .ro 0] }
def HCNT_ISSUE.issued : Fld := { reg := HCNT_ISSUE, lo := 0, w := 64 }
/-- `HCNT_TOKEN` (03_hens). -/
def HCNT_TOKEN : Reg := { name := "HCNT_TOKEN", blk := .die, off := 0x30810, dims := [(65, 0x2000), (65, 0x20)], width := 32, fields := [
  fd 0 16 .rc 0,
  fd 16 16 .rc 0] }
def HCNT_TOKEN.discard : Fld := { reg := HCNT_TOKEN, lo := 0, w := 16 }
def HCNT_TOKEN.dup : Fld := { reg := HCNT_TOKEN, lo := 16, w := 16 }
/-- `HCNT_FAULT` (03_hens). -/
def HCNT_FAULT : Reg := { name := "HCNT_FAULT", blk := .die, off := 0x30814, dims := [(65, 0x2000), (65, 0x20)], width := 32, fields := [
  fd 0 16 .rc 0,
  fd 16 16 .rc 0] }
def HCNT_FAULT.access : Fld := { reg := HCNT_FAULT, lo := 0, w := 16 }
def HCNT_FAULT.illegal : Fld := { reg := HCNT_FAULT, lo := 16, w := 16 }
/-- `HCNT_AGE` (03_hens). -/
def HCNT_AGE : Reg := { name := "HCNT_AGE", blk := .die, off := 0x30818, dims := [(65, 0x2000), (65, 0x20)], width := 32, fields := [
  fd 0 16 .rc 0,
  fd 16 16 .rc 0] }
def HCNT_AGE.drops : Fld := { reg := HCNT_AGE, lo := 0, w := 16 }
def HCNT_AGE.tlate : Fld := { reg := HCNT_AGE, lo := 16, w := 16 }
/-- `CLUSTAT` (04_clusters_and_gallery). -/
def CLUSTAT : Reg := { name := "CLUSTAT", blk := .die, off := 0x30000, dims := [(65, 0x2000)], width := 32, fields := [
  { lo := 0, w := 6, acc := .ro, rst := .idx 1, range := none },
  fd 6 1 .ro 0,
  fd 7 1 .ro 0,
  fd 8 1 .ro 0,
  fd 9 1 .ro 0,
  fd 10 6 .ro 0] }
def CLUSTAT.logical : Fld := { reg := CLUSTAT, lo := 0, w := 6 }
def CLUSTAT.failed : Fld := { reg := CLUSTAT, lo := 6, w := 1 }
def CLUSTAT.standing_in : Fld := { reg := CLUSTAT, lo := 7, w := 1 }
def CLUSTAT.prompt : Fld := { reg := CLUSTAT, lo := 8, w := 1 }
def CLUSTAT.spare_hen_used : Fld := { reg := CLUSTAT, lo := 9, w := 1 }
def CLUSTAT.spare_hen_logical : Fld := { reg := CLUSTAT, lo := 10, w := 6 }
/-- `CLUCFG` (04_clusters_and_gallery). -/
def CLUCFG : Reg := { name := "CLUCFG", blk := .die, off := 0x30004, dims := [(65, 0x2000)], width := 32, fields := [
  fd 0 1 .rw 0] }
def CLUCFG.state_subst : Fld := { reg := CLUCFG, lo := 0, w := 1 }
/-- `SRAMWAIT` (04_clusters_and_gallery). -/
def SRAMWAIT : Reg := { name := "SRAMWAIT", blk := .die, off := 0x30010, dims := [(65, 0x2000)], width := 64, fields := [
  fd 0 64 .ro 0] }
def SRAMWAIT.waits : Fld := { reg := SRAMWAIT, lo := 0, w := 64 }
/-- `SRAMECC` (04_clusters_and_gallery). -/
def SRAMECC : Reg := { name := "SRAMECC", blk := .die, off := 0x30018, dims := [(65, 0x2000)], width := 32, fields := [
  fd 0 16 .rc 0,
  fd 16 16 .rc 0] }
def SRAMECC.corrected : Fld := { reg := SRAMECC, lo := 0, w := 16 }
def SRAMECC.uncorrected : Fld := { reg := SRAMECC, lo := 16, w := 16 }
/-- `SRAMREPAIR` (04_clusters_and_gallery). -/
def SRAMREPAIR : Reg := { name := "SRAMREPAIR", blk := .die, off := 0x3001C, dims := [(65, 0x2000)], width := 32, fields := [
  fd 0 5 .ro 0,
  fd 5 1 .w1c 0] }
def SRAMREPAIR.pending : Fld := { reg := SRAMREPAIR, lo := 0, w := 5 }
def SRAMREPAIR.overflow : Fld := { reg := SRAMREPAIR, lo := 5, w := 1 }
/-- `SCRUBCFG` (04_clusters_and_gallery). -/
def SCRUBCFG : Reg := { name := "SCRUBCFG", blk := .die, off := 0x30020, dims := [(65, 0x2000)], width := 32, fields := [
  fr 0 8 .rw 64 8 255,
  fd 31 1 .rw 1] }
def SCRUBCFG.period : Fld := { reg := SCRUBCFG, lo := 0, w := 8 }
def SCRUBCFG.enable : Fld := { reg := SCRUBCFG, lo := 31, w := 1 }
/-- `STEERSTAT` (04_clusters_and_gallery). -/
def STEERSTAT : Reg := { name := "STEERSTAT", blk := .die, off := 0x30040, dims := [(65, 0x2000)], width := 32, fields := [
  fd 0 7 .ro 0,
  fd 8 7 .ro 0,
  fd 16 7 .ro 0,
  fd 24 7 .rw 0] }
def STEERSTAT.in_use : Fld := { reg := STEERSTAT, lo := 0, w := 7 }
def STEERSTAT.ahead : Fld := { reg := STEERSTAT, lo := 8, w := 7 }
def STEERSTAT.unmatched : Fld := { reg := STEERSTAT, lo := 16, w := 7 }
def STEERSTAT.peak : Fld := { reg := STEERSTAT, lo := 24, w := 7 }
/-- `STEERCNT` (04_clusters_and_gallery). -/
def STEERCNT : Reg := { name := "STEERCNT", blk := .die, off := 0x30048, dims := [(65, 0x2000)], width := 32, fields := [
  fd 0 16 .rc 0,
  fd 16 16 .rc 0] }
def STEERCNT.discard : Fld := { reg := STEERCNT, lo := 0, w := 16 }
def STEERCNT.aged : Fld := { reg := STEERCNT, lo := 16, w := 16 }
/-- `STEERCFG` (04_clusters_and_gallery). -/
def STEERCFG : Reg := { name := "STEERCFG", blk := .die, off := 0x30050, dims := [(65, 0x2000)], width := 32, fields := [
  fd 0 16 .rw 0] }
def STEERCFG.channels : Fld := { reg := STEERCFG, lo := 0, w := 16 }
/-- `HCREDIT_LO` (04_clusters_and_gallery). -/
def HCREDIT_LO : Reg := { name := "HCREDIT_LO", blk := .die, off := 0x31100, dims := [(65, 0x2000), (65, 0x10)], width := 64, fields := [
  fr 0 7 .rw 0 0 64,
  fr 8 7 .rw 0 0 64,
  fr 16 7 .rw 0 0 64,
  fr 24 7 .rw 0 0 64,
  fr 32 7 .rw 0 0 64,
  fr 40 7 .rw 0 0 64,
  fr 48 7 .rw 0 0 64,
  fr 56 7 .rw 0 0 64] }
def HCREDIT_LO.credit0 : Fld := { reg := HCREDIT_LO, lo := 0, w := 7 }
def HCREDIT_LO.credit1 : Fld := { reg := HCREDIT_LO, lo := 8, w := 7 }
def HCREDIT_LO.credit2 : Fld := { reg := HCREDIT_LO, lo := 16, w := 7 }
def HCREDIT_LO.credit3 : Fld := { reg := HCREDIT_LO, lo := 24, w := 7 }
def HCREDIT_LO.credit4 : Fld := { reg := HCREDIT_LO, lo := 32, w := 7 }
def HCREDIT_LO.credit5 : Fld := { reg := HCREDIT_LO, lo := 40, w := 7 }
def HCREDIT_LO.credit6 : Fld := { reg := HCREDIT_LO, lo := 48, w := 7 }
def HCREDIT_LO.credit7 : Fld := { reg := HCREDIT_LO, lo := 56, w := 7 }
/-- `HCREDIT_HI` (04_clusters_and_gallery). -/
def HCREDIT_HI : Reg := { name := "HCREDIT_HI", blk := .die, off := 0x31108, dims := [(65, 0x2000), (65, 0x10)], width := 64, fields := [
  fr 0 7 .rw 0 0 64,
  fr 8 7 .rw 0 0 64,
  fr 16 7 .rw 0 0 64,
  fr 24 7 .rw 0 0 64,
  fr 32 7 .rw 0 0 64,
  fr 40 7 .rw 0 0 64,
  fr 48 7 .rw 0 0 64,
  fr 56 7 .rw 0 0 64] }
def HCREDIT_HI.credit0 : Fld := { reg := HCREDIT_HI, lo := 0, w := 7 }
def HCREDIT_HI.credit1 : Fld := { reg := HCREDIT_HI, lo := 8, w := 7 }
def HCREDIT_HI.credit2 : Fld := { reg := HCREDIT_HI, lo := 16, w := 7 }
def HCREDIT_HI.credit3 : Fld := { reg := HCREDIT_HI, lo := 24, w := 7 }
def HCREDIT_HI.credit4 : Fld := { reg := HCREDIT_HI, lo := 32, w := 7 }
def HCREDIT_HI.credit5 : Fld := { reg := HCREDIT_HI, lo := 40, w := 7 }
def HCREDIT_HI.credit6 : Fld := { reg := HCREDIT_HI, lo := 48, w := 7 }
def HCREDIT_HI.credit7 : Fld := { reg := HCREDIT_HI, lo := 56, w := 7 }
/-- `GALCFG` (04_clusters_and_gallery). -/
def GALCFG : Reg := { name := "GALCFG", blk := .die, off := 0x200, dims := [], width := 32, fields := [
  fd 0 1 .rw 1,
  fd 1 1 .ro 0] }
def GALCFG.adaptive : Fld := { reg := GALCFG, lo := 0, w := 1 }
def GALCFG.adaptive_active : Fld := { reg := GALCFG, lo := 1, w := 1 }
/-- `SLOTTAB` (04_clusters_and_gallery). -/
def SLOTTAB : Reg := { name := "SLOTTAB", blk := .die, off := 0x1000, dims := [(64, 0x100), (5, 0x20), (8, 0x4)], width := 32, fields := [
  fd 0 4 .rw 0,
  fd 4 4 .rw 0,
  fd 8 4 .rw 0,
  fd 12 4 .rw 0,
  fd 16 4 .rw 0,
  fd 20 4 .rw 0,
  fd 24 4 .rw 0,
  fd 28 4 .rw 0] }
def SLOTTAB.owner0 : Fld := { reg := SLOTTAB, lo := 0, w := 4 }
def SLOTTAB.owner1 : Fld := { reg := SLOTTAB, lo := 4, w := 4 }
def SLOTTAB.owner2 : Fld := { reg := SLOTTAB, lo := 8, w := 4 }
def SLOTTAB.owner3 : Fld := { reg := SLOTTAB, lo := 12, w := 4 }
def SLOTTAB.owner4 : Fld := { reg := SLOTTAB, lo := 16, w := 4 }
def SLOTTAB.owner5 : Fld := { reg := SLOTTAB, lo := 20, w := 4 }
def SLOTTAB.owner6 : Fld := { reg := SLOTTAB, lo := 24, w := 4 }
def SLOTTAB.owner7 : Fld := { reg := SLOTTAB, lo := 28, w := 4 }
/-- `RCNT` (04_clusters_and_gallery). -/
def RCNT : Reg := { name := "RCNT", blk := .die, off := 0x10E0, dims := [(64, 0x100)], width := 64, fields := [
  fd 0 32 .rc 0,
  fd 32 32 .rc 0] }
def RCNT.pdrop : Fld := { reg := RCNT, lo := 0, w := 32 }
def RCNT.bulk_empty : Fld := { reg := RCNT, lo := 32, w := 32 }
/-- `ASTAT` (05_flowstone_arrays). -/
def ASTAT : Reg := { name := "ASTAT", blk := .die, off := 0xC0000, dims := [(4, 0x4000)], width := 32, fields := [
  fd 0 1 .ro 0,
  fd 1 1 .ro 0,
  fd 2 1 .ro 0,
  fd 3 1 .ro 0,
  fd 4 1 .ro 0,
  fd 5 1 .ro 0,
  fd 6 6 .ro 0,
  fd 12 6 .ro 0,
  fd 18 2 .ro 0,
  fd 20 1 .ro 0] }
def ASTAT.failed : Fld := { reg := ASTAT, lo := 0, w := 1 }
def ASTAT.fill_busy : Fld := { reg := ASTAT, lo := 1, w := 1 }
def ASTAT.a_valid : Fld := { reg := ASTAT, lo := 2, w := 1 }
def ASTAT.b_valid : Fld := { reg := ASTAT, lo := 3, w := 1 }
def ASTAT.a_fault : Fld := { reg := ASTAT, lo := 4, w := 1 }
def ASTAT.b_fault : Fld := { reg := ASTAT, lo := 5, w := 1 }
def ASTAT.a_set : Fld := { reg := ASTAT, lo := 6, w := 6 }
def ASTAT.b_set : Fld := { reg := ASTAT, lo := 12, w := 6 }
def ASTAT.epoch : Fld := { reg := ASTAT, lo := 18, w := 2 }
def ASTAT.prompt : Fld := { reg := ASTAT, lo := 20, w := 1 }
/-- `AFEED` (05_flowstone_arrays). -/
def AFEED : Reg := { name := "AFEED", blk := .die, off := 0xC0004, dims := [(4, 0x4000)], width := 32, fields := [
  fd 0 6 .rw 0,
  fd 6 1 .rw 0] }
def AFEED.cluster : Fld := { reg := AFEED, lo := 0, w := 6 }
def AFEED.enable : Fld := { reg := AFEED, lo := 6, w := 1 }
/-- `ASPARE` (05_flowstone_arrays). -/
def ASPARE : Reg := { name := "ASPARE", blk := .die, off := 0xC0008, dims := [(4, 0x4000)], width := 64, fields := [
  fd 0 8 .ro 0,
  fd 8 1 .ro 0,
  fd 9 8 .ro 0,
  fd 17 1 .ro 0,
  fd 18 10 .ro 0,
  fd 28 10 .ro 0,
  fd 38 10 .ro 0,
  fd 48 10 .ro 0] }
def ASPARE.row0 : Fld := { reg := ASPARE, lo := 0, w := 8 }
def ASPARE.row0_used : Fld := { reg := ASPARE, lo := 8, w := 1 }
def ASPARE.row1 : Fld := { reg := ASPARE, lo := 9, w := 8 }
def ASPARE.row1_used : Fld := { reg := ASPARE, lo := 17, w := 1 }
def ASPARE.col0 : Fld := { reg := ASPARE, lo := 18, w := 10 }
def ASPARE.col1 : Fld := { reg := ASPARE, lo := 28, w := 10 }
def ASPARE.col2 : Fld := { reg := ASPARE, lo := 38, w := 10 }
def ASPARE.col3 : Fld := { reg := ASPARE, lo := 48, w := 10 }
/-- `ABALLAST` (05_flowstone_arrays). -/
def ABALLAST : Reg := { name := "ABALLAST", blk := .die, off := 0xC0010, dims := [(4, 0x4000)], width := 32, fields := [
  fd 0 5 .ro 0,
  fr 5 5 .rw 16 0 16] }
def ABALLAST.level : Fld := { reg := ABALLAST, lo := 0, w := 5 }
def ABALLAST.ceiling : Fld := { reg := ABALLAST, lo := 5, w := 5 }
/-- `ASCRUB` (05_flowstone_arrays). -/
def ASCRUB : Reg := { name := "ASCRUB", blk := .die, off := 0xC0014, dims := [(4, 0x4000)], width := 32, fields := [
  fr 0 8 .rw 64 8 255,
  fd 31 1 .rw 1] }
def ASCRUB.period : Fld := { reg := ASCRUB, lo := 0, w := 8 }
def ASCRUB.enable : Fld := { reg := ASCRUB, lo := 31, w := 1 }
/-- `AREPAIR` (05_flowstone_arrays). -/
def AREPAIR : Reg := { name := "AREPAIR", blk := .die, off := 0xC0018, dims := [(4, 0x4000)], width := 32, fields := [
  fd 0 5 .ro 0,
  fd 5 1 .w1c 0] }
def AREPAIR.pending : Fld := { reg := AREPAIR, lo := 0, w := 5 }
def AREPAIR.overflow : Fld := { reg := AREPAIR, lo := 5, w := 1 }
/-- `ACNT_VEC` (05_flowstone_arrays). -/
def ACNT_VEC : Reg := { name := "ACNT_VEC", blk := .die, off := 0xC0020, dims := [(4, 0x4000)], width := 64, fields := [
  fd 0 64 .ro 0] }
def ACNT_VEC.vectors : Fld := { reg := ACNT_VEC, lo := 0, w := 64 }
/-- `ACNT_ERR` (05_flowstone_arrays). -/
def ACNT_ERR : Reg := { name := "ACNT_ERR", blk := .die, off := 0xC0028, dims := [(4, 0x4000)], width := 64, fields := [
  fd 0 16 .rc 0,
  fd 16 16 .rc 0,
  fd 32 16 .rc 0,
  fd 48 16 .rc 0] }
def ACNT_ERR.discard : Fld := { reg := ACNT_ERR, lo := 0, w := 16 }
def ACNT_ERR.header : Fld := { reg := ACNT_ERR, lo := 16, w := 16 }
def ACNT_ERR.window : Fld := { reg := ACNT_ERR, lo := 32, w := 16 }
def ACNT_ERR.store_refused : Fld := { reg := ACNT_ERR, lo := 48, w := 16 }
/-- `ACNT_INEXACT` (05_flowstone_arrays). -/
def ACNT_INEXACT : Reg := { name := "ACNT_INEXACT", blk := .die, off := 0xC0030, dims := [(4, 0x4000)], width := 64, fields := [
  fd 0 64 .ro 0] }
def ACNT_INEXACT.products : Fld := { reg := ACNT_INEXACT, lo := 0, w := 64 }
/-- `ACNT_SAT` (05_flowstone_arrays). -/
def ACNT_SAT : Reg := { name := "ACNT_SAT", blk := .die, off := 0xC0038, dims := [(4, 0x4000)], width := 32, fields := [
  fd 0 32 .rc 0] }
def ACNT_SAT.count : Fld := { reg := ACNT_SAT, lo := 0, w := 32 }
/-- `ACNT_NAN` (05_flowstone_arrays). -/
def ACNT_NAN : Reg := { name := "ACNT_NAN", blk := .die, off := 0xC003C, dims := [(4, 0x4000)], width := 32, fields := [
  fd 0 32 .rc 0] }
def ACNT_NAN.count : Fld := { reg := ACNT_NAN, lo := 0, w := 32 }
/-- `AECC` (05_flowstone_arrays). -/
def AECC : Reg := { name := "AECC", blk := .die, off := 0xC0040, dims := [(4, 0x4000)], width := 32, fields := [
  fd 0 16 .rc 0,
  fd 16 16 .rc 0] }
def AECC.corrected : Fld := { reg := AECC, lo := 0, w := 16 }
def AECC.uncorrected : Fld := { reg := AECC, lo := 16, w := 16 }
/-- `ACNT_BALLAST` (05_flowstone_arrays). -/
def ACNT_BALLAST : Reg := { name := "ACNT_BALLAST", blk := .die, off := 0xC0048, dims := [(4, 0x4000)], width := 64, fields := [
  fd 0 64 .ro 0] }
def ACNT_BALLAST.slots : Fld := { reg := ACNT_BALLAST, lo := 0, w := 64 }
/-- `AODESC` (05_flowstone_arrays). -/
def AODESC : Reg := { name := "AODESC", blk := .die, off := 0xC0200, dims := [(4, 0x4000), (16, 0x8)], width := 64, fields := [
  fr 0 2 .rw 0 0 2,
  fr 2 4 .rw 0 0 8,
  fd 6 9 .rw 0,
  fr 15 10 .rw 0 0 512,
  fd 25 6 .rw 0,
  fd 31 1 .rw 0,
  fd 32 3 .rw 0] }
def AODESC.kind : Fld := { reg := AODESC, lo := 0, w := 2 }
def AODESC.fmt : Fld := { reg := AODESC, lo := 2, w := 4 }
def AODESC.first : Fld := { reg := AODESC, lo := 6, w := 9 }
def AODESC.count : Fld := { reg := AODESC, lo := 15, w := 10 }
def AODESC.place : Fld := { reg := AODESC, lo := 25, w := 6 }
def AODESC.e5m2_ieee : Fld := { reg := AODESC, lo := 31, w := 1 }
def AODESC.pos : Fld := { reg := AODESC, lo := 32, w := 3 }
/-- `ASETDESC` (05_flowstone_arrays). -/
def ASETDESC : Reg := { name := "ASETDESC", blk := .die, off := 0xC0400, dims := [(4, 0x4000), (64, 0x8)], width := 64, fields := [
  fr 0 2 .rw 0 0 2,
  fd 2 4 .rw 0,
  fd 6 4 .rw 0,
  fd 10 9 .rw 0,
  fd 19 8 .rw 0,
  fd 27 5 .rw 0,
  fd 32 1 .rw 0,
  fd 33 16 .rw 0] }
def ASETDESC.cls : Fld := { reg := ASETDESC, lo := 0, w := 2 }
def ASETDESC.wfmt : Fld := { reg := ASETDESC, lo := 2, w := 4 }
def ASETDESC.xfmt : Fld := { reg := ASETDESC, lo := 6, w := 4 }
def ASETDESC.L : Fld := { reg := ASETDESC, lo := 10, w := 9 }
def ASETDESC.xwin_lo : Fld := { reg := ASETDESC, lo := 19, w := 8 }
def ASETDESC.xwin_span : Fld := { reg := ASETDESC, lo := 27, w := 5 }
def ASETDESC.valid : Fld := { reg := ASETDESC, lo := 32, w := 1 }
def ASETDESC.colmask : Fld := { reg := ASETDESC, lo := 33, w := 16 }
/-- `ASETMAP` (05_flowstone_arrays). -/
def ASETMAP : Reg := { name := "ASETMAP", blk := .die, off := 0xC0800, dims := [(4, 0x4000), (4, 0x40), (16, 0x4)], width := 32, fields := [
  { lo := 0, w := 6, acc := .rw, rst := .word4 0, range := none },
  { lo := 8, w := 6, acc := .rw, rst := .word4 1, range := none },
  { lo := 16, w := 6, acc := .rw, rst := .word4 2, range := none },
  { lo := 24, w := 6, acc := .rw, rst := .word4 3, range := none }] }
def ASETMAP.set0 : Fld := { reg := ASETMAP, lo := 0, w := 6 }
def ASETMAP.set1 : Fld := { reg := ASETMAP, lo := 8, w := 6 }
def ASETMAP.set2 : Fld := { reg := ASETMAP, lo := 16, w := 6 }
def ASETMAP.set3 : Fld := { reg := ASETMAP, lo := 24, w := 6 }
/-- `QSTAT` (06_numeric_formats). -/
def QSTAT : Reg := { name := "QSTAT", blk := .die, off := 0x31800, dims := [(65, 0x2000)], width := 32, fields := [
  fd 0 16 .ro 0,
  fd 16 2 .ro 0,
  fd 18 1 .w1c 0,
  fd 19 1 .w1c 0,
  fd 20 1 .w1c 0,
  fd 21 1 .w1c 0] }
def QSTAT.active : Fld := { reg := QSTAT, lo := 0, w := 16 }
def QSTAT.epoch : Fld := { reg := QSTAT, lo := 16, w := 2 }
def QSTAT.cfg_error : Fld := { reg := QSTAT, lo := 18, w := 1 }
def QSTAT.order_fault : Fld := { reg := QSTAT, lo := 19, w := 1 }
def QSTAT.strict_forced : Fld := { reg := QSTAT, lo := 20, w := 1 }
def QSTAT.pass_fault : Fld := { reg := QSTAT, lo := 21, w := 1 }
/-- `QCNT` (06_numeric_formats). -/
def QCNT : Reg := { name := "QCNT", blk := .die, off := 0x31808, dims := [(65, 0x2000)], width := 64, fields := [
  fd 0 32 .rc 0,
  fd 32 32 .rc 0] }
def QCNT.discard : Fld := { reg := QCNT, lo := 0, w := 32 }
def QCNT.order : Fld := { reg := QCNT, lo := 32, w := 32 }
/-- `QSNAP` (06_numeric_formats). -/
def QSNAP : Reg := { name := "QSNAP", blk := .die, off := 0x31E00, dims := [(65, 0x2000)], width := 32, fields := [
  fd 0 4 .rw 0,
  fd 4 1 .wo 0,
  fd 5 1 .wo 0] }
def QSNAP.slot : Fld := { reg := QSNAP, lo := 0, w := 4 }
def QSNAP.take : Fld := { reg := QSNAP, lo := 4, w := 1 }
def QSNAP.clear : Fld := { reg := QSNAP, lo := 5, w := 1 }
/-- `RCFGSTAT` (07_garmos_image). -/
def RCFGSTAT : Reg := { name := "RCFGSTAT", blk := .die, off := 0x300, dims := [], width := 64, fields := [
  fd 0 3 .ro 0,
  fd 4 2 .ro 0,
  fd 6 1 .w1c 0,
  fd 7 1 .ro 0,
  fd 8 2 .ro 0,
  fd 16 16 .ro 0,
  fd 32 32 .ro 0] }
def RCFGSTAT.state : Fld := { reg := RCFGSTAT, lo := 0, w := 3 }
def RCFGSTAT.target : Fld := { reg := RCFGSTAT, lo := 4, w := 2 }
def RCFGSTAT.forced : Fld := { reg := RCFGSTAT, lo := 6, w := 1 }
def RCFGSTAT.q_valid : Fld := { reg := RCFGSTAT, lo := 7, w := 1 }
def RCFGSTAT.q_epoch : Fld := { reg := RCFGSTAT, lo := 8, w := 2 }
def RCFGSTAT.pending : Fld := { reg := RCFGSTAT, lo := 16, w := 16 }
def RCFGSTAT.done_at : Fld := { reg := RCFGSTAT, lo := 32, w := 32 }
/-- `RCFGTIME` (07_garmos_image). -/
def RCFGTIME : Reg := { name := "RCFGTIME", blk := .die, off := 0x308, dims := [], width := 64, fields := [
  fd 0 64 .ro 0] }
def RCFGTIME.t : Fld := { reg := RCFGTIME, lo := 0, w := 64 }
/-- `PCFG` (08_prompt_path). -/
def PCFG : Reg := { name := "PCFG", blk := .die, off := 0x10000, dims := [(16, 0x2000)], width := 64, fields := [
  fr 0 2 .rw 0 0 2,
  fd 2 2 .rw 0,
  fd 4 1 .rw 0,
  fd 5 1 .rw 0,
  fd 6 1 .rw 0,
  fd 8 14 .rw 0,
  fr 22 10 .rw 10 1 1023] }
def PCFG.mode : Fld := { reg := PCFG, lo := 0, w := 2 }
def PCFG.width : Fld := { reg := PCFG, lo := 2, w := 2 }
def PCFG.policy : Fld := { reg := PCFG, lo := 4, w := 1 }
def PCFG.link : Fld := { reg := PCFG, lo := 5, w := 1 }
def PCFG.subst : Fld := { reg := PCFG, lo := 6, w := 1 }
def PCFG.hold_tail : Fld := { reg := PCFG, lo := 8, w := 14 }
def PCFG.cancel_limit : Fld := { reg := PCFG, lo := 22, w := 10 }
/-- `PSTAT` (08_prompt_path). -/
def PSTAT : Reg := { name := "PSTAT", blk := .die, off := 0x10008, dims := [(16, 0x2000)], width := 32, fields := [
  fd 0 1 .ro 0,
  fd 1 1 .ro 0,
  fd 2 1 .ro 0,
  fd 3 1 .w1c 0,
  fd 4 1 .w1c 0,
  fd 5 1 .w1c 0,
  fd 6 5 .ro 0,
  fd 16 16 .ro 0] }
def PSTAT.lock : Fld := { reg := PSTAT, lo := 0, w := 1 }
def PSTAT.prompt : Fld := { reg := PSTAT, lo := 1, w := 1 }
def PSTAT.member : Fld := { reg := PSTAT, lo := 2, w := 1 }
def PSTAT.cancel_full : Fld := { reg := PSTAT, lo := 3, w := 1 }
def PSTAT.cut : Fld := { reg := PSTAT, lo := 4, w := 1 }
def PSTAT.nocredit : Fld := { reg := PSTAT, lo := 5, w := 1 }
def PSTAT.cancels : Fld := { reg := PSTAT, lo := 6, w := 5 }
def PSTAT.beat : Fld := { reg := PSTAT, lo := 16, w := 16 }
/-- `PTXSEQ` (08_prompt_path). -/
def PTXSEQ : Reg := { name := "PTXSEQ", blk := .die, off := 0x10010, dims := [(16, 0x2000)], width := 64, fields := [
  fd 0 48 .rw 0] }
def PTXSEQ.seq : Fld := { reg := PTXSEQ, lo := 0, w := 48 }
/-- `PLINK_BASE` (08_prompt_path). -/
def PLINK_BASE : Reg := { name := "PLINK_BASE", blk := .die, off := 0x10018, dims := [(16, 0x2000)], width := 64, fields := [
  fd 0 3 .rw 0,
  fd 3 61 .rw 0] }
def PLINK_BASE.vernier : Fld := { reg := PLINK_BASE, lo := 0, w := 3 }
def PLINK_BASE.tick : Fld := { reg := PLINK_BASE, lo := 3, w := 61 }
/-- `PLINK_CFG` (08_prompt_path). -/
def PLINK_CFG : Reg := { name := "PLINK_CFG", blk := .die, off := 0x10020, dims := [(16, 0x2000)], width := 64, fields := [
  fr 0 32 .rw 20 20 4294967295,
  fd 32 32 .rw 0] }
def PLINK_CFG.period : Fld := { reg := PLINK_CFG, lo := 0, w := 32 }
def PLINK_CFG.job : Fld := { reg := PLINK_CFG, lo := 32, w := 32 }
/-- `PCREDIT` (08_prompt_path). -/
def PCREDIT : Reg := { name := "PCREDIT", blk := .die, off := 0x10100, dims := [(16, 0x2000), (8, 0x8)], width := 64, fields := [
  fr 0 7 .rw 0 0 64,
  fr 8 7 .rw 0 0 64,
  fr 16 7 .rw 0 0 64,
  fr 24 7 .rw 0 0 64,
  fr 32 7 .rw 0 0 64,
  fr 40 7 .rw 0 0 64,
  fr 48 7 .rw 0 0 64,
  fr 56 7 .rw 0 0 64] }
def PCREDIT.credit0 : Fld := { reg := PCREDIT, lo := 0, w := 7 }
def PCREDIT.credit1 : Fld := { reg := PCREDIT, lo := 8, w := 7 }
def PCREDIT.credit2 : Fld := { reg := PCREDIT, lo := 16, w := 7 }
def PCREDIT.credit3 : Fld := { reg := PCREDIT, lo := 24, w := 7 }
def PCREDIT.credit4 : Fld := { reg := PCREDIT, lo := 32, w := 7 }
def PCREDIT.credit5 : Fld := { reg := PCREDIT, lo := 40, w := 7 }
def PCREDIT.credit6 : Fld := { reg := PCREDIT, lo := 48, w := 7 }
def PCREDIT.credit7 : Fld := { reg := PCREDIT, lo := 56, w := 7 }
/-- `GTCFG` (09_bulk_engine). -/
def GTCFG : Reg := { name := "GTCFG", blk := .die, off := 0x31600, dims := [(65, 0x2000), (2, 0x80)], width := 32, fields := [
  fd 0 1 .rw 0,
  fd 1 1 .rw 1,
  fd 2 1 .ro 0] }
def GTCFG.enable : Fld := { reg := GTCFG, lo := 0, w := 1 }
def GTCFG.reorder : Fld := { reg := GTCFG, lo := 1, w := 1 }
def GTCFG.reorder_active : Fld := { reg := GTCFG, lo := 2, w := 1 }
/-- `GTSTAT` (09_bulk_engine). -/
def GTSTAT : Reg := { name := "GTSTAT", blk := .die, off := 0x31604, dims := [(65, 0x2000), (2, 0x80)], width := 32, fields := [
  fd 0 16 .ro 0,
  fd 16 1 .w1c 0,
  fd 17 1 .w1c 0,
  fd 18 1 .w1c 0,
  fd 19 1 .w1c 0] }
def GTSTAT.active : Fld := { reg := GTSTAT, lo := 0, w := 16 }
def GTSTAT.range : Fld := { reg := GTSTAT, lo := 16, w := 1 }
def GTSTAT.overrun : Fld := { reg := GTSTAT, lo := 17, w := 1 }
def GTSTAT.ecc : Fld := { reg := GTSTAT, lo := 18, w := 1 }
def GTSTAT.excess : Fld := { reg := GTSTAT, lo := 19, w := 1 }
/-- `GTCNT_RD` (09_bulk_engine). -/
def GTCNT_RD : Reg := { name := "GTCNT_RD", blk := .die, off := 0x31608, dims := [(65, 0x2000), (2, 0x80)], width := 64, fields := [
  fd 0 64 .ro 0] }
def GTCNT_RD.lines : Fld := { reg := GTCNT_RD, lo := 0, w := 64 }
/-- `GTCNT_WR` (09_bulk_engine). -/
def GTCNT_WR : Reg := { name := "GTCNT_WR", blk := .die, off := 0x31610, dims := [(65, 0x2000), (2, 0x80)], width := 64, fields := [
  fd 0 64 .ro 0] }
def GTCNT_WR.lines : Fld := { reg := GTCNT_WR, lo := 0, w := 64 }
/-- `GTCNT_ERR` (09_bulk_engine). -/
def GTCNT_ERR : Reg := { name := "GTCNT_ERR", blk := .die, off := 0x31618, dims := [(65, 0x2000), (2, 0x80)], width := 32, fields := [
  fd 0 16 .rc 0,
  fd 16 16 .rc 0] }
def GTCNT_ERR.range : Fld := { reg := GTCNT_ERR, lo := 0, w := 16 }
def GTCNT_ERR.overrun : Fld := { reg := GTCNT_ERR, lo := 16, w := 16 }
/-- `GTQ` (09_bulk_engine). -/
def GTQ : Reg := { name := "GTQ", blk := .die, off := 0x31620, dims := [(65, 0x2000), (2, 0x80), (8, 0x4)], width := 32, fields := [
  fd 0 7 .ro 0,
  fd 8 7 .ro 0,
  fd 15 1 .ro 0,
  fd 16 1 .ro 0] }
def GTQ.fill : Fld := { reg := GTQ, lo := 0, w := 7 }
def GTQ.reserved : Fld := { reg := GTQ, lo := 8, w := 7 }
def GTQ.dir : Fld := { reg := GTQ, lo := 15, w := 1 }
def GTQ.bound : Fld := { reg := GTQ, lo := 16, w := 1 }
/-- `BPACE` (09_bulk_engine). -/
def BPACE : Reg := { name := "BPACE", blk := .die, off := 0x400, dims := [], width := 32, fields := [
  fd 0 4 .ro 15,
  fd 4 1 .ro 0] }
def BPACE.step : Fld := { reg := BPACE, lo := 0, w := 4 }
def BPACE.paused : Fld := { reg := BPACE, lo := 4, w := 1 }
/-- `T1STAT` (09_bulk_engine). -/
def T1STAT : Reg := { name := "T1STAT", blk := .die, off := 0xF0000, dims := [], width := 32, fields := [
  fd 0 2 .ro 0,
  fd 2 1 .ro 0,
  fd 3 1 .ro 0] }
def T1STAT.present : Fld := { reg := T1STAT, lo := 0, w := 2 }
def T1STAT.ready : Fld := { reg := T1STAT, lo := 2, w := 1 }
def T1STAT.hot : Fld := { reg := T1STAT, lo := 3, w := 1 }
/-- `T1ECC` (09_bulk_engine). -/
def T1ECC : Reg := { name := "T1ECC", blk := .die, off := 0xF0008, dims := [], width := 64, fields := [
  fd 0 32 .rc 0,
  fd 32 32 .rc 0] }
def T1ECC.corrected : Fld := { reg := T1ECC, lo := 0, w := 32 }
def T1ECC.uncorrected : Fld := { reg := T1ECC, lo := 32, w := 32 }
/-- `T1ERRADDR` (09_bulk_engine). -/
def T1ERRADDR : Reg := { name := "T1ERRADDR", blk := .die, off := 0xF0010, dims := [], width := 64, fields := [
  fd 0 41 .ro 0,
  fd 41 1 .ro 0,
  fd 63 1 .w1c 0] }
def T1ERRADDR.address : Fld := { reg := T1ERRADDR, lo := 0, w := 41 }
def T1ERRADDR.scrub : Fld := { reg := T1ERRADDR, lo := 41, w := 1 }
def T1ERRADDR.valid : Fld := { reg := T1ERRADDR, lo := 63, w := 1 }
/-- `T1SCRUB` (09_bulk_engine). -/
def T1SCRUB : Reg := { name := "T1SCRUB", blk := .die, off := 0xF0018, dims := [], width := 32, fields := [
  fr 0 8 .rw 24 1 255,
  fd 31 1 .rw 1] }
def T1SCRUB.period : Fld := { reg := T1SCRUB, lo := 0, w := 8 }
def T1SCRUB.enable : Fld := { reg := T1SCRUB, lo := 31, w := 1 }
/-- `HISTCFG` (09_bulk_engine). -/
def HISTCFG : Reg := { name := "HISTCFG", blk := .die, off := 0xF1000, dims := [], width := 32, fields := [
  fd 0 1 .ro 0,
  fd 1 1 .rw 0] }
def HISTCFG.active : Fld := { reg := HISTCFG, lo := 0, w := 1 }
def HISTCFG.decisions : Fld := { reg := HISTCFG, lo := 1, w := 1 }
/-- `HISTPTR` (09_bulk_engine). -/
def HISTPTR : Reg := { name := "HISTPTR", blk := .die, off := 0xF1008, dims := [], width := 64, fields := [
  fd 0 64 .ro 0] }
def HISTPTR.value : Fld := { reg := HISTPTR, lo := 0, w := 64 }
/-- `HISTSEQ` (09_bulk_engine). -/
def HISTSEQ : Reg := { name := "HISTSEQ", blk := .die, off := 0xF1010, dims := [], width := 64, fields := [
  fd 0 64 .ro 0] }
def HISTSEQ.value : Fld := { reg := HISTSEQ, lo := 0, w := 64 }
/-- `HISTQ` (09_bulk_engine). -/
def HISTQ : Reg := { name := "HISTQ", blk := .die, off := 0xF1018, dims := [], width := 32, fields := [
  fd 0 7 .ro 0,
  fd 8 7 .rw 0] }
def HISTQ.in_use : Fld := { reg := HISTQ, lo := 0, w := 7 }
def HISTQ.peak : Fld := { reg := HISTQ, lo := 8, w := 7 }
/-- `BARSTAT` (09_bulk_engine). -/
def BARSTAT : Reg := { name := "BARSTAT", blk := .hub, off := 0x30800, dims := [(16, 0x8)], width := 64, fields := [
  fd 0 12 .ro 0,
  fd 16 8 .ro 0,
  fd 24 8 .ro 0,
  fd 32 1 .ro 0] }
def BARSTAT.generation : Fld := { reg := BARSTAT, lo := 0, w := 12 }
def BARSTAT.arrived : Fld := { reg := BARSTAT, lo := 16, w := 8 }
def BARSTAT.expected : Fld := { reg := BARSTAT, lo := 24, w := 8 }
def BARSTAT.held : Fld := { reg := BARSTAT, lo := 32, w := 1 }
/-- `BARTIMEOUT` (09_bulk_engine). -/
def BARTIMEOUT : Reg := { name := "BARTIMEOUT", blk := .hub, off := 0x30880, dims := [], width := 32, fields := [
  fd 0 16 .rw 1000] }
def BARTIMEOUT.limit : Fld := { reg := BARTIMEOUT, lo := 0, w := 16 }
/-- `BSTRAG` (09_bulk_engine). -/
def BSTRAG : Reg := { name := "BSTRAG", blk := .hub, off := 0x30890, dims := [], width := 64, fields := [
  fd 0 6 .ro 0,
  fd 6 4 .ro 0,
  fd 10 6 .ro 0,
  fd 16 4 .ro 0,
  fd 20 12 .ro 0,
  fd 63 1 .w1c 0] }
def BSTRAG.node : Fld := { reg := BSTRAG, lo := 0, w := 6 }
def BSTRAG.die : Fld := { reg := BSTRAG, lo := 6, w := 4 }
def BSTRAG.cluster : Fld := { reg := BSTRAG, lo := 10, w := 6 }
def BSTRAG.barrier : Fld := { reg := BSTRAG, lo := 16, w := 4 }
def BSTRAG.generation : Fld := { reg := BSTRAG, lo := 20, w := 12 }
def BSTRAG.valid : Fld := { reg := BSTRAG, lo := 63, w := 1 }
/-- `BSTRAG_T` (09_bulk_engine). -/
def BSTRAG_T : Reg := { name := "BSTRAG_T", blk := .hub, off := 0x30898, dims := [], width := 64, fields := [
  fd 0 32 .ro 0,
  fd 32 32 .ro 0] }
def BSTRAG_T.gap : Fld := { reg := BSTRAG_T, lo := 0, w := 32 }
def BSTRAG_T.spread : Fld := { reg := BSTRAG_T, lo := 32, w := 32 }
/-- `DETSTAT` (10_determinism). -/
def DETSTAT : Reg := { name := "DETSTAT", blk := .hub, off := 0x90100, dims := [], width := 32, fields := [
  fd 0 1 .ro 0,
  fd 1 1 .ro 0,
  fd 2 1 .ro 0,
  fd 3 1 .ro 0,
  fd 4 2 .ro 0,
  fd 6 3 .ro 0,
  fd 9 1 .ro 0] }
def DETSTAT.strict : Fld := { reg := DETSTAT, lo := 0, w := 1 }
def DETSTAT.locked : Fld := { reg := DETSTAT, lo := 1, w := 1 }
def DETSTAT.source : Fld := { reg := DETSTAT, lo := 2, w := 1 }
def DETSTAT.exit_armed : Fld := { reg := DETSTAT, lo := 3, w := 1 }
def DETSTAT.stream : Fld := { reg := DETSTAT, lo := 4, w := 2 }
def DETSTAT.start : Fld := { reg := DETSTAT, lo := 6, w := 3 }
def DETSTAT.nonstrict_seen : Fld := { reg := DETSTAT, lo := 9, w := 1 }
/-- `PROVSEQ` (10_determinism). -/
def PROVSEQ : Reg := { name := "PROVSEQ", blk := .hub, off := 0x90108, dims := [], width := 64, fields := [
  fd 0 64 .ro 0] }
def PROVSEQ.epoch : Fld := { reg := PROVSEQ, lo := 0, w := 64 }
/-- `PROVRSEQ` (10_determinism). -/
def PROVRSEQ : Reg := { name := "PROVRSEQ", blk := .hub, off := 0x90110, dims := [], width := 64, fields := [
  fd 0 64 .ro 0] }
def PROVRSEQ.result : Fld := { reg := PROVRSEQ, lo := 0, w := 64 }
/-- `PROVLAST` (10_determinism). -/
def PROVLAST : Reg := { name := "PROVLAST", blk := .hub, off := 0x90120, dims := [(8, 0x4)], width := 32, fields := [
  fd 0 32 .ro 0] }
def PROVLAST.digest : Fld := { reg := PROVLAST, lo := 0, w := 32 }
/-- `PROVBULK` (10_determinism). -/
def PROVBULK : Reg := { name := "PROVBULK", blk := .hub, off := 0x90140, dims := [(8, 0x4)], width := 32, fields := [
  fd 0 32 .ro 0] }
def PROVBULK.digest : Fld := { reg := PROVBULK, lo := 0, w := 32 }
/-- `HISTDIG` (10_determinism). -/
def HISTDIG : Reg := { name := "HISTDIG", blk := .die, off := 0xF1020, dims := [(8, 0x4)], width := 32, fields := [
  fd 0 32 .ro 0] }
def HISTDIG.chain : Fld := { reg := HISTDIG, lo := 0, w := 32 }
/-- `HISTDCNT` (10_determinism). -/
def HISTDCNT : Reg := { name := "HISTDCNT", blk := .die, off := 0xF1040, dims := [], width := 64, fields := [
  fd 0 64 .ro 0] }
def HISTDCNT.records : Fld := { reg := HISTDCNT, lo := 0, w := 64 }
/-- `TCFG` (11_time_and_vilovote). -/
def TCFG : Reg := { name := "TCFG", blk := .hub, off := 0x20000, dims := [], width := 32, fields := [
  fr 0 2 .rw 0 0 2,
  fd 2 1 .wo 0] }
def TCFG.source : Fld := { reg := TCFG, lo := 0, w := 2 }
def TCFG.snap : Fld := { reg := TCFG, lo := 2, w := 1 }
/-- `TSTAT` (11_time_and_vilovote). -/
def TSTAT : Reg := { name := "TSTAT", blk := .hub, off := 0x20004, dims := [], width := 32, fields := [
  fd 0 1 .ro 0,
  fd 1 1 .w1c 0,
  fd 2 1 .w1c 0,
  fd 3 1 .ro 0] }
def TSTAT.locked : Fld := { reg := TSTAT, lo := 0, w := 1 }
def TSTAT.jump_refused : Fld := { reg := TSTAT, lo := 1, w := 1 }
def TSTAT.set_refused : Fld := { reg := TSTAT, lo := 2, w := 1 }
def TSTAT.gm : Fld := { reg := TSTAT, lo := 3, w := 1 }
/-- `TPTP` (11_time_and_vilovote). -/
def TPTP : Reg := { name := "TPTP", blk := .hub, off := 0x20100, dims := [], width := 64, fields := [
  fd 0 9 .rw 0,
  fd 9 1 .rw 0,
  fd 10 1 .rw 0,
  fd 11 8 .rw 0,
  fd 19 8 .rw 128,
  fd 27 8 .rw 128,
  fd 35 1 .rw 0] }
def TPTP.port : Fld := { reg := TPTP, lo := 0, w := 9 }
def TPTP.udp : Fld := { reg := TPTP, lo := 9, w := 1 }
def TPTP.p2p : Fld := { reg := TPTP, lo := 10, w := 1 }
def TPTP.domain : Fld := { reg := TPTP, lo := 11, w := 8 }
def TPTP.priority1 : Fld := { reg := TPTP, lo := 19, w := 8 }
def TPTP.priority2 : Fld := { reg := TPTP, lo := 27, w := 8 }
def TPTP.enable : Fld := { reg := TPTP, lo := 35, w := 1 }
/-- `VCFG` (11_time_and_vilovote). -/
def VCFG : Reg := { name := "VCFG", blk := .hub, off := 0x30000, dims := [], width := 32, fields := [
  fd 0 1 .rw 0,
  fd 1 1 .rw 0,
  fd 2 1 .rw 0,
  fd 3 6 .ro 0,
  fr 9 7 .rw 1 1 64] }
def VCFG.enable : Fld := { reg := VCFG, lo := 0, w := 1 }
def VCFG.star : Fld := { reg := VCFG, lo := 1, w := 1 }
def VCFG.master : Fld := { reg := VCFG, lo := 2, w := 1 }
def VCFG.node : Fld := { reg := VCFG, lo := 3, w := 6 }
def VCFG.nodes : Fld := { reg := VCFG, lo := 9, w := 7 }
/-- `VSTAT` (11_time_and_vilovote). -/
def VSTAT : Reg := { name := "VSTAT", blk := .hub, off := 0x30004, dims := [], width := 32, fields := [
  fd 0 1 .ro 0,
  fd 1 1 .ro 0,
  fd 2 1 .ro 0,
  fd 3 1 .w1c 0,
  fd 4 1 .w1c 0,
  fd 5 1 .ro 0,
  fd 6 1 .w1c 0,
  fd 7 1 .w1c 0,
  fd 8 1 .w1c 0,
  fd 9 1 .w1c 0,
  fd 16 6 .ro 0] }
def VSTAT.lock_a : Fld := { reg := VSTAT, lo := 0, w := 1 }
def VSTAT.lock_b : Fld := { reg := VSTAT, lo := 1, w := 1 }
def VSTAT.armed : Fld := { reg := VSTAT, lo := 2, w := 1 }
def VSTAT.master_conflict : Fld := { reg := VSTAT, lo := 3, w := 1 }
def VSTAT.dup_node : Fld := { reg := VSTAT, lo := 4, w := 1 }
def VSTAT.vote_mismatch : Fld := { reg := VSTAT, lo := 5, w := 1 }
def VSTAT.arm_refused : Fld := { reg := VSTAT, lo := 6, w := 1 }
def VSTAT.long_hop : Fld := { reg := VSTAT, lo := 7, w := 1 }
def VSTAT.node_missing : Fld := { reg := VSTAT, lo := 8, w := 1 }
def VSTAT.nodes_mismatch : Fld := { reg := VSTAT, lo := 9, w := 1 }
def VSTAT.master_node : Fld := { reg := VSTAT, lo := 16, w := 6 }
/-- `VTIME` (11_time_and_vilovote). -/
def VTIME : Reg := { name := "VTIME", blk := .hub, off := 0x30008, dims := [], width := 32, fields := [
  fr 0 10 .rw 125 10 1000,
  fr 10 10 .rw 100 10 1000,
  fr 20 10 .rw 1000 100 1000] }
def VTIME.sync_period : Fld := { reg := VTIME, lo := 0, w := 10 }
def VTIME.status_period : Fld := { reg := VTIME, lo := 10, w := 10 }
def VTIME.delay_period : Fld := { reg := VTIME, lo := 20, w := 10 }
/-- `VFIRE` (11_time_and_vilovote). -/
def VFIRE : Reg := { name := "VFIRE", blk := .hub, off := 0x3000C, dims := [], width := 32, fields := [
  fd 0 16 .rw 2000,
  fd 16 16 .rw 1920] }
def VFIRE.delay : Fld := { reg := VFIRE, lo := 0, w := 16 }
def VFIRE.bound : Fld := { reg := VFIRE, lo := 16, w := 16 }
/-- `VHOP0` (11_time_and_vilovote). -/
def VHOP0 : Reg := { name := "VHOP0", blk := .hub, off := 0x30010, dims := [], width := 64, fields := [
  fd 0 32 .ro 0,
  fd 32 16 .rw 0] }
def VHOP0.delay : Fld := { reg := VHOP0, lo := 0, w := 32 }
def VHOP0.asym : Fld := { reg := VHOP0, lo := 32, w := 16 }
/-- `VHOP1` (11_time_and_vilovote). -/
def VHOP1 : Reg := { name := "VHOP1", blk := .hub, off := 0x30018, dims := [], width := 64, fields := [
  fd 0 32 .ro 0,
  fd 32 16 .rw 0] }
def VHOP1.delay : Fld := { reg := VHOP1, lo := 0, w := 32 }
def VHOP1.asym : Fld := { reg := VHOP1, lo := 32, w := 16 }
/-- `VARM` (11_time_and_vilovote). -/
def VARM : Reg := { name := "VARM", blk := .hub, off := 0x30020, dims := [], width := 64, fields := [
  fd 0 1 .wo 0,
  fd 8 48 .wo 0] }
def VARM.armed : Fld := { reg := VARM, lo := 0, w := 1 }
def VARM.effective : Fld := { reg := VARM, lo := 8, w := 48 }
/-- `VVOTE` (11_time_and_vilovote). -/
def VVOTE : Reg := { name := "VVOTE", blk := .hub, off := 0x30028, dims := [], width := 64, fields := [
  fr 0 7 .rw 0 0 64,
  fd 8 24 .rw 0,
  fd 32 32 .ro 0] }
def VVOTE.k : Fld := { reg := VVOTE, lo := 0, w := 7 }
def VVOTE.window : Fld := { reg := VVOTE, lo := 8, w := 24 }
def VVOTE.check : Fld := { reg := VVOTE, lo := 32, w := 32 }
/-- `VVMASK` (11_time_and_vilovote). -/
def VVMASK : Reg := { name := "VVMASK", blk := .hub, off := 0x30030, dims := [], width := 64, fields := [
  fd 0 64 .rw 0] }
def VVMASK.voters : Fld := { reg := VVMASK, lo := 0, w := 64 }
/-- `VACT` (11_time_and_vilovote). -/
def VACT : Reg := { name := "VACT", blk := .hub, off := 0x30038, dims := [], width := 64, fields := [
  fd 0 48 .rc 0,
  fd 48 6 .rc 0,
  fd 54 4 .rc 0,
  fd 58 2 .rc 0,
  fd 63 1 .rc 0] }
def VACT.time : Fld := { reg := VACT, lo := 0, w := 48 }
def VACT.origin : Fld := { reg := VACT, lo := 48, w := 6 }
def VACT.rule : Fld := { reg := VACT, lo := 54, w := 4 }
def VACT.kind : Fld := { reg := VACT, lo := 58, w := 2 }
def VACT.valid : Fld := { reg := VACT, lo := 63, w := 1 }
/-- `VNODE` (11_time_and_vilovote). -/
def VNODE : Reg := { name := "VNODE", blk := .hub, off := 0x30400, dims := [(64, 0x8)], width := 64, fields := [
  fd 0 32 .ro 0,
  fd 32 16 .ro 0,
  fd 48 4 .ro 0,
  fd 52 1 .ro 0,
  fd 53 1 .ro 0,
  fd 63 1 .wo 0] }
def VNODE.late : Fld := { reg := VNODE, lo := 0, w := 32 }
def VNODE.fault : Fld := { reg := VNODE, lo := 32, w := 16 }
def VNODE.step : Fld := { reg := VNODE, lo := 48, w := 4 }
def VNODE.failover : Fld := { reg := VNODE, lo := 52, w := 1 }
def VNODE.present : Fld := { reg := VNODE, lo := 53, w := 1 }
def VNODE.clear : Fld := { reg := VNODE, lo := 63, w := 1 }
/-- `ACQCTL` (12_acquisition). -/
def ACQCTL : Reg := { name := "ACQCTL", blk := .hub, off := 0x40000, dims := [], width := 32, fields := [
  fd 0 1 .wo 0,
  fd 1 1 .wo 0] }
def ACQCTL.commit : Fld := { reg := ACQCTL, lo := 0, w := 1 }
def ACQCTL.stop : Fld := { reg := ACQCTL, lo := 1, w := 1 }
/-- `ACQSTAT` (12_acquisition). -/
def ACQSTAT : Reg := { name := "ACQSTAT", blk := .hub, off := 0x40004, dims := [], width := 32, fields := [
  fd 0 1 .ro 0,
  fd 1 3 .ro 0,
  fd 4 1 .w1c 0,
  fd 5 1 .w1c 0] }
def ACQSTAT.running : Fld := { reg := ACQSTAT, lo := 0, w := 1 }
def ACQSTAT.code : Fld := { reg := ACQSTAT, lo := 1, w := 3 }
def ACQSTAT.refused : Fld := { reg := ACQSTAT, lo := 4, w := 1 }
def ACQSTAT.loss : Fld := { reg := ACQSTAT, lo := 5, w := 1 }
/-- `ACQRATE` (12_acquisition). -/
def ACQRATE : Reg := { name := "ACQRATE", blk := .hub, off := 0x40008, dims := [], width := 32, fields := [
  fd 0 32 .ro 0] }
def ACQRATE.total : Fld := { reg := ACQRATE, lo := 0, w := 32 }
/-- `GWSTAT` (13_links_and_ports). -/
def GWSTAT : Reg := { name := "GWSTAT", blk := .gw, off := 0x0, dims := [], width := 32, fields := [
  fd 0 1 .ro 0,
  fd 1 1 .ro 0,
  fd 2 1 .ro 0,
  fd 8 8 .ro 0] }
def GWSTAT.present : Fld := { reg := GWSTAT, lo := 0, w := 1 }
def GWSTAT.failed : Fld := { reg := GWSTAT, lo := 1, w := 1 }
def GWSTAT.ring : Fld := { reg := GWSTAT, lo := 2, w := 1 }
def GWSTAT.temp : Fld := { reg := GWSTAT, lo := 8, w := 8 }
/-- `GWLASER` (13_links_and_ports). -/
def GWLASER : Reg := { name := "GWLASER", blk := .gw, off := 0x8, dims := [], width := 32, fields := [
  fd 0 10 .ro 0,
  fd 10 10 .ro 0,
  fd 20 1 .ro 0,
  fd 21 1 .ro 0] }
def GWLASER.power_a : Fld := { reg := GWLASER, lo := 0, w := 10 }
def GWLASER.power_b : Fld := { reg := GWLASER, lo := 10, w := 10 }
def GWLASER.a_failed : Fld := { reg := GWLASER, lo := 20, w := 1 }
def GWLASER.b_failed : Fld := { reg := GWLASER, lo := 21, w := 1 }
/-- `LCFG` (13_links_and_ports). -/
def LCFG : Reg := { name := "LCFG", blk := .gw, off := 0x8000, dims := [(32, 0x400)], width := 32, fields := [
  fd 0 4 .rw 0,
  fd 4 1 .rw 1,
  fd 5 3 .rw 0,
  fd 8 3 .rw 0,
  fd 11 1 .rw 0,
  fd 12 1 .rw 0] }
def LCFG.peaking : Fld := { reg := LCFG, lo := 0, w := 4 }
def LCFG.adapt : Fld := { reg := LCFG, lo := 4, w := 1 }
def LCFG.prbs_tx : Fld := { reg := LCFG, lo := 5, w := 3 }
def LCFG.prbs_rx : Fld := { reg := LCFG, lo := 8, w := 3 }
def LCFG.loop : Fld := { reg := LCFG, lo := 11, w := 1 }
def LCFG.tx_off : Fld := { reg := LCFG, lo := 12, w := 1 }
/-- `LSTAT` (13_links_and_ports). -/
def LSTAT : Reg := { name := "LSTAT", blk := .gw, off := 0x8004, dims := [(32, 0x400)], width := 32, fields := [
  fd 0 1 .ro 0,
  fd 1 1 .ro 0,
  fd 2 1 .ro 0,
  fd 3 1 .w1c 0,
  fd 4 4 .ro 0] }
def LSTAT.signal : Fld := { reg := LSTAT, lo := 0, w := 1 }
def LSTAT.cdr_lock : Fld := { reg := LSTAT, lo := 1, w := 1 }
def LSTAT.prbs_lock : Fld := { reg := LSTAT, lo := 2, w := 1 }
def LSTAT.lock_lost : Fld := { reg := LSTAT, lo := 3, w := 1 }
def LSTAT.peaking_now : Fld := { reg := LSTAT, lo := 4, w := 4 }
/-- `LOPT` (13_links_and_ports). -/
def LOPT : Reg := { name := "LOPT", blk := .gw, off := 0x8008, dims := [(32, 0x400)], width := 32, fields := [
  fd 0 16 .ro 0,
  fd 16 16 .ro 0] }
def LOPT.rx_oma : Fld := { reg := LOPT, lo := 0, w := 16 }
def LOPT.tx_oma : Fld := { reg := LOPT, lo := 16, w := 16 }
/-- `LINJ` (13_links_and_ports). -/
def LINJ : Reg := { name := "LINJ", blk := .gw, off := 0x8020, dims := [(32, 0x400)], width := 64, fields := [
  fd 0 2 .rw 0,
  fd 2 6 .rw 0,
  fd 8 2 .rw 0,
  fd 10 16 .rw 1,
  fr 26 16 .rw 1 1 65535,
  fr 42 9 .rw 0 0 271,
  fd 51 1 .wo 0,
  fd 52 1 .ro 0] }
def LINJ.kind : Fld := { reg := LINJ, lo := 0, w := 2 }
def LINJ.length : Fld := { reg := LINJ, lo := 2, w := 6 }
def LINJ.symbol : Fld := { reg := LINJ, lo := 8, w := 2 }
def LINJ.count : Fld := { reg := LINJ, lo := 10, w := 16 }
def LINJ.spacing : Fld := { reg := LINJ, lo := 26, w := 16 }
def LINJ.offset : Fld := { reg := LINJ, lo := 42, w := 9 }
def LINJ.go : Fld := { reg := LINJ, lo := 51, w := 1 }
def LINJ.busy : Fld := { reg := LINJ, lo := 52, w := 1 }
/-- `MCFG` (13_links_and_ports). -/
def MCFG : Reg := { name := "MCFG", blk := .die, off := 0x10400, dims := [(16, 0x2000)], width := 64, fields := [
  fr 0 2 .rw 0 0 2,
  fd 2 1 .rw 1,
  fd 3 1 .rw 0,
  fd 4 1 .rw 0,
  fd 5 4 .rw 0,
  fd 9 3 .rw 0,
  fd 12 8 .rw 0] }
def MCFG.fc : Fld := { reg := MCFG, lo := 0, w := 2 }
def MCFG.pause_rx : Fld := { reg := MCFG, lo := 2, w := 1 }
def MCFG.mcast : Fld := { reg := MCFG, lo := 3, w := 1 }
def MCFG.promisc : Fld := { reg := MCFG, lo := 4, w := 1 }
def MCFG.default_q : Fld := { reg := MCFG, lo := 5, w := 4 }
def MCFG.untagged_pcp : Fld := { reg := MCFG, lo := 9, w := 3 }
def MCFG.pfc_mask : Fld := { reg := MCFG, lo := 12, w := 8 }
/-- `MWM` (13_links_and_ports). -/
def MWM : Reg := { name := "MWM", blk := .die, off := 0x10408, dims := [(16, 0x2000)], width := 32, fields := [
  fd 0 16 .rw 192,
  fd 16 16 .rw 96] }
def MWM.high : Fld := { reg := MWM, lo := 0, w := 16 }
def MWM.low : Fld := { reg := MWM, lo := 16, w := 16 }
/-- `MFILT` (13_links_and_ports). -/
def MFILT : Reg := { name := "MFILT", blk := .die, off := 0x10440, dims := [(16, 0x2000), (16, 0x8)], width := 64, fields := [
  fd 0 12 .rw 0,
  fd 12 1 .rw 0,
  fd 13 3 .rw 0,
  fd 16 1 .rw 0,
  fd 17 16 .rw 0,
  fd 33 1 .rw 0,
  fd 34 4 .rw 0,
  fd 38 1 .rw 0,
  fd 39 1 .rw 0] }
def MFILT.vid : Fld := { reg := MFILT, lo := 0, w := 12 }
def MFILT.vid_en : Fld := { reg := MFILT, lo := 12, w := 1 }
def MFILT.pcp : Fld := { reg := MFILT, lo := 13, w := 3 }
def MFILT.pcp_en : Fld := { reg := MFILT, lo := 16, w := 1 }
def MFILT.ethertype : Fld := { reg := MFILT, lo := 17, w := 16 }
def MFILT.et_en : Fld := { reg := MFILT, lo := 33, w := 1 }
def MFILT.queue : Fld := { reg := MFILT, lo := 34, w := 4 }
def MFILT.drop : Fld := { reg := MFILT, lo := 38, w := 1 }
def MFILT.valid : Fld := { reg := MFILT, lo := 39, w := 1 }
/-- `MRQ` (13_links_and_ports). -/
def MRQ : Reg := { name := "MRQ", blk := .die, off := 0x10500, dims := [(16, 0x2000), (16, 0x8)], width := 64, fields := [
  fd 0 8 .rw 0,
  fd 8 1 .rw 0,
  fd 9 3 .rw 0,
  fr 12 7 .rw 0 0 64,
  fd 19 4 .rw 0,
  fd 23 28 .rw 0] }
def MRQ.region : Fld := { reg := MRQ, lo := 0, w := 8 }
def MRQ.enable : Fld := { reg := MRQ, lo := 8, w := 1 }
def MRQ.prio : Fld := { reg := MRQ, lo := 9, w := 3 }
def MRQ.credit : Fld := { reg := MRQ, lo := 12, w := 7 }
def MRQ.index : Fld := { reg := MRQ, lo := 19, w := 4 }
def MRQ.notify : Fld := { reg := MRQ, lo := 23, w := 28 }
/-- `MTQ` (13_links_and_ports). -/
def MTQ : Reg := { name := "MTQ", blk := .die, off := 0x10580, dims := [(16, 0x2000), (8, 0x8)], width := 64, fields := [
  fd 0 28 .rw 0,
  fd 28 4 .rw 0,
  fr 32 7 .rw 0 0 64,
  fd 39 1 .rw 0] }
def MTQ.notify : Fld := { reg := MTQ, lo := 0, w := 28 }
def MTQ.index : Fld := { reg := MTQ, lo := 28, w := 4 }
def MTQ.credit : Fld := { reg := MTQ, lo := 32, w := 7 }
def MTQ.enable : Fld := { reg := MTQ, lo := 39, w := 1 }
/-- `MOCC` (13_links_and_ports). -/
def MOCC : Reg := { name := "MOCC", blk := .die, off := 0x10680, dims := [(16, 0x2000)], width := 32, fields := [
  fd 0 16 .ro 0,
  fd 16 8 .ro 0,
  fd 24 8 .ro 0] }
def MOCC.cells : Fld := { reg := MOCC, lo := 0, w := 16 }
def MOCC.pausing : Fld := { reg := MOCC, lo := 16, w := 8 }
def MOCC.paused : Fld := { reg := MOCC, lo := 24, w := 8 }
/-- `MACPAUSE` (13_links_and_ports). -/
def MACPAUSE : Reg := { name := "MACPAUSE", blk := .io, off := 0x4400, dims := [], width := 32, fields := [
  fd 0 16 .rw 65535,
  fr 16 16 .rw 32767 1 65535] }
def MACPAUSE.quanta : Fld := { reg := MACPAUSE, lo := 0, w := 16 }
def MACPAUSE.refresh : Fld := { reg := MACPAUSE, lo := 16, w := 16 }
/-- `HOSTSTAT` (13_links_and_ports). -/
def HOSTSTAT : Reg := { name := "HOSTSTAT", blk := .io0, off := 0xC000, dims := [], width := 32, fields := [
  fd 0 1 .ro 0,
  fd 1 5 .ro 0,
  fd 6 1 .ro 0,
  fd 8 8 .ro 0] }
def HOSTSTAT.up : Fld := { reg := HOSTSTAT, lo := 0, w := 1 }
def HOSTSTAT.width : Fld := { reg := HOSTSTAT, lo := 1, w := 5 }
def HOSTSTAT.degraded : Fld := { reg := HOSTSTAT, lo := 6, w := 1 }
def HOSTSTAT.rate : Fld := { reg := HOSTSTAT, lo := 8, w := 8 }
/-- `HOSTCNT` (13_links_and_ports). -/
def HOSTCNT : Reg := { name := "HOSTCNT", blk := .io0, off := 0xC008, dims := [], width := 64, fields := [
  fd 0 16 .rc 0,
  fd 16 16 .rc 0,
  fd 32 16 .rc 0,
  fd 48 16 .rc 0] }
def HOSTCNT.oor_read : Fld := { reg := HOSTCNT, lo := 0, w := 16 }
def HOSTCNT.oor_write : Fld := { reg := HOSTCNT, lo := 16, w := 16 }
def HOSTCNT.link_down : Fld := { reg := HOSTCNT, lo := 32, w := 16 }
def HOSTCNT.poison : Fld := { reg := HOSTCNT, lo := 48, w := 16 }
/-- `CWSTATE` (14_commands_and_security). -/
def CWSTATE : Reg := { name := "CWSTATE", blk := .win, off := 0xDFF0, dims := [], width := 32, fields := [
  fd 0 2 .ro 0,
  fd 16 16 .ro 0] }
def CWSTATE.state : Fld := { reg := CWSTATE, lo := 0, w := 2 }
def CWSTATE.replies : Fld := { reg := CWSTATE, lo := 16, w := 16 }
/-- `CWCOMP` (14_commands_and_security). -/
def CWCOMP : Reg := { name := "CWCOMP", blk := .win, off := 0xDFF4, dims := [], width := 32, fields := [
  fd 0 32 .ro 0] }
def CWCOMP.written : Fld := { reg := CWCOMP, lo := 0, w := 32 }
/-- `CWCNT` (14_commands_and_security). -/
def CWCNT : Reg := { name := "CWCNT", blk := .win, off := 0xDFF8, dims := [], width := 32, fields := [
  fd 0 16 .rc 0,
  fd 16 16 .rc 0] }
def CWCNT.ignored : Fld := { reg := CWCNT, lo := 0, w := 16 }
def CWCNT.length : Fld := { reg := CWCNT, lo := 16, w := 16 }
/-- `SECSTAT` (14_commands_and_security). -/
def SECSTAT : Reg := { name := "SECSTAT", blk := .hub, off := 0x90000, dims := [], width := 32, fields := [
  fd 0 1 .ro 0,
  fd 1 1 .ro 0,
  fd 2 1 .ro 0,
  fd 3 1 .ro 0,
  fd 4 3 .ro 0,
  fd 7 1 .ro 0,
  fd 8 6 .ro 0] }
def SECSTAT.fw_verified : Fld := { reg := SECSTAT, lo := 0, w := 1 }
def SECSTAT.boot_copy : Fld := { reg := SECSTAT, lo := 1, w := 1 }
def SECSTAT.identity_ready : Fld := { reg := SECSTAT, lo := 2, w := 1 }
def SECSTAT.maint_open : Fld := { reg := SECSTAT, lo := 3, w := 1 }
def SECSTAT.op_sessions : Fld := { reg := SECSTAT, lo := 4, w := 3 }
def SECSTAT.locked_out : Fld := { reg := SECSTAT, lo := 7, w := 1 }
def SECSTAT.rollback : Fld := { reg := SECSTAT, lo := 8, w := 6 }
/-- `SECPOLICY` (14_commands_and_security). -/
def SECPOLICY : Reg := { name := "SECPOLICY", blk := .hub, off := 0x90004, dims := [], width := 32, fields := [
  fd 0 2 .ro 1,
  fd 2 1 .ro 0,
  fd 3 1 .ro 1,
  fd 4 14 .ro 600] }
def SECPOLICY.img_sig : Fld := { reg := SECPOLICY, lo := 0, w := 2 }
def SECPOLICY.maint_ops : Fld := { reg := SECPOLICY, lo := 2, w := 1 }
def SECPOLICY.attest_open : Fld := { reg := SECPOLICY, lo := 3, w := 1 }
def SECPOLICY.idle : Fld := { reg := SECPOLICY, lo := 4, w := 14 }
/-- `SECFW` (14_commands_and_security). -/
def SECFW : Reg := { name := "SECFW", blk := .hub, off := 0x90008, dims := [], width := 64, fields := [
  fd 0 32 .ro 0,
  fd 32 32 .ro 0] }
def SECFW.version : Fld := { reg := SECFW, lo := 0, w := 32 }
def SECFW.digest : Fld := { reg := SECFW, lo := 32, w := 32 }
/-- `SECCNT` (14_commands_and_security). -/
def SECCNT : Reg := { name := "SECCNT", blk := .hub, off := 0x90010, dims := [], width := 64, fields := [
  fd 0 16 .ro 0,
  fd 16 16 .ro 0,
  fd 32 16 .ro 0,
  fd 48 16 .ro 0] }
def SECCNT.mac_bad : Fld := { reg := SECCNT, lo := 0, w := 16 }
def SECCNT.auth_failed : Fld := { reg := SECCNT, lo := 16, w := 16 }
def SECCNT.stale : Fld := { reg := SECCNT, lo := 32, w := 16 }
def SECCNT.seq_bad : Fld := { reg := SECCNT, lo := 48, w := 16 }
/-- `SECSESS` (14_commands_and_security). -/
def SECSESS : Reg := { name := "SECSESS", blk := .hub, off := 0x90020, dims := [(8, 0x8)], width := 64, fields := [
  fd 0 16 .ro 0,
  fd 16 2 .ro 0,
  fd 18 4 .ro 0,
  fd 32 32 .ro 0] }
def SECSESS.id : Fld := { reg := SECSESS, lo := 0, w := 16 }
def SECSESS.kind : Fld := { reg := SECSESS, lo := 16, w := 2 }
def SECSESS.key : Fld := { reg := SECSESS, lo := 18, w := 4 }
def SECSESS.next_seq : Fld := { reg := SECSESS, lo := 32, w := 32 }
/-- `SECKEY` (14_commands_and_security). -/
def SECKEY : Reg := { name := "SECKEY", blk := .hub, off := 0x90200, dims := [(16, 0x8)], width := 64, fields := [
  fd 0 32 .ro 0,
  fd 32 3 .ro 0,
  fd 35 1 .ro 0] }
def SECKEY.id : Fld := { reg := SECKEY, lo := 0, w := 32 }
def SECKEY.roles : Fld := { reg := SECKEY, lo := 32, w := 3 }
def SECKEY.valid : Fld := { reg := SECKEY, lo := 35, w := 1 }
/-- `IPEND` (15_interrupts_and_olm). -/
def IPEND : Reg := { name := "IPEND", blk := .hub, off := 0x10000, dims := [(32, 0x4)], width := 32, fields := [
  fd 0 32 .rw 0] }
def IPEND.pending : Fld := { reg := IPEND, lo := 0, w := 32 }
/-- `IACTIVE` (15_interrupts_and_olm). -/
def IACTIVE : Reg := { name := "IACTIVE", blk := .hub, off := 0x10200, dims := [(32, 0x4)], width := 32, fields := [
  fd 0 32 .ro 0] }
def IACTIVE.active : Fld := { reg := IACTIVE, lo := 0, w := 32 }
/-- `IMASK_HUB` (15_interrupts_and_olm). -/
def IMASK_HUB : Reg := { name := "IMASK_HUB", blk := .hub, off := 0x10100, dims := [(32, 0x4)], width := 32, fields := [
  fd 0 32 .rw 4294967295] }
def IMASK_HUB.mask : Fld := { reg := IMASK_HUB, lo := 0, w := 32 }
/-- `IMASK_HOST` (15_interrupts_and_olm). -/
def IMASK_HOST : Reg := { name := "IMASK_HOST", blk := .hub, off := 0x10180, dims := [(32, 0x4)], width := 32, fields := [
  fd 0 32 .rw 4294967295] }
def IMASK_HOST.mask : Fld := { reg := IMASK_HOST, lo := 0, w := 32 }
/-- `IHOLD` (15_interrupts_and_olm). -/
def IHOLD : Reg := { name := "IHOLD", blk := .hub, off := 0x10300, dims := [(32, 0x4)], width := 32, fields := [
  fd 0 16 .rw 0,
  fd 16 1 .ro 0] }
def IHOLD.holdoff : Fld := { reg := IHOLD, lo := 0, w := 16 }
def IHOLD.running : Fld := { reg := IHOLD, lo := 16, w := 1 }
/-- `ICLAIM` (15_interrupts_and_olm). -/
def ICLAIM : Reg := { name := "ICLAIM", blk := .hub, off := 0x10400, dims := [(40, 0x8)], width := 32, fields := [
  fd 0 10 .rc 1023,
  fd 10 1 .ro 0] }
def ICLAIM.id : Fld := { reg := ICLAIM, lo := 0, w := 10 }
def ICLAIM.notified : Fld := { reg := ICLAIM, lo := 10, w := 1 }
/-- `ICOMPLETE` (15_interrupts_and_olm). -/
def ICOMPLETE : Reg := { name := "ICOMPLETE", blk := .hub, off := 0x10404, dims := [(40, 0x8)], width := 32, fields := [
  fd 0 10 .wo 0] }
def ICOMPLETE.id : Fld := { reg := ICOMPLETE, lo := 0, w := 10 }
/-- `ISTRAY` (15_interrupts_and_olm). -/
def ISTRAY : Reg := { name := "ISTRAY", blk := .hub, off := 0x10600, dims := [], width := 32, fields := [
  fd 0 32 .rc 0] }
def ISTRAY.count : Fld := { reg := ISTRAY, lo := 0, w := 32 }
/-- `ITGT` (15_interrupts_and_olm). -/
def ITGT : Reg := { name := "ITGT", blk := .hub, off := 0x11000, dims := [(1024, 0x8)], width := 64, fields := [
  fd 0 8 .rw 0,
  fd 32 32 .rw 0] }
def ITGT.hub : Fld := { reg := ITGT, lo := 0, w := 8 }
def ITGT.host : Fld := { reg := ITGT, lo := 32, w := 32 }
/-- `OLMSTAT` (15_interrupts_and_olm). -/
def OLMSTAT : Reg := { name := "OLMSTAT", blk := .hub, off := 0x50000, dims := [], width := 32, fields := [
  fd 0 1 .ro 0,
  fd 1 1 .ro 0,
  fd 2 1 .w1c 0] }
def OLMSTAT.found : Fld := { reg := OLMSTAT, lo := 0, w := 1 }
def OLMSTAT.birth : Fld := { reg := OLMSTAT, lo := 1, w := 1 }
def OLMSTAT.new : Fld := { reg := OLMSTAT, lo := 2, w := 1 }
/-- `OLMSEL` (15_interrupts_and_olm). -/
def OLMSEL : Reg := { name := "OLMSEL", blk := .hub, off := 0x50008, dims := [], width := 64, fields := [
  fd 0 64 .rw 0] }
def OLMSEL.seq : Fld := { reg := OLMSEL, lo := 0, w := 64 }
/-- `OLMHEAD` (15_interrupts_and_olm). -/
def OLMHEAD : Reg := { name := "OLMHEAD", blk := .hub, off := 0x50010, dims := [], width := 64, fields := [
  fd 0 64 .ro 0] }
def OLMHEAD.seq : Fld := { reg := OLMHEAD, lo := 0, w := 64 }
/-- `OLMTAIL` (15_interrupts_and_olm). -/
def OLMTAIL : Reg := { name := "OLMTAIL", blk := .hub, off := 0x50018, dims := [], width := 64, fields := [
  fd 0 64 .ro 0] }
def OLMTAIL.seq : Fld := { reg := OLMTAIL, lo := 0, w := 64 }
/-- `OLMCLOCK` (15_interrupts_and_olm). -/
def OLMCLOCK : Reg := { name := "OLMCLOCK", blk := .hub, off := 0x50020, dims := [], width := 64, fields := [
  fd 0 40 .ro 0,
  fd 40 24 .ro 0] }
def OLMCLOCK.hours : Fld := { reg := OLMCLOCK, lo := 0, w := 40 }
def OLMCLOCK.cycles : Fld := { reg := OLMCLOCK, lo := 40, w := 24 }
/-- `OLMRATE` (15_interrupts_and_olm). -/
def OLMRATE : Reg := { name := "OLMRATE", blk := .hub, off := 0x50028, dims := [], width := 32, fields := [
  fr 0 8 .rw 8 1 255,
  fr 8 8 .rw 32 1 255] }
def OLMRATE.rate : Fld := { reg := OLMRATE, lo := 0, w := 8 }
def OLMRATE.burst : Fld := { reg := OLMRATE, lo := 8, w := 8 }
/-- `OLMSUPP` (15_interrupts_and_olm). -/
def OLMSUPP : Reg := { name := "OLMSUPP", blk := .hub, off := 0x50030, dims := [], width := 32, fields := [
  fd 0 32 .rc 0] }
def OLMSUPP.count : Fld := { reg := OLMSUPP, lo := 0, w := 32 }
/-- `OLMOVR` (15_interrupts_and_olm). -/
def OLMOVR : Reg := { name := "OLMOVR", blk := .hub, off := 0x50100, dims := [(256, 0x4)], width := 32, fields := [
  fd 0 16 .rw 0,
  fr 16 8 .rw 0 1 255,
  fr 24 8 .rw 0 1 255] }
def OLMOVR.code : Fld := { reg := OLMOVR, lo := 0, w := 16 }
def OLMOVR.rate : Fld := { reg := OLMOVR, lo := 16, w := 8 }
def OLMOVR.burst : Fld := { reg := OLMOVR, lo := 24, w := 8 }
/-- `PWRSTAT` (16_power_and_faults). -/
def PWRSTAT : Reg := { name := "PWRSTAT", blk := .hub, off := 0x60000, dims := [], width := 32, fields := [
  fd 0 1 .ro 0,
  fd 1 1 .ro 0,
  fd 2 1 .ro 0,
  fd 3 1 .w1c 0,
  fd 4 1 .w1c 0,
  fd 5 1 .w1c 0,
  fd 6 1 .w1c 0] }
def PWRSTAT.alert_mod : Fld := { reg := PWRSTAT, lo := 0, w := 1 }
def PWRSTAT.alert_rack : Fld := { reg := PWRSTAT, lo := 1, w := 1 }
def PWRSTAT.forced : Fld := { reg := PWRSTAT, lo := 2, w := 1 }
def PWRSTAT.alert_seen : Fld := { reg := PWRSTAT, lo := 3, w := 1 }
def PWRSTAT.therm_seen : Fld := { reg := PWRSTAT, lo := 4, w := 1 }
def PWRSTAT.cap_unmet : Fld := { reg := PWRSTAT, lo := 5, w := 1 }
def PWRSTAT.droop_long : Fld := { reg := PWRSTAT, lo := 6, w := 1 }
/-- `PWRIN` (16_power_and_faults). -/
def PWRIN : Reg := { name := "PWRIN", blk := .hub, off := 0x60008, dims := [], width := 64, fields := [
  fd 0 16 .ro 0,
  fd 16 16 .ro 0,
  fd 32 16 .ro 0,
  fd 48 16 .ro 0] }
def PWRIN.volts : Fld := { reg := PWRIN, lo := 0, w := 16 }
def PWRIN.amps : Fld := { reg := PWRIN, lo := 16, w := 16 }
def PWRIN.p10 : Fld := { reg := PWRIN, lo := 32, w := 16 }
def PWRIN.w : Fld := { reg := PWRIN, lo := 48, w := 16 }
/-- `PWRCAP` (16_power_and_faults). -/
def PWRCAP : Reg := { name := "PWRCAP", blk := .hub, off := 0x60010, dims := [], width := 32, fields := [
  fr 0 10 .rw 420 100 420,
  fr 10 7 .rw 20 5 100,
  fr 17 10 .rw 500 100 540,
  fr 27 5 .rw 5 1 31] }
def PWRCAP.cap : Fld := { reg := PWRCAP, lo := 0, w := 10 }
def PWRCAP.window : Fld := { reg := PWRCAP, lo := 10, w := 7 }
def PWRCAP.peak_guard : Fld := { reg := PWRCAP, lo := 17, w := 10 }
def PWRCAP.margin : Fld := { reg := PWRCAP, lo := 27, w := 5 }
/-- `PWRSLOPE` (16_power_and_faults). -/
def PWRSLOPE : Reg := { name := "PWRSLOPE", blk := .hub, off := 0x60014, dims := [], width := 32, fields := [
  fr 0 8 .rw 20 10 255,
  fr 8 8 .rw 10 1 255,
  fr 16 8 .rw 25 10 40] }
def PWRSLOPE.interval : Fld := { reg := PWRSLOPE, lo := 0, w := 8 }
def PWRSLOPE.alert_hold : Fld := { reg := PWRSLOPE, lo := 8, w := 8 }
def PWRSLOPE.droop_thresh : Fld := { reg := PWRSLOPE, lo := 16, w := 8 }
/-- `PWRTHERM` (16_power_and_faults). -/
def PWRTHERM : Reg := { name := "PWRTHERM", blk := .hub, off := 0x60020, dims := [], width := 32, fields := [
  fr 0 8 .rw 100 70 104,
  fr 8 8 .rw 105 71 105] }
def PWRTHERM.throttle : Fld := { reg := PWRTHERM, lo := 0, w := 8 }
def PWRTHERM.limit : Fld := { reg := PWRTHERM, lo := 8, w := 8 }
/-- `PWRDIE` (16_power_and_faults). -/
def PWRDIE : Reg := { name := "PWRDIE", blk := .hub, off := 0x60100, dims := [(16, 0x10)], width := 32, fields := [
  fr 0 4 .rw 7 4 15,
  fd 4 4 .ro 0,
  fd 8 4 .rw 15,
  fd 12 4 .ro 0,
  fd 16 1 .ro 0,
  fd 17 1 .ro 0,
  fd 18 1 .ro 0,
  fd 19 1 .ro 0,
  fd 20 8 .ro 0] }
def PWRDIE.req_step : Fld := { reg := PWRDIE, lo := 0, w := 4 }
def PWRDIE.step : Fld := { reg := PWRDIE, lo := 4, w := 4 }
def PWRDIE.max_pacer : Fld := { reg := PWRDIE, lo := 8, w := 4 }
def PWRDIE.pacer : Fld := { reg := PWRDIE, lo := 12, w := 4 }
def PWRDIE.droop : Fld := { reg := PWRDIE, lo := 16, w := 1 }
def PWRDIE.forced : Fld := { reg := PWRDIE, lo := 17, w := 1 }
def PWRDIE.therm_limit : Fld := { reg := PWRDIE, lo := 18, w := 1 }
def PWRDIE.throttle : Fld := { reg := PWRDIE, lo := 19, w := 1 }
def PWRDIE.tj : Fld := { reg := PWRDIE, lo := 20, w := 8 }
/-- `PWRDCNT` (16_power_and_faults). -/
def PWRDCNT : Reg := { name := "PWRDCNT", blk := .hub, off := 0x60108, dims := [(16, 0x10)], width := 32, fields := [
  fd 0 16 .rc 0,
  fd 16 16 .rc 0] }
def PWRDCNT.droops : Fld := { reg := PWRDCNT, lo := 0, w := 16 }
def PWRDCNT.long : Fld := { reg := PWRDCNT, lo := 16, w := 16 }
/-- `FLTSTAT` (16_power_and_faults). -/
def FLTSTAT : Reg := { name := "FLTSTAT", blk := .hub, off := 0x70000, dims := [], width := 32, fields := [
  fd 0 6 .ro 0,
  fd 6 1 .w1c 0,
  fd 7 1 .w1c 0,
  fd 8 1 .ro 0,
  fd 9 1 .ro 0] }
def FLTSTAT.count : Fld := { reg := FLTSTAT, lo := 0, w := 6 }
def FLTSTAT.overflow : Fld := { reg := FLTSTAT, lo := 6, w := 1 }
def FLTSTAT.failover : Fld := { reg := FLTSTAT, lo := 7, w := 1 }
def FLTSTAT.standby_lost : Fld := { reg := FLTSTAT, lo := 8, w := 1 }
def FLTSTAT.active_hub : Fld := { reg := FLTSTAT, lo := 9, w := 1 }
/-- `FLTREP_LO` (16_power_and_faults). -/
def FLTREP_LO : Reg := { name := "FLTREP_LO", blk := .hub, off := 0x70008, dims := [], width := 32, fields := [
  fd 0 32 .ro 0] }
def FLTREP_LO.when : Fld := { reg := FLTREP_LO, lo := 0, w := 32 }
/-- `FLTREP_HI` (16_power_and_faults). -/
def FLTREP_HI : Reg := { name := "FLTREP_HI", blk := .hub, off := 0x7000C, dims := [], width := 32, fields := [
  fd 0 8 .rc 0,
  fd 8 4 .rc 0,
  fd 12 3 .rc 0,
  fd 15 2 .rc 0,
  fd 17 14 .rc 0,
  fd 31 1 .rc 0] }
def FLTREP_HI.cls : Fld := { reg := FLTREP_HI, lo := 0, w := 8 }
def FLTREP_HI.die : Fld := { reg := FLTREP_HI, lo := 8, w := 4 }
def FLTREP_HI.kind : Fld := { reg := FLTREP_HI, lo := 12, w := 3 }
def FLTREP_HI.outcome : Fld := { reg := FLTREP_HI, lo := 15, w := 2 }
def FLTREP_HI.unit : Fld := { reg := FLTREP_HI, lo := 17, w := 14 }
def FLTREP_HI.valid : Fld := { reg := FLTREP_HI, lo := 31, w := 1 }
/-- `FLTDIE` (16_power_and_faults). -/
def FLTDIE : Reg := { name := "FLTDIE", blk := .hub, off := 0x70010, dims := [], width := 32, fields := [
  fd 0 16 .ro 0] }
def FLTDIE.failed : Fld := { reg := FLTDIE, lo := 0, w := 16 }
/-- `FLTCNT` (16_power_and_faults). -/
def FLTCNT : Reg := { name := "FLTCNT", blk := .hub, off := 0x70018, dims := [], width := 32, fields := [
  fd 0 16 .rc 0,
  fd 16 16 .rc 0] }
def FLTCNT.masked : Fld := { reg := FLTCNT, lo := 0, w := 16 }
def FLTCNT.lost : Fld := { reg := FLTCNT, lo := 16, w := 16 }
/-- `FLTCMAP` (16_power_and_faults). -/
def FLTCMAP : Reg := { name := "FLTCMAP", blk := .hub, off := 0x71000, dims := [(16, 0x40), (16, 0x4)], width := 32, fields := [
  { lo := 0, w := 7, acc := .ro, rst := .word4 0, range := none },
  { lo := 8, w := 7, acc := .ro, rst := .word4 1, range := none },
  { lo := 16, w := 7, acc := .ro, rst := .word4 2, range := none },
  { lo := 24, w := 7, acc := .ro, rst := .word4 3, range := none }] }
def FLTCMAP.phys0 : Fld := { reg := FLTCMAP, lo := 0, w := 7 }
def FLTCMAP.phys1 : Fld := { reg := FLTCMAP, lo := 8, w := 7 }
def FLTCMAP.phys2 : Fld := { reg := FLTCMAP, lo := 16, w := 7 }
def FLTCMAP.phys3 : Fld := { reg := FLTCMAP, lo := 24, w := 7 }
/-- `TPSEL` (17_startup_and_pins). -/
def TPSEL : Reg := { name := "TPSEL", blk := .hub, off := 0x80000, dims := [(4, 0x8)], width := 64, fields := [
  fr 0 4 .rw 0 0 7,
  fd 4 4 .rw 0,
  fd 8 8 .rw 0,
  fd 16 16 .rw 0,
  fd 32 4 .rw 0,
  fd 36 4 .rw 0] }
def TPSEL.source : Fld := { reg := TPSEL, lo := 0, w := 4 }
def TPSEL.die : Fld := { reg := TPSEL, lo := 4, w := 4 }
def TPSEL.cls : Fld := { reg := TPSEL, lo := 8, w := 8 }
def TPSEL.unit : Fld := { reg := TPSEL, lo := 16, w := 16 }
def TPSEL.div : Fld := { reg := TPSEL, lo := 32, w := 4 }
def TPSEL.chan : Fld := { reg := TPSEL, lo := 36, w := 4 }
/-- `BOOTSTAT` (17_startup_and_pins). -/
def BOOTSTAT : Reg := { name := "BOOTSTAT", blk := .hub, off := 0x80100, dims := [], width := 64, fields := [
  fd 0 4 .ro 0,
  fd 4 1 .ro 0,
  fd 5 1 .ro 0,
  fd 6 1 .ro 0,
  fd 32 32 .ro 0] }
def BOOTSTAT.stage : Fld := { reg := BOOTSTAT, lo := 0, w := 4 }
def BOOTSTAT.fallback : Fld := { reg := BOOTSTAT, lo := 4, w := 1 }
def BOOTSTAT.recovery : Fld := { reg := BOOTSTAT, lo := 5, w := 1 }
def BOOTSTAT.host_loaded : Fld := { reg := BOOTSTAT, lo := 6, w := 1 }
def BOOTSTAT.elapsed : Fld := { reg := BOOTSTAT, lo := 32, w := 32 }
/-- `RSTCAUSE` (17_startup_and_pins). -/
def RSTCAUSE : Reg := { name := "RSTCAUSE", blk := .hub, off := 0x80108, dims := [], width := 32, fields := [
  fd 0 3 .ro 0] }
def RSTCAUSE.cause : Fld := { reg := RSTCAUSE, lo := 0, w := 3 }
/-- `SSCCFG` (17_startup_and_pins). -/
def SSCCFG : Reg := { name := "SSCCFG", blk := .hub, off := 0x80200, dims := [], width := 32, fields := [
  fd 0 1 .rw 1] }
def SSCCFG.lpddr_ssc : Fld := { reg := SSCCFG, lo := 0, w := 1 }
/-- `GCNT_RELEASED` (02_clockless_timing). -/
def GCNT_RELEASED : Reg := { name := "GCNT_RELEASED", blk := .die, off := 0xD1040, dims := [(64, 0x100)], width := 64, fields := [
  fd 0 64 .ro 0] }
def GCNT_RELEASED.count : Fld := { reg := GCNT_RELEASED, lo := 0, w := 64 }
/-- `GCNT_LATE` (02_clockless_timing). -/
def GCNT_LATE : Reg := { name := "GCNT_LATE", blk := .die, off := 0xD1048, dims := [(64, 0x100)], width := 32, fields := [
  fd 0 32 .rc 0] }
def GCNT_LATE.count : Fld := { reg := GCNT_LATE, lo := 0, w := 32 }
/-- `GCNT_FAULT` (02_clockless_timing). -/
def GCNT_FAULT : Reg := { name := "GCNT_FAULT", blk := .die, off := 0xD104C, dims := [(64, 0x100)], width := 32, fields := [
  fd 0 32 .rc 0] }
def GCNT_FAULT.count : Fld := { reg := GCNT_FAULT, lo := 0, w := 32 }
/-- `GCNT_MASKED` (02_clockless_timing). -/
def GCNT_MASKED : Reg := { name := "GCNT_MASKED", blk := .die, off := 0xD1050, dims := [(64, 0x100)], width := 32, fields := [
  fd 0 32 .rc 0] }
def GCNT_MASKED.count : Fld := { reg := GCNT_MASKED, lo := 0, w := 32 }
/-- `GCNT_DISCARD` (02_clockless_timing). -/
def GCNT_DISCARD : Reg := { name := "GCNT_DISCARD", blk := .die, off := 0xD1054, dims := [(64, 0x100)], width := 32, fields := [
  fd 0 32 .rc 0] }
def GCNT_DISCARD.count : Fld := { reg := GCNT_DISCARD, lo := 0, w := 32 }
/-- `GCNT_OVERRUN` (02_clockless_timing). -/
def GCNT_OVERRUN : Reg := { name := "GCNT_OVERRUN", blk := .die, off := 0xD1058, dims := [(64, 0x100)], width := 32, fields := [
  fd 0 32 .rc 0] }
def GCNT_OVERRUN.count : Fld := { reg := GCNT_OVERRUN, lo := 0, w := 32 }
/-- `QDESC0` (06_numeric_formats). -/
def QDESC0 : Reg := { name := "QDESC0", blk := .die, off := 0x31900, dims := [(65, 0x2000), (16, 0x40)], width := 64, fields := [
  fr 0 2 .rw 0 0 2,
  fr 2 2 .rw 0 0 2,
  fr 4 2 .rw 0 0 2,
  fd 6 5 .rw 0,
  fd 11 5 .rw 0,
  fd 16 2 .rw 0,
  fr 18 3 .rw 0 0 4,
  fd 21 1 .rw 0,
  fd 22 1 .rw 0,
  fd 23 1 .rw 0,
  fd 24 1 .rw 0,
  fd 25 1 .rw 0,
  fd 26 8 .rw 0,
  fr 34 8 .rw 254 0 254,
  fd 42 12 .rw 0,
  fd 54 8 .rw 0] }
def QDESC0.op : Fld := { reg := QDESC0, lo := 0, w := 2 }
def QDESC0.src : Fld := { reg := QDESC0, lo := 2, w := 2 }
def QDESC0.dst : Fld := { reg := QDESC0, lo := 4, w := 2 }
def QDESC0.sfmt : Fld := { reg := QDESC0, lo := 6, w := 5 }
def QDESC0.dfmt : Fld := { reg := QDESC0, lo := 11, w := 5 }
def QDESC0.scale : Fld := { reg := QDESC0, lo := 16, w := 2 }
def QDESC0.rot : Fld := { reg := QDESC0, lo := 18, w := 3 }
def QDESC0.rot_dir : Fld := { reg := QDESC0, lo := 21, w := 1 }
def QDESC0.rnd : Fld := { reg := QDESC0, lo := 22, w := 1 }
def QDESC0.seed_src : Fld := { reg := QDESC0, lo := 23, w := 1 }
def QDESC0.e5m2_ieee : Fld := { reg := QDESC0, lo := 24, w := 1 }
def QDESC0.stats : Fld := { reg := QDESC0, lo := 25, w := 1 }
def QDESC0.xlo : Fld := { reg := QDESC0, lo := 26, w := 8 }
def QDESC0.xhi : Fld := { reg := QDESC0, lo := 34, w := 8 }
def QDESC0.chan_len : Fld := { reg := QDESC0, lo := 42, w := 12 }
def QDESC0.gexp : Fld := { reg := QDESC0, lo := 54, w := 8 }
/-- `QDESC1` (06_numeric_formats). -/
def QDESC1 : Reg := { name := "QDESC1", blk := .die, off := 0x31908, dims := [(65, 0x2000), (16, 0x40)], width := 64, fields := [
  fd 0 28 .rw 0,
  fd 28 4 .rw 0,
  fr 32 7 .rw 0 0 64] }
def QDESC1.notify : Fld := { reg := QDESC1, lo := 0, w := 28 }
def QDESC1.notify_index : Fld := { reg := QDESC1, lo := 28, w := 4 }
def QDESC1.credit : Fld := { reg := QDESC1, lo := 32, w := 7 }
/-- `QDESC2` (06_numeric_formats). -/
def QDESC2 : Reg := { name := "QDESC2", blk := .die, off := 0x31910, dims := [(65, 0x2000), (16, 0x40)], width := 64, fields := [
  fd 0 32 .rw 0,
  fd 32 16 .rw 0] }
def QDESC2.S : Fld := { reg := QDESC2, lo := 0, w := 32 }
def QDESC2.Z : Fld := { reg := QDESC2, lo := 32, w := 16 }
/-- `QDESC3` (06_numeric_formats). -/
def QDESC3 : Reg := { name := "QDESC3", blk := .die, off := 0x31918, dims := [(65, 0x2000), (16, 0x40)], width := 64, fields := [
  fd 0 42 .rw 0,
  fd 42 12 .rw 0] }
def QDESC3.header : Fld := { reg := QDESC3, lo := 0, w := 42 }
def QDESC3.n_acc : Fld := { reg := QDESC3, lo := 42, w := 12 }
/-- `QDESC4` (06_numeric_formats). -/
def QDESC4 : Reg := { name := "QDESC4", blk := .die, off := 0x31920, dims := [(65, 0x2000), (16, 0x40)], width := 64, fields := [
  fd 0 64 .rw 0] }
def QDESC4.seed : Fld := { reg := QDESC4, lo := 0, w := 64 }
/-- `QDESC5` (06_numeric_formats). -/
def QDESC5 : Reg := { name := "QDESC5", blk := .die, off := 0x31928, dims := [(65, 0x2000), (16, 0x40)], width := 64, fields := [
  fd 0 64 .rw 0] }
def QDESC5.rseed : Fld := { reg := QDESC5, lo := 0, w := 64 }
/-- `QDESC6` (06_numeric_formats). -/
def QDESC6 : Reg := { name := "QDESC6", blk := .die, off := 0x31930, dims := [(65, 0x2000), (16, 0x40)], width := 64, fields := [
  fd 0 24 .rw 0,
  fd 24 40 .rw 0] }
def QDESC6.tid : Fld := { reg := QDESC6, lo := 0, w := 24 }
def QDESC6.base : Fld := { reg := QDESC6, lo := 24, w := 40 }
/-- `QDESC7` (06_numeric_formats). -/
def QDESC7 : Reg := { name := "QDESC7", blk := .die, off := 0x31938, dims := [(65, 0x2000), (16, 0x40)], width := 64, fields := [
  ] }
/-- `VRULE0` (11_time_and_vilovote). -/
def VRULE0 : Reg := { name := "VRULE0", blk := .hub, off := 0x30100, dims := [(16, 0x20)], width := 64, fields := [
  fd 0 1 .rw 0,
  fd 1 1 .rw 0,
  fd 2 4 .rw 0,
  fd 6 6 .rw 0,
  fd 12 3 .rw 0,
  fr 15 2 .rw 0 0 2,
  fd 17 1 .rw 0,
  fd 18 4 .rw 2] }
def VRULE0.enable : Fld := { reg := VRULE0, lo := 0, w := 1 }
def VRULE0.src : Fld := { reg := VRULE0, lo := 1, w := 1 }
def VRULE0.die : Fld := { reg := VRULE0, lo := 2, w := 4 }
def VRULE0.gate : Fld := { reg := VRULE0, lo := 6, w := 6 }
def VRULE0.pos : Fld := { reg := VRULE0, lo := 12, w := 3 }
def VRULE0.action : Fld := { reg := VRULE0, lo := 15, w := 2 }
def VRULE0.prov : Fld := { reg := VRULE0, lo := 17, w := 1 }
def VRULE0.smask : Fld := { reg := VRULE0, lo := 18, w := 4 }
/-- `VRULE1` (11_time_and_vilovote). -/
def VRULE1 : Reg := { name := "VRULE1", blk := .hub, off := 0x30108, dims := [(16, 0x20)], width := 64, fields := [
  fd 0 64 .rw 0] }
def VRULE1.mask : Fld := { reg := VRULE1, lo := 0, w := 64 }
/-- `VRULE2` (11_time_and_vilovote). -/
def VRULE2 : Reg := { name := "VRULE2", blk := .hub, off := 0x30110, dims := [(16, 0x20)], width := 64, fields := [
  fd 0 64 .rw 0] }
def VRULE2.value : Fld := { reg := VRULE2, lo := 0, w := 64 }
/-- `QSSE` (06_numeric_formats). -/
def QSSE : Reg := { name := "QSSE", blk := .die, off := 0x31E08, dims := [(65, 0x2000), (10, 0x8)], width := 64, fields := [
  fd 0 64 .ro 0] }
def QSSE.sum : Fld := { reg := QSSE, lo := 0, w := 64 }
/-- `QSCOUNT` (06_numeric_formats). -/
def QSCOUNT : Reg := { name := "QSCOUNT", blk := .die, off := 0x31E58, dims := [(65, 0x2000)], width := 64, fields := [
  fd 0 64 .ro 0] }
def QSCOUNT.value : Fld := { reg := QSCOUNT, lo := 0, w := 64 }
/-- `QSMAXERR` (06_numeric_formats). -/
def QSMAXERR : Reg := { name := "QSMAXERR", blk := .die, off := 0x31E60, dims := [(65, 0x2000)], width := 32, fields := [
  fd 0 32 .ro 0] }
def QSMAXERR.value : Fld := { reg := QSMAXERR, lo := 0, w := 32 }
/-- `QSSAT` (06_numeric_formats). -/
def QSSAT : Reg := { name := "QSSAT", blk := .die, off := 0x31E64, dims := [(65, 0x2000)], width := 32, fields := [
  fd 0 32 .ro 0] }
def QSSAT.value : Fld := { reg := QSSAT, lo := 0, w := 32 }
/-- `QSDEGEN` (06_numeric_formats). -/
def QSDEGEN : Reg := { name := "QSDEGEN", blk := .die, off := 0x31E68, dims := [(65, 0x2000)], width := 32, fields := [
  fd 0 32 .ro 0] }
def QSDEGEN.value : Fld := { reg := QSDEGEN, lo := 0, w := 32 }
/-- `QSNAN` (06_numeric_formats). -/
def QSNAN : Reg := { name := "QSNAN", blk := .die, off := 0x31E6C, dims := [(65, 0x2000)], width := 32, fields := [
  fd 0 32 .ro 0] }
def QSNAN.value : Fld := { reg := QSNAN, lo := 0, w := 32 }
/-- `QSTENSOR` (06_numeric_formats). -/
def QSTENSOR : Reg := { name := "QSTENSOR", blk := .die, off := 0x31E70, dims := [(65, 0x2000)], width := 32, fields := [
  fd 0 24 .ro 0] }
def QSTENSOR.value : Fld := { reg := QSTENSOR, lo := 0, w := 24 }
/-- `QSSEED` (06_numeric_formats). -/
def QSSEED : Reg := { name := "QSSEED", blk := .die, off := 0x31E78, dims := [(65, 0x2000)], width := 64, fields := [
  fd 0 64 .ro 0] }
def QSSEED.value : Fld := { reg := QSSEED, lo := 0, w := 64 }
/-- `QSMIN` (06_numeric_formats). -/
def QSMIN : Reg := { name := "QSMIN", blk := .die, off := 0x31E80, dims := [(65, 0x2000)], width := 32, fields := [
  fd 0 32 .ro 0] }
def QSMIN.value : Fld := { reg := QSMIN, lo := 0, w := 32 }
/-- `QSMAX` (06_numeric_formats). -/
def QSMAX : Reg := { name := "QSMAX", blk := .die, off := 0x31E84, dims := [(65, 0x2000)], width := 32, fields := [
  fd 0 32 .ro 0] }
def QSMAX.value : Fld := { reg := QSMAX, lo := 0, w := 32 }
/-- `PCNT_FRAMES` (08_prompt_path). -/
def PCNT_FRAMES : Reg := { name := "PCNT_FRAMES", blk := .die, off := 0x10040, dims := [(16, 0x2000)], width := 64, fields := [
  fd 0 64 .ro 0] }
def PCNT_FRAMES.count : Fld := { reg := PCNT_FRAMES, lo := 0, w := 64 }
/-- `PCNT_VFAIL` (08_prompt_path). -/
def PCNT_VFAIL : Reg := { name := "PCNT_VFAIL", blk := .die, off := 0x10048, dims := [(16, 0x2000)], width := 32, fields := [
  fd 0 32 .rc 0] }
def PCNT_VFAIL.count : Fld := { reg := PCNT_VFAIL, lo := 0, w := 32 }
/-- `PCNT_HBLK` (08_prompt_path). -/
def PCNT_HBLK : Reg := { name := "PCNT_HBLK", blk := .die, off := 0x10050, dims := [(16, 0x2000)], width := 32, fields := [
  fd 0 32 .rc 0] }
def PCNT_HBLK.count : Fld := { reg := PCNT_HBLK, lo := 0, w := 32 }
/-- `PCNT_NOCRED` (08_prompt_path). -/
def PCNT_NOCRED : Reg := { name := "PCNT_NOCRED", blk := .die, off := 0x10054, dims := [(16, 0x2000)], width := 32, fields := [
  fd 0 32 .rc 0] }
def PCNT_NOCRED.count : Fld := { reg := PCNT_NOCRED, lo := 0, w := 32 }
/-- `PCNT_REPLY` (08_prompt_path). -/
def PCNT_REPLY : Reg := { name := "PCNT_REPLY", blk := .die, off := 0x10058, dims := [(16, 0x2000)], width := 64, fields := [
  fd 0 64 .ro 0] }
def PCNT_REPLY.count : Fld := { reg := PCNT_REPLY, lo := 0, w := 64 }
/-- `PCNT_PROV` (08_prompt_path). -/
def PCNT_PROV : Reg := { name := "PCNT_PROV", blk := .die, off := 0x10060, dims := [(16, 0x2000)], width := 32, fields := [
  fd 0 32 .rc 0] }
def PCNT_PROV.count : Fld := { reg := PCNT_PROV, lo := 0, w := 32 }
/-- `PCNT_STOMP` (08_prompt_path). -/
def PCNT_STOMP : Reg := { name := "PCNT_STOMP", blk := .die, off := 0x10064, dims := [(16, 0x2000)], width := 32, fields := [
  fd 0 32 .rc 0] }
def PCNT_STOMP.count : Fld := { reg := PCNT_STOMP, lo := 0, w := 32 }
/-- `PCNT_CANCEL` (08_prompt_path). -/
def PCNT_CANCEL : Reg := { name := "PCNT_CANCEL", blk := .die, off := 0x10068, dims := [(16, 0x2000)], width := 32, fields := [
  fd 0 32 .rc 0] }
def PCNT_CANCEL.count : Fld := { reg := PCNT_CANCEL, lo := 0, w := 32 }
/-- `PCNT_CDROP` (08_prompt_path). -/
def PCNT_CDROP : Reg := { name := "PCNT_CDROP", blk := .die, off := 0x1006C, dims := [(16, 0x2000)], width := 32, fields := [
  fd 0 32 .rc 0] }
def PCNT_CDROP.count : Fld := { reg := PCNT_CDROP, lo := 0, w := 32 }
/-- `PCNT_SUPPR` (08_prompt_path). -/
def PCNT_SUPPR : Reg := { name := "PCNT_SUPPR", blk := .die, off := 0x10070, dims := [(16, 0x2000)], width := 32, fields := [
  fd 0 32 .rc 0] }
def PCNT_SUPPR.count : Fld := { reg := PCNT_SUPPR, lo := 0, w := 32 }
/-- `PCNT_HOLD` (08_prompt_path). -/
def PCNT_HOLD : Reg := { name := "PCNT_HOLD", blk := .die, off := 0x10074, dims := [(16, 0x2000)], width := 32, fields := [
  fd 0 32 .rc 0] }
def PCNT_HOLD.count : Fld := { reg := PCNT_HOLD, lo := 0, w := 32 }
/-- `PCNT_COLLIDE` (08_prompt_path). -/
def PCNT_COLLIDE : Reg := { name := "PCNT_COLLIDE", blk := .die, off := 0x10078, dims := [(16, 0x2000)], width := 32, fields := [
  fd 0 32 .rc 0] }
def PCNT_COLLIDE.count : Fld := { reg := PCNT_COLLIDE, lo := 0, w := 32 }
/-- `PCNT_TAPDROP` (08_prompt_path). -/
def PCNT_TAPDROP : Reg := { name := "PCNT_TAPDROP", blk := .die, off := 0x10080, dims := [(16, 0x2000)], width := 32, fields := [
  fd 0 32 .rc 0] }
def PCNT_TAPDROP.count : Fld := { reg := PCNT_TAPDROP, lo := 0, w := 32 }
/-- `PCNT_HCORR` (08_prompt_path). -/
def PCNT_HCORR : Reg := { name := "PCNT_HCORR", blk := .die, off := 0x10084, dims := [(16, 0x2000)], width := 32, fields := [
  fd 0 32 .rc 0] }
def PCNT_HCORR.count : Fld := { reg := PCNT_HCORR, lo := 0, w := 32 }
/-- `PCNT_CUT` (08_prompt_path). -/
def PCNT_CUT : Reg := { name := "PCNT_CUT", blk := .die, off := 0x1004C, dims := [(16, 0x2000)], width := 32, fields := [
  fd 0 11 .rc 0,
  fd 11 11 .rc 0,
  fd 22 10 .rc 0] }
def PCNT_CUT.short : Fld := { reg := PCNT_CUT, lo := 0, w := 11 }
def PCNT_CUT.overlong : Fld := { reg := PCNT_CUT, lo := 11, w := 11 }
def PCNT_CUT.absent : Fld := { reg := PCNT_CUT, lo := 22, w := 10 }
/-- `PCNT_LINK` (08_prompt_path). -/
def PCNT_LINK : Reg := { name := "PCNT_LINK", blk := .die, off := 0x1007C, dims := [(16, 0x2000)], width := 32, fields := [
  fd 0 16 .rc 0,
  fd 16 16 .rc 0] }
def PCNT_LINK.substituted : Fld := { reg := PCNT_LINK, lo := 0, w := 16 }
def PCNT_LINK.discarded : Fld := { reg := PCNT_LINK, lo := 16, w := 16 }
/-- `T2STAT` (09_bulk_engine). -/
def T2STAT : Reg := { name := "T2STAT", blk := .io, off := 0x0, dims := [(5, 0x800)], width := 32, fields := [
  fd 0 1 .ro 0,
  fd 1 1 .ro 0] }
def T2STAT.present : Fld := { reg := T2STAT, lo := 0, w := 1 }
def T2STAT.ready : Fld := { reg := T2STAT, lo := 1, w := 1 }
/-- `T2ECC` (09_bulk_engine). -/
def T2ECC : Reg := { name := "T2ECC", blk := .io, off := 0x8, dims := [(5, 0x800)], width := 64, fields := [
  fd 0 32 .rc 0,
  fd 32 32 .rc 0] }
def T2ECC.corrected : Fld := { reg := T2ECC, lo := 0, w := 32 }
def T2ECC.uncorrected : Fld := { reg := T2ECC, lo := 32, w := 32 }
/-- `T2ERRADDR` (09_bulk_engine). -/
def T2ERRADDR : Reg := { name := "T2ERRADDR", blk := .io, off := 0x10, dims := [(5, 0x800)], width := 64, fields := [
  fd 0 41 .ro 0,
  fd 41 1 .ro 0,
  fd 63 1 .w1c 0] }
def T2ERRADDR.address : Fld := { reg := T2ERRADDR, lo := 0, w := 41 }
def T2ERRADDR.scrub : Fld := { reg := T2ERRADDR, lo := 41, w := 1 }
def T2ERRADDR.valid : Fld := { reg := T2ERRADDR, lo := 63, w := 1 }
/-- `TRAW` (11_time_and_vilovote). -/
def TRAW : Reg := { name := "TRAW", blk := .hub, off := 0x20008, dims := [], width := 64, fields := [
  fd 0 64 .ro 0] }
def TRAW.value : Fld := { reg := TRAW, lo := 0, w := 64 }
/-- `TREF` (11_time_and_vilovote). -/
def TREF : Reg := { name := "TREF", blk := .hub, off := 0x20010, dims := [], width := 64, fields := [
  fd 0 64 .ro 0] }
def TREF.value : Fld := { reg := TREF, lo := 0, w := 64 }
/-- `TBASE_LO` (11_time_and_vilovote). -/
def TBASE_LO : Reg := { name := "TBASE_LO", blk := .hub, off := 0x20018, dims := [], width := 64, fields := [
  fd 0 64 .ro 0] }
def TBASE_LO.value : Fld := { reg := TBASE_LO, lo := 0, w := 64 }
/-- `TBASE_HI` (11_time_and_vilovote). -/
def TBASE_HI : Reg := { name := "TBASE_HI", blk := .hub, off := 0x20020, dims := [], width := 32, fields := [
  fd 0 32 .ro 0] }
def TBASE_HI.value : Fld := { reg := TBASE_HI, lo := 0, w := 32 }
/-- `TADJ` (11_time_and_vilovote). -/
def TADJ : Reg := { name := "TADJ", blk := .hub, off := 0x20030, dims := [], width := 64, fields := [
  fd 0 64 .wo 0] }
def TADJ.value : Fld := { reg := TADJ, lo := 0, w := 64 }
/-- `TJUMP` (11_time_and_vilovote). -/
def TJUMP : Reg := { name := "TJUMP", blk := .hub, off := 0x20038, dims := [], width := 32, fields := [
  fd 0 32 .rw 1000] }
def TJUMP.value : Fld := { reg := TJUMP, lo := 0, w := 32 }
/-- `TSET_LO` (11_time_and_vilovote). -/
def TSET_LO : Reg := { name := "TSET_LO", blk := .hub, off := 0x20040, dims := [], width := 64, fields := [
  fd 0 64 .wo 0] }
def TSET_LO.value : Fld := { reg := TSET_LO, lo := 0, w := 64 }
/-- `TSET_HI` (11_time_and_vilovote). -/
def TSET_HI : Reg := { name := "TSET_HI", blk := .hub, off := 0x20048, dims := [], width := 32, fields := [
  fd 0 32 .wo 0] }
def TSET_HI.value : Fld := { reg := TSET_HI, lo := 0, w := 32 }
/-- `TSNAP_RAW` (11_time_and_vilovote). -/
def TSNAP_RAW : Reg := { name := "TSNAP_RAW", blk := .hub, off := 0x20050, dims := [], width := 64, fields := [
  fd 0 64 .ro 0] }
def TSNAP_RAW.value : Fld := { reg := TSNAP_RAW, lo := 0, w := 64 }
/-- `TSNAP_LO` (11_time_and_vilovote). -/
def TSNAP_LO : Reg := { name := "TSNAP_LO", blk := .hub, off := 0x20058, dims := [], width := 64, fields := [
  fd 0 64 .ro 0] }
def TSNAP_LO.value : Fld := { reg := TSNAP_LO, lo := 0, w := 64 }
/-- `TSNAP_HI` (11_time_and_vilovote). -/
def TSNAP_HI : Reg := { name := "TSNAP_HI", blk := .hub, off := 0x20060, dims := [], width := 32, fields := [
  fd 0 32 .ro 0] }
def TSNAP_HI.value : Fld := { reg := TSNAP_HI, lo := 0, w := 32 }
/-- `TINC` (11_time_and_vilovote). -/
def TINC : Reg := { name := "TINC", blk := .hub, off := 0x20028, dims := [], width := 64, fields := [
  fd 0 48 .rw 879609302221] }
def TINC.tinc : Fld := { reg := TINC, lo := 0, w := 48 }
/-- `TCNT` (11_time_and_vilovote). -/
def TCNT : Reg := { name := "TCNT", blk := .hub, off := 0x20068, dims := [], width := 32, fields := [
  fd 0 16 .rc 0,
  fd 16 16 .rc 0] }
def TCNT.steps : Fld := { reg := TCNT, lo := 0, w := 16 }
def TCNT.sets : Fld := { reg := TCNT, lo := 16, w := 16 }
/-- `TECFG` (11_time_and_vilovote). -/
def TECFG : Reg := { name := "TECFG", blk := .hub, off := 0x20400, dims := [(16, 0x20)], width := 32, fields := [
  fd 0 1 .rw 0,
  fd 1 1 .rw 0,
  fd 2 1 .rw 0,
  fd 8 24 .rw 0] }
def TECFG.enable : Fld := { reg := TECFG, lo := 0, w := 1 }
def TECFG.mode : Fld := { reg := TECFG, lo := 1, w := 1 }
def TECFG.rel : Fld := { reg := TECFG, lo := 2, w := 1 }
def TECFG.count : Fld := { reg := TECFG, lo := 8, w := 24 }
/-- `TEBASE` (11_time_and_vilovote). -/
def TEBASE : Reg := { name := "TEBASE", blk := .hub, off := 0x20408, dims := [(16, 0x20)], width := 64, fields := [
  fd 0 64 .rw 0] }
def TEBASE.base : Fld := { reg := TEBASE, lo := 0, w := 64 }
/-- `TEPER` (11_time_and_vilovote). -/
def TEPER : Reg := { name := "TEPER", blk := .hub, off := 0x20410, dims := [(16, 0x20)], width := 64, fields := [
  fr 0 48 .rw 20 20 281474976710655] }
def TEPER.period : Fld := { reg := TEPER, lo := 0, w := 48 }
/-- `TEOCC` (11_time_and_vilovote). -/
def TEOCC : Reg := { name := "TEOCC", blk := .hub, off := 0x20418, dims := [(16, 0x20)], width := 64, fields := [
  fd 0 64 .ro 0] }
def TEOCC.occurred : Fld := { reg := TEOCC, lo := 0, w := 64 }
/-- `TIOCFG` (11_time_and_vilovote). -/
def TIOCFG : Reg := { name := "TIOCFG", blk := .hub, off := 0x20800, dims := [(8, 0x20)], width := 32, fields := [
  fr 0 3 .rw 0 0 4,
  fd 3 4 .rw 0,
  fd 7 1 .rw 0,
  fr 8 16 .rw 1 1 65535] }
def TIOCFG.mode : Fld := { reg := TIOCFG, lo := 0, w := 3 }
def TIOCFG.event : Fld := { reg := TIOCFG, lo := 3, w := 4 }
def TIOCFG.invert : Fld := { reg := TIOCFG, lo := 7, w := 1 }
def TIOCFG.width : Fld := { reg := TIOCFG, lo := 8, w := 16 }
/-- `TIOACT` (11_time_and_vilovote). -/
def TIOACT : Reg := { name := "TIOACT", blk := .hub, off := 0x20804, dims := [(8, 0x20)], width := 32, fields := [
  fd 0 16 .rw 0,
  fd 16 4 .rw 0] }
def TIOACT.rules : Fld := { reg := TIOACT, lo := 0, w := 16 }
def TIOACT.rule : Fld := { reg := TIOACT, lo := 16, w := 4 }
/-- `TIOCAP` (11_time_and_vilovote). -/
def TIOCAP : Reg := { name := "TIOCAP", blk := .hub, off := 0x20808, dims := [(8, 0x20)], width := 64, fields := [
  fd 0 63 .rc 0,
  fd 63 1 .rc 0] }
def TIOCAP.instant : Fld := { reg := TIOCAP, lo := 0, w := 63 }
def TIOCAP.valid : Fld := { reg := TIOCAP, lo := 63, w := 1 }
/-- `TIOCNT` (11_time_and_vilovote). -/
def TIOCNT : Reg := { name := "TIOCNT", blk := .hub, off := 0x20810, dims := [(8, 0x20)], width := 32, fields := [
  fd 0 16 .rc 0,
  fd 16 16 .rc 0] }
def TIOCNT.overflow : Fld := { reg := TIOCNT, lo := 0, w := 16 }
def TIOCNT.overlap : Fld := { reg := TIOCNT, lo := 16, w := 16 }
/-- `TXTS_LO` (11_time_and_vilovote). -/
def TXTS_LO : Reg := { name := "TXTS_LO", blk := .die, off := 0x10200, dims := [(16, 0x2000)], width := 64, fields := [
  fd 0 64 .ro 0] }
def TXTS_LO.time : Fld := { reg := TXTS_LO, lo := 0, w := 64 }
/-- `TXTS_HI` (11_time_and_vilovote). -/
def TXTS_HI : Reg := { name := "TXTS_HI", blk := .die, off := 0x10208, dims := [(16, 0x2000)], width := 64, fields := [
  fd 0 32 .rc 0,
  fd 32 8 .rc 0,
  fd 40 1 .rc 0,
  fd 41 1 .rc 0] }
def TXTS_HI.time : Fld := { reg := TXTS_HI, lo := 0, w := 32 }
def TXTS_HI.id : Fld := { reg := TXTS_HI, lo := 32, w := 8 }
def TXTS_HI.nosend : Fld := { reg := TXTS_HI, lo := 40, w := 1 }
def TXTS_HI.valid : Fld := { reg := TXTS_HI, lo := 41, w := 1 }
/-- `TXTSSTAT` (11_time_and_vilovote). -/
def TXTSSTAT : Reg := { name := "TXTSSTAT", blk := .die, off := 0x10210, dims := [(16, 0x2000)], width := 32, fields := [
  fd 0 6 .ro 0,
  fd 6 1 .w1c 0] }
def TXTSSTAT.depth : Fld := { reg := TXTSSTAT, lo := 0, w := 6 }
def TXTSSTAT.overflow : Fld := { reg := TXTSSTAT, lo := 6, w := 1 }
/-- `TXTSDROP` (11_time_and_vilovote). -/
def TXTSDROP : Reg := { name := "TXTSDROP", blk := .die, off := 0x10214, dims := [(16, 0x2000)], width := 32, fields := [
  fd 0 32 .rc 0] }
def TXTSDROP.dropped : Fld := { reg := TXTSDROP, lo := 0, w := 32 }
/-- `T1S_TXTS_LO` (11_time_and_vilovote). -/
def T1S_TXTS_LO : Reg := { name := "T1S_TXTS_LO", blk := .io0, off := 0x8200, dims := [], width := 64, fields := [
  fd 0 64 .ro 0] }
def T1S_TXTS_LO.time : Fld := { reg := T1S_TXTS_LO, lo := 0, w := 64 }
/-- `T1S_TXTS_HI` (11_time_and_vilovote). -/
def T1S_TXTS_HI : Reg := { name := "T1S_TXTS_HI", blk := .io0, off := 0x8208, dims := [], width := 64, fields := [
  fd 0 32 .rc 0,
  fd 32 8 .rc 0,
  fd 40 1 .rc 0,
  fd 41 1 .rc 0] }
def T1S_TXTS_HI.time : Fld := { reg := T1S_TXTS_HI, lo := 0, w := 32 }
def T1S_TXTS_HI.id : Fld := { reg := T1S_TXTS_HI, lo := 32, w := 8 }
def T1S_TXTS_HI.nosend : Fld := { reg := T1S_TXTS_HI, lo := 40, w := 1 }
def T1S_TXTS_HI.valid : Fld := { reg := T1S_TXTS_HI, lo := 41, w := 1 }
/-- `T1S_TXTSSTAT` (11_time_and_vilovote). -/
def T1S_TXTSSTAT : Reg := { name := "T1S_TXTSSTAT", blk := .io0, off := 0x8210, dims := [], width := 32, fields := [
  fd 0 6 .ro 0,
  fd 6 1 .w1c 0] }
def T1S_TXTSSTAT.depth : Fld := { reg := T1S_TXTSSTAT, lo := 0, w := 6 }
def T1S_TXTSSTAT.overflow : Fld := { reg := T1S_TXTSSTAT, lo := 6, w := 1 }
/-- `T1S_TXTSDROP` (11_time_and_vilovote). -/
def T1S_TXTSDROP : Reg := { name := "T1S_TXTSDROP", blk := .io0, off := 0x8214, dims := [], width := 32, fields := [
  fd 0 32 .rc 0] }
def T1S_TXTSDROP.dropped : Fld := { reg := T1S_TXTSDROP, lo := 0, w := 32 }
/-- `VCNT_BAD` (11_time_and_vilovote). -/
def VCNT_BAD : Reg := { name := "VCNT_BAD", blk := .hub, off := 0x30040, dims := [], width := 32, fields := [
  fd 0 32 .rc 0] }
def VCNT_BAD.count : Fld := { reg := VCNT_BAD, lo := 0, w := 32 }
/-- `VCNT_UNKNOWN` (11_time_and_vilovote). -/
def VCNT_UNKNOWN : Reg := { name := "VCNT_UNKNOWN", blk := .hub, off := 0x30044, dims := [], width := 32, fields := [
  fd 0 32 .rc 0] }
def VCNT_UNKNOWN.count : Fld := { reg := VCNT_UNKNOWN, lo := 0, w := 32 }
/-- `VCNT_DISARMED` (11_time_and_vilovote). -/
def VCNT_DISARMED : Reg := { name := "VCNT_DISARMED", blk := .hub, off := 0x30048, dims := [], width := 32, fields := [
  fd 0 32 .rc 0] }
def VCNT_DISARMED.count : Fld := { reg := VCNT_DISARMED, lo := 0, w := 32 }
/-- `VCNT_STATUS_DROP` (11_time_and_vilovote). -/
def VCNT_STATUS_DROP : Reg := { name := "VCNT_STATUS_DROP", blk := .hub, off := 0x3004C, dims := [], width := 32, fields := [
  fd 0 32 .rc 0] }
def VCNT_STATUS_DROP.count : Fld := { reg := VCNT_STATUS_DROP, lo := 0, w := 32 }
/-- `VCNT_QUEUE_DROP` (11_time_and_vilovote). -/
def VCNT_QUEUE_DROP : Reg := { name := "VCNT_QUEUE_DROP", blk := .hub, off := 0x30050, dims := [], width := 32, fields := [
  fd 0 32 .rc 0] }
def VCNT_QUEUE_DROP.count : Fld := { reg := VCNT_QUEUE_DROP, lo := 0, w := 32 }
/-- `VCNT_LATE_ACT` (11_time_and_vilovote). -/
def VCNT_LATE_ACT : Reg := { name := "VCNT_LATE_ACT", blk := .hub, off := 0x30054, dims := [], width := 32, fields := [
  fd 0 32 .rc 0] }
def VCNT_LATE_ACT.count : Fld := { reg := VCNT_LATE_ACT, lo := 0, w := 32 }
/-- `VCNT_LATE_VOTE` (11_time_and_vilovote). -/
def VCNT_LATE_VOTE : Reg := { name := "VCNT_LATE_VOTE", blk := .hub, off := 0x30058, dims := [], width := 32, fields := [
  fd 0 32 .rc 0] }
def VCNT_LATE_VOTE.count : Fld := { reg := VCNT_LATE_VOTE, lo := 0, w := 32 }
/-- `VCNT_ACT_LOST` (11_time_and_vilovote). -/
def VCNT_ACT_LOST : Reg := { name := "VCNT_ACT_LOST", blk := .hub, off := 0x30060, dims := [], width := 32, fields := [
  fd 0 32 .rc 0] }
def VCNT_ACT_LOST.count : Fld := { reg := VCNT_ACT_LOST, lo := 0, w := 32 }
/-- `VCNT_RETRACT` (11_time_and_vilovote). -/
def VCNT_RETRACT : Reg := { name := "VCNT_RETRACT", blk := .hub, off := 0x3005C, dims := [], width := 32, fields := [
  fd 0 16 .rc 0,
  fd 16 16 .rc 0] }
def VCNT_RETRACT.retracted : Fld := { reg := VCNT_RETRACT, lo := 0, w := 16 }
def VCNT_RETRACT.retract_late : Fld := { reg := VCNT_RETRACT, lo := 16, w := 16 }
/-- `ACQDCFG` (12_acquisition). -/
def ACQDCFG : Reg := { name := "ACQDCFG", blk := .hub, off := 0x40100, dims := [(4, 0x40)], width := 64, fields := [
  fd 0 2 .rw 0,
  fd 2 1 .rw 0,
  fd 3 16 .rw 0,
  fd 19 9 .rw 0] }
def ACQDCFG.kind : Fld := { reg := ACQDCFG, lo := 0, w := 2 }
def ACQDCFG.marks : Fld := { reg := ACQDCFG, lo := 2, w := 1 }
def ACQDCFG.mark_budget : Fld := { reg := ACQDCFG, lo := 3, w := 16 }
def ACQDCFG.eport : Fld := { reg := ACQDCFG, lo := 19, w := 9 }
/-- `ACQDBASE` (12_acquisition). -/
def ACQDBASE : Reg := { name := "ACQDBASE", blk := .hub, off := 0x40108, dims := [(4, 0x40)], width := 64, fields := [
  fd 12 52 .rw 0] }
def ACQDBASE.base : Fld := { reg := ACQDBASE, lo := 12, w := 52 }
/-- `ACQDSIZE` (12_acquisition). -/
def ACQDSIZE : Reg := { name := "ACQDSIZE", blk := .hub, off := 0x40110, dims := [(4, 0x40)], width := 32, fields := [
  fd 0 6 .rw 20,
  fd 6 10 .rw 10] }
def ACQDSIZE.size : Fld := { reg := ACQDSIZE, lo := 0, w := 6 }
def ACQDSIZE.tail_period : Fld := { reg := ACQDSIZE, lo := 6, w := 10 }
/-- `ACQDRES` (12_acquisition). -/
def ACQDRES : Reg := { name := "ACQDRES", blk := .hub, off := 0x40114, dims := [(4, 0x40)], width := 32, fields := [
  fd 0 16 .rw 0] }
def ACQDRES.reserve : Fld := { reg := ACQDRES, lo := 0, w := 16 }
/-- `ACQDTAIL` (12_acquisition). -/
def ACQDTAIL : Reg := { name := "ACQDTAIL", blk := .hub, off := 0x40118, dims := [(4, 0x40)], width := 64, fields := [
  fd 6 58 .rw 0] }
def ACQDTAIL.tail : Fld := { reg := ACQDTAIL, lo := 6, w := 58 }
/-- `ACQDETH` (12_acquisition). -/
def ACQDETH : Reg := { name := "ACQDETH", blk := .hub, off := 0x40120, dims := [(4, 0x40)], width := 32, fields := [
  fd 0 14 .rw 1472,
  fd 14 10 .rw 10] }
def ACQDETH.P : Fld := { reg := ACQDETH, lo := 0, w := 14 }
def ACQDETH.flush : Fld := { reg := ACQDETH, lo := 14, w := 10 }
/-- `ACQDSEQ` (12_acquisition). -/
def ACQDSEQ : Reg := { name := "ACQDSEQ", blk := .hub, off := 0x40128, dims := [(4, 0x40)], width := 64, fields := [
  fd 0 64 .ro 0] }
def ACQDSEQ.seq : Fld := { reg := ACQDSEQ, lo := 0, w := 64 }
/-- `ACQDPTR` (12_acquisition). -/
def ACQDPTR : Reg := { name := "ACQDPTR", blk := .hub, off := 0x40130, dims := [(4, 0x40)], width := 64, fields := [
  fd 0 64 .ro 0] }
def ACQDPTR.offset : Fld := { reg := ACQDPTR, lo := 0, w := 64 }
/-- `ACQDCNT` (12_acquisition). -/
def ACQDCNT : Reg := { name := "ACQDCNT", blk := .hub, off := 0x40138, dims := [(4, 0x40)], width := 64, fields := [
  fd 0 32 .rc 0,
  fd 32 32 .rc 0] }
def ACQDCNT.dropped : Fld := { reg := ACQDCNT, lo := 0, w := 32 }
def ACQDCNT.marks_dropped : Fld := { reg := ACQDCNT, lo := 32, w := 32 }
/-- `ACQSCFG` (12_acquisition). -/
def ACQSCFG : Reg := { name := "ACQSCFG", blk := .hub, off := 0x41000, dims := [(16, 0x40)], width := 64, fields := [
  fd 0 1 .rw 0,
  fd 1 1 .rw 0,
  fd 2 1 .rw 0,
  fd 3 1 .rw 0,
  fd 4 1 .rw 0,
  fd 5 2 .rw 0,
  fd 7 4 .rw 0,
  fd 11 4 .rw 0,
  fd 15 2 .rw 0,
  fd 17 11 .rw 0,
  fd 28 4 .rw 1,
  fd 32 14 .rw 0,
  fd 46 10 .rw 0] }
def ACQSCFG.enable : Fld := { reg := ACQSCFG, lo := 0, w := 1 }
def ACQSCFG.kind : Fld := { reg := ACQSCFG, lo := 1, w := 1 }
def ACQSCFG.segment : Fld := { reg := ACQSCFG, lo := 2, w := 1 }
def ACQSCFG.armed_only : Fld := { reg := ACQSCFG, lo := 3, w := 1 }
def ACQSCFG.beats_only : Fld := { reg := ACQSCFG, lo := 4, w := 1 }
def ACQSCFG.dest : Fld := { reg := ACQSCFG, lo := 5, w := 2 }
def ACQSCFG.die : Fld := { reg := ACQSCFG, lo := 7, w := 4 }
def ACQSCFG.block : Fld := { reg := ACQSCFG, lo := 11, w := 4 }
def ACQSCFG.width : Fld := { reg := ACQSCFG, lo := 15, w := 2 }
def ACQSCFG.snap : Fld := { reg := ACQSCFG, lo := 17, w := 11 }
def ACQSCFG.fmt : Fld := { reg := ACQSCFG, lo := 28, w := 4 }
def ACQSCFG.offset : Fld := { reg := ACQSCFG, lo := 32, w := 14 }
def ACQSCFG.n : Fld := { reg := ACQSCFG, lo := 46, w := 10 }
/-- `ACQSWIN` (12_acquisition). -/
def ACQSWIN : Reg := { name := "ACQSWIN", blk := .hub, off := 0x41008, dims := [(16, 0x40)], width := 64, fields := [
  fd 0 24 .rw 0,
  fd 24 16 .rw 0] }
def ACQSWIN.N : Fld := { reg := ACQSWIN, lo := 0, w := 24 }
def ACQSWIN.rules : Fld := { reg := ACQSWIN, lo := 24, w := 16 }
/-- `ACQSTHR` (12_acquisition). -/
def ACQSTHR : Reg := { name := "ACQSTHR", blk := .hub, off := 0x41010, dims := [(16, 0x40)], width := 64, fields := [
  fd 0 64 .rw 0] }
def ACQSTHR.threshold : Fld := { reg := ACQSTHR, lo := 0, w := 64 }
/-- `ACQSSEG` (12_acquisition). -/
def ACQSSEG : Reg := { name := "ACQSSEG", blk := .hub, off := 0x41018, dims := [(16, 0x40)], width := 32, fields := [
  fd 0 10 .rw 0,
  fd 10 16 .rw 0] }
def ACQSSEG.pre : Fld := { reg := ACQSSEG, lo := 0, w := 10 }
def ACQSSEG.post : Fld := { reg := ACQSSEG, lo := 10, w := 16 }
/-- `ACQSSTAT` (12_acquisition). -/
def ACQSSTAT : Reg := { name := "ACQSSTAT", blk := .hub, off := 0x41020, dims := [(16, 0x40)], width := 32, fields := [
  fd 0 1 .ro 0,
  fd 1 1 .w1c 0] }
def ACQSSTAT.running : Fld := { reg := ACQSSTAT, lo := 0, w := 1 }
def ACQSSTAT.width_stop : Fld := { reg := ACQSSTAT, lo := 1, w := 1 }
/-- `ACQSCNT` (12_acquisition). -/
def ACQSCNT : Reg := { name := "ACQSCNT", blk := .hub, off := 0x41028, dims := [(16, 0x40)], width := 64, fields := [
  fd 0 64 .ro 0] }
def ACQSCNT.records : Fld := { reg := ACQSCNT, lo := 0, w := 64 }
/-- `ACQSRATE` (12_acquisition). -/
def ACQSRATE : Reg := { name := "ACQSRATE", blk := .hub, off := 0x41030, dims := [(16, 0x40)], width := 32, fields := [
  fd 0 32 .ro 0] }
def ACQSRATE.rate : Fld := { reg := ACQSRATE, lo := 0, w := 32 }
/-- `ACQSSHORT` (12_acquisition). -/
def ACQSSHORT : Reg := { name := "ACQSSHORT", blk := .hub, off := 0x41034, dims := [(16, 0x40)], width := 32, fields := [
  fd 0 32 .rc 0] }
def ACQSSHORT.short : Fld := { reg := ACQSSHORT, lo := 0, w := 32 }
/-- `ACQTMPL` (12_acquisition). -/
def ACQTMPL : Reg := { name := "ACQTMPL", blk := .hub, off := 0x48000, dims := [(4, 0x80), (11, 0x4)], width := 32, fields := [
  fd 0 32 .rw 0] }
def ACQTMPL.bytes : Fld := { reg := ACQTMPL, lo := 0, w := 32 }
/-- `LPRBSBITS` (13_links_and_ports). -/
def LPRBSBITS : Reg := { name := "LPRBSBITS", blk := .gw, off := 0x8010, dims := [(32, 0x400)], width := 64, fields := [
  fd 0 64 .ro 0] }
def LPRBSBITS.bits : Fld := { reg := LPRBSBITS, lo := 0, w := 64 }
/-- `LPRBSERR` (13_links_and_ports). -/
def LPRBSERR : Reg := { name := "LPRBSERR", blk := .gw, off := 0x8018, dims := [(32, 0x400)], width := 32, fields := [
  fd 0 32 .rc 0] }
def LPRBSERR.errors : Fld := { reg := LPRBSERR, lo := 0, w := 32 }
/-- `LINJCNT` (13_links_and_ports). -/
def LINJCNT : Reg := { name := "LINJCNT", blk := .gw, off := 0x8028, dims := [(32, 0x400)], width := 32, fields := [
  fd 0 32 .rc 0] }
def LINJCNT.made : Fld := { reg := LINJCNT, lo := 0, w := 32 }
/-- `MRQSEQ` (13_links_and_ports). -/
def MRQSEQ : Reg := { name := "MRQSEQ", blk := .die, off := 0x10600, dims := [(16, 0x2000), (16, 0x8)], width := 64, fields := [
  fd 0 48 .ro 0] }
def MRQSEQ.seq : Fld := { reg := MRQSEQ, lo := 0, w := 48 }
/-- `MCNT_RX` (13_links_and_ports). -/
def MCNT_RX : Reg := { name := "MCNT_RX", blk := .die, off := 0x10700, dims := [(16, 0x2000)], width := 64, fields := [
  fd 0 64 .ro 0] }
def MCNT_RX.count : Fld := { reg := MCNT_RX, lo := 0, w := 64 }
/-- `MCNT_TX` (13_links_and_ports). -/
def MCNT_TX : Reg := { name := "MCNT_TX", blk := .die, off := 0x10708, dims := [(16, 0x2000)], width := 64, fields := [
  fd 0 64 .ro 0] }
def MCNT_TX.count : Fld := { reg := MCNT_TX, lo := 0, w := 64 }
/-- `MCNT_FCS` (13_links_and_ports). -/
def MCNT_FCS : Reg := { name := "MCNT_FCS", blk := .die, off := 0x10710, dims := [(16, 0x2000)], width := 32, fields := [
  fd 0 32 .rc 0] }
def MCNT_FCS.count : Fld := { reg := MCNT_FCS, lo := 0, w := 32 }
/-- `MCNT_SIZE` (13_links_and_ports). -/
def MCNT_SIZE : Reg := { name := "MCNT_SIZE", blk := .die, off := 0x10714, dims := [(16, 0x2000)], width := 32, fields := [
  fd 0 32 .rc 0] }
def MCNT_SIZE.count : Fld := { reg := MCNT_SIZE, lo := 0, w := 32 }
/-- `MCNT_FILTERED` (13_links_and_ports). -/
def MCNT_FILTERED : Reg := { name := "MCNT_FILTERED", blk := .die, off := 0x10718, dims := [(16, 0x2000)], width := 32, fields := [
  fd 0 32 .rc 0] }
def MCNT_FILTERED.count : Fld := { reg := MCNT_FILTERED, lo := 0, w := 32 }
/-- `MCNT_NOMEM` (13_links_and_ports). -/
def MCNT_NOMEM : Reg := { name := "MCNT_NOMEM", blk := .die, off := 0x1071C, dims := [(16, 0x2000)], width := 32, fields := [
  fd 0 32 .rc 0] }
def MCNT_NOMEM.count : Fld := { reg := MCNT_NOMEM, lo := 0, w := 32 }
/-- `MCNT_PAUSETX` (13_links_and_ports). -/
def MCNT_PAUSETX : Reg := { name := "MCNT_PAUSETX", blk := .die, off := 0x10720, dims := [(16, 0x2000)], width := 32, fields := [
  fd 0 32 .rc 0] }
def MCNT_PAUSETX.count : Fld := { reg := MCNT_PAUSETX, lo := 0, w := 32 }
/-- `MCNT_PAUSERX` (13_links_and_ports). -/
def MCNT_PAUSERX : Reg := { name := "MCNT_PAUSERX", blk := .die, off := 0x10724, dims := [(16, 0x2000)], width := 32, fields := [
  fd 0 32 .rc 0] }
def MCNT_PAUSERX.count : Fld := { reg := MCNT_PAUSERX, lo := 0, w := 32 }
/-- `MCNT_TXERR` (13_links_and_ports). -/
def MCNT_TXERR : Reg := { name := "MCNT_TXERR", blk := .die, off := 0x10728, dims := [(16, 0x2000)], width := 32, fields := [
  fd 0 32 .rc 0] }
def MCNT_TXERR.count : Fld := { reg := MCNT_TXERR, lo := 0, w := 32 }
/-- `MCNT_RELERR` (13_links_and_ports). -/
def MCNT_RELERR : Reg := { name := "MCNT_RELERR", blk := .die, off := 0x1072C, dims := [(16, 0x2000)], width := 32, fields := [
  fd 0 32 .rc 0] }
def MCNT_RELERR.count : Fld := { reg := MCNT_RELERR, lo := 0, w := 32 }
/-- `MACADDR` (13_links_and_ports). -/
def MACADDR : Reg := { name := "MACADDR", blk := .io, off := 0x4000, dims := [(64, 0x8)], width := 64, fields := [
  fd 0 48 .rw 0] }
def MACADDR.address : Fld := { reg := MACADDR, lo := 0, w := 48 }
/-- `T1SCFG` (13_links_and_ports). -/
def T1SCFG : Reg := { name := "T1SCFG", blk := .io0, off := 0x8000, dims := [], width := 32, fields := [
  fd 0 1 .rw 0,
  fd 1 1 .rw 0,
  fd 2 1 .rw 0] }
def T1SCFG.enable : Fld := { reg := T1SCFG, lo := 0, w := 1 }
def T1SCFG.promisc : Fld := { reg := T1SCFG, lo := 1, w := 1 }
def T1SCFG.mcast : Fld := { reg := T1SCFG, lo := 2, w := 1 }
/-- `T1SADDR` (13_links_and_ports). -/
def T1SADDR : Reg := { name := "T1SADDR", blk := .io0, off := 0x8008, dims := [], width := 64, fields := [
  fd 0 48 .rw 0] }
def T1SADDR.address : Fld := { reg := T1SADDR, lo := 0, w := 48 }
/-- `T1SSTAT` (13_links_and_ports). -/
def T1SSTAT : Reg := { name := "T1SSTAT", blk := .io0, off := 0x8010, dims := [], width := 32, fields := [
  fd 0 1 .ro 0,
  fd 1 1 .ro 0,
  fd 2 1 .w1c 0] }
def T1SSTAT.carrier : Fld := { reg := T1SSTAT, lo := 0, w := 1 }
def T1SSTAT.tx_busy : Fld := { reg := T1SSTAT, lo := 1, w := 1 }
def T1SSTAT.rxq_full : Fld := { reg := T1SSTAT, lo := 2, w := 1 }
/-- `T1SCNT` (13_links_and_ports). -/
def T1SCNT : Reg := { name := "T1SCNT", blk := .io0, off := 0x8018, dims := [], width := 64, fields := [
  fd 0 16 .rc 0,
  fd 16 16 .rc 0,
  fd 32 16 .rc 0,
  fd 48 16 .rc 0] }
def T1SCNT.collisions : Fld := { reg := T1SCNT, lo := 0, w := 16 }
def T1SCNT.excessive : Fld := { reg := T1SCNT, lo := 16, w := 16 }
def T1SCNT.late : Fld := { reg := T1SCNT, lo := 32, w := 16 }
def T1SCNT.fcs : Fld := { reg := T1SCNT, lo := 48, w := 16 }
/-- `OLMWIN` (15_interrupts_and_olm). -/
def OLMWIN : Reg := { name := "OLMWIN", blk := .hub, off := 0x50400, dims := [(256, 0x4)], width := 32, fields := [
  fd 0 32 .ro 0] }
def OLMWIN.bytes : Fld := { reg := OLMWIN, lo := 0, w := 32 }
/-- `MSIXADDR` (13_links_and_ports). -/
def MSIXADDR : Reg := { name := "MSIXADDR", blk := .io0, off := 0xE000, dims := [(64, 0x10)], width := 64, fields := [
  fd 0 64 .rw 0] }
def MSIXADDR.address : Fld := { reg := MSIXADDR, lo := 0, w := 64 }
/-- `MSIXDATA` (13_links_and_ports). -/
def MSIXDATA : Reg := { name := "MSIXDATA", blk := .io0, off := 0xE008, dims := [(64, 0x10)], width := 32, fields := [
  fd 0 32 .rw 0] }
def MSIXDATA.data : Fld := { reg := MSIXDATA, lo := 0, w := 32 }
/-- `MSIXCTL` (13_links_and_ports). -/
def MSIXCTL : Reg := { name := "MSIXCTL", blk := .io0, off := 0xE00C, dims := [(64, 0x10)], width := 32, fields := [
  fd 0 1 .rw 1] }
def MSIXCTL.masked : Fld := { reg := MSIXCTL, lo := 0, w := 1 }
/-- `MSIXPBA` (13_links_and_ports). -/
def MSIXPBA : Reg := { name := "MSIXPBA", blk := .io0, off := 0xF000, dims := [], width := 64, fields := [
  fd 0 64 .ro 0] }
def MSIXPBA.pending : Fld := { reg := MSIXPBA, lo := 0, w := 64 }
/-- Part 0 of the register map. -/
def regMap0 : List Reg := [DIESTAT, PARTCFG, HSMON_CFG, HSMON_LAST, HSMON_CNT, GATEPRES, GEPOCH, GCFG, GDEADLINE, GSCHED_BASE, GSCHED_PERIOD, GSTAT, GSLACK_MIN, GACCEPT, GREJECT, HENCFG, HSTAT, HCNT_ISSUE, HCNT_TOKEN, HCNT_FAULT, HCNT_AGE, CLUSTAT, CLUCFG, SRAMWAIT, SRAMECC, SRAMREPAIR, SCRUBCFG, STEERSTAT, STEERCNT, STEERCFG, HCREDIT_LO, HCREDIT_HI, GALCFG, SLOTTAB, RCNT, ASTAT, AFEED, ASPARE, ABALLAST, ASCRUB]
/-- Part 1 of the register map. -/
def regMap1 : List Reg := [AREPAIR, ACNT_VEC, ACNT_ERR, ACNT_INEXACT, ACNT_SAT, ACNT_NAN, AECC, ACNT_BALLAST, AODESC, ASETDESC, ASETMAP, QSTAT, QCNT, QSNAP, RCFGSTAT, RCFGTIME, PCFG, PSTAT, PTXSEQ, PLINK_BASE, PLINK_CFG, PCREDIT, GTCFG, GTSTAT, GTCNT_RD, GTCNT_WR, GTCNT_ERR, GTQ, BPACE, T1STAT, T1ECC, T1ERRADDR, T1SCRUB, HISTCFG, HISTPTR, HISTSEQ, HISTQ, BARSTAT, BARTIMEOUT, BSTRAG]
/-- Part 2 of the register map. -/
def regMap2 : List Reg := [BSTRAG_T, DETSTAT, PROVSEQ, PROVRSEQ, PROVLAST, PROVBULK, HISTDIG, HISTDCNT, TCFG, TSTAT, TPTP, VCFG, VSTAT, VTIME, VFIRE, VHOP0, VHOP1, VARM, VVOTE, VVMASK, VACT, VNODE, ACQCTL, ACQSTAT, ACQRATE, GWSTAT, GWLASER, LCFG, LSTAT, LOPT, LINJ, MCFG, MWM, MFILT, MRQ, MTQ, MOCC, MACPAUSE, HOSTSTAT, HOSTCNT]
/-- Part 3 of the register map. -/
def regMap3 : List Reg := [CWSTATE, CWCOMP, CWCNT, SECSTAT, SECPOLICY, SECFW, SECCNT, SECSESS, SECKEY, IPEND, IACTIVE, IMASK_HUB, IMASK_HOST, IHOLD, ICLAIM, ICOMPLETE, ISTRAY, ITGT, OLMSTAT, OLMSEL, OLMHEAD, OLMTAIL, OLMCLOCK, OLMRATE, OLMSUPP, OLMOVR, PWRSTAT, PWRIN, PWRCAP, PWRSLOPE, PWRTHERM, PWRDIE, PWRDCNT, FLTSTAT, FLTREP_LO, FLTREP_HI, FLTDIE, FLTCNT, FLTCMAP, TPSEL]
/-- Part 4 of the register map. -/
def regMap4 : List Reg := [BOOTSTAT, RSTCAUSE, SSCCFG, GCNT_RELEASED, GCNT_LATE, GCNT_FAULT, GCNT_MASKED, GCNT_DISCARD, GCNT_OVERRUN, QDESC0, QDESC1, QDESC2, QDESC3, QDESC4, QDESC5, QDESC6, QDESC7, VRULE0, VRULE1, VRULE2, QSSE, QSCOUNT, QSMAXERR, QSSAT, QSDEGEN, QSNAN, QSTENSOR, QSSEED, QSMIN, QSMAX, PCNT_FRAMES, PCNT_VFAIL, PCNT_HBLK, PCNT_NOCRED, PCNT_REPLY, PCNT_PROV, PCNT_STOMP, PCNT_CANCEL, PCNT_CDROP, PCNT_SUPPR]
/-- Part 5 of the register map. -/
def regMap5 : List Reg := [PCNT_HOLD, PCNT_COLLIDE, PCNT_TAPDROP, PCNT_HCORR, PCNT_CUT, PCNT_LINK, T2STAT, T2ECC, T2ERRADDR, TRAW, TREF, TBASE_LO, TBASE_HI, TADJ, TJUMP, TSET_LO, TSET_HI, TSNAP_RAW, TSNAP_LO, TSNAP_HI, TINC, TCNT, TECFG, TEBASE, TEPER, TEOCC, TIOCFG, TIOACT, TIOCAP, TIOCNT, TXTS_LO, TXTS_HI, TXTSSTAT, TXTSDROP, T1S_TXTS_LO, T1S_TXTS_HI, T1S_TXTSSTAT, T1S_TXTSDROP, VCNT_BAD, VCNT_UNKNOWN]
/-- Part 6 of the register map. -/
def regMap6 : List Reg := [VCNT_DISARMED, VCNT_STATUS_DROP, VCNT_QUEUE_DROP, VCNT_LATE_ACT, VCNT_LATE_VOTE, VCNT_ACT_LOST, VCNT_RETRACT, ACQDCFG, ACQDBASE, ACQDSIZE, ACQDRES, ACQDTAIL, ACQDETH, ACQDSEQ, ACQDPTR, ACQDCNT, ACQSCFG, ACQSWIN, ACQSTHR, ACQSSEG, ACQSSTAT, ACQSCNT, ACQSRATE, ACQSSHORT, ACQTMPL, LPRBSBITS, LPRBSERR, LINJCNT, MRQSEQ, MCNT_RX, MCNT_TX, MCNT_FCS, MCNT_SIZE, MCNT_FILTERED, MCNT_NOMEM, MCNT_PAUSETX, MCNT_PAUSERX, MCNT_TXERR, MCNT_RELERR, MACADDR]
/-- Part 7 of the register map. -/
def regMap7 : List Reg := [T1SCFG, T1SADDR, T1SSTAT, T1SCNT, OLMWIN, MSIXADDR, MSIXDATA, MSIXCTL, MSIXPBA]
/-- Every register family of the module. -/
def regMap : List Reg := regMap0 ++ regMap1 ++ regMap2 ++ regMap3 ++ regMap4 ++ regMap5 ++ regMap6 ++ regMap7
end Sys2Proof.Machine
end

