-- ==== Sys2Proof/Machine/RegFile.lean ====
section
/-!
DEFINITION. The register file: one sparse table of 64-bit values by BAR0 address, whose unlisted entries read as the
reset value the register's table gives (R6, R21, R22).
-/
namespace Sys2Proof.Machine

/-- The register file. A register of 32 bits uses the low half of its entry. -/
abbrev RegFile := Sparse W64

/-- Offset of instance 0 of a block (R21); BAR2 windows are numbered above BAR0 so that one table holds both. -/
def Blk.base : Blk → Nat
  | .die => 0x01000000
  | .hub => 0
  | .gw => 0x02000000
  | .io => 0x02100000
  | .io0 => 0x02100000
  | .win => 0x100000000

/-- Instances of a block and their stride (R21). -/
def Blk.dims : Blk → List (Nat × Nat)
  | .die => [(16, 0x100000)]
  | .hub => []
  | .gw => [(8, 0x10000)]
  | .io => [(4, 0x10000)]
  | .io0 => []
  | .win => [(16, 0x10000)]

/-- All instance dimensions of a register family, the block's first. -/
def Reg.allDims (r : Reg) : List (Nat × Nat) := r.blk.dims ++ r.dims

/-- Sum of instance number times stride. -/
def dimOffset : List (Nat × Nat) → List Nat → Nat
  | (_, st) :: ds, i :: is => i * st + dimOffset ds is
  | _, _ => 0

/-- The address of instance `idx` of a register family. -/
def Reg.addr (r : Reg) (idx : List Nat) : Nat := r.blk.base + r.off + dimOffset r.allDims idx

/-- The instance numbers that an offset names, and what is left below the last stride; none beyond a count. -/
def dimSplit : List (Nat × Nat) → Nat → Option (List Nat × Nat)
  | [], rem => some ([], rem)
  | (c, st) :: ds, rem =>
    if rem / st < c then
      match dimSplit ds (rem % st) with
      | some (is, r) => some (rem / st :: is, r)
      | none => none
    else none

/-- The instance of the family whose bytes hold address `a`, and the byte within it. -/
def Reg.hit (r : Reg) (a : Nat) : Option (List Nat × Nat) :=
  if a < r.blk.base + r.off then none
  else
    match dimSplit r.allDims (a - (r.blk.base + r.off)) with
    | some (is, rem) => if rem < r.width / 8 then some (is, rem) else none
    | none => none

/-- The first family that holds address `a`. -/
def findRegIn : List Reg → Nat → Option (Reg × List Nat × Nat)
  | [], _ => none
  | r :: rs, a =>
    match r.hit a with
    | some (is, rem) => some (r, is, rem)
    | none => findRegIn rs a

/-- The register that holds BAR0 address `a`, its instance numbers and the byte within it (R21, R22). -/
def findReg (a : Nat) : Option (Reg × List Nat × Nat) := findRegIn regMap a

/-- The reset value of one field of instance `idx`. -/
def Rst.value (idx : List Nat) : Rst → Nat
  | .val n => n
  | .idx d => idx.getD d 0
  | .word4 j => 4 * idx.getLastD 0 + j

/-- The reset value of a whole register. -/
def resetOf (idx : List Nat) : List FDesc → Nat
  | [] => 0
  | f :: fs => f.rst.value idx % 2 ^ f.w * 2 ^ f.lo + resetOf idx fs

/-- The reset value of instance `idx` of a family. -/
def Reg.reset (r : Reg) (idx : List Nat) : W64 := BitVec.ofNat 64 (resetOf idx r.fields)

/-- The whole value of a register. -/
def RegFile.raw (f : RegFile) (r : Reg) (idx : List Nat) : W64 := Sparse.get (r.reset idx) f (r.addr idx)

/-- Replaces the whole value of a register; the reset value takes no entry. -/
def RegFile.setRaw (f : RegFile) (r : Reg) (idx : List Nat) (v : W64) : RegFile :=
  Sparse.set (r.reset idx) f (r.addr idx) v

/-- The value of a field. -/
def RegFile.rd (f : RegFile) (x : Fld) (idx : List Nat) : Nat := bitsOf (f.raw x.reg idx).toNat x.lo x.w

/-- Sets a field. -/
def RegFile.wr (f : RegFile) (x : Fld) (idx : List Nat) (v : Nat) : RegFile :=
  f.setRaw x.reg idx (BitVec.ofNat 64 (setBits (f.raw x.reg idx).toNat x.lo x.w v))

/-- Adds to a counter field that saturates at all ones. -/
def RegFile.add (f : RegFile) (x : Fld) (idx : List Nat) (n : Nat) : RegFile :=
  f.wr x idx (min (f.rd x idx + n) (2 ^ x.w - 1))

/-- Adds to a counter field that wraps. -/
def RegFile.addWrap (f : RegFile) (x : Fld) (idx : List Nat) (n : Nat) : RegFile :=
  f.wr x idx (f.rd x idx + n)

end Sys2Proof.Machine
end

