-- ==== Sys2Proof/Machine/StateA.lean ====
section
/-!
DEFINITION. State of the part itself, the gates, the hens, the clusters and the gallery (chapters 1 to 4). Plain data only.
-/
namespace Sys2Proof.Machine

/-- The fuses of the part (R3, R29, R30): what is present, and the words of IDENT. -/
structure Part where
  ordering : Nat := 0
  stepping : Nat := 1
  identityCode : Nat := 1
  serial : Nat := 0
  /-- compute dies present, bit n -/
  dies : Nat := 0xFFFF
  /-- glowworms present, bit e -/
  glow : Nat := 0xFF
  /-- DRAM dies present, bit 2n + b -/
  dram : Nat := 0xFFFFFFFF
  /-- LPDDR6 packages present, bit p -/
  lpddr : Nat := 0xFFFFF
  tier2 : Bool := true
  train : Bool := true
  acq : Bool := true
  ethMac : Bool := true
  t1s : Bool := true
  triplex : Bool := true
  ox : Bool := true
  /-- MAC addresses by fuse: of the bulk ports, by 16 times the compute die plus the port block (0 where the list ends), and of the
  10BASE-T1S port -/
  macs : List Nat := []
  t1sMac : Nat := 0
  /-- firmware rollback counter held in fuses (R348) -/
  rollback : Nat := 0
deriving DecidableEq, Repr

/-- The straps as sampled (R387). -/
structure Straps where
  boot : Nat := 0
  node : Nat := 0
  split : Nat := 0
  timeRole : Bool := false
  hostX8 : Bool := false
  t1s : Bool := false
  strict : Bool := false
deriving DecidableEq, Repr

/-- One output token held by a gate entry: the flit and the instant it completed, in ps (R45, R48). -/
structure GateTok where
  flit : Flit
  at_ : Nat
deriving DecidableEq, Repr

/-- One beat entry of a gate (R45): its beat, its anchor and its firing time in ps, its tokens in arrival order. -/
structure GateEntry where
  beat : W16
  anchor : Nat
  fire : Nat
  toks : List GateTok := []
deriving DecidableEq, Repr

/-- What a gate holds beside its registers. -/
structure Gate where
  entries : List GateEntry := []
  /-- last output released with neither LATE nor FAULT since the enable, by token position (R50) -/
  lastGood : List W64 := []
  /-- next beat number of a running schedule (R47) -/
  schedNext : Option Nat := none
  /-- instant the gate was enabled, ps -/
  enabledAt : Nat := 0
  /-- the gate's own current epoch (R45, R176) -/
  epoch : Nat := 0
deriving DecidableEq, Repr

/-- A value a gate has released and its consumer has not yet taken (R48, R205, R210). -/
structure Release where
  die : Nat
  gate : Nat
  beat : W16
  anchor : Nat
  fire : Nat
  values : List W64
  status : BitVec 4
deriving DecidableEq, Repr

/-- What a context waits for (R60, R63, R64). -/
inductive Wait where
  /-- bound, not yet fired -/
  | operands
  /-- ready to issue its next instruction -/
  | ready
  /-- its load or store waits at a bank -/
  | mem
  /-- a SEND waits for a credit of `route`; the token as issued -/
  | send (route : Nat) (tok : Token)
  /-- QWAIT for `n` entries of queue `q` -/
  | qwait (q n : Nat)
  /-- QTAKE into `rd` -/
  | qtake (q rd : Nat) (last : Bool)
  /-- QPUT of `v` -/
  | qput (q : Nat) (v : W64) (last : Bool)
  /-- TWAIT until instant `ps` (R77), or for occurrence `ps` of time event `ev` when `ev` is given -/
  | time (ps : Nat) (ev : Option Nat)
deriving DecidableEq, Repr

/-- One operand a context has received, with what R60 needs of its token. -/
structure Opnd where
  k : Nat
  data : W64
  status : BitVec 4
  beat : W16
  copy : Nat
  /-- it came on a back edge of a cycle (R176) -/
  back : Bool := false
  /-- and state on that edge survives a switch (R176) -/
  carry : Bool := false
deriving DecidableEq, Repr

/-- A bound context (R55). -/
structure Ctx where
  entry : Nat
  tag : W16
  epoch : Nat
  need : Nat
  ops : List Opnd := []
  fired : Bool := false
  regs : Sparse W64 := []
  status : BitVec 4 := 0
  beat : W16 := 0
  copy : Nat := 0
  pc : Nat := 0
  /-- named time of the last TWAIT (R77, R78) -/
  twait : W64 := 0
  wait : Wait := .operands
  /-- instant of binding, ps (R80) -/
  bound : Nat := 0
  /-- queues this context has passed on with last = 1 (R76) -/
  passed : List Nat := []
  /-- QTAKEs that a QWAIT has cleared to complete without waiting, by queue (R76) -/
  cleared : Sparse Nat := []
deriving DecidableEq, Repr

/-- A physical hen (R55). -/
structure Hen where
  imem : Sparse W32 := []
  consts : Sparse W64 := []
  /-- IMEM words (0 to 1,023) and constants (1,024 + i) whose error is uncorrectable (R55) -/
  badWords : List Nat := []
  /-- bound contexts by number -/
  ctxs : Sparse Ctx := []
  /-- base tag of each entry -/
  base : Sparse W16 := []
  /-- done mask of each entry -/
  done : Sparse W32 := []
  /-- contexts waiting for a credit, in the order their SENDs issued (R64) -/
  sendQ : List Nat := []
deriving DecidableEq, Repr

/-- What an access does (R72, R87): a wide access moves 128 bytes and occupies a half stripe. -/
inductive AccOp where
  | load (size rd : Nat)
  | store (size : Nat) (v : W64)
  | wideRead
  | wideWrite (words : List W64)
deriving DecidableEq, Repr

/-- One bank access waiting or in service (R86). -/
structure Access where
  who : Requester
  /-- first byte address -/
  addr : Nat
  op : AccOp
  /-- arrival instant, ps -/
  arrived : Nat
deriving DecidableEq, Repr

/-- What a steering slot holds (R89, R90). -/
inductive SlotKind where
  /-- a direct token for logical hen `h`, held as ahead -/
  | ahead (h : Nat)
  /-- a direct token held because its hen is being substituted (R100) -/
  | subst (h : Nat)
  /-- a data token waiting for its control token -/
  | data
  /-- a control token with the mask bits still to be matched; `active` false while another of the key is held -/
  | control (mask : Nat) (active : Bool)
deriving DecidableEq, Repr

/-- One steering slot, with the instant it was taken, ps. -/
structure Slot where
  flit : Flit
  kind : SlotKind
  taken : Nat
deriving DecidableEq, Repr

/-- A physical cluster beside its registers. -/
structure Cluster where
  /-- SRAM by 8-byte word number, 0 to 524,287 (R85) -/
  sram : Sparse W64 := []
  /-- accesses at the banks, in arrival order -/
  bankQ : List Access := []
  /-- repair list, up to 16 word numbers (R88) -/
  repair : List Nat := []
  slots : List Slot := []
  /-- logical hen whose substitution runs (R100) -/
  henSubst : Option Nat := none
  /-- failed spare hen (R103) -/
  spareHenFailed : Bool := false
  /-- the cluster has been substituted since the last drained reconfiguration (R102) -/
  substituted : Bool := false
  /-- epoch of each steering channel, where a marker has changed it (R175) -/
  chanEpoch : Sparse Nat := []
deriving DecidableEq, Repr

/-- A token in a router hold register (R97). -/
structure Hold where
  input : Nat
  flit : Flit
  /-- output chosen (0 N, 1 E, 2 S, 3 W, 4 the bridge, 6 a stopped C port, R101); none while an adaptive bulk token has not left -/
  output : Option Nat
deriving DecidableEq, Repr

/-- A mesh router (R83, R95 to R97). -/
structure Router where
  holds : List Hold := []
  /-- slot position of each framed output -/
  pos : Sparse Nat := []
  /-- hop credits taken of the two bulk hold registers each output leads to -/
  hopUsed : Sparse Nat := []
deriving DecidableEq, Repr

end Sys2Proof.Machine
end

