-- ==== Sys2Proof/Machine/StateB.lean ====
section
/-!
DEFINITION. State of the interrupt controller, the olm, the power manager and the fault block (chapters 15 and 16). Plain data only.
-/
namespace Sys2Proof.Machine

/-- The interrupt controller beside its registers: who claimed each active source, and when each group's timer ends (R356, R357). -/
structure Irq where
  /-- claiming target of each active source, plus one -/
  claimedBy : Sparse Nat := []
  /-- end of the hold-off of each group, ps; 0 not running -/
  holdUntil : Sparse Nat := []
deriving DecidableEq, Repr

/-- One olm record (R360): number, code, clock and body. -/
structure OlmRec where
  seq : Nat
  code : Nat
  hours : Nat
  cycles : Nat
  body : List Byte
deriving DecidableEq, Repr

/-- The token bucket of one record code (R362). -/
structure Bucket where
  level : Nat
  /-- instant up to which the level has been brought, ps -/
  since : Nat
  /-- records suppressed since the last SUPPRESSED record, and the hours of the first and the last -/
  count : Nat := 0
  first : Nat := 0
  last : Nat := 0
deriving DecidableEq, Repr

/-- The olm: its records in order, its buckets, and the clock reading at instant 0 (R360 to R362). -/
structure Olm where
  /-- records of the birth area (0 to 4,095), oldest first -/
  birth : List OlmRec := []
  /-- records of the circulating area, oldest first -/
  circ : List OlmRec := []
  buckets : Sparse (Option Bucket) := []
  /-- operating time up to instant 0 of this reset, ps -/
  before : Nat := 0
  cycles : Nat := 0
deriving DecidableEq, Repr

/-- A failure report in the FLT queue (R381). -/
structure FltRep where
  whenRaw : Nat
  cls : Nat
  die : Nat
  kind : Nat
  outcome : Nat
  unit : Nat
deriving DecidableEq, Repr

/-- An event reported to the FLT block that marks no unit failed (R74, R80, R91, R97, R88): class, die, unit, cause. -/
structure FltNote where
  cls : Nat
  die : Nat
  unit : Nat
  /-- 1 fault path, 2 illegal path, 3 age drop, 4 aged token, 5 prompt drop, 6 uncorrectable word, 7 no credit,
  8 range fault, 9 queue overrun, 10 excess start, 11 other, 12 transmit descriptor (R318), 13 uncorrectable word of a tier (R226) -/
  cause : Nat
  bulk : Bool
deriving DecidableEq, Repr

/-- A fault inside an array whose substitution runs (R125): part 0 a multiplier cell, 1 a row input driver, 2 a column chain; its
physical row and column. -/
structure ArrFault where
  die : Nat
  arr : Nat
  part_ : Nat
  row : Nat
  col : Nat
deriving DecidableEq, Repr

/-- The fault block beside its registers. -/
structure Flt where
  queue : List FltRep := []
  /-- reports that mark no unit failed, oldest first; in bulk they are what ends a job (R226) -/
  notes : List FltNote := []
  /-- hens whose substitution runs -/
  hensFailing : List HenRef := []
  /-- clusters whose substitution runs: die and physical cluster -/
  clusFailing : List (Nat × Nat) := []
  /-- dies whose spare cluster has itself failed (R103) -/
  spareCluFailed : List Nat := []
  arrsFailing : List ArrFault := []
  /-- dies to be marked failed, with the kind of the fault (R377), and dies whose redundant rail phase is in use (R376) -/
  dying : List (Nat × Nat) := []
  phases : List Nat := []
  /-- units lost without a spare: class, die, unit (R378) -/
  lost : List (Nat × Nat × Nat) := []
  /-- dies whose image store is lost (R378) -/
  storeLost : List Nat := []
  /-- hub dies retired, 0 and 1 -/
  retired : List Nat := []
  /-- the time-base oscillator has failed -/
  oscFailed : Bool := false
  /-- dies whose prompt job stopped for want of a standby (R377) -/
  stopped : List Nat := []
deriving DecidableEq, Repr

/-- A change of step waiting at a die (R371): new voltage step, new pacer step. -/
structure StepHold where
  step : Option Nat := none
  pacer : Option Nat := none
deriving DecidableEq, Repr

/-- The power manager beside its registers. -/
structure Pwr where
  /-- samples of input power, W, newest first, one each 10 us (R366) -/
  samples : List Nat := []
  /-- end of the running slope interval, ps (R368): the first one's length is the reset value of `PWRSLOPE.interval` -/
  slopeNext : Nat := 2000000
  /-- step of each die before the alert, plus one (R373) -/
  before : Sparse Nat := []
  /-- dies that are rising back after an alert (R373) -/
  rising : List Nat := []
  /-- instant both alerts were deasserted, while the hold runs (R373) -/
  holdFrom : Option Nat := none
  /-- dies under their own thermal alert (R374), and the instant each one's hold began -/
  thermDies : List Nat := []
  thermHold : Sparse Nat := []
  /-- instant each die's droop flag set, plus one -/
  droopAt : Sparse Nat := []
  /-- instant each die came back in band, plus one (R371) -/
  bandAt : Sparse Nat := []
  /-- changes waiting at each die (R371) -/
  holds : Sparse StepHold := []
  /-- DRAM dies above 85 degrees, by 2n + b (R217) -/
  hot : List Nat := []
  /-- reference Ra of each array (R369) -/
  ra : Sparse Nat := []
  /-- real vectors of the running window of 16 intervals, of each array -/
  winVec : Sparse Nat := []
  /-- greatest count of any window since the last slope interval, of each array -/
  winMax : Sparse Nat := []
deriving DecidableEq, Repr

end Sys2Proof.Machine
end

