-- ==== Sys2Proof/Machine/StateOut.lean ====
section
/-!
DEFINITION. What the module puts out: the model's own record of everything an observer outside the modelled units sees.
-/
namespace Sys2Proof.Machine

/-- One output event. -/
inductive Out where
  /-- value returned by a register read: address, width in bits, value (R7) -/
  | readValue (addr width value : Nat)
  /-- value returned by a host CXL.mem read; `none` is poison (R23) -/
  | memValue (addr : Nat) (value : Option (List Byte))
  /-- token sent in slot position `pos` on framed output `o` of router `r` of die `n`; the empty token where none was ready (R95) -/
  | slot (n r o pos : Nat) (f : Flit)
  /-- frame sent by port block `i` of die `n`, whole, and whether its check was complemented (R205, R206) -/
  | frame (n i : Nat) (bytes : List Byte) (stomped : Bool)
  /-- a gate's release to the hub trigger unit (R210, R283) -/
  | trigger (n g : Nat) (beat : W16) (values : List W64) (status : BitVec 4)
  /-- interrupt line of hub core `t` (R356) -/
  | coreLine (t : Nat)
  /-- MSI-X message of vector `v` (R323, R356) -/
  | msix (v : Nat)
  /-- ring frame sent on ring lane 0 or 1 (R273, R276) -/
  | ring (lane : Nat) (bytes : List Byte)
  /-- level of time pin `p` (R272) -/
  | timePin (p : Nat) (level : Bool)
  /-- bytes written into host memory or the device ring at an address (R298, R333) -/
  | hostWrite (addr : Nat) (bytes : List Byte)
  /-- datagram or Ethernet frame sent on port block `i` of die `n` (R298, R318) -/
  | ethernet (n i : Nat) (bytes : List Byte)
  /-- pause frame sent by port block `i` of die `n`: PAUSE with its quanta, or per-priority pause with those of each priority that
  changed (R316) -/
  | pause (n i : Nat) (plain : Bool) (quanta : List (Nat × Nat))
  /-- frame sent on the 10BASE-T1S segment (R320) -/
  | t1s (bytes : List Byte)
  /-- jam on the 10BASE-T1S segment (R319) -/
  | t1sJam
  /-- PTP message sent on a port of `TPTP` (R268) -/
  | ptp (port : Nat) (m : PtpMsg)
  /-- a slow output pin: 0 MOD_READY, 1 MOD_FAULT_N; its level (R390) -/
  | slowPin (p : Nat) (level : Bool)
  /-- reply written to command window `w` (R331) -/
  | reply (w : Nat) (bytes : List Byte)
  /-- completion entry `n` written to the ring of command window `w` (R332) -/
  | entry (w n : Nat) (bytes : List Byte)
  /-- ballast slot into the discard sink of array `a` (R124) -/
  | ballast (n a : Nat)
  /-- RESET_N holds every transmit lane dark and every output pin but MOD_FAULT_N in high impedance (R389) -/
  | dark
  /-- HIGHZ: slow output pin `p` in high impedance (R395) -/
  | highZ (p : Nat)
  /-- bits on TDO, first first (R395) -/
  | tdo (bits : List Bool)
  /-- error injected on a lane: bits flipped, or a symbol replaced (R311) -/
  | inject (e k kind burst : Nat)
deriving DecidableEq, Repr

end Sys2Proof.Machine
end

