-- ==== Sys2Proof/Machine/StateC.lean ====
section
/-!
DEFINITION. State of loaded images, their jobs and their reconfiguration, and of the ox pairs (chapter 7). Plain data only.
-/
namespace Sys2Proof.Machine

/-- One producer-consumer edge of a loaded image, with the unit it ends at (R92, R163, R175). -/
structure EdgeInfo where
  src : Edge
  dst : UnitId
  /-- hen entry or unit input it names -/
  input : Nat := 0
  prompt : Bool := true
  /-- it is the back edge of a cycle, and whether state on it survives (R163, R176) -/
  back : Bool := false
  carry : Bool := false
deriving DecidableEq, Repr

/-- One cycle of a loaded image (R163): its back edge and its seed tokens. -/
structure CycleInfo where
  edges : List Edge
  backEdge : Edge
  carry : Bool
  /-- a hen or cluster on the cycle, by physical place -/
  units : List UnitId
  seeds : List Token
deriving DecidableEq, Repr

/-- An allocated region (R167): id, tier, base address and size. -/
structure Region where
  id : Nat
  tier : Nat
  base : Nat
  size : Nat
deriving DecidableEq, Repr

/-- A write an update image makes (R174): to a register, or to bytes of a space of R161, by physical die and logical index. -/
inductive ImgWrite where
  | reg (addr : Nat) (v : W32)
  | mem (die space idx off : Nat) (bytes : List Byte)
deriving DecidableEq, Repr

/-- Held writes of an update or install for one unit (R174, R178). -/
structure HeldWrite where
  unit : UnitId
  writes : List ImgWrite
deriving DecidableEq, Repr

/-- A prepared or running reconfiguration of a die (R174 to R180). -/
structure Reconf where
  target : Nat
  /-- switch time T, ps, and the drain limit, ps -/
  tPs : Nat
  limitPs : Nat
  held : List HeldWrite := []
  /-- units that have switched, and held units not yet released -/
  switched : List UnitId := []
  holding : List UnitId := []
  /-- markers that have come in, by the unit and the edge -/
  arrived : List (UnitId × Edge) := []
  /-- 0 update, 1 install, 2 freeze, 3 thaw -/
  cause : Nat := 0
deriving DecidableEq, Repr

/-- A drained switch of a job over its dies (R174 to R178, R238, R251, R253): epochs, switch time in ps, cause as in `Reconf`, the
number of the operation that ends with it plus one, store sets newly mapped (die, array, set), the update image applied, whether it
was forced. -/
structure SwitchRec where
  job : Nat
  dies : List Nat
  old : Nat
  target : Nat
  tPs : Nat
  cause : Nat
  cmd : Nat := 0
  sets : List (Nat × Nat × Nat) := []
  image : List Byte := []
  forced : Bool := false
  /-- what an update makes of the graph: edges by die, and credits by edge before and after -/
  edges : List (Nat × List EdgeInfo) := []
  credits : List (Edge × Nat × Nat) := []
deriving DecidableEq, Repr

/-- One entry of the image store of a die (R167): what a substitution writes again. -/
structure ImageStore where
  imem : Sparse (Sparse W32) := []
  consts : Sparse (Sparse W64) := []
  /-- CLU register words the image writes, by logical cluster: (offset in the sub-block, word) -/
  cluRegs : Sparse (List (Nat × W32)) := []
  /-- load-time SRAM of prompt clusters, by logical cluster -/
  sram : Sparse (Sparse W64) := []
deriving DecidableEq, Repr

/-- What is loaded on a compute die. -/
structure Die where
  /-- logical die of the image, plus one; 0 no image -/
  logical : Nat := 0
  job : Nat := 0
  /-- START_TICK as an instant, ps (R47, R170) -/
  startPs : Nat := 0
  edges : List EdgeInfo := []
  cycles : List CycleInfo := []
  /-- hen entries each steering channel can deliver to (STEER records), by logical numbers: key cluster * 16 + channel, value (hen, entry) -/
  steer : Sparse (List (Nat × Nat)) := []
  regions : List Region := []
  store : ImageStore := {}
  /-- standby physical die of this die, plus one; and this die is a muted standby (R173) -/
  standby : Nat := 0
  muted : Bool := false
  reconf : Option Reconf := none
  /-- edges of this die's producers on which a marker is out and its credit not back, and edges whose marker waits for a
  credit (R175) -/
  markOut : List Edge := []
  markWant : List Edge := []
  /-- end of the time the retired epoch is held back, ps; 0 until the next load (R180) -/
  holdUntil : Nat := 0
  /-- epoch of the die's bulk partition (R174) -/
  bulkEpoch : Nat := 0
  /-- base of the history ring, if a region is one (R169, R227) -/
  history : Nat := 0
deriving DecidableEq, Repr

/-- What the digests need of the running stream and job (R256 to R259). -/
structure Prov where
  /-- count n of the open prompt epoch, and the digest of the epoch before -/
  epoch : Nat := 0
  last : List Byte := List.replicate 32 0
  /-- bulk results issued, and the digest of the last -/
  results : Nat := 0
  lastBulk : List Byte := List.replicate 32 0
  /-- input digest declared by `INPUTS`, with its job -/
  inputs : Option (Nat × List Byte) := none
  /-- entropy seeds drawn: die, cluster, stream, draw, seed -/
  seeds : List (Nat × Nat × Nat × Nat × W64) := []
  /-- digest of the last image applied -/
  image : List Byte := List.replicate 32 0
  graph : List Byte := List.replicate 32 0
  fitted : Bool := false
  /-- checkpoints written of the job -/
  ckpts : Nat := 0
deriving DecidableEq, Repr

/-- A loaded job of this module (R157, R170). -/
structure Job where
  id : Nat
  dies : List Nat
  /-- physical die of each logical die (R166) -/
  map : List Nat := []
  digest : List Byte := []
  modules : Nat := 1
  rank : Nat := 0
  seed : Nat := 0
  fitted : Bool := false
  startPs : Nat := 0
  stretch : Nat := 0
  /-- domain start time T0 (R169), the graph digest's low 64 bits, the identity code and `identity_any` (R260); the go frame
  has come, or none is needed -/
  t0 : Nat := 0
  graph : W64 := 0
  identity : Nat := 0
  anyId : Bool := false
  go : Bool := true
  /-- window and tag the job's events go to (R333) -/
  window : Nat := 0
  tag : Nat := 0
  session : Nat := 0
  /-- the image as loaded and the updates applied since, in order, each as relocated and patched (R174) -/
  images : List (List Byte) := []
  /-- it holds a bulk job, not yet ended -/
  bulk : Bool := false
  prov : Prov := {}
  /-- STRICT was 1 when it started (R246) -/
  strict : Bool := false
  /-- of a resumed job: the barrier held until START_TICK, and each quantiser stream's element index and chunk count (R236), by die,
  physical cluster and stream -/
  resume : Option Nat := none
  streams : List (Nat × Nat × Nat × Nat × Nat) := []
deriving DecidableEq, Repr

/-- An ox pair (R181, R182). -/
structure Ox where
  prompt : Bool := false
  code : List Byte := []
  data : List Byte := []
  /-- registers of the pair, as the S1 holds them -/
  mach : List Byte := []
  /-- route descriptors of S1 output ports 0 to 3 -/
  routes : List Nat := []
  cyclesMax : Nat := 0
  /-- cycles the program has executed, as an S1 read of the cycle counter returns -/
  cycles : Nat := 0
  /-- input tokens waiting, by S1 input port, and those the program has taken, oldest first -/
  inputs : Sparse (List Token) := []
  used : List Token := []
  /-- output tokens that wait for a credit: port and token -/
  outs : List (Nat × Token) := []
  epoch : Nat := 0
deriving DecidableEq, Repr

end Sys2Proof.Machine
end

