-- ==== Sys2Proof/Machine/StateD.lean ====
section
/-!
DEFINITION. State of the flowstone arrays and of the quantisers (chapters 5 and 6). Plain data only.
-/
namespace Sys2Proof.Machine

/-- A weight register (R110): the logical set it was filled from, its copy of the set and sidecar, and whether it was ever
filled in the current epoch. -/
structure WReg where
  logical : Nat := 0
  filled : Bool := false
  faulty : Bool := false
  weights : Sparse Byte := []
  sidecar : Sparse Byte := []
deriving DecidableEq, Repr

/-- An open accumulation (R108, R115, R118). -/
structure Accum where
  cls : Nat
  grid : Int
  float : Bool
  /-- next expected chunk -/
  chunk : Nat
  status : BitVec 4
  beat : W16
  copy : Nat
  /-- header of its first vector -/
  header : W64 := 0
  /-- a column's integer accumulator, or its stack of partial sums by level -/
  sums : Sparse Int := []
  piles : Sparse (List (Nat × Nat)) := []
  /-- poisoned columns (R117) -/
  poison : List Nat := []
deriving DecidableEq, Repr

/-- A requested fill: register (0 A, 1 B) and logical set (R110). -/
structure Fill where
  reg : Nat
  set : Nat
deriving DecidableEq, Repr

/-- A flowstone array beside its registers. -/
structure Arr where
  store : Sparse Byte := []
  sidecar : Sparse Byte := []
  scale : Sparse Byte := []
  regA : WReg := {}
  regB : WReg := {}
  acc : Option Accum := none
  /-- vectors at the input behind a fill, in channel order -/
  waiting : List Vec := []
  /-- fills requested, the running one first -/
  fills : List Fill := []
  /-- ballast slots among the latest intervals, newest first (R124) -/
  recent : List Bool := []
  repair : List Nat := []
  /-- the feed is held while a spare is mapped in (R125) -/
  held : Bool := false
deriving DecidableEq, Repr

/-- Lines of an array's return output on their way to a quantiser (R121): the logical cluster, the elements and their marks. -/
structure RetLine where
  die : Nat
  clu : Nat
  fmt : Nat
  bytes : List Byte
  count : Nat
  tag : W16
  epoch : Nat
  status : BitVec 4
  beat : W16
  copy : Nat
deriving DecidableEq, Repr

/-- One source element of a stream with the marks of the word that brought it. -/
structure Elem where
  code : Nat
  /-- number of the source word -/
  word : Nat
deriving DecidableEq, Repr

/-- The marks of a source word (R149). -/
structure WordMark where
  num : Nat
  tag : W16
  status : BitVec 4
  beat : W16
  copy : Nat
deriving DecidableEq, Repr

/-- A statistics slot (R155). `sse` counts units of 2^−320. -/
structure StatSlot where
  sse : Nat := 0
  count : Nat := 0
  maxErr : Nat := 0
  sat : Nat := 0
  degen : Nat := 0
  nan : Nat := 0
  minv : Nat := 0
  maxv : Nat := 0
  /-- a finite working value has been seen -/
  seen : Bool := false
  tid : Nat := 0
  seed : Nat := 0
deriving DecidableEq, Repr

/-- A converted element that waits for its output word or vector. -/
structure OutElem where
  code : Nat
  /-- source words that contributed -/
  words : List Nat
deriving DecidableEq, Repr

/-- An SRAM pass of a stream (R149). -/
structure Pass where
  src : Nat
  dst : Nat
  count : Nat
  start : Token
deriving DecidableEq, Repr

/-- A quantiser stream (R149 to R151). -/
structure Stream where
  started : Bool := false
  /-- next word position, next element index, next output word number, next chunk -/
  wordPos : Nat := 0
  elemIdx : Nat := 0
  outWord : Nat := 0
  chunk : Nat := 0
  /-- first vector since the start or the epoch change is still to come (R149) -/
  fillDue : Bool := true
  elems : List Elem := []
  marks : List WordMark := []
  outs : List OutElem := []
  /-- block scales of converted blocks waiting for their vector: X, k0, k1 -/
  scales : List (Nat × Nat × Nat) := []
  seed : Nat := 0
  passes : List Pass := []
  credit : Nat := 0
  /-- output tokens that wait for a credit -/
  waitOut : List Token := []
deriving DecidableEq, Repr

/-- The quantiser of a physical cluster. -/
structure Quant where
  streams : Sparse Stream := []
  slots : Sparse StatSlot := []
deriving DecidableEq, Repr

end Sys2Proof.Machine
end

