-- ==== Sys2Proof/Machine/StateE.lean ====
section
/-!
DEFINITION. State of the prompt port blocks: received frames, the extractor, the composer (chapter 8). Plain data only.
-/
namespace Sys2Proof.Machine

/-- A field token an extractor has released (R195): rule, token number, value. -/
structure Emitted where
  rule : Nat
  i : Nat
  data : W64
deriving DecidableEq, Repr

/-- A frame at a port block (R186, R191, R194). -/
structure RxFrame where
  /-- bytes landed, the first 16,384 of them, and the instant each one's last bit crossed the fibre face, ps -/
  bytes : List Byte := []
  times : List Nat := []
  /-- bytes landed in all, and the running CRC-32 over them (R186) -/
  total : Nat := 0
  crc : W32 := 0xFFFFFFFF
  /-- instant the frame's first bit crossed the fibre face, ps -/
  first : Nat := 0
  /-- positions of bytes delivered as 0 under R189 -/
  substituted : List Nat := []
  /-- length of the whole frame, once its end is known -/
  len : Option Nat := none
  /-- its verdict fails whatever its check (R186, R189, R191) -/
  bad : Bool := false
  /-- the frame has ended -/
  ended : Bool := false
  /-- `none` while the compare rules are not all decided; else whether it is a beat (R194) -/
  isBeat : Option Bool := none
  beat : W16 := 0
  /-- index of the beat in a link schedule and the status of its byte 2 (R212) -/
  link : Nat := 0
  linkStatus : BitVec 4 := 0
  emitted : List Emitted := []
  /-- items counted as overlong: level and offset (R198) -/
  counted : List (Nat × Nat) := []
  stamped : Bool := false
  /-- later bytes are ignored (R213) -/
  closed : Bool := false
  /-- verdict as known at the port block (R191) -/
  verdict : Option Bool := none
deriving DecidableEq, Repr

/-- A reply or cancel on its way out of a composer (R205 to R209). -/
structure Reply where
  gate : Nat := 0
  /-- inbound port block, none for a SCHEDULE gate -/
  inPort : Option Nat := none
  beat : W16 := 0
  id : Nat := 0
  status : BitVec 4 := 0
  /-- anchor, ps -/
  anchor : Nat := 0
  bytes : List Byte := []
  /-- reply start, commit point, end of the interframe gap, ps -/
  start : Nat := 0
  commit : Nat := 0
  done : Nat := 0
  stomped : Bool := false
  cancel : Bool := false
deriving DecidableEq, Repr

/-- A queued cancel (R207): the cancelled reply's beat, id, status and anchor, and the instant of its verdict. -/
structure CancelEntry where
  gate : Nat
  beat : W16
  id : Nat
  status : BitVec 4
  anchor : Nat
  verdictAt : Nat
deriving DecidableEq, Repr

/-- A port block beside its registers. -/
structure Port where
  /-- PORTMEM (R192) -/
  mem : Sparse Byte := []
  epoch : Nat := 0
  /-- next beat number (R199), and next beat of the link schedule to substitute (R213) -/
  nextBeat : W16 := 0
  nextLink : Nat := 0
  /-- values of the last beat not substituted (R213) -/
  lastVals : List Emitted := []
  /-- frames kept, oldest first; the last may still be open -/
  rx : List RxFrame := []
  /-- tokens that wait for a marker's credit on their edge: rule and token (R175, R178) -/
  waiting : List (Nat × Token) := []
  /-- frame the composer is sending -/
  tx : Option Reply := none
  /-- releases held behind it (R209) -/
  held : List Release := []
  /-- provisional replies whose verdict is not known (R206) -/
  provs : List Reply := []
  cancels : List CancelEntry := []
deriving DecidableEq, Repr

/-- An ARRIVAL stamp on its way to a gate (R199): gate, beat, anchor in ps. -/
structure Stamp where
  die : Nat
  gate : Nat
  beat : W16
  anchor : Nat
deriving DecidableEq, Repr

/-- A frame at a port block's history tap or acquisition tap (R18, R183). -/
structure Tap where
  die : Nat
  port : Nat
  bytes : List Byte
  beat : Option W16
  /-- frame failed its check; it was longer than the 16 KiB kept -/
  failed : Bool
  excess : Bool := false
  /-- instants the first and the last bit crossed the fibre face, ps -/
  first : Nat
  last : Nat
deriving DecidableEq, Repr

/-- What the history writer takes (R227, R228): a tapped frame, or a gate release. -/
inductive HistItem where
  | frame (t : Tap)
  | decision (die gate : Nat) (beat : W16) (epoch : Nat) (status : BitVec 4) (values : List W64) (fire : Nat)
deriving DecidableEq, Repr

/-- Registers of domain time as they stood before a rebase (R264). -/
structure TimeSeg where
  tref : Nat
  tbase : Nat
  tinc : Nat
deriving DecidableEq, Repr

end Sys2Proof.Machine
end

