-- ==== Sys2Proof/Machine/StateF.lean ====
section
/-!
DEFINITION. State of the goats, the barriers, the history writer (chapter 9) and the time events and pins (chapter 11). Plain
data only.
-/
namespace Sys2Proof.Machine

/-- A decoupling queue (R75, R220): entries in order, entries reserved by issued reads, entries of lines written and not yet
accepted. -/
structure GQueue where
  entries : List W64 := []
  reserved : Nat := 0
  leaving : Nat := 0
deriving DecidableEq, Repr

/-- A run of a descriptor (R219, R221): its start token, its number, lines issued, lines done, entries appended, and a range
fault or install refusal the next notify carries. -/
structure GRun where
  tok : Token
  number : Nat
  issued : Nat := 0
  done : Nat := 0
  appended : Nat := 0
  fault : Bool := false
deriving DecidableEq, Repr

/-- Where a line in flight stands (R220). -/
inductive LinePhase where
  /-- a read is on its way from memory -/
  | reading
  /-- read and waiting for the lines before it -/
  | landed (data : List Byte)
  /-- waiting for the SRAM banks -/
  | sram (data : List Byte)
  /-- written toward memory, not yet accepted -/
  | writing (data : List Byte)
  /-- accepted, waiting for the lines before it to be counted -/
  | finished
deriving DecidableEq, Repr

/-- A line in flight: descriptor, line number, memory address (none outside every region, R222), SRAM address. -/
structure GLine where
  desc : Nat
  k : Nat
  addr : Option Nat
  sram : Nat
  phase : LinePhase
deriving DecidableEq, Repr

/-- A stream descriptor at work (R221): its run, the one pending start token, runs completed, notifies that wait for a credit. -/
structure GStream where
  run : Option GRun := none
  waiting : Option Flit := none
  runs : Nat := 0
  notes : List Token := []
deriving DecidableEq, Repr

/-- A goat beside its registers. -/
structure Goat where
  /-- GOATMEM, 1 KiB -/
  mem : Sparse Byte := []
  queues : Sparse GQueue := []
  streams : Sparse GStream := []
  lines : List GLine := []
  /-- descriptor last served in rotation -/
  rot : Nat := 15
deriving DecidableEq, Repr

/-- One arrival at a barrier (R231, R233): physical die, physical cluster, goat, descriptor, domain instant, the start token. -/
structure Arrival where
  die : Nat
  clu : Nat
  goat : Nat
  desc : Nat
  at_ : Nat
  tok : Token
deriving DecidableEq, Repr

/-- A barrier (R231): this module's arrivals, the agreed release instant in ps, the instant of the
first arrival in ps. -/
structure Barrier where
  arrivals : List Arrival := []
  release : Option Nat := none
  since : Option Nat := none
deriving DecidableEq, Repr

/-- The history writer of a die (R227 to R229, R256): ring size; queue entries of records committed and not yet written out; the
instant the open epoch began, ps; whether a frame was dropped in it; the chain of the epoch before, for records that belong to it. -/
structure Hist where
  size : Nat := 0
  held : List Nat := []
  since : Nat := 0
  dropped : Bool := false
  prevChain : List Byte := []
  prevCount : Nat := 0
deriving DecidableEq, Repr

/-- A time event (R271): armed; occurrences passed in all and at arming; the instants, ps, of those passed since in domain mode;
instant of the next where converted, ps; base in units of 100 ps; `waitJob` where it arms at the next job start. -/
structure TEvent where
  armed : Bool := false
  waitJob : Bool := false
  occurred : Nat := 0
  pre : Nat := 0
  inst : List Nat := []
  next : Option Nat := none
  base : Nat := 0
deriving DecidableEq, Repr

/-- A time pin (R272): level driven, the instant its pulse ends in ps, edges captured in eighths of a tick. -/
structure TPin where
  high : Bool := false
  until_ : Option Nat := none
  edges : List Nat := []
deriving DecidableEq, Repr

end Sys2Proof.Machine
end

