-- ==== Sys2Proof/Machine/StateG.lean ====
section
/-!
DEFINITION. State of the Vilovote ring, the trigger unit, the time sources and the transmit timestamps (chapter 11). Plain data
only. Domain times are in units of 2^-16 ns.
-/
namespace Sys2Proof.Machine

/-- A request of the trigger unit (R283): rule, action (0 local, 1 fire, 2 vote, 3 retract of request `target`), fire time,
decision status, beat, trigger word, and the frame whose verdict it waits on. -/
structure TrigReq where
  id : Nat
  rule : Nat
  action : Nat
  time : Nat
  status : BitVec 4 := 0
  beat : W16 := 0
  word : W64 := 0
  target : Nat := 0
deriving DecidableEq, Repr

/-- A request made on a provisional decision (R210, R286): its port block and beat; `held` where it waits for the verdict; the
sequence number of its frame once sent. -/
structure ProvReq where
  req : TrigReq
  die : Nat
  port : Nat
  held : Bool
  seq : Option W16 := none
deriving DecidableEq, Repr

/-- A pending act (R284): act instant, time of the fire, origin, sequence number of its frame, local request id, rule, kind (0
local, 1 fire, 2 voted fire). -/
structure ActRec where
  at_ : Nat
  time : Nat
  origin : Nat
  seq : W16
  req : Nat := 0
  rule : Nat
  kind : Nat
  word : W64 := 0
deriving DecidableEq, Repr

/-- A vote held (R285). -/
structure VoteRec where
  time : Nat
  origin : Nat
  seq : W16
  rule : Nat
  evaluated : Bool := false
  word : W64 := 0
deriving DecidableEq, Repr

/-- A change of the arm state (R282): effective time and state. -/
structure ArmRec where
  effective : Nat
  armed : Bool
deriving DecidableEq, Repr

/-- A module's ready frames (R260, R276): node, rank, modules, identity_any, identity code, stretch, job tag and graph digest bits
once READY_B is in. -/
structure ReadyRec where
  node : Nat
  rank : Nat
  modules : Nat
  anyId : Bool
  identity : Nat
  stretch : Nat
  graph : Option W64 := none
  jobTag : Nat := 0
deriving DecidableEq, Repr

/-- An ARRIVE frame the master holds (R287): barrier, generation, node, first and last arrival, logical die, cluster, done flag. -/
structure ArriveRec where
  barrier : Nat
  generation : Nat
  node : Nat
  first : Nat
  last : Nat
  die : Nat
  clu : Nat
  done : Bool
deriving DecidableEq, Repr

/-- An armed checkpoint (R234): its job, the window and tag of its command, the host memory list, the drain limit in ps; the barrier
it holds and since when, ps; the checkpoint of this module is written. -/
structure Ckpt where
  job : Nat
  window : Nat
  tag : Nat
  list : List (Nat × Nat) := []
  limit : Nat
  barrier : Option Nat := none
  since : Nat := 0
  done : Bool := false
deriving DecidableEq, Repr

/-- The ring, the trigger unit and the servo. -/
structure Vote where
  seq : W16 := 0
  /-- frames acted on: origin, sequence number, instant, ps -/
  seen : List (Nat × W16 × Nat) := []
  /-- arm changes scheduled, and those in effect, oldest first -/
  armNext : List ArmRec := []
  armPast : List ArmRec := []
  armGen : Nat := 0
  /-- requests queued for sending, oldest first; the next request id; instants of the last sends, ps -/
  queue : List TrigReq := []
  nextId : Nat := 0
  sent : List Nat := []
  provs : List ProvReq := []
  acts : List ActRec := []
  votes : List VoteRec := []
  lastFire : Option Nat := none
  /-- entries of `VACT` -/
  vact : List W64 := []
  /-- instant each node's STATUS last came, ps, plus one -/
  statusAt : Sparse Nat := []
  /-- own STATUS came back with a wrong hop count, or too many origins, at this instant, ps, plus one (R278) -/
  badCount : Nat := 0
  /-- releases with LATE and with FAULT since the last STATUS (R288) -/
  late : Nat := 0
  fault : Nat := 0
  /-- transmit time of the outstanding DELAY_REQ on each lane, domain, plus one -/
  delayT1 : Sparse Nat := []
  /-- hops of the last SYNC by lane, plus one (R280) -/
  syncHops : Sparse Nat := []
  /-- a SYNC frame came from a master of higher number (R280): own SYNC and ARM stop -/
  yielded : Bool := false
  /-- consecutive corrections within 0.25 ns, and the instant of the last correction, ps (R267) -/
  lockRun : Nat := 0
  lastSync : Nat := 0
  /-- ticks at which the time registers were last changed (R264) -/
  timeTick : Nat := 0
  ready : List ReadyRec := []
  arrives : List ArriveRec := []
deriving DecidableEq, Repr

/-- The hub's PTP clock (R268). -/
structure Ptp where
  /-- clock followed, and the announcements heard: source and data set -/
  parent : Option Nat := none
  heard : List (Nat × List Nat) := []
  /-- receipt time of the Sync in hand with its source and sequence -/
  sync : Option (Nat × Nat × Nat) := none
  /-- offset of the last Sync before the delay is taken off: t2 − t1, signed in 2^-16 ns -/
  forward : Int := 0
  /-- transmit time of the outstanding Delay_Req or Pdelay_Req and its sequence -/
  request : Option (Nat × Nat) := none
  /-- turn-round of a peer's two-step answer: t2 of the request -/
  peerT2 : Option Nat := none
  /-- t4 of a two-step peer answer -/
  peerT4 : Nat := 0
  delay : Int := 0
  seq : Nat := 0
deriving DecidableEq, Repr

/-- A transmit timestamp entry (R269): domain time, id, not sent. -/
structure TxStamp where
  time : Nat
  id : Nat
  nosend : Bool
deriving DecidableEq, Repr

end Sys2Proof.Machine
end

