-- ==== Sys2Proof/Machine/StateH.lean ====
section
/-!
DEFINITION. State of the bulk Ethernet ports, the 10BASE-T1S port, the lanes' injection runs and the acquisition engine (chapters 12
and 13). Plain data only.
-/
namespace Sys2Proof.Machine

/-- A received frame in a bulk port's memory (R316): its queue, its bytes without FCS, the raw instant its first byte crossed the
fibre face, ps. -/
structure MacFrame where
  queue : Nat
  bytes : List Byte
  at_ : Nat
deriving DecidableEq, Repr

/-- A receive ring (R315): next sequence number, bytes written in all, records not yet released (sequence number and the ring bytes
they and the pads before them take), and the notify that waits for a credit. -/
structure RxRing where
  seq : Nat := 0
  written : Nat := 0
  held : List (Nat × Nat) := []
  notify : Bool := false
deriving DecidableEq, Repr

/-- A transmit queue (R318): its tokens, frames sent since load, the notify that waits for a credit (its FAULT bit). -/
structure TxQueue where
  toks : List Flit := []
  sent : Nat := 0
  notify : Option Bool := none
deriving DecidableEq, Repr

/-- The MAC of a bulk port (R312 to R318). -/
structure Mac where
  frames : List MacFrame := []
  rings : Sparse RxRing := []
  txq : Sparse TxQueue := []
  /-- end of the pause a peer asked for, ps, by queue -/
  pausedTo : Sparse Nat := []
  /-- instant the last pause frame left, ps, plus one -/
  pauseAt : Nat := 0
deriving DecidableEq, Repr

/-- A frame of the 10BASE-T1S port: bytes, whether a timestamp is asked for and its id, collisions met (R319, R320). -/
structure T1sTx where
  bytes : List Byte
  stamp : Bool
  id : Nat
  tries : Nat := 0
  /-- it waits for its next try: its deferral or its back-off runs (log 35) -/
  backoff : Bool := true
  /-- window of the T1S_SEND command, plus one -/
  window : Nat := 0
deriving DecidableEq, Repr

/-- The 10BASE-T1S port (R319, R320). -/
structure T1s where
  /-- received frames with their receive time, domain -/
  rxq : List (List Byte × Nat) := []
  txq : List T1sTx := []
deriving DecidableEq, Repr

/-- A running error injection of a lane (R311): injections still to make (none without end). -/
structure Inject where
  left : Option Nat
deriving DecidableEq, Repr

/-- An open window of an acquisition stream (R293): positions, finite and non-finite ones, those over the threshold; least, greatest
and first as order keys or 64-bit codes; exact sums in the format's units; time of the last position, domain. -/
structure AcqWin where
  got : Nat := 0
  finite : Nat := 0
  nonfinite : Nat := 0
  excess : Nat := 0
  minv : Int := 0
  maxv : Int := 0
  sum : Int := 0
  squares : Nat := 0
  first : Nat := 0
  when_ : Nat := 0
deriving DecidableEq, Repr

/-- A record before its destination numbers it (R292): type, stream, the flag bits [26:23], beat, source, time in domain units, body. -/
structure AcqRec where
  kind : Nat
  stream : Nat := 0
  flags : Nat := 0
  beat : Nat := 0
  die : Nat := 0
  block : Nat := 0
  when_ : Nat
  body : List Byte
  /-- instant its frame landed, ps -/
  landed : Nat := 0
deriving DecidableEq, Repr

/-- A committed acquisition stream (R291, R296): the registers it was committed with, its open window and its delay line. -/
structure AcqStream where
  on : Bool := false
  cfg : Nat := 0
  win : Nat := 0
  thr : Nat := 0
  seg : Nat := 0
  window : Option AcqWin := none
  line : List AcqRec := []
deriving DecidableEq, Repr

/-- A committed destination (R295, R298, R300): its registers and template; marks admitted in which millisecond, marks dropped since
the last; instant of the last LOSS record, ps; the open datagram. -/
structure AcqDest where
  cfg : Nat := 0
  base : Nat := 0
  size : Nat := 0
  res : Nat := 0
  tail : Nat := 0
  eth : Nat := 0
  template : List Byte := []
  markMs : Nat := 0
  markCount : Nat := 0
  marksLost : Nat := 0
  lossAt : Option Nat := none
  dgram : List Byte := []
  dgCount : Nat := 0
  dgSeq : Nat := 0
  dgAt : Nat := 0
deriving DecidableEq, Repr

/-- The acquisition engine (R290 to R303): destinations, streams, acts as domain time and rule, and the device ring. -/
structure Acq where
  dests : Sparse AcqDest := []
  streams : Sparse AcqStream := []
  acts : List (Nat × Nat) := []
  ring : Sparse Byte := []
deriving DecidableEq, Repr

end Sys2Proof.Machine
end

