-- ==== Sys2Proof/Machine/StateI.lean ====
section
/-!
DEFINITION. State of the command windows, the sessions, the secure store, start-up and the TAP (chapters 14 and 17). Plain data only.
-/
namespace Sys2Proof.Machine

/-- A committed packet as the firmware read it (R327): `deadline` in ps from `commit`. -/
structure Pkt where
  op : Nat
  tag : Nat
  gen : Nat
  session : Nat
  seq : Nat
  deadline : Nat
  commit : Nat
  params : List Byte
deriving DecidableEq, Repr

/-- A command window (R325): request words written, whether word 1 has been written in this packet, the packet the firmware has
taken, reply area, completion ring, device nonce and the instant it was drawn. -/
structure Win where
  words : Sparse W32 := []
  lenSeen : Bool := false
  taken : Option Pkt := none
  reply : List Byte := []
  ring : Sparse (List Byte) := []
  nonce : Option (List Byte × Nat) := none
deriving DecidableEq, Repr

/-- One entry of a session's tag table (R334). -/
structure TagRec where
  gen : Nat := 0
  out : Bool := false
deriving DecidableEq, Repr

/-- A session slot (R340 to R345): its key K, the key slot and id it opened with, MAC failures, the instant of its last packet, tags. -/
structure Sess where
  id : Nat
  maint : Bool
  slot : Nat := 0
  key : List Byte
  macFails : Nat := 0
  last : Nat := 0
  tags : Sparse TagRec := []
deriving DecidableEq, Repr

/-- How an operation ended: status, detail words, and word 8 of its entry where the opcode gives it (R332, R338). -/
structure Ending where
  status : Nat
  details : List Nat := []
  word8 : Option Nat := none
deriving DecidableEq, Repr

/-- A kind-C operation (R331 to R336): its number, window, packet, whether it has timed out or ended, and whether its session
has closed. -/
structure Cmd where
  id : Nat
  window : Nat
  pkt : Pkt
  timedOut : Bool := false
  ended : Option Ending := none
deriving DecidableEq, Repr

/-- A key slot of the secure store (R346). -/
structure KeySlot where
  pub : List Byte := []
  roles : Nat := 0
deriving DecidableEq, Repr

/-- A flash device's firmware (R348, R383): its image, empty where none. -/
structure Flash where
  version : Nat := 0
  rollback : Nat := 0
  digest : List Byte := []
  body : List Byte := []
deriving DecidableEq, Repr

/-- The secure store and the flash devices, which outlast a reset (R343, R346, R348); `policy` is `SECPOLICY` as last written, plus
one. -/
structure Store where
  salt : List Byte := List.replicate 16 0
  verifier : List Byte := List.replicate 32 0
  keys : Sparse KeySlot := []
  policy : Nat := 0
  flash0 : Flash := {}
  flash1 : Flash := {}
  modules : List Flash := []
deriving DecidableEq, Repr

/-- The hub's command firmware: sessions by slot, next session id, operations, consecutive failed maintenance opens and the end of a
lockout in ps; the firmware that runs; whether a first session has been opened since start-up. -/
structure Sec where
  sessions : Sparse (Option Sess) := []
  nextSession : Nat := 1
  cmds : List Cmd := []
  nextCmd : Nat := 0
  fails : Nat := 0
  lockUntil : Option Nat := none
  running : Flash := {}
  opened : Bool := false
deriving DecidableEq, Repr

/-- The freeze of a prompt stream (R251 to R253): its command, T in ps, drain limit in ps, k_T once known. -/
structure Frozen where
  job : Nat
  cmd : Nat
  tPs : Nat
  limit : Nat
  kT : Nat := 0
  /-- it has begun to drain -/
  begun : Bool := false
  /-- k_T of the save a thaw restores -/
  kSave : Nat := 0
  list : List (Nat × Nat) := []
  /-- a thaw's saved tokens by die and cycle; none without a save -/
  carry : Option (List (Nat × Nat × Token)) := none
  thaw : Bool := false
deriving DecidableEq, Repr

/-- An install under way on a die (R238): the descriptor and the start token, whose notify follows. -/
structure InstallRec where
  die : Nat
  clu : Nat
  goat : Nat
  desc : Nat
  tok : Token
deriving DecidableEq, Repr

/-- The TAP (R395): instruction (0 EXTEST, 1 SAMPLE/PRELOAD, 2 CLAMP, 3 HIGHZ, 4 BYPASS), boundary register and bypass bit. -/
structure Tap1149 where
  ir : Nat := 4
  boundary : List Bool := []
  bypass : Bool := false
deriving DecidableEq, Repr

/-- The housekeeping controller and start-up (R365, R382 to R390): levels of RESET_N and PERST_N; why the rails are off (0: 54 V not yet
applied, 2 undervoltage, 3 overvoltage, 4 a die at 120 degrees), none while they are on; the step of the hottest die when it tripped;
whether the oscillator counted; `SSCCFG.lpddr_ssc` as the last memory stage took it (R394); the host stage is over; the capability
list. -/
structure Boot where
  resetN : Bool := true
  perstN : Bool := true
  off : Option Nat := some 0
  trip : Option Nat := none
  oscOk : Bool := true
  ssc : Bool := true
  hostDone : Bool := false
  caps : List W32 := []
deriving DecidableEq, Repr

end Sys2Proof.Machine
end

