-- ==== Sys2Proof/Machine/State.lean ====
section
/-!
DEFINITION. The state of the module, the two reasons a step could stop, and the module right after reset. Everything is plain data.
-/
namespace Sys2Proof.Machine

/-- Faults. The manual gives every command and event of the module an effect, so no meaning ends in a fault. -/
inductive Fault where
deriving DecidableEq, Repr

/-- Refusals. -/
inductive Refusal where
  /-- The command has no meaning yet; raised by the arms of `exec` alone. Safe: the run stops. -/
  | notModelled (mnemonic : String)
deriving DecidableEq, Repr

/-- The whole module (S2M): two hub dies in lockstep, compute dies, IO dies, glowworms, memories and the board's housekeeping. -/
structure State where
  /-- commands and events that wait, the next one first (the model's own queue) -/
  pending : List Instr := []
  /-- ps since the raw counter started (R262) -/
  now : Nat := 0
  /-- free values drawn so far (the model's own counter, log 3) -/
  fresh : Nat := 0
  /-- fuses (R3, R29, R30) -/
  part : Part := {}
  /-- straps as sampled (R387) -/
  straps : Straps := {}
  /-- every register of BAR0 and BAR2, reset values unlisted (R6, R21) -/
  regs : RegFile := []
  /-- tokens on their way (R34, R81, R84) -/
  inFlight : List Flit := []
  /-- credits on their way back to their producers (R92) -/
  creditsDue : List Edge := []
  /-- last token each unit received (R36) -/
  lastTok : List (UnitId × Token) := []
  /-- what the module has put out, in order (the model's own record) -/
  out : List Out := []
  /-- gates, by die * 1024 + gate (R44 to R54) -/
  gates : Sparse Gate := []
  /-- gate releases their consumers have not taken (R48) -/
  releases : List Release := []
  /-- hens (R55 to R80) -/
  hens : Sparse Hen := []
  /-- clusters (R85 to R91, R100 to R103) -/
  clus : Sparse Cluster := []
  /-- routers (R83, R84, R95 to R99) -/
  routers : Sparse Router := []
  /-- the interrupt block (R351 to R359) -/
  irq : Irq := {}
  /-- the olm (R360 to R364) -/
  olm : Olm := {}
  /-- the FLT block (R376 to R381) -/
  flt : Flt := {}
  /-- the power manager (R365 to R374) -/
  pwr : Pwr := {}
  /-- compute dies: loaded image, partition, epochs (R15, R157 to R180, R251 to R261) -/
  dies : Sparse Die := []
  /-- jobs (R170, R174, R179, R226, R234 to R261) -/
  jobs : List Job := []
  /-- ox pairs (R181, R182) -/
  oxs : Sparse Ox := []
  /-- what start-up found present and usable (R28) -/
  fit : Part := {}
  /-- flowstone arrays (R105 to R128) -/
  arrs : Sparse Arr := []
  /-- vectors on the way to an array: die, array, vector (R106) -/
  feed : List (Nat × Nat × Vec) := []
  /-- return lines on the way from an array (R121) -/
  returns : List RetLine := []
  /-- quantisers, by cluster (R131 to R156) -/
  quants : Sparse Quant := []
  /-- port blocks (R183 to R213) -/
  ports : Sparse Port := []
  /-- arrival stamps of frames on their way to gates (R44, R199) -/
  stamps : List Stamp := []
  /-- credit counters of the producers, by edge (R92) -/
  credits : List (Edge × Nat) := []
  /-- domain-time registers that were in effect before the present ones (R263, R266) -/
  segs : List TimeSeg := []
  /-- what the history taps hold (R18, R228) -/
  histTap : List HistItem := []
  /-- what the acquisition taps hold (R290, R291) -/
  acqTap : List Tap := []
  /-- goats (R218 to R225) -/
  goats : Sparse Goat := []
  /-- barriers (R231, R233, R287) -/
  barriers : Sparse Barrier := []
  /-- history rings (R227 to R229, R256) -/
  hists : Sparse Hist := []
  /-- tier 1, by compute die (R167, R215, R216) -/
  dram : Sparse (Sparse Byte) := []
  /-- tier 2 (R23, R215, R216) -/
  tier2 : Sparse Byte := []
  /-- time events (R271) -/
  tevents : Sparse TEvent := []
  /-- time pins (R272) -/
  tpins : Sparse TPin := []
  /-- position of each die's pacer phase, and whether the running phase admits bulk issue (R230) -/
  pacer : Sparse Nat := []
  /-- the ring and the trigger unit (R273 to R289) -/
  vote : Vote := {}
  /-- armed checkpoints (R234) -/
  ckpts : List Ckpt := []
  /-- MACs of the bulk ports, by first port block (R312 to R318) -/
  macs : Sparse Mac := []
  /-- the 10BASE-T1S port (R319, R320) -/
  t1s : T1s := {}
  /-- running injections, by lane (glowworm * 32 + lane) (R311) -/
  injects : Sparse Inject := []
  /-- the hub's PTP clock (R268) -/
  ptp : Ptp := {}
  /-- transmit timestamps by port block (die * 1024 + block; 16384 the T1S port) (R269) -/
  txts : Sparse (List TxStamp) := []
  /-- the acquisition engine (R290 to R303) -/
  acq : Acq := {}
  /-- last vector each array took (R36) -/
  lastVec : Sparse Vec := []
  /-- command windows (R325 to R333) -/
  wins : Sparse Win := []
  /-- the command firmware: sessions and operations (R330 to R345) -/
  sec : Sec := {}
  /-- the secure store and the flash devices (R343, R346, R348) -/
  vault : Store := {}
  /-- switches under way at job level (R338) -/
  switches : List SwitchRec := []
  /-- digests issued: kind, sequence, material, digest (R259) -/
  issued : List (Nat × Nat × List Byte × List Byte) := []
  /-- the freeze or thaw under way (R251 to R253) -/
  frozen : Option Frozen := none
  /-- installs under way (R238) -/
  installs : List InstallRec := []
  /-- the TAP (R389, R395) -/
  tap : Tap1149 := {}
  /-- housekeeping and start-up (R365, R382 to R389) -/
  boot : Boot := {}
deriving DecidableEq, Repr

/-- The module right after a power-on reset, before the 54 V input is applied (R382, R389): every register at the reset value of its
table, every memory and queue empty. -/
def State.reset : State := {}

end Sys2Proof.Machine
end

