-- ==== Sys2Proof/Machine/Ops.lean ====
section
/-!
DEFINITION. The named operations every family uses: time, registers, tokens and credits, free values, olm records,
reports to the FLT block, and which units are present.
-/
namespace Sys2Proof.Machine

/-! ### Time -/

/-- One time-base tick, in ps (R262). -/
def tickPs : Nat := 800

/-- The vernier step, in ps (R44). -/
def vernierPs : Nat := 100

/-- Time runs on to `t`, never back. -/
def State.upTo (t : Nat) (s : State) : State := { s with now := max s.now t }

/-- The raw free-running counter (R262). -/
def State.rawTicks (s : State) : Nat := s.now / tickPs % 2 ^ 64

/-! ### Registers -/

/-- The value of a field of instance `idx`. -/
def State.rd (s : State) (x : Fld) (idx : List Nat) : Nat := s.regs.rd x idx

/-- A one-bit field as a truth value. -/
def State.flag (s : State) (x : Fld) (idx : List Nat) : Bool := s.regs.rd x idx == 1

/-- Sets a field. -/
def State.wr (s : State) (x : Fld) (idx : List Nat) (v : Nat) : State := { s with regs := s.regs.wr x idx v }

/-- Adds to a saturating counter. -/
def State.add (s : State) (x : Fld) (idx : List Nat) (n : Nat) : State := { s with regs := s.regs.add x idx n }

/-- Adds one to a saturating counter. -/
def State.bump (s : State) (x : Fld) (idx : List Nat) : State := s.add x idx 1

/-- Adds to a counter that wraps. -/
def State.addWrap (s : State) (x : Fld) (idx : List Nat) (n : Nat) : State := { s with regs := s.regs.addWrap x idx n }

/-- The whole value of a register. -/
def State.raw (s : State) (r : Reg) (idx : List Nat) : Nat := (s.regs.raw r idx).toNat

/-- Replaces the whole value of a register. -/
def State.setRaw (s : State) (r : Reg) (idx : List Nat) (v : Nat) : State :=
  { s with regs := s.regs.setRaw r idx (BitVec.ofNat 64 v) }

/-- What a field keeps of a write (R6): RW and WO bits are taken, a written 1 clears a W1C bit, all else stands. -/
def storeField (mask v old : Nat) (f : FDesc) : Nat :=
  let m := bitsOf mask f.lo f.w
  let o := bitsOf old f.lo f.w
  let x := bitsOf v f.lo f.w
  match f.acc with
  | .rw => setBits old f.lo f.w ((o &&& (2 ^ f.w - 1 - m)) ||| (x &&& m))
  | .w1c => setBits old f.lo f.w (o &&& (2 ^ f.w - 1 - (x &&& m)))
  | _ => old

/-- The value a register holds after a write of the bits in `mask`. -/
def stored (r : Reg) (mask v old : Nat) : Nat := r.fields.foldl (storeField mask v) old

/-- The same register family. -/
def Reg.is (a b : Reg) : Bool := a.off == b.off && decide (a.blk = b.blk)

/-! ### Domain time (R263, R266) -/

/-- Domain time, in 2^-16 ns, at `r8` eighths of a tick under given registers. -/
def domainOf (x : TimeSeg) (r8 : Nat) : Nat := x.tbase + (r8 - 8 * x.tref) * x.tinc / 2 ^ 27

/-- The registers of domain time in effect now. -/
def State.timeSeg (s : State) : TimeSeg :=
  { tref := s.raw TREF [], tbase := s.raw TBASE_LO [] + s.rd TBASE_HI.value [] * 2 ^ 64, tinc := s.raw TINC [] }

/-- The registers in effect at `r8` eighths: the newest whose reference tick is not later. -/
def segAt (r8 : Nat) (x : TimeSeg) : List TimeSeg → TimeSeg
  | [] => x
  | y :: ys => if 8 * x.tref ≤ r8 then x else segAt r8 y ys

/-- Domain time at an instant, with the registers in effect then (R263, R266). -/
def State.domainAt (s : State) (ps : Nat) : Nat :=
  let r8 := ps / vernierPs
  domainOf (segAt r8 s.timeSeg s.segs) r8

/-- A domain time as a timestamp (R266). -/
def stampBytes (d : Nat) : List Byte :=
  leBytes 2 (d % 65536) ++ leBytes 4 (d / 65536 % 1000000000) ++ leBytes 6 (d / (1000000000 * 65536))

/-- Ticks from the reference to the least raw value whose domain time is not below `T` (R263). -/
def ticksTo (x : TimeSeg) (T : Nat) : Nat := x.tref + ((T - x.tbase) * 2 ^ 24 + x.tinc - 1) / max x.tinc 1

/-- The same in eighths of a tick (R263). -/
def eighthsTo (x : TimeSeg) (T : Nat) : Nat := 8 * x.tref + ((T - x.tbase) * 2 ^ 27 + x.tinc - 1) / max x.tinc 1

/-! ### Outputs, tokens and credits -/

/-- Records an output event. -/
def State.emit (s : State) (o : Out) : State := { s with out := s.out ++ [o] }

/-- The system logic sets slow output pin `p` (R390); the TAP has the pin while its instruction is EXTEST, CLAMP or HIGHZ (R395). -/
def State.pinOut (s : State) (p : Nat) (level : Bool) : State :=
  if s.tap.ir = 1 ∨ s.tap.ir = 4 then s.emit (.slowPin p level) else s

/-- A token sets out toward its destination. -/
def State.send (s : State) (f : Flit) : State := { s with inFlight := s.inFlight ++ [f] }

/-- Several tokens set out, in order. -/
def State.sendAll (s : State) (fs : List Flit) : State := { s with inFlight := s.inFlight ++ fs }

/-- A token has arrived: it is no longer on its way, and it is the last token of the receiving unit's channel (R36). -/
def State.arrive (s : State) (u : UnitId) (f : Flit) : State :=
  { s with inFlight := eraseFirst f s.inFlight
           lastTok := (u, f.tok) :: s.lastTok.filter (fun p => p.1 ≠ u) }

/-- The edges that hold credits (R92). -/
def edgeCredited : Edge → Bool
  | .none => false
  | .seed _ _ => false
  | .array _ _ _ => false
  | .feed _ _ _ => false
  | .chan _ _ _ _ _ => false
  | _ => true

/-- The credit of an edge sets out on its way back to the producer (R92). -/
def State.owe (s : State) (e : Edge) : State :=
  if edgeCredited e then { s with creditsDue := s.creditsDue ++ [e] } else s

/-- Several credits set out. -/
def State.oweAll (s : State) : List Edge → State
  | [] => s
  | e :: es => (s.owe e).oweAll es

/-- Draws one free value (log 3). -/
def State.draw (s : State) : Nat × State := (Config.freeNat s.fresh, { s with fresh := s.fresh + 1 })

/-! ### Keys of the sparse tables -/

/-- Key of gate or router or port block `g` of die `n`. -/
def key2 (n g : Nat) : Nat := n * 1024 + g

/-- Key of physical cluster `c` of die `n`. -/
def cluKey (n c : Nat) : Nat := n * 1024 + c

/-- Key of a physical hen. -/
def henKey (h : HenRef) : Nat := (h.die * 1024 + h.clu) * 1024 + h.hen

def State.gate (s : State) (n g : Nat) : Gate := Sparse.get {} s.gates (key2 n g)
def State.setGate (s : State) (n g : Nat) (x : Gate) : State := { s with gates := Sparse.set {} s.gates (key2 n g) x }
def State.hen (s : State) (h : HenRef) : Hen := Sparse.get {} s.hens (henKey h)
def State.setHen (s : State) (h : HenRef) (x : Hen) : State := { s with hens := Sparse.set {} s.hens (henKey h) x }
def State.clu (s : State) (n c : Nat) : Cluster := Sparse.get {} s.clus (cluKey n c)
def State.setClu (s : State) (n c : Nat) (x : Cluster) : State := { s with clus := Sparse.set {} s.clus (cluKey n c) x }
def State.router (s : State) (n r : Nat) : Router := Sparse.get {} s.routers (key2 n r)
def State.setRouter (s : State) (n r : Nat) (x : Router) : State := { s with routers := Sparse.set {} s.routers (key2 n r) x }

def State.die (s : State) (n : Nat) : Die := Sparse.get {} s.dies n
def State.setDie (s : State) (n : Nat) (x : Die) : State := { s with dies := Sparse.set {} s.dies n x }

def State.quant (s : State) (n c : Nat) : Quant := Sparse.get {} s.quants (cluKey n c)
def State.setQuant (s : State) (n c : Nat) (x : Quant) : State := { s with quants := Sparse.set {} s.quants (cluKey n c) x }
def State.stream (s : State) (n c q : Nat) : Stream := Sparse.get {} (s.quant n c).streams q
def State.setStream (s : State) (n c q : Nat) (x : Stream) : State :=
  let k := s.quant n c
  s.setQuant n c { k with streams := Sparse.set {} k.streams q x }
def State.port (s : State) (n i : Nat) : Port := Sparse.get {} s.ports (key2 n i)
def State.setPort (s : State) (n i : Nat) (x : Port) : State := { s with ports := Sparse.set {} s.ports (key2 n i) x }

/-! ### Credit counters (R92) -/

/-- The credit an edge's counter holds in a list of counters. -/
def creditIn (e : Edge) : List (Edge × Nat) → Nat
  | [] => 0
  | (f, v) :: r => if f = e then v else creditIn e r

/-- The counters with one of them set. -/
def setCreditIn (e : Edge) (v : Nat) : List (Edge × Nat) → List (Edge × Nat)
  | [] => if v = 0 then [] else [(e, v)]
  | (f, w) :: r => if f = e then (if v = 0 then r else (e, v) :: r) else (f, w) :: setCreditIn e v r

/-- The producer's credit counter of an edge. -/
def State.creditOf (s : State) (e : Edge) : Nat :=
  match e with
  | .quant n c q => (s.stream n c q).credit
  | e => creditIn e s.credits

/-- Sets the producer's credit counter of an edge. -/
def State.setCredit (s : State) (e : Edge) (v : Nat) : State :=
  match e with
  | .quant n c q => s.setStream n c q { s.stream n c q with credit := v }
  | e => { s with credits := setCreditIn e v s.credits }

/-- Logical cluster that physical cluster `c` of die `n` serves (R104, R381). -/
def State.logClu (s : State) (n c : Nat) : Nat := s.rd CLUSTAT.logical [n, c]

/-- Physical cluster that serves logical cluster `l` of die `n`, by the map of the FLT block (R381). -/
def State.physClu (s : State) (n l : Nat) : Nat := bitsOf (s.raw FLTCMAP [n, l / 4]) (8 * (l % 4)) 7

/-- Logical hen that physical hen `h` serves (R100). -/
def State.logHen (s : State) (h : HenRef) : Nat := s.rd HSTAT.logical [h.die, h.clu, h.hen]

/-- Physical hen that serves logical hen `l` of physical cluster `c` (R100). -/
def State.physHen (s : State) (n c l : Nat) : Nat :=
  if s.flag CLUSTAT.spare_hen_used [n, c] && s.rd CLUSTAT.spare_hen_logical [n, c] == l then 64 else l

/-- Physical cluster `c` is in the prompt partition (R16, R19): by the logical number it serves. -/
def State.cluPrompt (s : State) (n c : Nat) : Bool := decide (s.logClu n c < s.rd PARTCFG.prompt_clusters [n])

/-- Array `a` is in the prompt partition (R16). -/
def State.arrPrompt (s : State) (n a : Nat) : Bool := decide (a < s.rd PARTCFG.prompt_arrays [n])

/-- Port block `i` is in the prompt partition (R16). -/
def State.portPrompt (s : State) (n i : Nat) : Bool := bitOf (s.rd PARTCFG.prompt_ports [n]) i

/-- Physical unit number of a hen within its class on the die: 65 for each cluster (R38, R381; log 22). -/
def henUnit (h : HenRef) : Nat := 65 * h.clu + h.hen

/-- Fields of a gallery address (R82). -/
def adDie (a : BitVec 28) : Nat := bitsOf a.toNat 24 4
def adUnit (a : BitVec 28) : Nat := bitsOf a.toNat 21 3
def adPlace (a : BitVec 28) : Nat := bitsOf a.toNat 15 6
def adSub (a : BitVec 28) : Nat := bitsOf a.toNat 9 6

/-! ### The olm (R360 to R363) -/

/-- A number as a 4-byte little-endian item of a record body (log 20). -/
def item4 (n : Nat) : List Byte := leBytes 4 n

/-- A number as an 8-byte little-endian item of a record body (log 20). -/
def item8 (n : Nat) : List Byte := leBytes 8 n

/-- Operating hours now, in 1/64 s (R360). -/
def State.olmHours (s : State) : Nat := (s.olm.before + s.now) * 64 / 1000000000000

/-- Length of a record, header included, a multiple of 4 (R360). -/
def OlmRec.length (r : OlmRec) : Nat := 16 + (r.body.length + 3) / 4 * 4

/-- Bytes of a list of records. -/
def olmBytes : List OlmRec → Nat
  | [] => 0
  | r :: rs => r.length + olmBytes rs

/-- Drops the oldest records of the circulating area until 65,536 records and 28 MiB hold (R361). -/
def olmTrim (count bytes : Nat) : List OlmRec → List OlmRec
  | [] => []
  | r :: rs => if 65536 < count ∨ 29360128 < bytes then olmTrim (count - 1) (bytes - r.length) rs else r :: rs

/-- Writes a record without looking at its bucket (R360, R361). -/
def State.olmAppend (s : State) (code : Nat) (body : List Byte) : State :=
  let q := s.raw OLMHEAD []
  let r : OlmRec := { seq := q, code, hours := s.olmHours % 2 ^ 40, cycles := s.olm.cycles % 2 ^ 24, body }
  let o := if q < 4096 then { s.olm with birth := s.olm.birth ++ [r] }
           else
             let c := s.olm.circ ++ [r]
             { s.olm with circ := olmTrim c.length (olmBytes c) c }
  let tail := match o.circ with | [] => 0 | x :: _ => x.seq
  ((({ s with olm := o }).setRaw OLMHEAD [] (q + 1)).setRaw OLMTAIL [] tail).wr OLMSTAT.new [] 1

/-- Rate and burst of a code: the first `OLMOVR` entry that names it, else `OLMRATE` (R362). -/
def State.olmLimit (s : State) (code : Nat) : Nat × Nat :=
  match (List.range 256).find? (fun i => s.rd OLMOVR.code [i] == code && code != 0) with
  | some i => (s.rd OLMOVR.rate [i], s.rd OLMOVR.burst [i])
  | none => (s.rd OLMRATE.rate [], s.rd OLMRATE.burst [])

/-- The bucket of a code, refilled up to now (R362): it starts full and gains one token every 1 / rate s. -/
def State.olmBucket (s : State) (code : Nat) : Bucket :=
  let (rate, burst) := s.olmLimit code
  match Sparse.get none s.olm.buckets code with
  | none => { level := burst, since := s.now }
  | some b =>
    let gained := (s.now - b.since) * rate / 1000000000000
    if burst ≤ b.level + gained then { b with level := burst, since := s.now }
    else { b with level := b.level + gained, since := b.since + gained * 1000000000000 / (max rate 1) }

/-- Stores the bucket of a code. -/
def State.setBucket (s : State) (code : Nat) (b : Bucket) : State :=
  { s with olm := { s.olm with buckets := Sparse.set none s.olm.buckets code (some b) } }

/-- Writes the SUPPRESSED record of a code and resets its count; it takes no token (R362). -/
def State.olmSuppressed (s : State) (code : Nat) (b : Bucket) : State :=
  (s.olmAppend 0x0002 (item4 code ++ item4 b.count ++ item8 b.first ++ item8 b.last)).setBucket code
    { b with count := 0, first := 0, last := 0 }

/-- Writes an olm record, or counts it as suppressed when its code's bucket is empty (R360, R362). -/
def State.olmWrite (s : State) (code : Nat) (body : List Byte) : State :=
  if code = 0x0002 ∨ code = 0x0070 ∨ (s.olmLimit code).1 = 255 then s.olmAppend code body
  else
    let b := s.olmBucket code
    if b.level = 0 then
      (s.setBucket code { b with count := b.count + 1
                                 first := if b.count = 0 then s.olmHours else b.first
                                 last := s.olmHours }).bump OLMSUPP.count []
    else
      let s1 := if b.count = 0 then s else s.olmSuppressed code b
      (s1.setBucket code { b with level := b.level - 1, count := 0, first := 0, last := 0 }).olmAppend code body

/-- The unit word of a record: the layout of `HSMON_LAST` bits [27:0] with the die in [31:28] (R363). -/
def unitWord (cls die unit kind : Nat) (prompt : Bool) : Nat :=
  cls % 256 + unit % 65536 * 256 + kind % 8 * 2 ^ 24 + b2n prompt * 2 ^ 27 + die % 16 * 2 ^ 28

/-- A FORCED record (R179, R261, R303): the die mask and a cause, whose numbers the manual does not give (log 32): free. -/
def State.forcedRecord (s : State) (mask : Nat) : State :=
  let (c, s1) := s.draw
  s1.olmWrite 0x0061 (item4 mask ++ item4 c)

/-! ### Reports to the FLT block (R381) -/

/-- A report enters the queue of 32, or is dropped with `FLTSTAT.overflow`; MOD_FAULT_N falls with the first (R381, R390). -/
def State.fltQueue (s : State) (cls die kind outcome unit : Nat) : State :=
  if 32 ≤ s.flt.queue.length then s.wr FLTSTAT.overflow [] 1
  else
    let q := s.flt.queue ++ [{ whenRaw := s.rawTicks % 2 ^ 32, cls, die, kind, outcome, unit }]
    let s1 := ({ s with flt := { s.flt with queue := q } }).wr FLTSTAT.count [] q.length
    if q.length = 1 then s1.pinOut 1 false else s1

/-- A unit is marked failed: report, `FLTCNT.lost` where nothing masks it, and the UNIT_FAILED record (R363, R381). -/
def State.fltFailed (s : State) (cls die kind outcome unit : Nat) : State :=
  let s1 := s.fltQueue cls die kind outcome unit
  let s2 := if outcome = 2 ∨ outcome = 3 then s1.bump FLTCNT.lost [] else s1
  s2.olmWrite 0x0020 (item4 (unitWord cls die unit kind false) ++ item4 kind ++ item8 s.rawTicks)

/-- A substitution completes: report with outcome masked, `FLTCNT.masked` and the SUBSTITUTED record (R363, R381). -/
def State.fltMasked (s : State) (cls die kind unit spare : Nat) : State :=
  ((s.fltQueue cls die kind 1 unit).bump FLTCNT.masked []).olmWrite 0x0021
    (item4 (unitWord cls die unit kind false) ++ item4 spare ++ item8 s.rawTicks)

/-- An event is reported to the FLT block without marking a unit failed (R74, R80, R91, R97, R200; log 21). -/
def State.fltNote (s : State) (cls die unit cause : Nat) (bulk : Bool) : State :=
  { s with flt := { s.flt with notes := s.flt.notes ++ [{ cls, die, unit, cause, bulk }] } }

end Sys2Proof.Machine
end

