-- ==== Sys2Proof/Machine/Caps.lean ====
section
/-!
DEFINITION. The latency table and the capability list, as the hub firmware presents them (R24 to R31, R40, R41, R122, R152, R182).
-/
namespace Sys2Proof.Machine

/-- An entry of a latency table (R40). -/
structure LatEntry where
  cls : Nat
  op : Nat
  fixed : Bool := false
  worst : Nat
  typ : Nat
deriving DecidableEq, Repr

/-- A clockless entry; and a fixed one, whose two latencies are equal (R40). -/
def lat (cls op typ worst : Nat) : LatEntry := { cls, op, typ, worst }
def latFix (cls op ps : Nat) : LatEntry := { cls, op, fixed := true, typ := ps, worst := ps }

/-- The entries of the first stepping, by class and op (R41, R122, R152, R182). -/
def latEntries : List LatEntry := [
  lat 0x01 0 300 450, lat 0x01 1 250 375, lat 0x02 0 1600 2400, lat 0x03 0 500 750, lat 0x04 0 800 1200, lat 0x04 1 700 1050,
  lat 0x05 0 550 825, lat 0x05 1 800 1200, lat 0x05 2 1100 1650, lat 0x05 3 2400 3600,
  lat 0x06 0 4000 6000, lat 0x06 1 500 750, lat 0x06 2 4200 6300, lat 0x06 3 500 750, lat 0x06 4 4800 7200, lat 0x06 5 1000 1500,
  lat 0x06 6 6400 9600, lat 0x06 7 16000 24000, lat 0x06 8 400 600,
  lat 0x07 0 400 600, lat 0x07 1 1200 1800, lat 0x07 2 600 900, lat 0x07 3 800 1200, lat 0x07 4 1000 1500,
  latFix 0x08 0 200, lat 0x09 0 200 300, lat 0x09 1 1200 1800,
  latFix 0x0A 0 2400, latFix 0x0A 1 2000, latFix 0x0A 2 4000, latFix 0x0A 3 2000, latFix 0x0A 4 124000, latFix 0x0A 5 34000,
  lat 0x0A 6 1200 1800, latFix 0x0A 7 2400, latFix 0x0B 0 3200, lat 0x0C 0 400 600, lat 0x0C 1 300 450]

/-- Worst-case latency of the part for a class and op, in ps; none where the table has no such entry. -/
def worstPs (cls op : Nat) : Option Nat := (latEntries.find? (fun e => e.cls == cls && e.op == op)).map (·.worst)

/-- The bytes of a table's entry (R40). -/
def LatEntry.bytes (e : LatEntry) : List Byte :=
  leBytes 4 (e.cls + e.op * 256 + b2n e.fixed * 65536) ++ leBytes 4 e.worst ++ leBytes 4 e.typ ++ leBytes 4 0

/-- The entry region. -/
def latRegion : List Byte := latEntries.flatMap LatEntry.bytes

/-- Identifier of the part's latency table (R40). -/
def latTableId : Nat := leNat ((Config.shake256 latRegion 32).take 4) % 2 ^ 32

/-- The latency table as LATTAB returns it (R40). -/
def State.latTable (s : State) : List Byte :=
  leBytes 4 0x4C544231 ++ leBytes 4 latTableId ++ leBytes 4 (s.part.stepping % 256 + 256 + latEntries.length * 65536)
    ++ leBytes 4 (4 + 105 * 256) ++ List.replicate 16 0 ++ latRegion

/-- An entry of the capability list before it is placed: id, block, word 3, mask and the words from 6 (R24, R25). -/
structure CapEntry where
  id : Nat
  block : Nat := 0
  word3 : Nat := 0
  mask : Nat
  more : List Nat := []
deriving DecidableEq, Repr

/-- Words 2 to 9 of IDENT (R29). -/
def State.identWords (s : State) : List Nat :=
  let k := s.straps
  [0x0520 + s.part.stepping * 2 ^ 16 + s.part.ordering * 2 ^ 24, s.part.identityCode, latTableId, s.part.serial % 2 ^ 32,
   s.part.serial / 2 ^ 32, s.sec.running.version,
   k.boot + k.node * 4 + k.split * 256 + b2n k.timeRole * 1024 + b2n k.hostX8 * 2048 + b2n k.t1s * 4096 + b2n k.strict * 8192, 0]

/-- The highest-numbered glowworm present, whose last two lanes are the ring lanes (R12). -/
def topGlow (mask : Nat) : Nat := ((List.range 8).filter (fun e => bitOf mask e)).getLastD 0

/-- HOST of the list (R30). -/
def State.hostCap (s : State) : CapEntry :=
  { id := 0x0014, block := 0x0210C000, mask := 1, more := [if s.straps.hostX8 then 8 else 16, if s.straps.hostX8 then 80 else 160] }

/-- The entries after IDENT, by what is present and usable (R28, R30). -/
def State.capEntries (s : State) : List CapEntry :=
  let f := s.fit
  let e := topGlow f.glow
  let x := ((List.range 4).filter (fun x => bitsOf f.dies (4 * x) 4 != 0)).foldl (fun m x => m + 2 ^ x) 0
  let has := fun (b : Bool) (c : CapEntry) => if b then [c] else []
  [{ id := 0x0010, block := 0x01000000, word3 := 0x00100000, mask := f.dies, more := [64 + 4 * 256 + 16 * 65536] },
   { id := 0x0011, block := 0x010F0000, word3 := 0x01100000, mask := f.dram, more := [24] },
   { id := 0x0012, block := 0x02000000, word3 := 0x00010000, mask := f.glow, more := [32 * e + 30 + (32 * e + 31) * 256, 3] },
   { id := 0x0013, mask := 3 - (s.flt.retired.map (fun h => 2 ^ h)).sum }, s.hostCap,
   { id := 0x0015, block := 0x00020000, mask := 1 }, { id := 0x0016, block := 0x00030000, mask := 1 }]
  ++ has f.tier2 { id := 0x0020, block := 0x02100000, word3 := 0xB4010000, mask := f.lpddr, more := [64] }
  ++ has f.train { id := 0x0021, mask := 1 } ++ has f.acq { id := 0x0022, block := 0x00040000, mask := 1 }
  ++ has f.ethMac { id := 0x0023, block := 0x02104000, word3 := 0x00010000, mask := x }
  ++ has f.t1s { id := 0x0024, block := 0x02108000, mask := 1 } ++ has f.triplex { id := 0x0025, mask := 1 }
  ++ has f.ox { id := 0x0026, block := 0x010E0000, word3 := 0x00100000, mask := f.dies, more := [8] }

/-- Entries placed one after another from a byte offset (R24, R26). -/
def placeCaps (off : Nat) : List CapEntry → List W32
  | [] => []
  | c :: cs =>
    let len := 6 + c.more.length
    let next := if cs.isEmpty then 0 else off + 4 * len
    ([c.id + 1 * 2 ^ 16 + len * 2 ^ 24, next, c.block, c.word3, c.mask % 2 ^ 32, c.mask / 2 ^ 32] ++ c.more).map (BitVec.ofNat 32)
      ++ placeCaps (off + 4 * len) cs

/-- A capability list: IDENT, then the entries given (R26, R29). -/
def State.capList (s : State) (cs : List CapEntry) : List W32 :=
  ([0x0001 + 1 * 2 ^ 16 + 10 * 2 ^ 24, if cs.isEmpty then 0 else 40] ++ s.identWords).map (BitVec.ofNat 32) ++ placeCaps 40 cs

/-- Word `i` of the CAP block: the list, zeros, and from 0x8000 the latency table (R24, R40). -/
def State.capWord (s : State) (i : Nat) : Nat :=
  if i < 0x2000 then (s.boot.caps.getD i 0).toNat else leNat ((s.latTable.drop (4 * i - 0x8000)).take 4)

/-- The CAPS answer: the list's bytes (R338). -/
def State.capBytes (s : State) : List Byte := s.boot.caps.flatMap (fun w => leBytes 4 w.toNat)

end Sys2Proof.Machine
end

