-- ==== Sys2Proof/Machine/Marks.lean ====
section
/-!
DEFINITION. Sump markers and the switch of one unit (R175, R176, R178): what every kind of unit does alike.
-/
namespace Sys2Proof.Machine

/-- The unit that produces on an edge; none for a producer that takes no part in a switch. -/
def srcUnit : Edge → Option UnitId
  | .hen n c h _ => some (.hen ⟨n, c, h⟩)
  | .port n i _ => some (.port n i)
  | .quant n c _ => some (.quant n c 0)
  | .array n a _ => some (.array n a)
  | .feed n c _ => some (.quant n c 0)
  | .chan n c k _ _ => some (.chan n c k)
  | .ox n p _ => some (.ox n p)
  | _ => none

/-- A quantiser switches as one unit: its stream number does not matter. -/
def normUnit : UnitId → UnitId
  | .quant n c _ => .quant n c 0
  | u => u

/-- Compute die of a unit. -/
def unitDie : UnitId → Nat
  | .hen h => h.die
  | .steer n _ => n
  | .chan n _ _ => n
  | .router n _ _ => n
  | .quant n _ _ => n
  | .array n _ => n
  | .gate n _ => n
  | .port n _ => n
  | .goat n _ _ _ => n
  | .ox n _ => n
  | .bridge n _ => n

/-- Die of an edge's producer, 16 for none. -/
def edgeDie (e : Edge) : Nat := match srcUnit e with | some u => unitDie u | none => 16

/-- The input edges of a unit other than back edges (R176). -/
def State.inputEdges (s : State) (u : UnitId) : List Edge :=
  ((s.die (unitDie u)).edges.filter (fun i => decide (normUnit i.dst = u) && i.prompt && !i.back)).map (·.src)

/-- The output edges of a unit. -/
def State.outputEdges (s : State) (u : UnitId) : List Edge :=
  ((s.die (unitDie u)).edges.filter (fun i => decide (srcUnit i.src = some u) && i.prompt)).map (·.src)

/-- Prompt units of a die that take part in a switch, each once. -/
def State.promptUnits (s : State) (n : Nat) : List UnitId :=
  (((s.die n).edges.filter (·.prompt)).flatMap (fun i =>
    (match srcUnit i.src with | some u => [u] | none => []) ++ [normUnit i.dst])).eraseDups.filter (fun u => unitDie u == n)

/-- A marker is out on an edge, or waits for its credit: the producer sends nothing more there (R175). -/
def State.markBlocked (s : State) (e : Edge) : Bool :=
  let d := s.die (edgeDie e)
  d.markOut.contains e || d.markWant.contains e

/-- A sump marker (R175). -/
def markerTok (target old : Nat) : Token :=
  { kind := 2, data := BitVec.ofNat 64 (target % 4), epoch := old, prompt := true }

/-- A producer sends its marker on an edge; without a credit the marker waits for one (R175). -/
def State.sendMarker (s : State) (target old : Nat) (e : Edge) : State :=
  let n := edgeDie e
  let d := s.die n
  let f : Flit := { tok := markerTok target old, edge := e }
  if edgeCredited e then
    if s.creditOf e = 0 then s.setDie n { d with markWant := d.markWant ++ [e] }
    else ((s.setDie n { d with markOut := d.markOut ++ [e] }).setCredit e (s.creditOf e - 1)).send f
  else s.send f

/-- Markers on several edges. -/
def State.sendMarkers (s : State) (target old : Nat) : List Edge → State
  | [] => s
  | e :: es => (s.sendMarker target old e).sendMarkers target old es

/-- The value of `RCFGSTAT.state` for a reconfiguration (R178). -/
def reconfState (now : Nat) (r : Reconf) : Nat :=
  if r.holding ≠ [] then 4 else if r.tPs ≤ now then 3 else 2

/-- Stores a running reconfiguration with `RCFGSTAT` following it. -/
def State.putReconf (s : State) (n : Nat) (r : Reconf) : State :=
  let s1 := s.setDie n { s.die n with reconf := some r }
  let left := (s1.promptUnits n).filter (fun u => !r.switched.contains u || r.holding.contains u)
  ((s1.wr RCFGSTAT.state [n] (reconfState s.now r)).wr RCFGSTAT.target [n] r.target).wr RCFGSTAT.pending [n] left.length

/-- A die completes its switch when every prompt unit has switched and been released (R178). -/
def State.settleDie (s : State) (n : Nat) : State :=
  match (s.die n).reconf with
  | none => s
  | some r =>
    if r.tPs ≤ s.now ∧ s.rd RCFGSTAT.pending [n] = 0 then
      (((s.setDie n { s.die n with reconf := none }).wr RCFGSTAT.state [n] 0).wr RCFGSTAT.done_at [n] s.rawTicks).wr
        GEPOCH.epoch [n] r.target
    else s

/-- The unit's state is written by the running update, or its repair list waits to be written back (R178). -/
def State.unitHeld (s : State) (r : Reconf) (u : UnitId) : Bool :=
  r.held.any (fun h => decide (h.unit = u)) ||
    (match u with
      | .hen h => !(s.clu h.die h.clu).repair.isEmpty
      | .array n a => !(Sparse.get {} s.arrs (key2 n a)).repair.isEmpty
      | _ => false)

/-- The place an address names is in the prompt partition (R16, R82): a hen's, steering's, quantiser's or goat's by its cluster. -/
def State.placePrompt (s : State) (a : BitVec 28) : Bool :=
  let n := adDie a
  match adUnit a with
  | 3 => true
  | 4 => s.portPrompt n (adPlace a % 16)
  | 6 => (Sparse.get ({} : Ox) s.oxs (key2 n (adPlace a % 8))).prompt
  | _ => s.cluPrompt n (s.physClu n (adPlace a))

/-- The seeds of cycle `c` of a die, in an epoch and with a status (R94, R176, R179). -/
def State.seedFlits (s : State) (n c epoch : Nat) (st : BitVec 4) : List Flit :=
  match (s.die n).cycles[c]? with
  | none => []
  | some x => x.seeds.map (fun t =>
      { tok := { t with epoch := epoch, status := t.status ||| st, prompt := s.placePrompt t.addr }
        edge := .seed n c })

/-- The unit that the back edge of a cycle enters (R163). -/
def State.cycleEntry (s : State) (n : Nat) (x : CycleInfo) : Option UnitId :=
  ((s.die n).edges.find? (fun i => decide (i.src = x.backEdge))).map (fun i => normUnit i.dst)

/-- What goes in again at the entries of cycles that unit `u` begins, once it has switched (R176, R253): nothing for a freeze or a carry
edge; for a thaw the saved tokens, or the seeds where there is no save. -/
def State.reseed (s : State) (u : UnitId) (r : Reconf) : State :=
  let n := unitDie u
  let cs := (List.range (s.die n).cycles.length).filter (fun c =>
    match (s.die n).cycles[c]? with
    | some x => decide (s.cycleEntry n x = some u) && (r.cause == 3 || !x.carry)
    | none => false)
  if r.cause = 2 then s
  else
    match (if r.cause = 3 then s.frozen.bind (·.carry) else none) with
    | some ks =>
      s.sendAll ((ks.filter (fun p => p.1 == n && cs.contains p.2.1)).map (fun p =>
        { tok := { p.2.2 with epoch := r.target, prompt := true }, edge := .seed n p.2.1 }))
    | none => s.sendAll (cs.flatMap (fun c => s.seedFlits n c r.target 0))

/-- A unit has switched: its markers go out, its marker credits return unless it is held (R176, R178). -/
def State.unitSwitched (s : State) (u : UnitId) (old : Nat) : State :=
  let n := unitDie u
  match (s.die n).reconf with
  | none => s
  | some r =>
    let hold := s.unitHeld r u
    let s1 := s.sendMarkers r.target old (s.outputEdges u)
    let s2 := if hold then s1 else s1.oweAll (s1.inputEdges u)
    let r1 := { r with switched := r.switched ++ [u], holding := if hold then r.holding ++ [u] else r.holding }
    ((s2.reseed u r).putReconf n r1).settleDie n

/-- Markers are in on every input edge of a unit that has not yet switched (R176). -/
def State.marksIn (s : State) (u : UnitId) : Option Reconf :=
  match (s.die (unitDie u)).reconf with
  | none => none
  | some r =>
    if !r.switched.contains u && decide (r.tPs ≤ s.now) && (s.inputEdges u).all (fun e => r.arrived.contains (u, e))
    then some r else none

/-- A marker has arrived on an edge of a unit. -/
def State.markArrived (s : State) (u : UnitId) (e : Edge) : State :=
  let n := unitDie u
  match (s.die n).reconf with
  | none => s
  | some r => s.putReconf n { r with arrived := (u, e) :: r.arrived }

/-- Logical hen and cluster state that a switch changes is seen by steering at once: a steering channel's epoch (R175). -/
def State.chanSwitch (s : State) (n c k : Nat) : State :=
  match s.marksIn (.chan n c k) with
  | none => s
  | some r =>
    let x := s.clu n c
    let old := Sparse.get 0 x.chanEpoch k
    (s.setClu n c { x with chanEpoch := Sparse.set 0 x.chanEpoch k r.target }).unitSwitched (.chan n c k) old

/-- A gate switches (R176). -/
def State.gateSwitch (s : State) (n g : Nat) : State :=
  match s.marksIn (.gate n g) with
  | none => s
  | some r =>
    let x := s.gate n g
    (s.setGate n g { x with epoch := r.target }).unitSwitched (.gate n g) x.epoch

/-- A hen switches once no context bound in the old epoch by a token of another edge than a back edge is left (R176):
contexts of back-edge tokens alone take the new epoch where every edge carries, and are freed otherwise; a freeze treats every back edge
as carry (R251), and a thaw frees what the freeze held (R253). -/
def State.henSwitch (s : State) (h : HenRef) : State :=
  match s.marksIn (.hen h) with
  | none => s
  | some r =>
    let x := s.hen h
    let old := s.rd HSTAT.epoch [h.die, h.clu, h.hen]
    if x.ctxs.any (fun p => p.2.epoch == old && p.2.ops.any (fun o => !o.back)) then s
    else
      let kept := x.ctxs.filterMap (fun p =>
        if r.cause == 2 || (r.cause != 3 && p.2.ops.all (·.carry)) then some (p.1, { p.2 with epoch := r.target }) else none)
      let s1 := (s.setHen h { x with ctxs := kept }).wr HSTAT.live [h.die, h.clu, h.hen] kept.length
      (s1.wr HSTAT.epoch [h.die, h.clu, h.hen] r.target).unitSwitched (.hen h) old

/-- A port block sends its markers ahead of the first frame at or after the switch time (R175). -/
def State.portSwitch (s : State) (n i : Nat) : State :=
  match (s.die n).reconf with
  | none => s
  | some r =>
    if r.tPs ≤ s.now ∧ ¬ r.switched.contains (.port n i) ∧ (s.promptUnits n).contains (.port n i) then
      let x := s.port n i
      (s.setPort n i { x with epoch := r.target }).unitSwitched (.port n i) x.epoch
    else s

end Sys2Proof.Machine
end

