-- ==== Sys2Proof/Machine/Queues.lean ====
section
/-!
DEFINITION. The goats' descriptors and decoupling queues, tier addresses, and the pacer's admission of bulk work (R75, R215,
R218, R219, R230).
-/
namespace Sys2Proof.Machine

/-- Key of goat `g` of physical cluster `c` of die `n`. -/
def goatKey (n c g : Nat) : Nat := (n * 1024 + c) * 2 + g

def State.goat (s : State) (n c g : Nat) : Goat := Sparse.get {} s.goats (goatKey n c g)
def State.setGoat (s : State) (n c g : Nat) (x : Goat) : State := { s with goats := Sparse.set {} s.goats (goatKey n c g) x }
def State.barrier (s : State) (b : Nat) : Barrier := Sparse.get {} s.barriers b
def State.setBarrier (s : State) (b : Nat) (x : Barrier) : State := { s with barriers := Sparse.set {} s.barriers b x }
def Goat.queue (x : Goat) (q : Nat) : GQueue := Sparse.get {} x.queues q
def Goat.setQueue (x : Goat) (q : Nat) (v : GQueue) : Goat := { x with queues := Sparse.set {} x.queues q v }
def Goat.stream (x : Goat) (d : Nat) : GStream := Sparse.get {} x.streams d
def Goat.setStream (x : Goat) (d : Nat) (v : GStream) : Goat := { x with streams := Sparse.set {} x.streams d v }

/-! ### Descriptors (R218) -/

/-- A goat descriptor. -/
structure GDesc where
  kind : Nat
  queue : Nat
  space : Nat
  dir : Bool
  trig : Bool
  func : Nat
  barrier : Nat
  ckpt : Bool
  base : Nat
  n0 : Nat
  n1 : Nat
  n2 : Nat
  n3 : Nat
  s1 : Int
  s2 : Int
  s3 : Int
  sramBase : Nat
  sramLen : Nat
  notify : Nat
  index : Nat
  credit : Nat
  granule : Nat
deriving DecidableEq, Repr

/-- A 64-bit word as a signed number. -/
def signed64 (v : Nat) : Int := if v < 2 ^ 63 then v else (v : Int) - 2 ^ 64

/-- Word `w` of descriptor `d`. -/
def Goat.word (x : Goat) (d w : Nat) : Nat := leNat (Sparse.getBytes x.mem (64 * d + 8 * w) 8)

/-- Descriptor `d` (R218): levels above `levels` have one iteration. -/
def Goat.desc (x : Goat) (d : Nat) : GDesc :=
  let a := x.word d 0
  let n := x.word d 2
  let lv := bitsOf a 10 2
  let m := x.word d 6
  let z := x.word d 7
  { kind := bitsOf a 0 3, queue := bitsOf a 3 3, space := bitsOf a 6 2, dir := bitOf a 8, trig := bitOf a 9
    func := bitsOf a 32 4, barrier := bitsOf a 36 4, ckpt := bitOf a 40, base := x.word d 1
    n0 := bitsOf n 0 16, n1 := if 1 ≤ lv then bitsOf n 16 16 else 0, n2 := if 2 ≤ lv then bitsOf n 32 16 else 0
    n3 := if 3 ≤ lv then bitsOf n 48 16 else 0
    s1 := signed64 (x.word d 3), s2 := signed64 (x.word d 4), s3 := signed64 (x.word d 5)
    sramBase := bitsOf m 0 22, sramLen := if bitsOf m 22 22 = 0 then 2 ^ 22 else bitsOf m 22 22
    notify := bitsOf z 0 28, index := bitsOf z 28 4, credit := bitsOf z 32 7, granule := bitsOf z 39 5 }

/-- Lines of a run (R219). -/
def GDesc.lines (d : GDesc) : Nat := (d.n0 + 1) * (d.n1 + 1) * (d.n2 + 1) * (d.n3 + 1)

/-- Byte address of line `k`, offset included, before any ring wrap (R219). -/
def GDesc.lineAddr (d : GDesc) (off k : Nat) : Int :=
  let i0 := k % (d.n0 + 1)
  let k1 := k / (d.n0 + 1)
  let i1 := k1 % (d.n1 + 1)
  let k2 := k1 / (d.n1 + 1)
  let i2 := k2 % (d.n2 + 1)
  let i3 := k2 / (d.n2 + 1)
  (d.base : Int) + off + 128 * i0 + d.s1 * i1 + d.s2 * i2 + d.s3 * i3

/-- SRAM byte address of line `k` (R219). -/
def GDesc.lineSram (d : GDesc) (k : Nat) : Nat := d.sramBase + 128 * k % d.sramLen

/-- The descriptor that names queue `q` of a goat. -/
def Goat.queueDesc (x : Goat) (q : Nat) : Option Nat :=
  (List.range 16).find? (fun d => ((x.desc d).kind == 1 || (x.desc d).kind == 2) && (x.desc d).queue == q)

/-- A goat is put back with `GTSTAT.active` and `GTQ` following it. -/
def State.putGoat (s : State) (n c g : Nat) (x : Goat) : State :=
  let act := (List.range 16).foldl (fun a d => a + (if (x.stream d).run.isSome then 2 ^ d else 0)) 0
  (List.range 8).foldl (fun a q =>
    let v := x.queue q
    ((((a.wr GTQ.fill [n, c, g, q] (v.entries.length + v.leaving)).wr GTQ.reserved [n, c, g, q] v.reserved).wr
      GTQ.dir [n, c, g, q] (match x.queueDesc q with | some d => b2n ((x.desc d).kind == 2) | none => 0)).wr
      GTQ.bound [n, c, g, q] (b2n (x.queueDesc q).isSome)))
    ((s.setGoat n c g x).wr GTSTAT.active [n, c, g] act)

/-! ### The pacer (R230) -/

/-- Phase `i` of 16 admits bulk issue at pacer step `r` (R230). -/
def phaseAdmits (r i : Nat) : Bool := decide (i * (r + 1) / 16 < (i + 1) * (r + 1) / 16)

/-- Bulk work may start on a die: its phase admits and no droop pause is in effect (R230). -/
def State.bulkAdmits (s : State) (n : Nat) : Bool :=
  !s.flag BPACE.paused [n] && phaseAdmits (s.rd BPACE.step [n]) (Sparse.get 0 s.pacer n % 16)

/-! ### Memory tiers (R215) -/

/-- Bytes of a die's tier 1, and of that below its image store. -/
def tier1Bytes : Nat := 48000000000
def tier1Goat : Nat := 0xB0D05E000

/-- Packages of tier 2, and its bytes (R215). -/
def State.packages (s : State) : List Nat := (List.range 20).filter (fun p => bitOf s.fit.lpddr p)
def State.tier2Bytes (s : State) : Nat := if s.fit.tier2 then s.packages.length * 64000000000 else 0

/-- Package that holds a tier-2 address (R215). -/
def State.tier2Package (s : State) (a : Nat) : Nat := s.packages.getD (a / 4096 % max 1 s.packages.length) 0

/-- Tier-1 bytes of a die. -/
def State.tier1 (s : State) (n : Nat) : Sparse Byte := Sparse.get [] s.dram n
def State.setTier1 (s : State) (n : Nat) (m : Sparse Byte) : State := { s with dram := Sparse.set [] s.dram n m }

end Sys2Proof.Machine
end

