-- ==== Sys2Proof/Machine/Gates.lean ====
section
/-!
DEFINITION. Release gates (R43 to R54): anchors, beat entries, firing, fallback and redundancy.
-/
namespace Sys2Proof.Machine

/-- Bits of a decision status (R52). -/
def stLate : BitVec 4 := 1
def stFault : BitVec 4 := 2
def stSubst : BitVec 4 := 4
def stProv : BitVec 4 := 8

/-- The OR of the statuses of a list of tokens (R52). -/
def orStatus : List GateTok → BitVec 4
  | [] => 0
  | t :: ts => t.flit.tok.status ||| orStatus ts

/-- D − O of a gate in ps: the time from anchor to firing (R43). -/
def State.gateDelay (s : State) (n g : Nat) : Nat :=
  (s.rd GDEADLINE.deadline [n, g] - s.rd GDEADLINE.offset [n, g]) * vernierPs

/-- Puts a gate back with `GSTAT.pending` following its entries (R45). -/
def State.putGate (s : State) (n g : Nat) (x : Gate) : State :=
  (s.setGate n g x).wr GSTAT.pending [n, g] x.entries.length

/-- Allocates the entry of a beat whose anchor is known (R44, R45). -/
def State.gateAdmit (s : State) (n g : Nat) (beat : W16) (anchor : Nat) : State :=
  let x := s.gate n g
  s.putGate n g { x with entries := x.entries ++ [{ beat, anchor, fire := anchor + s.gateDelay n g }] }

/-- A stamp reaches an ARRIVAL gate (R44, R46, R47). -/
def State.gateStamp (s : State) (n g : Nat) (beat : W16) (anchor : Nat) : State :=
  if s.flag GCFG.enable [n, g] && !s.flag GCFG.mode [n, g] then
    if 64 ≤ (s.gate n g).entries.length then
      (s.bump GCNT_OVERRUN.count [n, g]).wr GSTAT.overrun [n, g] 1
    else s.gateAdmit n g beat (anchor / vernierPs * vernierPs)
  else s

/-- Anchor of beat `k` of a schedule, ps (R44). -/
def State.schedAnchor (s : State) (n g k : Nat) : Nat :=
  s.rd GSCHED_BASE.tick [n, g] * tickPs + s.rd GSCHED_BASE.vernier [n, g] * vernierPs
    + k * (s.rd GSCHED_PERIOD.period [n, g] * vernierPs)

/-- The least beat of the schedule anchored at or after `t` (R47). -/
def State.schedFirst (s : State) (n g t : Nat) : Nat :=
  let base := s.schedAnchor n g 0
  let p := s.rd GSCHED_PERIOD.period [n, g] * vernierPs
  if t ≤ base then 0 else (t - base + p - 1) / p

/-- A SCHEDULE gate admits the next beat of its schedule at the beat's anchor (R44, R47). -/
def execScheduleAnchor (n g : Nat) (s : State) : Host.Outcome State Fault Refusal :=
  if s.flag GCFG.enable [n, g] && s.flag GCFG.mode [n, g] && decide ((s.gate n g).entries.length < 64) then
    let x := s.gate n g
    let k := match x.schedNext with
      | some k => k
      | none => s.schedFirst n g (max x.enabledAt (s.die n).startPs)
    let a := s.schedAnchor n g k
    let s1 := (s.upTo a).setGate n g { x with schedNext := some (k + 1) }
    .next (s1.gateAdmit n g (BitVec.ofNat 16 k) a)
  else .next s

/-- An ARRIVAL stamp with its beat number reaches a gate (R44, R46). `anchor` is the stamp in ps. -/
def execArrivalStamp (n g : Nat) (beat : W16) (anchor : Nat) (s : State) : Host.Outcome State Fault Refusal :=
  .next (({ s with stamps := s.stamps.filter (fun p => !(p.die == n && p.gate == g && p.beat == beat)) }).gateStamp n g beat anchor)

/-- A token is discarded at a gate, counted and its credit returned (R45, R49, R92). -/
def State.gateDiscard (s : State) (n g : Nat) (f : Flit) : State :=
  (s.bump GCNT_DISCARD.count [n, g]).owe f.edge

/-- An entry already holds a token for the flit's position and copy. -/
def GateEntry.has (e : GateEntry) (f : Flit) : Bool :=
  e.toks.any (fun x => x.flit.tok.operand == f.tok.operand && x.flit.tok.copy == f.tok.copy)

/-- Adds a token to the entry of its beat. -/
def placeTok (f : Flit) (t : Nat) : List GateEntry → List GateEntry
  | [] => []
  | e :: es => if e.beat = f.tok.beat then { e with toks := e.toks ++ [{ flit := f, at_ := t }] } :: es
               else e :: placeTok f t es

/-- An output token completes at a gate at instant `t` (R45, R49). -/
def State.gateToken (s0 : State) (n g : Nat) (f : Flit) (t : Nat) : State :=
  let s := (s0.upTo t).arrive (.gate n g) f
  let x := s.gate n g
  if f.tok.kind = 3 then s
  else if f.tok.epoch ≠ x.epoch then s.gateDiscard n g f
  else
    match x.entries.find? (fun e => e.beat == f.tok.beat) with
    | none => s.gateDiscard n g f
    | some e =>
      if s.rd GCFG.tokens [n, g] < f.tok.operand ∨ s.rd GCFG.redundancy [n, g] < f.tok.copy ∨ e.has f = true then
        s.gateDiscard n g f
      else s.setGate n g { x with entries := placeTok f s.now x.entries }

/-- The token of position `p` and copy `c` among those taken as present. -/
def tokAt (ts : List GateTok) (c p : Nat) : Option GateTok :=
  ts.find? (fun x => x.flit.tok.copy == c && x.flit.tok.operand == p)

/-- The values of copy `c` when every one of its `m` tokens is present (R51). -/
def copyValue (ts : List GateTok) (c m : Nat) : Option (List W64) :=
  (List.range m).mapM (fun p => (tokAt ts c p).map (·.flit.tok.data))

/-- The tokens of copy `c`. -/
def ofCopy (ts : List GateTok) (c : Nat) : List GateTok := ts.filter (fun x => x.flit.tok.copy == c)

/-- What a gate releases at its firing time (R51): the value of the contributing copies, or the fallback with the bit set. -/
inductive Verdict where
  | value (v : List W64) (contrib : List GateTok) (masked : Bool)
  | fallback (bit : BitVec 4)
deriving DecidableEq, Repr

/-- The table of R51 for `m` tokens a copy. -/
def gateVerdict (redundancy m : Nat) (ts : List GateTok) : Verdict :=
  match redundancy, copyValue ts 0 m, copyValue ts 1 m, copyValue ts 2 m with
  | 0, some v, _, _ => .value v (ofCopy ts 0) false
  | 0, none, _, _ => .fallback stLate
  | 1, some v, some w, _ => if v = w then .value v (ofCopy ts 0 ++ ofCopy ts 1) false else .fallback stFault
  | 1, _, _, _ => .fallback stLate
  | _, some u, some v, some w =>
    if u = v ∧ v = w then .value u ts false
    else if u = v then .value u (ofCopy ts 0 ++ ofCopy ts 1) true
    else if u = w then .value u (ofCopy ts 0 ++ ofCopy ts 2) true
    else if v = w then .value v (ofCopy ts 1 ++ ofCopy ts 2) true
    else .fallback stFault
  | _, some u, some v, none => if u = v then .value u (ofCopy ts 0 ++ ofCopy ts 1) true else .fallback stLate
  | _, some u, none, some w => if u = w then .value u (ofCopy ts 0 ++ ofCopy ts 2) true else .fallback stLate
  | _, none, some v, some w => if v = w then .value v (ofCopy ts 1 ++ ofCopy ts 2) true else .fallback stLate
  | _, _, _, _ => .fallback stLate

/-- The fallback value of each of `m` positions (R50). -/
def State.fallbackValue (s : State) (n g m : Nat) : List W64 :=
  match s.rd GCFG.fallback [n, g] with
  | 0 => (List.range m).map (fun p => (s.gate n g).lastGood.getD p 0)
  | 1 => List.replicate m 0
  | 2 => List.replicate m (BitVec.ofNat 64 (s.raw GACCEPT [n, g]))
  | _ => List.replicate m (BitVec.ofNat 64 (s.raw GREJECT [n, g]))

/-- GATE_SETUP (R41, R48), ps. -/
def gateSetup : Nat := 200

/-- The tokens taken as present at firing time `fire`: those complete 200 ps before it, and of those inside the setup
window the ones a free value takes (R48, log 3). Answers the tokens and whether any lay in the window. -/
def takePresent (fire : Nat) : List GateTok → Nat → List GateTok × Bool × Nat
  | [], k => ([], false, k)
  | t :: ts, k =>
    if t.at_ + gateSetup ≤ fire then
      let (r, w, k') := takePresent fire ts k
      (t :: r, w, k')
    else if t.at_ < fire then
      let (r, _, k') := takePresent fire ts (k + 1)
      (if Config.freeNat k % 2 = 1 then t :: r else r, true, k')
    else takePresent fire ts k

/-- The entry with the least firing time, the first of equal ones. -/
def firstEntry : List GateEntry → Option GateEntry
  | [] => none
  | e :: es =>
    match firstEntry es with
    | none => some e
    | some x => if x.fire < e.fire then some x else some e

/-- Latest completion of a list of tokens. -/
def lastAt : List GateTok → Nat
  | [] => 0
  | t :: ts => max t.at_ (lastAt ts)

/-- Counts, flags and the olm record of a release (R53). -/
def State.gateCount (s : State) (n g : Nat) (beat : W16) (status : BitVec 4) (masked : Bool) : State :=
  let s1 := s.addWrap GCNT_RELEASED.count [n, g] 1
  let s2 := if status &&& stLate = 0 then s1 else (s1.bump GCNT_LATE.count [n, g]).wr GSTAT.late [n, g] 1
  let s3 := if status &&& stFault = 0 then s2 else (s2.bump GCNT_FAULT.count [n, g]).wr GSTAT.fault [n, g] 1
  let s3 := { s3 with vote := { s3.vote with late := s3.vote.late + b2n (status &&& stLate != 0)
                                             fault := s3.vote.fault + b2n (status &&& stFault != 0) } }
  let s4 := if masked then s3.bump GCNT_MASKED.count [n, g] else s3
  if status &&& (stLate ||| stFault) = 0 then s4
  else s4.olmWrite 0x0030 (item4 n ++ item4 g ++ item4 beat.toNat ++ item4 status.toNat)

/-- What a gate's firing makes (R48 to R53): the release and the state after it; `none` where no entry is allocated, and while the time
base has failed (R378). -/
def State.gateFire (s0 : State) (n g : Nat) : Option (Release × State) :=
  match s0.flt.oscFailed, firstEntry (s0.gate n g).entries with
  | true, _ => none
  | false, none => none
  | false, some e =>
    let s := s0.upTo e.fire
    let m := s.rd GCFG.tokens [n, g] + 1
    let (present, window, fresh) := takePresent e.fire e.toks s.fresh
    let s1 := { s with fresh := fresh }
    let s2 := if window then s1.wr GSTAT.window [n, g] 1 else s1
    let verdict := if n ∈ s.flt.stopped then Verdict.fallback stFault
                   else gateVerdict (s.rd GCFG.redundancy [n, g]) m present
    let (values, status, good, masked) : List W64 × BitVec 4 × Bool × Bool := match verdict with
      | .value v c k => (v, orStatus c, true, k)
      | .fallback b => (s.fallbackValue n g m, orStatus present ||| b, false, false)
    let x := s.gate n g
    let clean := status &&& (stLate ||| stFault) = 0
    let s3 := s2.putGate n g { x with
      entries := x.entries.filter (fun y => y.beat ≠ e.beat)
      lastGood := if clean then values else x.lastGood }
    let lateToks := e.toks.filter (fun t => decide (e.fire ≤ t.at_))
    let s4 := (s3.add GCNT_DISCARD.count [n, g] lateToks.length).oweAll (e.toks.map (·.flit.edge))
    let slack := (e.fire - gateSetup - lastAt present) / vernierPs
    let s5 := if good then
        s4.wr GSLACK_MIN.slack [n, g] (min (s4.rd GSLACK_MIN.slack [n, g]) slack)
      else s4
    let s6 := (s5.gateCount n g e.beat status masked).wr GSTAT.last_beat [n, g] e.beat.toNat
    let s7 := if s6.flag HISTCFG.active [n] && s6.flag HISTCFG.decisions [n] then
        { s6 with histTap := s6.histTap ++ [.decision n g e.beat (s6.rd GEPOCH.epoch [n]) status values e.fire] }
      else s6
    some ({ die := n, gate := g, beat := e.beat, anchor := e.anchor, fire := e.fire, values, status }, s7)

/-- An output token completes at a gate (R45, R49). -/
def execGateToken (n g : Nat) (f : Flit) (t : Nat) (s : State) : Host.Outcome State Fault Refusal :=
  .next (s.gateToken n g f t)

/-- Bit `g` of `GATEPRES` follows `GCFG.enable` (R54). -/
def State.gatePresent (s : State) (n g : Nat) (on : Bool) : State :=
  s.setRaw GATEPRES [n] (setBits (s.raw GATEPRES [n]) g 1 (b2n on))

/-- Frees every entry of a gate without release, each counted, and returns their credits (R54, R92). -/
def State.gateClear (s : State) (n g : Nat) : State :=
  let x := s.gate n g
  let es := x.entries.flatMap (fun e => e.toks.map (·.flit.edge))
  ((s.add GCNT_OVERRUN.count [n, g] x.entries.length).putGate n g { x with entries := [] }).oweAll es

/-- A gate is enabled: nothing is held over from before (R47, R50). -/
def State.gateEnable (s : State) (n g : Nat) : State :=
  (s.setGate n g { s.gate n g with entries := [], lastGood := [], schedNext := none, enabledAt := s.now }).gatePresent n g true

/-- Stores a value in the writable fields of `GCFG`. -/
def State.storeGcfg (s : State) (n g : Nat) (v : W32) : State := s.setRaw GCFG [n, g] (v.toNat % 2 ^ 19)

/-- A write to `GCFG` (R9, R54): redundancy 3 is refused; an enabled gate takes only a write that clears `enable`. -/
def State.writeGcfg (s : State) (n g : Nat) (v : W32) : State :=
  if bitsOf v.toNat 4 2 = 3 then s
  else if s.flag GCFG.enable [n, g] then
    if bitOf v.toNat 0 then s
    else (((s.gateClear n g).storeGcfg n g v).gatePresent n g false)
  else
    let s1 := s.storeGcfg n g v
    if bitOf v.toNat 0 then s1.gateEnable n g else s1

/-- Any write to `GSLACK_MIN` sets 0xFFFF (R48, its table). -/
def execGslackMinWrite (n g : Nat) (_v : W32) (s : State) : Host.Outcome State Fault Refusal :=
  .next (s.wr GSLACK_MIN.slack [n, g] 0xFFFF)

end Sys2Proof.Machine
end

