-- ==== Sys2Proof/Machine/Numeric.lean ====
section
/-!
DEFINITION. Numbers: exact values, the one rounding of R134, the element formats of R129, and the floating operations of R70.
-/
namespace Sys2Proof.Machine

/-- A value a format can hold (R129): a finite one is (−1)^neg × m × 2^e. -/
inductive Num where
  | nan
  | inf (neg : Bool)
  | fin (neg : Bool) (m : Nat) (e : Int)
deriving DecidableEq, Repr

/-- An exact magnitude num / den × 2^e with its sign (R133). -/
structure Exact where
  neg : Bool
  num : Nat
  den : Nat
  e : Int
deriving DecidableEq, Repr

/-- How a value is rounded (R134, R135): to nearest, ties to even, or stochastically with the 32 bits given. -/
inductive Rounding where
  | rne
  | bits (r : Nat)
deriving DecidableEq, Repr

/-- A floating format (R129): width, exponent bits, mantissa bits, bias, code of the largest finite magnitude, codes of
infinity and of the canonical NaN where it has them. -/
structure FFmt where
  width : Nat
  ebits : Nat
  p : Nat
  bias : Nat
  maxCode : Nat
  inf : Option Nat
  nan : Option Nat
  /-- overflow gives infinity without asking for `e5m2_ieee` (R136) -/
  ovInf : Bool
deriving DecidableEq, Repr

def fp32 : FFmt := ⟨32, 8, 23, 127, 0x7F7FFFFF, some 0x7F800000, some 0x7FC00000, true⟩
def bf16 : FFmt := ⟨16, 8, 7, 127, 0x7F7F, some 0x7F80, some 0x7FC0, true⟩
def fp16 : FFmt := ⟨16, 5, 10, 15, 0x7BFF, some 0x7C00, some 0x7E00, true⟩
def e4m3 : FFmt := ⟨8, 4, 3, 7, 0x7E, none, some 0x7F, false⟩
def e5m2 : FFmt := ⟨8, 5, 2, 15, 0x7B, some 0x7C, some 0x7E, false⟩
def e3m2 : FFmt := ⟨6, 3, 2, 3, 0x1F, none, none, false⟩
def e2m3 : FFmt := ⟨6, 2, 3, 1, 0x1F, none, none, false⟩
def e2m1 : FFmt := ⟨4, 2, 1, 1, 0x7, none, none, false⟩

/-- emin (R129). -/
def FFmt.emin (f : FFmt) : Int := 1 - (f.bias : Int)

/-- The value of a code (R129). -/
def FFmt.decode (f : FFmt) (code : Nat) : Num :=
  let c := code % 2 ^ (f.width - 1)
  let neg := bitOf code (f.width - 1)
  let ex := c / 2 ^ f.p
  let man := c % 2 ^ f.p
  if f.maxCode < c then
    match f.inf with
    | some i => if c = i then .inf neg else .nan
    | none => .nan
  else if ex = 0 then .fin neg man (f.emin - f.p)
  else .fin neg (man + 2 ^ f.p) ((ex : Int) - f.bias - f.p)

/-- num × 2^k for a signed k over a denominator: the pair of numerator and denominator. -/
def scaleBy (num den : Nat) (k : Int) : Nat × Nat :=
  if 0 ≤ k then (num * 2 ^ k.toNat, den) else (num, den * 2 ^ (-k).toNat)

/-- floor(log2(num / den)) for a positive quotient. -/
def floorLog2 (num den : Nat) : Int :=
  let k : Int := (Nat.log2 num : Int) - Nat.log2 den
  let (a, b) := scaleBy num den (-k)
  if b ≤ a then k else k - 1

/-- The integer that num / den rounds to (R134). -/
def roundQuot (mode : Rounding) (num den : Nat) : Nat :=
  let q := num / den
  let r := num % den
  match mode with
  | .rne => if den < 2 * r ∨ (2 * r = den ∧ q % 2 = 1) then q + 1 else q
  | .bits b => if b < r * 2 ^ 32 / den then q + 1 else q

/-- Sign bit of a format placed on a magnitude code. -/
def FFmt.withSign (f : FFmt) (neg : Bool) (c : Nat) : Nat := c + b2n neg * 2 ^ (f.width - 1)

/-- The overflow result (R136). -/
def FFmt.overflow (f : FFmt) (ieee neg : Bool) : Nat :=
  match f.inf with
  | some i => if f.ovInf || ieee then f.withSign neg i else f.withSign neg f.maxCode
  | none => f.withSign neg f.maxCode

/-- The one rounding of R134 to a floating format, with overflow told (R136). -/
def FFmt.round (f : FFmt) (ieee : Bool) (mode : Rounding) (x : Exact) : Nat × Bool :=
  if x.num = 0 then (f.withSign x.neg 0, false)
  else
    let ue := max (floorLog2 x.num x.den + x.e) f.emin - f.p
    let (a, b) := scaleBy x.num x.den (x.e - ue)
    let q := roundQuot mode a b
    let code := ((ue + f.p + f.bias - 1).toNat) * 2 ^ f.p + q
    if f.maxCode < code then (f.overflow ieee x.neg, true) else (f.withSign x.neg code, false)

/-- The exact value of a finite number. -/
def exactOf (neg : Bool) (m : Nat) (e : Int) : Exact := { neg, num := m, den := 1, e }

/-- Conversion of any value to a floating format (R134, R136, R137): code, overflow, NaN made zero. -/
def FFmt.convert (f : FFmt) (ieee : Bool) (mode : Rounding) : Num → Nat × Bool × Bool
  | .nan => match f.nan with
    | some c => (c, false, false)
    | none => (0, false, true)
  | .inf neg =>
    match f.inf with
    | some i => if f.ovInf || ieee then (f.withSign neg i, false, false) else (f.withSign neg f.maxCode, true, false)
    | none => (f.withSign neg f.maxCode, true, false)
  | .fin neg m e => let (c, o) := f.round ieee mode (exactOf neg m e); (c, o, false)

/-- A number as an n-bit two's complement code. -/
def intCode (n : Nat) (v : Int) : Nat := (v % (2 ^ n : Int)).toNat

/-- The value of an n-bit two's complement code. -/
def intOf (n code : Nat) : Int :=
  let c := code % 2 ^ n
  if bitOf c (n - 1) then (c : Int) - 2 ^ n else c

/-- The signed integer an exact value rounds to (R134, u = 1). -/
def Exact.toInt (mode : Rounding) (x : Exact) : Int :=
  let (a, b) := scaleBy x.num x.den x.e
  let q : Int := roundQuot mode a b
  if x.neg then -q else q

/-- Clamp to a range; whether it was outside. -/
def clampInt (lo hi v : Int) : Int × Bool := if v < lo then (lo, true) else if hi < v then (hi, true) else (v, false)

/-- Conversion of any value to an integer of n bits with limits lo and hi (R134, R136, R137): value, overflow, NaN. -/
def convertInt (lo hi : Int) (mode : Rounding) : Num → Int × Bool × Bool
  | .nan => (0, false, true)
  | .inf neg => (if neg then lo else hi, true, false)
  | .fin neg m e => let (v, o) := clampInt lo hi ((exactOf neg m e).toInt mode); (v, o, false)

/-! ### Floating operations of the hen (R70): the exact result rounded once, to nearest, ties to even -/

/-- Rounds a finite exact result under R70. -/
def FFmt.rnd (f : FFmt) (x : Exact) : Nat := (f.round true .rne x).1

/-- The canonical NaN of a format, 0 where it has none. -/
def FFmt.qnan (f : FFmt) : Nat := f.nan.getD 0

/-- Infinity of a sign. -/
def FFmt.infOf (f : FFmt) (neg : Bool) : Nat := f.withSign neg (f.inf.getD f.maxCode)

/-- A signed magnitude at exponent e as a plain integer at a lower exponent. -/
def signedAt (neg : Bool) (m : Nat) (e base : Int) : Int :=
  let v : Int := (m * 2 ^ (e - base).toNat : Nat)
  if neg then -v else v

/-- Exact sum of two finite values; a zero sum of unlike signs is +0, of like signs keeps the sign (R70). -/
def addFin (n1 : Bool) (m1 : Nat) (e1 : Int) (n2 : Bool) (m2 : Nat) (e2 : Int) : Exact :=
  let base := min e1 e2
  let v := signedAt n1 m1 e1 base + signedAt n2 m2 e2 base
  { neg := if v = 0 then n1 && n2 else decide (v < 0), num := v.natAbs, den := 1, e := base }

/-- Sum of two values in a format. -/
def FFmt.addNum (f : FFmt) : Num → Num → Nat
  | .nan, _ => f.qnan
  | _, .nan => f.qnan
  | .inf a, .inf b => if a = b then f.infOf a else f.qnan
  | .inf a, _ => f.infOf a
  | _, .inf b => f.infOf b
  | .fin a m e, .fin b k g => f.rnd (addFin a m e b k g)

/-- The negated value. -/
def Num.negate : Num → Num
  | .nan => .nan
  | .inf a => .inf (!a)
  | .fin a m e => .fin (!a) m e

/-- The exact product of two values; infinity times zero is NaN. -/
def mulNum : Num → Num → Num
  | .nan, _ => .nan
  | _, .nan => .nan
  | .inf a, .inf b => .inf (a != b)
  | .inf a, .fin b m _ => if m = 0 then .nan else .inf (a != b)
  | .fin a m _, .inf b => if m = 0 then .nan else .inf (a != b)
  | .fin a m e, .fin b k g => .fin (a != b) (m * k) (e + g)

/-- A value rounded into a format under R70. -/
def FFmt.ofNum (f : FFmt) : Num → Nat
  | .nan => f.qnan
  | .inf a => f.infOf a
  | .fin a m e => f.rnd (exactOf a m e)

def FFmt.add (f : FFmt) (x y : Nat) : Nat := f.addNum (f.decode x) (f.decode y)
def FFmt.sub (f : FFmt) (x y : Nat) : Nat := f.addNum (f.decode x) (f.decode y).negate
def FFmt.mul (f : FFmt) (x y : Nat) : Nat := f.ofNum (mulNum (f.decode x) (f.decode y))

/-- d + x × y with one rounding. -/
def FFmt.fma (f : FFmt) (d x y : Nat) : Nat := f.addNum (f.decode d) (mulNum (f.decode x) (f.decode y))

/-- Quotient with one rounding; 0/0 and inf/inf are NaN, x/0 an infinity. -/
def FFmt.div (f : FFmt) (x y : Nat) : Nat :=
  match f.decode x, f.decode y with
  | .nan, _ => f.qnan
  | _, .nan => f.qnan
  | .inf _, .inf _ => f.qnan
  | .inf a, .fin b _ _ => f.infOf (a != b)
  | .fin a _ _, .inf b => f.withSign (a != b) 0
  | .fin a m e, .fin b k g =>
    if k = 0 then (if m = 0 then f.qnan else f.infOf (a != b))
    else f.rnd { neg := a != b, num := m, den := k, e := e - g }

/-- Integer square root, bit by bit from bit `k - 1` down. -/
def isqrtAux (n : Nat) : Nat → Nat → Nat
  | 0, r => r
  | k + 1, r => let c := r + 2 ^ k; isqrtAux n k (if c * c ≤ n then c else r)

/-- Integer square root. -/
def isqrt (n : Nat) : Nat := isqrtAux n (Nat.log2 n / 2 + 1) 0

/-- Square root with one rounding; a negative non-zero operand gives NaN, −0 gives −0. -/
def FFmt.sqrt (f : FFmt) (x : Nat) : Nat :=
  match f.decode x with
  | .nan => f.qnan
  | .inf a => if a then f.qnan else f.infOf false
  | .fin a m e =>
    if m = 0 then f.withSign a 0
    else if a then f.qnan
    else
      let odd := e % 2 = 1
      let m1 := (if odd then 2 * m else m) * 2 ^ 64
      let e1 : Int := ((if odd then e - 1 else e) - 64) / 2
      let r := isqrt m1
      let sticky := if r * r = m1 then 0 else 1
      f.rnd { neg := false, num := 2 * r + sticky, den := 1, e := e1 - 1 }

/-- Finite values in order: the sign of their difference. -/
def ltFin (n1 : Bool) (m1 : Nat) (e1 : Int) (n2 : Bool) (m2 : Nat) (e2 : Int) : Bool :=
  let base := min e1 e2
  decide (signedAt n1 m1 e1 base < signedAt n2 m2 e2 base)

/-- a < b, false with a NaN; the two zeros are equal. -/
def Num.lt : Num → Num → Bool
  | .nan, _ => false
  | _, .nan => false
  | .inf a, .inf b => a && !b
  | .inf a, _ => a
  | _, .inf b => !b
  | .fin a m e, .fin b k g => ltFin a m e b k g

/-- Neither is a NaN. -/
def Num.ordered (a b : Num) : Bool := a != .nan && b != .nan

/-- a = b as numbers, false with a NaN. -/
def Num.eqv (a b : Num) : Bool := a.ordered b && !a.lt b && !b.lt a

/-- Sign of a value. -/
def Num.sign : Num → Bool
  | .nan => false
  | .inf a => a
  | .fin a _ _ => a

/-- minimumNumber of IEEE 754-2019, −0 below +0 (R70). -/
def FFmt.minNum (f : FFmt) (x y : Nat) : Nat :=
  match f.decode x, f.decode y with
  | .nan, .nan => f.qnan
  | .nan, b => f.ofNum b
  | a, .nan => f.ofNum a
  | a, b => if a.lt b ∨ (a.eqv b ∧ a.sign) then f.ofNum a else f.ofNum b

/-- maximumNumber of IEEE 754-2019, −0 below +0 (R70). -/
def FFmt.maxNum (f : FFmt) (x y : Nat) : Nat :=
  match f.decode x, f.decode y with
  | .nan, .nan => f.qnan
  | .nan, b => f.ofNum b
  | a, .nan => f.ofNum a
  | a, b => if b.lt a ∨ (a.eqv b ∧ b.sign) then f.ofNum a else f.ofNum b

/-- Sign bit cleared (R68). -/
def FFmt.abs (f : FFmt) (x : Nat) : Nat := x % 2 ^ (f.width - 1)

/-- Sign bit flipped (R68). -/
def FFmt.neg (f : FFmt) (x : Nat) : Nat := f.withSign (!bitOf x (f.width - 1)) (x % 2 ^ (f.width - 1))

def FFmt.ceq (f : FFmt) (x y : Nat) : Bool := (f.decode x).eqv (f.decode y)
def FFmt.clt (f : FFmt) (x y : Nat) : Bool := (f.decode x).lt (f.decode y)
def FFmt.cle (f : FFmt) (x y : Nat) : Bool :=
  (f.decode x).ordered (f.decode y) && !(f.decode y).lt (f.decode x)

/-! ### Conversion formats (R71, R148) -/

/-- An element format by its code (R71, R148): an integer of n bits, or a floating format. -/
inductive EFmt where
  | int (n : Nat)
  | flt (f : FFmt)
deriving DecidableEq, Repr

/-- The format of a code, 0 to 11 of R71 and 12 for i4 (R148). -/
def eFmt : Nat → Option EFmt
  | 0 => some (.int 8) | 1 => some (.int 16) | 2 => some (.int 32) | 3 => some (.int 64)
  | 4 => some (.flt fp32) | 5 => some (.flt bf16) | 6 => some (.flt fp16)
  | 7 => some (.flt e4m3) | 8 => some (.flt e5m2) | 9 => some (.flt e3m2) | 10 => some (.flt e2m3) | 11 => some (.flt e2m1)
  | 12 => some (.int 4)
  | _ => none

/-- Bits an element occupies in tokens and memory (R71, R130): 6-bit elements take a byte. -/
def EFmt.lane : EFmt → Nat
  | .int n => n
  | .flt f => if f.width = 6 then 8 else f.width

/-- The value of an element (R129, R130): bits above its width are ignored. -/
def EFmt.decode : EFmt → Nat → Num
  | .int n, c => let v := intOf n c; .fin (decide (v < 0)) v.natAbs 0
  | .flt f, c => f.decode (c % 2 ^ f.width)

/-- Conversion to an element with the full integer range (R71, R134): code, overflow, NaN. -/
def EFmt.convert (ieee : Bool) (mode : Rounding) : EFmt → Num → Nat × Bool × Bool
  | .int n, v => let (x, o, k) := convertInt (-(2 ^ (n - 1) : Int)) (2 ^ (n - 1) - 1) mode v; (intCode n x, o, k)
  | .flt f, v => f.convert ieee mode v

/-- `CVT` of the lanes of `x` (R71): the smaller lane count, packed from bit 0, e5m2 in its default mode. -/
def cvtLanes (src dst : EFmt) (x : Nat) : Nat :=
  let n := min (64 / src.lane) (64 / dst.lane)
  (List.range n).foldr (fun i acc =>
    acc + (dst.convert false .rne (src.decode (bitsOf x (i * src.lane) src.lane))).1 * 2 ^ (i * dst.lane)) 0

end Sys2Proof.Machine
end

