-- ==== Sys2Proof/Machine/HenAlu.lean ====
section
/-!
DEFINITION. The hen's instruction word and its arithmetic (R66 to R71): fields, legality, and the value each operation computes.
-/
namespace Sys2Proof.Machine

/-! ### Fields of an instruction word (R66) -/

def iOp (w : W32) : Nat := bitsOf w.toNat 26 6
def iRd (w : W32) : Nat := bitsOf w.toNat 21 5
def iRa (w : W32) : Nat := bitsOf w.toNat 16 5
def iRb (w : W32) : Nat := bitsOf w.toNat 11 5
def iType (w : W32) : Nat := bitsOf w.toNat 8 3
def iFunc (w : W32) : Nat := bitsOf w.toNat 0 8
def iImm (w : W32) : Nat := bitsOf w.toNat 0 16
/-- X format: route, operand, tag source and signed tag step. -/
def iRoute (w : W32) : Nat := bitsOf w.toNat 12 4
def iK (w : W32) : Nat := bitsOf w.toNat 9 3
def iTsrc (w : W32) : Nat := bitsOf w.toNat 8 1
def iDelta (w : W32) : Nat := bitsOf w.toNat 0 8
/-- Q format: queue, count and last. -/
def iQ (w : W32) : Nat := bitsOf w.toNat 11 4
def iN (w : W32) : Nat := bitsOf w.toNat 1 6 + 1
def iLast (w : W32) : Bool := bitOf w.toNat 0

/-- Sign extension of an n-bit field to 64 bits. -/
def sext64 (n v : Nat) : W64 := BitVec.ofInt 64 (intOf n v)

/-! ### Lanes (R67) -/

/-- Lane width of a type; 0 for the reserved type 7. -/
def laneBits : Nat → Nat
  | 0 => 64 | 1 => 8 | 2 => 16 | 3 => 32 | 4 => 32 | 5 => 16 | 6 => 16 | _ => 0

/-- The floating format of types 4 to 6. -/
def laneFmt : Nat → FFmt
  | 4 => fp32 | 5 => bf16 | _ => fp16

/-- Lane `j` of width `b`. -/
def lane (b j x : Nat) : Nat := bitsOf x (j * b) b

/-- A word built lane by lane of width `b`. -/
def mapLanes (b : Nat) (f : Nat → Nat) : Nat :=
  (List.range (64 / b)).foldr (fun j acc => acc + f j % 2 ^ b * 2 ^ (j * b)) 0

/-- A lane operation on two operands. -/
def lanes2 (b : Nat) (op : Nat → Nat → Nat) (x y : Nat) : W64 :=
  BitVec.ofNat 64 (mapLanes b (fun j => op (lane b j x) (lane b j y)))

/-- A lane operation on one operand. -/
def lanes1 (b : Nat) (op : Nat → Nat) (x : Nat) : W64 := BitVec.ofNat 64 (mapLanes b (fun j => op (lane b j x)))

/-! ### Integer lane operations (R68, R69), on the codes of one lane of `b` bits -/

def sMin (b : Nat) : Int := -(2 ^ (b - 1) : Int)
def sMax (b : Nat) : Int := 2 ^ (b - 1) - 1

def opAdd (b x y : Nat) : Nat := (x + y) % 2 ^ b
def opSub (b x y : Nat) : Nat := (x + 2 ^ b - y) % 2 ^ b
def opAdds (b x y : Nat) : Nat := intCode b (clampInt (sMin b) (sMax b) (intOf b x + intOf b y)).1
def opSubs (b x y : Nat) : Nat := intCode b (clampInt (sMin b) (sMax b) (intOf b x - intOf b y)).1
def opAddus (b x y : Nat) : Nat := min (x + y) (2 ^ b - 1)
def opSubus (_b x y : Nat) : Nat := x - y
def opShl (b x y : Nat) : Nat := x * 2 ^ (y % b) % 2 ^ b
def opShr (b x y : Nat) : Nat := x / 2 ^ (y % b)
def opSar (b x y : Nat) : Nat := intCode b (intOf b x / (2 ^ (y % b) : Int))
def opRol (b x y : Nat) : Nat := (x * 2 ^ (y % b) + x / 2 ^ (b - y % b)) % 2 ^ b
def opMin (b x y : Nat) : Nat := if intOf b x ≤ intOf b y then x else y
def opMax (b x y : Nat) : Nat := if intOf b x ≤ intOf b y then y else x
def opMinu (_b x y : Nat) : Nat := min x y
def opMaxu (_b x y : Nat) : Nat := max x y
/-- All ones for true, 0 for false. -/
def allOnes (b : Nat) (t : Bool) : Nat := if t then 2 ^ b - 1 else 0
def opCeq (b x y : Nat) : Nat := allOnes b (x == y)
def opClt (b x y : Nat) : Nat := allOnes b (decide (intOf b x < intOf b y))
def opCltu (b x y : Nat) : Nat := allOnes b (decide (x < y))
def opPopc (b x : Nat) : Nat := (List.range b).foldr (fun i n => n + b2n (bitOf x i)) 0
def opClz (b x : Nat) : Nat := if x = 0 then b else b - 1 - Nat.log2 x
def opCtz (b x : Nat) : Nat := ((List.range b).find? (fun i => bitOf x i)).getD b
def opMul (b x y : Nat) : Nat := x * y % 2 ^ b
def opMulh (b x y : Nat) : Nat := intCode b (intOf b x * intOf b y / (2 ^ b : Int))
def opMulhu (b x y : Nat) : Nat := x * y / 2 ^ b
/-- Division truncates toward zero; by zero the quotient is 0 and the remainder the dividend (R69). -/
def opDiv (b x y : Nat) : Nat := intCode b ((intOf b x).tdiv (intOf b y))
def opRem (b x y : Nat) : Nat := intCode b (if y = 0 then intOf b x else (intOf b x).tmod (intOf b y))
def opDivu (_b x y : Nat) : Nat := x / y
def opRemu (_b x y : Nat) : Nat := x % y

/-- Σ of the signed lane products, as i64 (R69). -/
def opDot (b : Nat) (x y : Nat) : W64 :=
  BitVec.ofInt 64 ((List.range (64 / b)).foldr (fun j acc => acc + intOf b (lane b j x) * intOf b (lane b j y)) 0)

/-- Per lane: a where the lane of d is not 0, else b (R68). -/
def opSel (b d x y : Nat) : W64 :=
  BitVec.ofNat 64 (mapLanes b (fun j => if lane b j d ≠ 0 then lane b j x else lane b j y))

/-- `FMA` on the lanes (R70). -/
def opFma (f : FFmt) (d x y : Nat) : W64 :=
  BitVec.ofNat 64 (mapLanes f.width (fun j => f.fma (lane f.width j d) (lane f.width j x) (lane f.width j y)))

/-! ### The ALU and FPU tables of R68 -/

/-- Types an ALU func may take, and whether rb must be 0. -/
def aluTypes (func : Nat) : List Nat × Bool :=
  if func ∈ [0x00, 0x01, 0x02, 0x03, 0x04, 0x05, 0x10, 0x11, 0x12, 0x13, 0x18, 0x19, 0x1A, 0x1B, 0x20, 0x21, 0x22,
             0x30, 0x31, 0x32] then ([0, 1, 2, 3], false)
  else if func ∈ [0x28, 0x29, 0x2A] then ([0, 1, 2, 3], true)
  else if func ∈ [0x08, 0x09, 0x0A, 0x0B] then ([0], false)
  else if func = 0x33 then ([1, 2], false)
  else if func ∈ [0x38, 0x39, 0x3A, 0x3B] then ([0, 3], false)
  else ([], false)

/-- Types an FPU func may take, and whether rb must be 0. -/
def fpuTypes (func : Nat) : List Nat × Bool :=
  if func ∈ [0x00, 0x01, 0x02, 0x03, 0x04, 0x08, 0x09, 0x0A] then ([4, 5, 6], false)
  else if func ∈ [0x05, 0x06] then ([4, 5, 6], true)
  else if func = 0x10 then ([4], false)
  else if func = 0x11 then ([4], true)
  else ([], false)

/-- The word is a listed combination of op, func and type with every unused field 0 and no constant register as
destination (R66, R68). A branch's target and a route's word are judged where they are used. -/
def henLegal (w : W32) : Bool :=
  let rd := iRd w
  let ra := iRa w
  let rb := iRb w
  let imm := iImm w
  let dst := decide (rd < 16)
  match iOp w with
  | 0x01 => let (ts, u) := aluTypes (iFunc w); dst && ts.contains (iType w) && (!u || rb == 0)
  | 0x02 | 0x03 | 0x04 | 0x05 => dst
  | 0x06 | 0x07 => dst && ra / 4 == 0
  | 0x08 => dst && decide (iType w ≤ 6) && iFunc w == 0
  | 0x09 | 0x0A => dst && imm / 4096 == 0
  | 0x0B => dst && ra == 0 && decide (imm ≤ 9)
  | 0x0C => rd == 0 && ra == 0 && imm / 8 == 0
  | 0x0D | 0x0E | 0x0F => dst && imm / 64 == 0
  | 0x10 => let (ts, u) := fpuTypes (iFunc w); dst && ts.contains (iType w) && (!u || rb == 0)
  | 0x11 => dst && [4, 5, 6].contains (iType w) && iFunc w == 0
  | 0x12 => dst && iType w == 0 && rb == 0 && decide (iFunc w / 16 ≤ 11) && decide (iFunc w % 16 ≤ 11)
  | 0x18 | 0x19 | 0x1A | 0x1B => dst
  | 0x1C | 0x1D | 0x1E | 0x1F => true
  | 0x20 => if iTsrc w = 0 then ra == 0 else iDelta w == 0
  | 0x24 => rd == 0 && ra == 0 && bitsOf imm 15 1 == 0 && bitsOf imm 7 4 == 0 && !iLast w
  | 0x25 => dst && ra == 0 && bitsOf imm 15 1 == 0 && bitsOf imm 7 4 == 0 && iN w == 1
  | 0x26 => ra == 0 && bitsOf imm 15 1 == 0 && bitsOf imm 7 4 == 0 && iN w == 1
  | 0x28 => rd == 0 && imm / 32 == 0 && (imm % 2 == 1 || imm == 0)
  | 0x30 => rd == 0 && ra == 0
  | 0x31 | 0x32 => ra == 0
  | 0x33 | 0x34 | 0x35 | 0x36 | 0x37 | 0x38 => true
  | 0x3E => bitsOf w.toNat 0 26 == 0
  | _ => false

/-- The target of a branch at word `pc`, if it lies in the code words 48 to 1,023 (R66, R68). -/
def branchTarget (w : W32) (pc : Nat) : Option Nat :=
  let t := (pc : Int) + intOf 16 (iImm w)
  if 48 ≤ t ∧ t ≤ 1023 then some t.toNat else none

end Sys2Proof.Machine
end

