-- ==== Sys2Proof/Machine/Hens.lean ====
section
/-!
DEFINITION. Hens and the steering unit in front of them (R55 to R62, R74, R79, R80, R89 to R91): binding, firing,
retirement, the two fault paths, and the holding and release of tokens.
-/
namespace Sys2Proof.Machine

/-! ### A hen's tables (R56, R57) -/

/-- Word `i` of IMEM. -/
def Hen.word (x : Hen) (i : Nat) : W32 := Sparse.get 0 x.imem i

/-- pc of entry `e`; 0 unused. -/
def Hen.entryPc (x : Hen) (e : Nat) : Nat := bitsOf (x.word (2 * e)).toNat 0 10
def Hen.need (x : Hen) (e : Nat) : Nat := bitsOf (x.word (2 * e)).toNat 16 8
def Hen.window (x : Hen) (e : Nat) : Nat := bitsOf (x.word (2 * e)).toNat 24 6
def Hen.qmask (x : Hen) (e : Nat) : Nat := bitsOf (x.word (2 * e + 1)).toNat 16 16
def Hen.baseTag (x : Hen) (e : Nat) : W16 := Sparse.get 0 x.base e
def Hen.doneMask (x : Hen) (e : Nat) : W32 := Sparse.get 0 x.done e

/-- Distance of a tag from the base of its entry (R58). -/
def Hen.dist (x : Hen) (e : Nat) (tag : W16) : Nat := (tag - x.baseTag e).toNat

/-- The classes of R58. -/
inductive TagClass where
  | inWindow | stale | ahead
deriving DecidableEq, Repr

/-- Classification of a tag against the entry window (R58). -/
def Hen.classify (x : Hen) (e : Nat) (tag : W16) : TagClass :=
  let d := x.dist e tag
  if d < x.window e then (if bitOf (x.doneMask e).toNat d then .stale else .inWindow)
  else if d < 32768 then .ahead else .stale

/-- A context's register: r0 to r15, then c0 to c15 (R66). -/
def Hen.reg (x : Hen) (c : Ctx) (r : Nat) : W64 := if r < 16 then Sparse.get 0 c.regs r else Sparse.get 0 x.consts (r - 16)

/-- Writes a context register. -/
def Ctx.setReg (c : Ctx) (r : Nat) (v : W64) : Ctx := { c with regs := Sparse.set 0 c.regs r v }

/-- Puts a hen back with `HSTAT.live` following its bound contexts. -/
def State.putHen (s : State) (h : HenRef) (x : Hen) : State :=
  (s.setHen h x).wr HSTAT.live [h.die, h.clu, h.hen] x.ctxs.length

/-- Stores a context. -/
def State.putCtx (s : State) (x : CtxRef) (c : Ctx) : State :=
  let h := s.hen x.hen
  s.putHen x.hen { h with ctxs := Sparse.insert h.ctxs x.ctx c }

/-! ### Steering (R89 to R91) -/

/-- The address of logical hen `h` of logical cluster `c` of die `n` (R82). -/
def henAddr (n c h : Nat) : BitVec 28 := BitVec.ofNat 28 (n * 2 ^ 24 + c * 2 ^ 15 + h * 2 ^ 9)

/-- Counts a list's elements that a test accepts. -/
def countIf {α : Type} (p : α → Bool) (l : List α) : Nat := (l.filter p).length

def Slot.isAhead (x : Slot) : Bool := match x.kind with | .ahead _ => true | .subst _ => true | _ => false
def Slot.isUnmatched (x : Slot) : Bool := match x.kind with | .data => true | .control _ _ => true | _ => false

/-- Puts a cluster back with `STEERSTAT` following its slots; `extra` slots were taken in passing (R89). -/
def State.putSlots (s : State) (n c : Nat) (x : Cluster) (extra : Nat) : State :=
  let s1 := (s.setClu n c x).wr STEERSTAT.in_use [n, c] x.slots.length
  let s2 := s1.wr STEERSTAT.ahead [n, c] (countIf Slot.isAhead x.slots)
  let s3 := s2.wr STEERSTAT.unmatched [n, c] (countIf Slot.isUnmatched x.slots)
  s3.wr STEERSTAT.peak [n, c] (max (s3.rd STEERSTAT.peak [n, c]) (x.slots.length + extra))

/-- The steering unit delivers a token to its logical hen and returns its credit (R89, R92). -/
def State.deliver (s : State) (f : Flit) : State := (s.send f).owe f.edge

/-- The edge is a cycle's back edge whose state survives a switch (R176), as all do in a freeze (R251); a seed stands for its cycle's
back edge. -/
def State.carryEdge (s : State) (n : Nat) (e : Edge) : Bool :=
  (match e with | .seed m c => (((s.die m).cycles[c]?).map (·.carry)).getD false | _ => false) ||
  (s.die n).edges.any (fun i => decide (i.src = e) && i.back && (i.carry || s.rd DETSTAT.stream [] == 1))

/-- The edge is a back edge (R176). -/
def State.backEdge (s : State) (n : Nat) (e : Edge) : Bool :=
  (match e with | .seed _ _ => true | _ => false) ||
  (s.die n).edges.any (fun i => decide (i.src = e) && i.back)

/-- A token of an old epoch that arrives on a carry edge is relabelled with the consumer's epoch (R176). -/
def State.relabel (s : State) (n epoch : Nat) (f : Flit) : Flit :=
  if f.tok.epoch ≠ epoch && s.carryEdge n f.edge then { f with tok := { f.tok with epoch := epoch } } else f

/-- Discards a token at the steering unit (R91, R92). -/
def State.steerDiscard (s : State) (n c : Nat) (f : Flit) : State := (s.bump STEERCNT.discard [n, c]).owe f.edge

/-- Where a direct token for logical hen `lh` goes: held for a substitution, held as ahead, or delivered (R58, R89, R100). -/
def State.directHold (s : State) (n c lh : Nat) (f : Flit) : Option SlotKind :=
  if (s.clu n c).henSubst = some lh then some (.subst lh)
  else
    let x := s.hen ⟨n, c, s.physHen n c lh⟩
    if x.entryPc f.tok.index ≠ 0 ∧ x.classify f.tok.index f.tok.tag = .ahead then some (.ahead lh) else none

/-- A direct token that took its slot at `taken` is held or delivered (R89, R91). -/
def State.steerDirect (s : State) (n c lh : Nat) (f : Flit) (taken : Nat) : State :=
  let x := s.clu n c
  match s.directHold n c lh f with
  | some k => s.putSlots n c { x with slots := x.slots ++ [{ flit := f, kind := k, taken := taken }] } 0
  | none => (s.putSlots n c x 1).deliver f

/-- The token a match forwards (R90): the data token to the control token's hen and entry, statuses joined. -/
def forwardTok (n cl : Nat) (control data : Token) : Token :=
  { data with
    addr := henAddr n cl (bitsOf control.data.toNat 0 6)
    index := bitsOf control.data.toNat 6 4
    status := data.status ||| control.status |||
      (if control.beat ≠ data.beat ∨ control.copy ≠ data.copy then stFault else 0) }

/-- Same steering channel and tag (R90). -/
def sameKey (a b : Token) : Bool := adSub a.addr % 16 == adSub b.addr % 16 && a.tag == b.tag

/-- The waiting data tokens that a control token's mask takes, in arrival order, each bit once (R90). Answers the mask left,
the slots kept and the tokens matched. -/
def matchData (ctl : Token) : Nat → List Slot → Nat × List Slot × List Slot
  | mask, [] => (mask, [], [])
  | mask, x :: xs =>
    if x.kind = .data ∧ sameKey ctl x.flit.tok = true ∧ bitOf mask x.flit.tok.operand = true then
      let (m, ks, fs) := matchData ctl (mask - 2 ^ x.flit.tok.operand) xs
      (m, ks, x :: fs)
    else
      let (m, ks, fs) := matchData ctl mask xs
      (m, x :: ks, fs)

/-- Forwards matched data tokens one after another (R90): each keeps its slot if it is held as ahead. -/
def State.forwardAll (s : State) (n c : Nat) (ctl : Token) : List Slot → State
  | [] => s
  | x :: xs =>
    let lh := bitsOf ctl.data.toNat 0 6
    ((s.steerDirect n c lh { x.flit with tok := forwardTok n (s.logClu n c) ctl x.flit.tok } x.taken).forwardAll n c ctl xs)

/-- Takes the first slot a test accepts out of a list. -/
def takeSlot (p : Slot → Bool) : List Slot → Option (Slot × List Slot)
  | [] => none
  | x :: xs => if p x then some (x, xs) else (takeSlot p xs).map (fun r => (r.1, x :: r.2))

/-- An active control token with mask `mask` meets the data tokens that wait for it; when its mask reaches 0 its slot is freed
and the next control token of the key, if one waits, becomes active (R90). `fuel` bounds the chain by the slots. -/
def State.steerControl (s : State) (n c : Nat) (f : Flit) (mask taken : Nat) : Nat → State
  | 0 => s
  | fuel + 1 =>
    let x := s.clu n c
    let (m, kept, fs) := matchData f.tok mask x.slots
    if m ≠ 0 then
      let slot : Slot := { flit := f, kind := .control m true, taken := taken }
      (s.putSlots n c { x with slots := kept ++ [slot] } 0).forwardAll n c f.tok fs
    else
      let s1 := ((s.putSlots n c { x with slots := kept } 1).owe f.edge).forwardAll n c f.tok fs
      let y := s1.clu n c
      match takeSlot (fun z => sameKey f.tok z.flit.tok && (match z.kind with | .control _ false => true | _ => false)) y.slots with
      | none => s1
      | some (z, rest) =>
        let mk := match z.kind with | .control k _ => k | _ => 0
        (s1.putSlots n c { y with slots := rest } 0).steerControl n c z.flit mk z.taken fuel

/-- Clears bit `k` of the active control token of a key, and frees it at 0 (R90). -/
def clearBit (t : Token) (k : Nat) : List Slot → Option (Flit × Nat) × List Slot
  | [] => (none, [])
  | x :: xs =>
    match x.kind with
    | .control m true =>
      if sameKey t x.flit.tok && bitOf m k then
        let m' := m - 2 ^ k
        (some (x.flit, m'), if m' = 0 then xs else { x with kind := .control m' true } :: xs)
      else let (r, ys) := clearBit t k xs; (r, x :: ys)
    | _ => let (r, ys) := clearBit t k xs; (r, x :: ys)

/-- A token to a steering channel (R90, R91). -/
def State.steerChannel (s : State) (n c : Nat) (f : Flit) : State :=
  let x := s.clu n c
  let ch := adSub f.tok.addr % 16
  if !bitOf (s.rd STEERCFG.channels [n, c]) ch then s.steerDiscard n c f
  else if f.tok.kind = 1 then
    let mask := bitsOf f.tok.data.toNat 10 8
    if mask = 0 ∨ f.tok.data.toNat / 2 ^ 18 ≠ 0 then s.steerDiscard n c f
    else if x.slots.any (fun z => sameKey f.tok z.flit.tok && (match z.kind with | .control _ _ => true | _ => false)) then
      s.putSlots n c { x with slots := x.slots ++ [{ flit := f, kind := .control mask false, taken := s.now }] } 0
    else s.steerControl n c f mask s.now 64
  else
    match clearBit f.tok f.tok.operand x.slots with
    | (none, _) =>
      s.putSlots n c { x with slots := x.slots ++ [{ flit := f, kind := .data, taken := s.now }] } 0
    | (some (ctl, m), rest) =>
      let s1 := s.putSlots n c { x with slots := rest } 1
      let s2 := if m = 0 then s1.owe ctl.edge else s1
      let lh := bitsOf ctl.tok.data.toNat 0 6
      let s3 := s2.steerDirect n c lh { f with tok := forwardTok n (s.logClu n c) ctl.tok f.tok } s.now
      if m ≠ 0 then s3
      else
        let y := s3.clu n c
        match takeSlot (fun z => sameKey ctl.tok z.flit.tok && (match z.kind with | .control _ false => true | _ => false)) y.slots with
        | none => s3
        | some (z, rest2) =>
          let mk := match z.kind with | .control k _ => k | _ => 0
          (s3.putSlots n c { y with slots := rest2 } 0).steerControl n c z.flit mk z.taken 64

/-- Epoch of the hen or steering channel a token is addressed to (R91, R175). -/
def State.steerEpoch (s : State) (n c : Nat) (t : Token) : Nat :=
  if adUnit t.addr = 1 then Sparse.get 0 (s.clu n c).chanEpoch (adSub t.addr % 16)
  else s.rd HSTAT.epoch [n, c, s.physHen n c (adSub t.addr)]

/-- A token reaches the steering unit of physical cluster `c` at instant `t` (R89 to R91). -/
def State.steerToken (s0 : State) (n c : Nat) (f0 : Flit) (t : Nat) : State :=
  let s := if f0.tok.kind = 2 then s0.upTo t else (s0.upTo t).arrive (.steer n c) f0
  if f0.tok.kind = 2 ∨ f0.tok.kind = 3 then s
  else
    let ep := s.steerEpoch n c f0.tok
    let f := s.relabel n ep f0
    if f.tok.epoch ≠ ep then s.steerDiscard n c f
    else if adUnit f.tok.addr = 1 then s.steerChannel n c f
    else s.steerDirect n c (adSub f.tok.addr) f s.now

/-- Inserts a slot into a list ordered by distance, after those of equal distance (R89). -/
def insertByDist (d : Nat) (x : Slot) : List (Nat × Slot) → List (Nat × Slot)
  | [] => [(d, x)]
  | (e, y) :: r => if d < e then (d, x) :: (e, y) :: r else (e, y) :: insertByDist d x r

/-- Delivers slots in order. -/
def State.deliverAll (s : State) : List (Nat × Slot) → State
  | [] => s
  | (_, x) :: r => (s.deliver x.flit).deliverAll r

/-- Held tokens of logical hen `lh` whose tags are no longer ahead are released, in ascending distance, in arrival order
among equals (R62, R89). `freed` also releases those held for a substitution (R100). -/
def State.steerRelease (s : State) (n c lh : Nat) (freed : Bool) : State :=
  let x := s.clu n c
  let hen := s.hen ⟨n, c, s.physHen n c lh⟩
  let go := fun (z : Slot) => match z.kind with
    | .ahead h => h == lh && decide (hen.classify z.flit.tok.index z.flit.tok.tag ≠ .ahead)
    | .subst h => freed && h == lh && decide (hen.classify z.flit.tok.index z.flit.tok.tag ≠ .ahead)
    | _ => false
  let keep := (x.slots.filter (fun z => !go z)).map (fun z => match z.kind with
    | .subst h => if freed && h == lh then { z with kind := .ahead h, taken := s.now } else z
    | _ => z)
  let out := (x.slots.filter go).foldl (fun acc z => insertByDist (hen.dist z.flit.tok.index z.flit.tok.tag) z acc) []
  (s.putSlots n c { x with slots := keep } 0).deliverAll out

/-! ### Binding and firing (R59 to R61) -/

/-- The bound context of a key, with its number. -/
def Hen.findCtx (x : Hen) (e : Nat) (tag : W16) : Option (Nat × Ctx) :=
  x.ctxs.find? (fun p => p.2.entry == e && p.2.tag == tag)

/-- The lowest-numbered free context of 32 (R59). -/
def Hen.freeCtx (x : Hen) : Option Nat := (List.range 32).find? (fun i => (Sparse.find x.ctxs i).isNone)

/-- Operands present, as a mask. -/
def opMask : List Opnd → Nat
  | [] => 0
  | o :: os => if bitOf (opMask os) o.k then opMask os else 2 ^ o.k + opMask os

/-- OR of operand statuses. -/
def opStatus : List Opnd → BitVec 4
  | [] => 0
  | o :: os => o.status ||| opStatus os

/-- The operand of lowest number. -/
def lowestOp : List Opnd → Option Opnd
  | [] => none
  | o :: os => match lowestOp os with
    | none => some o
    | some p => if p.k < o.k then some p else some o

/-- Registers at firing: r(k) the operand k, the rest zero (R60). -/
def opRegs : List Opnd → Sparse W64
  | [] => []
  | o :: os => Sparse.set 0 (opRegs os) o.k o.data

/-- A context whose need mask is met fires (R60). -/
def Ctx.tryFire (c : Ctx) (pc : Nat) : Ctx :=
  if c.fired ∨ opMask c.ops &&& c.need ≠ c.need then c
  else
    match lowestOp c.ops with
    | none => c
    | some o =>
      let mixed := c.ops.any (fun p => p.beat != o.beat || p.copy != o.copy)
      { c with
        fired := true, regs := opRegs c.ops, beat := o.beat, copy := o.copy, pc := pc, wait := .ready
        status := c.status ||| opStatus c.ops ||| (if mixed then stFault else 0) }

/-- A token is discarded at a hen (R61). -/
def State.henDiscard (s : State) (h : HenRef) : State := s.bump HCNT_TOKEN.discard [h.die, h.clu, h.hen]

/-- The operand a token brings. -/
def State.opndOf (s : State) (n : Nat) (f : Flit) : Opnd :=
  { k := f.tok.operand, data := f.tok.data, status := f.tok.status, beat := f.tok.beat, copy := f.tok.copy
    back := s.backEdge n f.edge, carry := s.carryEdge n f.edge }

/-- An in-window token binds a context or joins the one bound to its key (R59 to R61). -/
def State.henBind (s : State) (h : HenRef) (f : Flit) : State :=
  let x := s.hen h
  let e := f.tok.index
  match x.findCtx e f.tok.tag with
  | some (i, c) =>
    if c.fired ∨ c.ops.any (fun o => o.k == f.tok.operand) then
      (s.bump HCNT_TOKEN.dup [h.die, h.clu, h.hen]).putCtx ⟨h, i⟩ { c with status := c.status ||| stFault }
    else s.putCtx ⟨h, i⟩ (({ c with ops := c.ops ++ [s.opndOf h.die f] } : Ctx).tryFire (x.entryPc e))
  | none =>
    match x.freeCtx with
    | none => s
    | some i =>
      s.putCtx ⟨h, i⟩ (({ entry := e, tag := f.tok.tag, epoch := f.tok.epoch, need := x.need e
                          ops := [s.opndOf h.die f], bound := s.now } : Ctx).tryFire (x.entryPc e))

/-- A token reaches a hen at instant `t` and is classified (R58 to R61). An ahead token is not accepted: it stays where it was. -/
def State.henToken (s0 : State) (h : HenRef) (f0 : Flit) (t : Nat) : State :=
  let x := s0.hen h
  let ep := s0.rd HSTAT.epoch [h.die, h.clu, h.hen]
  let f := s0.relabel h.die ep f0
  if f.tok.kind = 3 then (s0.upTo t).arrive (.hen h) f0
  else if f.tok.epoch = ep ∧ x.entryPc f.tok.index ≠ 0 ∧ x.classify f.tok.index f.tok.tag = .ahead then s0.upTo t
  else
    let s := (s0.upTo t).arrive (.hen h) f0
    if f.tok.epoch ≠ ep ∨ x.entryPc f.tok.index = 0 ∨ x.classify f.tok.index f.tok.tag = .stale
        ∨ bitOf (x.need f.tok.index) f.tok.operand = false then s.henDiscard h
    else s.henBind h f

/-! ### Retirement and the fault paths (R62, R74, R79, R80) -/

/-- Shifts the done mask past finished tags and raises the base (R62). -/
def advanceBase : Nat → W16 → W32 → W16 × W32
  | 0, b, d => (b, d)
  | n + 1, b, d => if d &&& 1 = 1 then advanceBase n (b + 1) (d >>> 1) else (b, d)

/-- A context retires: it becomes free, its done bit is set, the base advances, and steering releases what has come
into the window (R62, R79, R89). -/
def State.retire (s : State) (x : CtxRef) : State :=
  let h := s.hen x.hen
  match Sparse.find h.ctxs x.ctx with
  | none => s
  | some c =>
    let d := h.doneMask c.entry ||| (1 <<< h.dist c.entry c.tag)
    let (b, m) := advanceBase 32 (h.baseTag c.entry) d
    let h1 := { h with
      ctxs := Sparse.erase h.ctxs x.ctx
      base := Sparse.set 0 h.base c.entry b
      done := Sparse.set 0 h.done c.entry m
      sendQ := h.sendQ.filter (fun i => i ≠ x.ctx) }
    let s1 := s.putHen x.hen h1
    let y := s1.clu x.hen.die x.hen.clu
    let s2 := s1.setClu x.hen.die x.hen.clu { y with bankQ := y.bankQ.filter (fun a => a.who ≠ .ctx x) }
    (s2.steerRelease x.hen.die x.hen.clu (s.logHen x.hen) false).henSwitch x.hen

/-- Unit word of a hen for the olm. -/
def State.henWord (s : State) (h : HenRef) : Nat := unitWord 0x05 h.die (henUnit h) 0 (s.cluPrompt h.die h.clu)

/-- The illegal path (R74): the context retires at once, flagged, counted, reported and recorded. -/
def State.illegalPath (s : State) (x : CtxRef) (pc : Nat) : State :=
  let i := [x.hen.die, x.hen.clu, x.hen.hen]
  let s1 := ((s.wr HSTAT.illegal i 1).bump HCNT_FAULT.illegal i).fltNote 0x05 x.hen.die (henUnit x.hen) 2 (!s.cluPrompt x.hen.die x.hen.clu)
  (s1.olmWrite 0x0040 (item4 (s.henWord x.hen) ++ item4 1 ++ item4 pc)).retire x

/-- A context goes on to the next word; past word 1,023 it takes the illegal path instead (R74). -/
def State.stepCtx (s : State) (x : CtxRef) (c : Ctx) : State :=
  if c.pc = 1023 then (s.putCtx x c).illegalPath x 1023
  else s.putCtx x { c with pc := c.pc + 1, wait := .ready }

/-- The fault path (R74): a destination takes 0, FAULT enters the status, the event is counted and reported, and the context
continues. -/
def State.faultPath (s : State) (x : CtxRef) (c : Ctx) (rd : Option Nat) : State :=
  let i := [x.hen.die, x.hen.clu, x.hen.hen]
  let c1 := match rd with | some r => c.setReg r 0 | none => c
  let s1 := ((s.bump HCNT_FAULT.access i).wr HSTAT.fault_seen i 1).fltNote 0x05 x.hen.die (henUnit x.hen) 1
    (!s.cluPrompt x.hen.die x.hen.clu)
  s1.stepCtx x { c1 with status := c1.status ||| stFault }

/-- Age limit of a cluster, ps; 0 disables it (R80). -/
def State.ageLimit (s : State) (n c : Nat) : Nat :=
  if s.cluPrompt n c then s.rd HENCFG.age_prompt [n, c] * 100000 else s.rd HENCFG.age_bulk [n, c] * 1000000

end Sys2Proof.Machine
end

