-- ==== Sys2Proof/Machine/Arrays.lean ====
section
/-!
DEFINITION. Flowstone arrays (R105 to R128, R177, R369): vectors, weight registers and fills, exact and floating
accumulation, output scaling, the store, ballast.
-/
namespace Sys2Proof.Machine

/-! ### Formats of a set (R105, R114, R128) -/

/-- An operand format of a set: element, block scale (0 none, 1 MX, 2 qb) and the fixed exponent of its integer codes. -/
structure SetFmt where
  elem : EFmt
  blk : Nat
  eOff : Int
deriving DecidableEq, Repr

/-- The codes of R128 by class. -/
def setFmt : Nat → Nat → Option SetFmt
  | 0, 0 => some ⟨.int 8, 0, 0⟩
  | 0, 1 => some ⟨.flt e4m3, 0, 0⟩
  | 0, 2 => some ⟨.flt e5m2, 0, 0⟩
  | 0, 3 => some ⟨.flt e3m2, 0, 0⟩
  | 0, 4 => some ⟨.flt e2m3, 0, 0⟩
  | 0, 5 => some ⟨.int 8, 1, -6⟩
  | 0, 6 => some ⟨.flt e4m3, 1, 0⟩
  | 0, 7 => some ⟨.flt e5m2, 1, 0⟩
  | 0, 8 => some ⟨.flt e3m2, 1, 0⟩
  | 0, 9 => some ⟨.flt e2m3, 1, 0⟩
  | 0, 10 => some ⟨.int 8, 2, 0⟩
  | 0, 11 => some ⟨.int 6, 2, 0⟩
  | 1, 0 => some ⟨.int 4, 0, 0⟩
  | 1, 1 => some ⟨.flt e2m1, 0, 0⟩
  | 1, 2 => some ⟨.flt e2m1, 1, 0⟩
  | 1, 3 => some ⟨.int 4, 2, 0⟩
  | 2, 0 => some ⟨.int 16, 0, 0⟩
  | 2, 1 => some ⟨.flt bf16, 0, 0⟩
  | 2, 2 => some ⟨.flt fp16, 0, 0⟩
  | _, _ => none

/-- Logical rows and columns of a class (R105). -/
def classRows : Nat → Nat
  | 1 => 256 | _ => 128
def classCols : Nat → Nat
  | 2 => 256 | _ => 512

/-- Bits of an element of a class. -/
def classBits : Nat → Nat
  | 1 => 4 | 2 => 16 | _ => 8

/-- The pair is one R105 allows: in the 16-bit class both i16 or both floating. -/
def pairOk (cls w x : Nat) : Bool :=
  (setFmt cls w).isSome && (setFmt cls x).isSome && (cls != 2 || (w == 0) == (x == 0))

/-- Code of element `r` of a run of bytes, by class (R106, R109). -/
def elemAt (cls : Nat) (get : Nat → Byte) (r : Nat) : Nat :=
  match cls with
  | 1 => bitsOf (get (r / 2)).toNat (4 * (r % 2)) 4
  | 2 => (get (2 * r)).toNat + 256 * (get (2 * r + 1)).toNat
  | _ => (get r).toNat

/-- An element as the multiplier sees it (R114): sign, significand, exponent with its block scale; none for NaN or infinity. -/
def element (f : SetFmt) (code X k : Nat) : Option (Bool × Nat × Int) :=
  match f.elem.decode code with
  | .fin neg m e => some (neg, m, e + f.eOff + (if f.blk = 0 then 0 else (X : Int) - 127 - k))
  | _ => none

/-- One product taken to the grid 2^L (R115): the signed addend and whether it was inexact. -/
def gridProduct (L : Int) (x w : Bool × Nat × Int) : Int × Bool :=
  let mag := x.2.1 * w.2.1
  let sh := x.2.2 + w.2.2 - L
  let (q, inexact) : Nat × Bool :=
    if 0 ≤ sh then (mag * 2 ^ sh.toNat, false) else (mag / 2 ^ (-sh).toNat, mag % 2 ^ (-sh).toNat != 0)
  (if x.1 != w.1 then -(q : Int) else q, inexact)

/-- Byte `i` of a list, 0 beyond it. -/
def byteAt (l : List Byte) (i : Nat) : Byte := l.getD i 0

/-- Everything about one vector that a column sum needs. -/
structure VecIn where
  cls : Nat
  xf : SetFmt
  wf : SetFmt
  L : Int
  vec : Vec
  reg : WReg

/-- Shared exponent and sub-scale of input row `r` (R106). -/
def VecIn.xScale (v : VecIn) (r : Nat) : Nat × Nat :=
  (bitsOf v.vec.xexp.toNat (8 * (r / 32)) 8, if v.xf.blk = 2 then bitsOf v.vec.xsub.toNat (2 * (r / 16)) 2 else 0)

/-- Shared exponent and sub-scale of weight row `r` of column `c` (R109). -/
def VecIn.wScale (v : VecIn) (c r : Nat) : Nat × Nat :=
  ((Sparse.get 0 v.reg.sidecar (16 * c + r / 32)).toNat,
   if v.wf.blk = 2 then bitsOf (leNat (Sparse.getBytes v.reg.sidecar (16 * c + 8) 4)) (2 * (r / 16)) 2 else 0)

/-- Code of weight w[r][c] (R109). -/
def VecIn.weight (v : VecIn) (c r : Nat) : Nat :=
  elemAt v.cls (fun i => Sparse.get 0 v.reg.weights ((if v.cls = 2 then 256 else 128) * c + i)) r

/-- Code of input row `r`. -/
def VecIn.input (v : VecIn) (r : Nat) : Nat := elemAt v.cls (byteAt v.vec.data) r

/-- The sum of one column over the rows in the narrow and i16 classes (R115, R117): addend, products truncated, poisoned. -/
def VecIn.narrowCol (v : VecIn) (c : Nat) : Int × Nat × Bool :=
  (List.range (classRows v.cls)).foldl (fun acc r =>
    let (X, k) := v.xScale r
    let (Y, j) := v.wScale c r
    let badW := v.wf.blk != 0 && Y == 255
    match element v.xf (v.input r) X k, element v.wf (v.weight c r) Y j, badW with
    | some x, some w, false =>
      let (q, ie) := gridProduct v.L x w
      (acc.1 + q, acc.2.1 + b2n ie, acc.2.2)
    | _, _, _ => (acc.1, acc.2.1, true)) (0, 0, false)

/-- One level of the pairwise tree (R118). -/
def pairUp : List Nat → List Nat
  | a :: b :: r => fp32.add a b :: pairUp r
  | l => l

/-- The row tree of R118: seven levels over 128 products. -/
def rowTree (l : List Nat) : Nat :=
  (pairUp (pairUp (pairUp (pairUp (pairUp (pairUp (pairUp l))))))).headD 0

/-- The reduction of one column over the rows in the floating class (R118), an fp32 code. -/
def VecIn.floatCol (v : VecIn) (c : Nat) : Nat :=
  rowTree ((List.range 128).map (fun r =>
    fp32.ofNum (mulNum (v.xf.elem.decode (v.input r)) (v.wf.elem.decode (v.weight c r)))))

/-- The partial sum held at level `l` of a column's stack. -/
def stackAt (k : List (Nat × Nat)) (l : Nat) : Option Nat := (k.find? (fun p => p.1 == l)).map (·.2)

/-- A vector's value enters a column's stack at its chunk index (R118). -/
def pushStack (chunk : Nat) : Nat → Nat → Nat → List (Nat × Nat) → List (Nat × Nat)
  | 0, l, v, k => (l, v) :: k.filter (fun p => p.1 ≠ l)
  | n + 1, l, v, k =>
    if bitOf chunk l then
      pushStack chunk n (l + 1) (match stackAt k l with | some s => fp32.add s v | none => v) (k.filter (fun p => p.1 ≠ l))
    else (l, v) :: k.filter (fun p => p.1 ≠ l)

/-- The final combination, lowest level first (R118). -/
def foldStack (k : List (Nat × Nat)) : Nat :=
  (((List.range 13).filterMap (stackAt k)).foldl (fun acc v =>
    match acc with | none => some v | some a => some (fp32.add v a)) none).getD 0

/-! ### Descriptors -/

def State.arr (s : State) (n a : Nat) : Arr := Sparse.get {} s.arrs (key2 n a)
def State.setArr (s : State) (n a : Nat) (x : Arr) : State := { s with arrs := Sparse.set {} s.arrs (key2 n a) x }

/-- Store set of logical set `l` in epoch `e` (R111). -/
def State.setMap (s : State) (n a e l : Nat) : Nat := bitsOf (s.raw ASETMAP [n, a, e, l / 4]) (8 * (l % 4)) 6

/-- Weight register by number. -/
def Arr.wreg (x : Arr) (r : Nat) : WReg := if r = 0 then x.regA else x.regB
def Arr.setWreg (x : Arr) (r : Nat) (w : WReg) : Arr := if r = 0 then { x with regA := w } else { x with regB := w }

/-- The entries of a byte table from `lo`, `n` of them, moved down to 0. -/
def sliceBytes (m : Sparse Byte) (lo n : Nat) : Sparse Byte :=
  (m.filter (fun p => decide (lo ≤ p.1) && decide (p.1 < lo + n))).map (fun p => (p.1 - lo, p.2))

/-- Puts an array back with `ASTAT` following it. -/
def State.putArr (s : State) (n a : Nat) (x : Arr) : State :=
  let s1 := (s.setArr n a x).wr ASTAT.fill_busy [n, a] (b2n (!x.fills.isEmpty))
  let s2 := (s1.wr ASTAT.a_valid [n, a] (b2n (x.regA.filled && (match x.fills with | f :: _ => f.reg != 0 | [] => true)))).wr
    ASTAT.b_valid [n, a] (b2n (x.regB.filled && (match x.fills with | f :: _ => f.reg != 1 | [] => true)))
  (s2.wr ASTAT.a_fault [n, a] (b2n x.regA.faulty)).wr ASTAT.b_fault [n, a] (b2n x.regB.faulty)

/-! ### Output (R119 to R121) -/

/-- Column descriptor `c` of scale bank `b` (R119). -/
def Arr.colDesc (x : Arr) (b c : Nat) : Nat := leNat (Sparse.getBytes x.scale (4096 * b + 8 * c) 8)

/-- The exact t of a narrow column (R120): (acc + bias) × mult × 2^(L + exp − 15), after relu. -/
def narrowT (desc : Nat) (L acc : Int) : Num :=
  let v := (acc + intOf 32 (bitsOf desc 32 32)) * (bitsOf desc 0 16 : Nat)
  let e := L + intOf 8 (bitsOf desc 16 8) - 15
  if v < 0 ∧ bitOf desc 24 = true then .fin false 0 0 else .fin (decide (v < 0)) v.natAbs e

/-- The exact t of a floating column (R120): acc × mult × 2^(exp − 15) + bias, after relu. -/
def floatT (desc acc : Nat) : Num :=
  let p := mulNum (fp32.decode acc) (.fin false (bitsOf desc 0 16) (intOf 8 (bitsOf desc 16 8) - 15))
  let b := fp32.decode (bitsOf desc 32 32)
  let t : Num := match p, b with
    | .nan, _ => .nan
    | _, .nan => .nan
    | .inf x, .inf y => if x = y then .inf x else .nan
    | .inf x, _ => .inf x
    | _, .inf y => .inf y
    | .fin x m e, .fin y k g => let s := addFin x m e y k g; .fin s.neg s.num s.e
  if bitOf desc 24 && t.lt (.fin false 0 0) then .fin false 0 0 else t

/-- Element width of an output format (R121): code 3 is RAW. -/
def outBits (fmt : Nat) : Nat := match eFmt fmt with | some f => f.lane | none => 64

/-- NaN code of an output format, 0 where it has none (R120). -/
def nanCode (fmt : Nat) : Nat := match eFmt fmt with | some (.flt f) => f.qnan | _ => 0

/-- One output element: its code, whether it counts in `ACNT_SAT`, whether it is a poisoned output, whether FAULT joins. -/
def outElem (x : Arr) (acc : Accum) (bank fmt : Nat) (ieee : Bool) (c : Nat) : Nat × Bool × Bool × Bool :=
  let poisoned := acc.poison.contains c
  if fmt = 3 then
    if poisoned then (0, false, true, true) else (intCode 64 (Sparse.get 0 acc.sums c), false, false, false)
  else if poisoned then (nanCode fmt, false, true, false)
  else
    let d := x.colDesc bank c
    let t := if acc.float then floatT d (foldStack (Sparse.get [] acc.piles c)) else narrowT d acc.grid (Sparse.get 0 acc.sums c)
    match eFmt fmt with
    | some f => let (y, o, k) := f.convert ieee .rne t; (y, o || k, false, false)
    | none => (0, false, false, false)

/-- Elements packed into 64-bit words, lane j at the lowest free bits (R121). -/
def packWords (bits : Nat) : List Nat → List W64
  | l => (List.range ((l.length + 64 / bits - 1) / (64 / bits))).map (fun i =>
      BitVec.ofNat 64 ((List.range (64 / bits)).foldr (fun j acc => acc + l.getD (i * (64 / bits) + j) 0 * 2 ^ (j * bits)) 0))

/-- The bytes of packed words, padded to whole 128-byte lines (R121). -/
def padLines (ws : List W64) : List Byte :=
  let bs := ws.flatMap (fun w => leBytes 8 w.toNat)
  bs ++ List.replicate ((128 - bs.length % 128) % 128) 0

/-- Descriptor `o` emits at the end of an accumulation (R120, R121). -/
def State.emitDesc (s : State) (n a : Nat) (acc : Accum) (v : Vec) (bank : Nat) (fault : BitVec 4) (o : Nat) : State :=
  let i := [n, a, o]
  let kind := s.rd AODESC.kind i
  let fmt := s.rd AODESC.fmt i
  let x := s.arr n a
  let els := (List.range (s.rd AODESC.count i)).map (fun j =>
    outElem x acc bank fmt (s.flag AODESC.e5m2_ieee i) (s.rd AODESC.first i + j))
  if kind = 0 then s
  else
    let s1 := (s.add ACNT_SAT.count [n, a] (countIf (·.2.1) els)).add ACNT_NAN.count [n, a] (countIf (·.2.2.1) els)
    let st := acc.status ||| fault ||| (if els.any (·.2.2.2) then stFault else 0)
    let words := packWords (outBits fmt) (els.map (·.1))
    let place := s.rd AODESC.place i
    if kind = 1 then
      s1.sendAll (words.zipIdx.map (fun p =>
        { tok := { data := p.1, addr := BitVec.ofNat 28 (n * 2 ^ 24 + 3 * 2 ^ 21 + place * 2 ^ 15)
                   operand := s.rd AODESC.pos i + p.2, tag := v.tag, prompt := s.arrPrompt n a, epoch := v.epoch
                   status := st, beat := v.beat, copy := v.copy }, edge := .none }))
    else
      { s1 with returns := s1.returns ++ [{ die := n, clu := place, fmt, bytes := padLines words, count := els.length
                                            tag := v.tag, epoch := v.epoch, status := st, beat := v.beat, copy := v.copy }] }

/-- Every descriptor that the header's omask names, in order. -/
def State.emitAll (s : State) (n a : Nat) (acc : Accum) (v : Vec) (bank : Nat) (fault : BitVec 4) : List Nat → State
  | [] => s
  | o :: os =>
    if bitOf (bitsOf v.header.toNat 11 16) o then (s.emitDesc n a acc v bank fault o).emitAll n a acc v bank fault os
    else s.emitAll n a acc v bank fault os

/-! ### Fills (R110, R177) -/

/-- A fill is requested (R110); fills run one at a time, in the order requested. -/
def State.requestFill (s : State) (n a reg set : Nat) : State :=
  let x := s.arr n a
  s.putArr n a { x with fills := x.fills ++ [{ reg, set }] }

/-- A register takes a set: its weights and sidecar are copied from the store (R110, R127). -/
def State.fillReg (s : State) (n a reg set : Nat) (uncorrectable : Bool) : State :=
  let x := s.arr n a
  let st := s.setMap n a (s.rd ASTAT.epoch [n, a]) set
  let w : WReg := { logical := set, filled := true
                    faulty := uncorrectable || !s.flag ASETDESC.valid [n, a, set]
                    weights := sliceBytes x.store (65536 * st) 65536, sidecar := sliceBytes x.sidecar (8192 * st) 8192 }
  let s1 := s.putArr n a (x.setWreg reg w)
  if reg = 0 then s1.wr ASTAT.a_set [n, a] st else s1.wr ASTAT.b_set [n, a] st

/-! ### Vectors (R107, R108, R110, R117) -/

/-- Header fields (R107). -/
def hReg (v : Vec) : Nat := bitsOf v.header.toNat 0 1
def hFirst (v : Vec) : Bool := bitOf v.header.toNat 1
def hLast (v : Vec) : Bool := bitOf v.header.toNat 2
def hFill (v : Vec) : Bool := bitOf v.header.toNat 3
def hFillReg (v : Vec) : Nat := bitsOf v.header.toNat 4 1
def hFillSet (v : Vec) : Nat := bitsOf v.header.toNat 5 6
def hChunk (v : Vec) : Nat := bitsOf v.header.toNat 27 12
def hBank (v : Vec) : Nat := bitsOf v.header.toNat 39 3

/-- The set of a register: class, formats and grid exponent from `ASETDESC` (R110, R128). -/
def State.setOf (s : State) (n a l : Nat) : Nat × Nat × Nat × Int :=
  let i := [n, a, l]
  (s.rd ASETDESC.cls i, s.rd ASETDESC.wfmt i, s.rd ASETDESC.xfmt i, intOf 9 (s.rd ASETDESC.L i))

/-- A shared exponent of a block the class uses lies outside the set's window, or is 255 (R117). -/
def State.outsideWindow (s : State) (n a : Nat) (v : Vec) (l cls : Nat) (xf : SetFmt) : Bool :=
  xf.blk != 0 && (List.range (if cls = 1 then 8 else 4)).any (fun b =>
    let X := bitsOf v.xexp.toNat (8 * b) 8
    let lo := s.rd ASETDESC.xwin_lo [n, a, l]
    decide (X < lo) || decide (lo + s.rd ASETDESC.xwin_span [n, a, l] < X) || X == 255)

/-- A vector enters the multipliers (R108, R110, R115, R117, R118): it joins its accumulation, ends it if it is the last, and
requests its fill. -/
def State.vectorIn (s0 : State) (n a : Nat) (v : Vec) : State :=
  let i := [n, a]
  let x := s0.arr n a
  let r := x.wreg (hReg v)
  let (cls, wf, xf, L) := s0.setOf n a r.logical
  let float := cls = 2 ∧ xf ≠ 0
  let expected := match x.acc with | some c => c.chunk | none => 0
  let sameSet := match x.acc with
    | some c => c.cls == cls && c.float == decide float && (decide float || c.grid == L)
    | none => true
  let ownFill := hFill v && hFillReg v == hReg v
  let wellFormed := v.header.toNat / 2 ^ 42 == 0 && hChunk v == expected && hFirst v == (hChunk v == 0) && sameSet
  let tooLong := decide float && decide (4096 ≤ expected)
  let zero := !wellFormed || !r.filled || ownFill || tooLong
  let s1 := s0.addWrap ACNT_VEC.vectors i 1
  let s2 := if zero then s1.bump ACNT_ERR.header i else s1
  let window := !zero && (match setFmt cls xf with | some f => s2.outsideWindow n a v r.logical cls f | none => false)
  let s3 := if window then s2.bump ACNT_ERR.window i else s2
  let fault : BitVec 4 := if zero || window || r.faulty then stFault else 0
  let base : Accum := match x.acc with
    | some c => c
    | none => { cls, grid := L, float := decide float, chunk := 0, status := 0, beat := v.beat, copy := v.copy, header := v.header }
  let mixed : BitVec 4 := if base.beat ≠ v.beat ∨ base.copy ≠ v.copy then stFault else 0
  let acc1 : Accum := { base with chunk := base.chunk + 1, status := base.status ||| v.status ||| fault ||| mixed }
  let (acc2, inexact) : Accum × Nat :=
    if zero || window then
      (if acc1.float && !tooLong then
        { acc1 with piles := (List.range 256).foldl (fun m c =>
            Sparse.set [] m c (pushStack (acc1.chunk - 1) 13 0 0 (Sparse.get [] m c))) acc1.piles }
       else acc1, 0)
    else
      match setFmt cls xf, setFmt cls wf with
      | some fx, some fw =>
        let vin : VecIn := { cls, xf := fx, wf := fw, L, vec := v, reg := r }
        if acc1.float then
          ({ acc1 with piles := (List.range 256).foldl (fun m c =>
              Sparse.set [] m c (pushStack (acc1.chunk - 1) 13 0 (vin.floatCol c) (Sparse.get [] m c))) acc1.piles }, 0)
        else
          (List.range (classCols cls)).foldl (fun p c =>
            let (q, ie, bad) := vin.narrowCol c
            ({ p.1 with sums := Sparse.set 0 p.1.sums c (intOf 64 (intCode 64 (Sparse.get 0 p.1.sums c + q)))
                        poison := if bad && !p.1.poison.contains c then p.1.poison ++ [c] else p.1.poison }, p.2 + ie)) (acc1, 0)
      | _, _ => (acc1, 0)
  let s4 := s3.addWrap ACNT_INEXACT.products i inexact
  let s5 := if hLast v then
      (s4.emitAll n a acc2 v (hBank v) 0 (List.range 16)).setArr n a { (s4.arr n a) with acc := none }
    else s4.setArr n a { (s4.arr n a) with acc := some acc2 }
  let y := s5.arr n a
  let s6 := { s5.setArr n a { y with recent := (false :: y.recent).take 15 } with
    pwr := { s5.pwr with winVec := Sparse.set 0 s5.pwr.winVec (key2 n a) (Sparse.get 0 s5.pwr.winVec (key2 n a) + 1) } }
  if hFill v && !ownFill then s6.requestFill n a (hFillReg v) (hFillSet v) else s6

/-- A fill of register `r` has been requested and is not complete (R110). -/
def Arr.pendingFill (x : Arr) (r : Nat) : Bool := x.fills.any (fun f => f.reg == r)

/-- Waiting vectors enter in channel order until one names a register whose fill is not complete (R108, R110). -/
def State.drainVectors (s : State) (n a : Nat) : Nat → State
  | 0 => s
  | k + 1 =>
    let x := s.arr n a
    match x.waiting with
    | [] => s
    | v :: vs =>
      if x.pendingFill (hReg v) || x.held then s
      else ((s.setArr n a { x with waiting := vs }).vectorIn n a v).drainVectors n a k

/-- A vector reaches an array at instant `t` (R108, R126). -/
def State.arrayVector (s0 : State) (n a : Nat) (v : Vec) (t : Nat) : State :=
  let s1 := s0.upTo t
  let s : State := { s1 with feed := eraseFirst (n, a, v) s1.feed, lastVec := Sparse.insert s1.lastVec (key2 n a) v }
  if s.flag ASTAT.failed [n, a] || v.epoch != s.rd ASTAT.epoch [n, a] then (s.bump ACNT_ERR.discard [n, a])
  else
    let x := s.arr n a
    ((s.setArr n a { x with waiting := x.waiting ++ [v] }).drainVectors n a (x.waiting.length + 1))

/-- A vector reaches an array (R108, R126). -/
def execArrayVector (n a : Nat) (v : Vec) (t : Nat) (s0 : State) : Host.Outcome State Fault Refusal := .next (s0.arrayVector n a v t)

/-- The running fill ends with `corrected` single and `uncorrected` double errors met (R110, R127), and vectors that waited on
it enter. -/
def execFillComplete (n a corrected uncorrected : Nat) (t : Nat) (s0 : State) : Host.Outcome State Fault Refusal :=
  let s := s0.upTo t
  match (s.arr n a).fills with
  | [] => .next s
  | f :: fs =>
    let x := s.arr n a
    let s1 := (s.setArr n a { x with fills := fs }).fillReg n a f.reg f.set (uncorrected != 0)
    let s2 := (s1.add AECC.corrected [n, a] corrected).add AECC.uncorrected [n, a] uncorrected
    let s3 := if uncorrected = 0 then s2 else
      (s2.fltNote 0x06 n a 6 (!s.arrPrompt n a)).olmWrite 0x0050 (item4 6 ++ item4 (n * 4 + a) ++ item4 f.set ++ item4 0)
    .next (s3.drainVectors n a ((s3.arr n a).waiting.length + 1))

/-- The sump marker passes an array's feed: the epoch changes, both registers become invalid, open accumulations are discarded,
and fills of logical sets 0 and 1 are requested where valid (R111, R177). -/
def State.arrayMark (s : State) (n a ep : Nat) : State :=
  let x := s.arr n a
  let s1 := (s.wr ASTAT.epoch [n, a] ep).putArr n a { x with acc := none, fills := [], regA := {}, regB := {} }
  let s2 := if s1.flag ASETDESC.valid [n, a, 0] then s1.requestFill n a 0 0 else s1
  if s2.flag ASETDESC.valid [n, a, 1] then s2.requestFill n a 1 1 else s2

/-- A write of bytes to the store (0), sidecar (1) or scale memory (2) of an array, from the hub or, for a bulk array, from a
goat (R112). -/
def State.storeBytes (s : State) (n a space off : Nat) (bs : List Byte) : State :=
  let x := s.arr n a
  s.setArr n a (match space with
    | 0 => { x with store := Sparse.setBytes x.store off bs }
    | 1 => { x with sidecar := Sparse.setBytes x.sidecar off bs }
    | _ => { x with scale := Sparse.setBytes x.scale off bs })

/-- Store set that a write to the store or a sidecar touches. -/
def storeSetOf (space off : Nat) : Option Nat :=
  match space with | 0 => some (off / 65536) | 1 => some (off / 8192) | _ => none

/-- Store set `st` is mapped in the current epoch (R112). -/
def State.setMapped (s : State) (n a st : Nat) : Bool :=
  (List.range 64).any (fun l => s.setMap n a (s.rd ASTAT.epoch [n, a]) l == st)

/-- A running fill of a bulk array reads the set that a write would touch: the write waits (R112). -/
def State.storeBusy (s : State) (n a space off : Nat) : Bool :=
  !s.arrPrompt n a && (match storeSetOf space off, (s.arr n a).fills with
    | some st, f :: _ => s.setMap n a (s.rd ASTAT.epoch [n, a]) f.set == st
    | _, _ => false)

/-- A management or goat write to the store of an array (R112): a scale bank takes management writes only; a prompt array takes
no goat write and, while its job runs, no write to a set mapped in the current epoch. -/
def State.storeWrite (s : State) (n a space off : Nat) (bs : List Byte) (goat : Bool) : State :=
  match storeSetOf space off with
  | none => if goat then s else s.storeBytes n a space off bs
  | some st =>
    if s.arrPrompt n a then
      if goat then s
      else if s.setMapped n a st && s.rd DIESTAT.state [n] == 3 then s.bump ACNT_ERR.store_refused [n, a]
      else s.storeBytes n a space off bs
    else if s.storeBusy n a space off then s
    else s.storeBytes n a space off bs

/-- A management or goat write reaches the store of an array (R112). -/
def execStoreWrite (n a space off : Nat) (bs : List Byte) (goat : Bool) (s : State) : Host.Outcome State Fault Refusal :=
  .next (s.storeWrite n a space off bs goat)

/-- An idle vector interval runs a ballast slot into the discard sink, if the level allows one more in 16 intervals (R124). -/
def execBallastSlot (n a : Nat) (s : State) : Host.Outcome State Fault Refusal :=
  let x := s.arr n a
  if x.waiting.isEmpty ∧ countIf id x.recent < s.rd ABALLAST.level [n, a] then
    .next (((s.setArr n a { x with recent := (true :: x.recent).take 15 }).addWrap ACNT_BALLAST.slots [n, a] 1).emit (.ballast n a))
  else .next s

/-- A window of 16 vector intervals begins: the level follows Ra (R369). -/
def execBallastWindow (n a : Nat) (s : State) : Host.Outcome State Fault Refusal :=
  let k := key2 n a
  let v := Sparse.get 0 s.pwr.winVec k
  let level := if s.flag PWRSTAT.forced [] then 0
    else min (s.rd ABALLAST.ceiling [n, a]) (Sparse.get 0 s.pwr.ra k - v)
  let p := { s.pwr with
    winVec := Sparse.set 0 s.pwr.winVec k 0
    winMax := Sparse.set 0 s.pwr.winMax k (max (Sparse.get 0 s.pwr.winMax k) v) }
  .next (({ s with pwr := p }).wr ABALLAST.level [n, a] level)

/-- What a scrub read of a protected word finds (R88, R127): a correction is written back in bulk and listed in prompt. -/
def execStoreScrub (n a word : Nat) (ecc : Ecc) (s : State) : Host.Outcome State Fault Refusal :=
  if s.flag ASCRUB.enable [n, a] then
    match ecc with
    | .clean => .next s
    | .single =>
      let s1 := s.bump AECC.corrected [n, a]
      if s.arrPrompt n a then
        let x := s1.arr n a
        if x.repair.contains word then .next s1
        else if 16 ≤ x.repair.length then .next (s1.wr AREPAIR.overflow [n, a] 1)
        else .next ((s1.setArr n a { x with repair := x.repair ++ [word] }).wr AREPAIR.pending [n, a] (x.repair.length + 1))
      else .next s1
    | .double _ =>
      .next (((s.bump AECC.uncorrected [n, a]).fltNote 0x06 n a 6 (!s.arrPrompt n a)).olmWrite 0x0050
        (item4 6 ++ item4 (n * 4 + a) ++ item4 word ++ item4 1))
  else .next s

end Sys2Proof.Machine
end

