-- ==== Sys2Proof/Machine/HenExec.lean ====
section
/-!
DEFINITION. The hen instructions that stay inside the context (R63, R66 to R71, R78): arithmetic, immediates, floating
operations, conversion, branches. Each command names the context whose next instruction issues; the instruction word is the
one in the hen's instruction memory at the context's pc. Where the context is not ready, or its word is another instruction,
the event does not happen and nothing changes (log 9).
-/
namespace Sys2Proof.Machine

/-- Register fields an instruction reads (R66, R68). -/
def srcRegs (w : W32) : List Nat :=
  let op := iOp w
  if op = 0x01 ∨ op = 0x10 then [iRa w, iRb w]
  else if op = 0x08 ∨ op = 0x11 then [iRd w, iRa w, iRb w]
  else if op = 0x12 then [iRa w]
  else if op ∈ [0x02, 0x03, 0x04, 0x05, 0x09, 0x0D, 0x0E, 0x0F, 0x18, 0x19, 0x1A, 0x1B, 0x28] then [iRa w]
  else if op ∈ [0x0A, 0x1C, 0x1D, 0x1E, 0x1F] then [iRd w, iRa w]
  else if op = 0x20 then (if iTsrc w = 1 then [iRd w, iRa w] else [iRd w])
  else if op = 0x26 then [iRd w]
  else if op = 0x31 ∨ op = 0x32 then [iRd w]
  else if op ∈ [0x33, 0x34, 0x35, 0x36, 0x37, 0x38] then [iRd w, iRa w]
  else []

/-- The word at `pc` and every constant it reads are free of uncorrectable errors, the word is legal, and a `SEND` names a
route whose word is not 0 (R55, R68, R73). -/
def Hen.runnable (x : Hen) (pc : Nat) : Bool :=
  let w := x.word pc
  henLegal w && !x.badWords.contains pc
    && (srcRegs w).all (fun r => decide (r < 16) || !x.badWords.contains (1024 + (r - 16)))
    && (iOp w != 0x20 || (x.word (32 + iRoute w) != 0 && !x.badWords.contains (32 + iRoute w)))

/-- A ready context of a hen (R63). -/
def State.readyCtx (s : State) (x : CtxRef) : Option Ctx :=
  match Sparse.find (s.hen x.hen).ctxs x.ctx with
  | some c => if c.wait = .ready then some c else none
  | none => none

/-- A hen may issue: always in the prompt partition, in an admitted pacer phase in bulk (R230). -/
def State.mayIssue (s : State) (h : HenRef) : Bool := s.cluPrompt h.die h.clu || s.bulkAdmits h.die

/-- A ready context issues its next instruction if that is one `want` accepts; the issue is counted (R63, R80). -/
def State.issue (s : State) (x : CtxRef) (want : W32 → Bool) (act : Hen → Ctx → W32 → State → State) : State :=
  match s.readyCtx x with
  | none => s
  | some c =>
    let h := s.hen x.hen
    let w := h.word c.pc
    if h.runnable c.pc && want w && s.mayIssue x.hen then act h c w (s.addWrap HCNT_ISSUE.issued [x.hen.die, x.hen.clu, x.hen.hen] 1) else s

/-- The instruction writes one value to rd and the context goes on. -/
def State.writeRd (x : CtxRef) (v : Hen → Ctx → W32 → W64) : Hen → Ctx → W32 → State → State :=
  fun h c w s => s.stepCtx x (c.setReg (iRd w) (v h c w))

/-- Word of opcode 0x01 with func `f`. -/
def isAlu (f : Nat) (w : W32) : Bool := iOp w == 0x01 && iFunc w == f
/-- Word of opcode 0x10 with func `f`. -/
def isFpu (f : Nat) (w : W32) : Bool := iOp w == 0x10 && iFunc w == f
/-- Word of opcode `o`. -/
def isOp (o : Nat) (w : W32) : Bool := iOp w == o

/-- An ALU operation on the lanes of ra and rb. -/
def State.alu2 (s : State) (x : CtxRef) (func : Nat) (op : Nat → Nat → Nat → Nat) : State :=
  s.issue x (isAlu func) (State.writeRd x (fun h c w =>
    lanes2 (laneBits (iType w)) (op (laneBits (iType w))) (h.reg c (iRa w)).toNat (h.reg c (iRb w)).toNat))

/-- An ALU operation on the lanes of ra. -/
def State.alu1 (s : State) (x : CtxRef) (func : Nat) (op : Nat → Nat → Nat) : State :=
  s.issue x (isAlu func) (State.writeRd x (fun h c w =>
    lanes1 (laneBits (iType w)) (op (laneBits (iType w))) (h.reg c (iRa w)).toNat))

/-- A bitwise ALU operation. -/
def State.aluBits (s : State) (x : CtxRef) (func : Nat) (op : W64 → W64 → W64) : State :=
  s.issue x (isAlu func) (State.writeRd x (fun h c w => op (h.reg c (iRa w)) (h.reg c (iRb w))))

/-- An FPU operation on the lanes of ra and rb. -/
def State.fpu2 (s : State) (x : CtxRef) (func : Nat) (op : FFmt → Nat → Nat → Nat) : State :=
  s.issue x (isFpu func) (State.writeRd x (fun h c w =>
    lanes2 (laneBits (iType w)) (op (laneFmt (iType w))) (h.reg c (iRa w)).toNat (h.reg c (iRb w)).toNat))

/-- An FPU operation on the lanes of ra. -/
def State.fpu1 (s : State) (x : CtxRef) (func : Nat) (op : FFmt → Nat → Nat) : State :=
  s.issue x (isFpu func) (State.writeRd x (fun h c w =>
    lanes1 (laneBits (iType w)) (op (laneFmt (iType w))) (h.reg c (iRa w)).toNat))

/-- An FPU comparison: a lane of all ones where it holds. -/
def State.fpuCmp (s : State) (x : CtxRef) (func : Nat) (op : FFmt → Nat → Nat → Bool) : State :=
  s.issue x (isFpu func) (State.writeRd x (fun h c w =>
    lanes2 (laneBits (iType w)) (fun a b => allOnes (laneBits (iType w)) (op (laneFmt (iType w)) a b))
      (h.reg c (iRa w)).toNat (h.reg c (iRb w)).toNat))

/-- An immediate operation on ra. -/
def State.immOp (s : State) (x : CtxRef) (o : Nat) (op : W64 → Nat → W64) : State :=
  s.issue x (isOp o) (State.writeRd x (fun h c w => op (h.reg c (iRa w)) (iImm w)))

/-- A branch: to the target if the condition on its two operands holds; a taken branch out of the code words takes the illegal
path (R68, R74). In format B ra lies at [25:21] and rb at [20:16] (R66). -/
def State.branch (s : State) (x : CtxRef) (o : Nat) (cond : W64 → W64 → Bool) : State :=
  s.issue x (isOp o) (fun h c w s1 =>
    if cond (h.reg c (iRd w)) (h.reg c (iRa w)) then
      match branchTarget w c.pc with
      | some t => s1.putCtx x { c with pc := t, wait := .ready }
      | none => s1.illegalPath x c.pc
    else s1.stepCtx x c)

/-- The special values of R78. -/
def State.special (s : State) (x : CtxRef) (c : Ctx) (i : Nat) : W64 :=
  match i with
  | 0 => c.tag.setWidth 64
  | 1 => c.beat.setWidth 64
  | 2 => BitVec.ofNat 64 c.copy
  | 3 => c.status.setWidth 64
  | 4 => BitVec.ofNat 64 c.epoch
  | 5 => BitVec.ofNat 64 c.entry
  | 6 => BitVec.ofNat 64 (s.logHen x.hen)
  | 7 => BitVec.ofNat 64 (s.logClu x.hen.die x.hen.clu)
  | 8 => BitVec.ofNat 64 ((s.die x.hen.die).logical - 1)
  | _ => c.twait

/-- `BFI` (R68): the low bits of ra placed at imm[5:0], imm[11:6] + 1 of them, excess above bit 63 dropped. -/
def bfi (d a imm : Nat) : W64 :=
  let lo := bitsOf imm 0 6
  let n := min (bitsOf imm 6 6 + 1) (64 - lo)
  BitVec.ofNat 64 (setBits d lo n a)

/-- ALU `add` (R68, R69). -/
def execHenAdd (x : CtxRef) (s : State) : Host.Outcome State Fault Refusal :=
  .next (s.alu2 x 0x00 opAdd)

/-- ALU `sub` (R68, R69). -/
def execHenSub (x : CtxRef) (s : State) : Host.Outcome State Fault Refusal :=
  .next (s.alu2 x 0x01 opSub)

/-- ALU `adds` (R68, R69). -/
def execHenAdds (x : CtxRef) (s : State) : Host.Outcome State Fault Refusal :=
  .next (s.alu2 x 0x02 opAdds)

/-- ALU `subs` (R68, R69). -/
def execHenSubs (x : CtxRef) (s : State) : Host.Outcome State Fault Refusal :=
  .next (s.alu2 x 0x03 opSubs)

/-- ALU `addus` (R68, R69). -/
def execHenAddus (x : CtxRef) (s : State) : Host.Outcome State Fault Refusal :=
  .next (s.alu2 x 0x04 opAddus)

/-- ALU `subus` (R68, R69). -/
def execHenSubus (x : CtxRef) (s : State) : Host.Outcome State Fault Refusal :=
  .next (s.alu2 x 0x05 opSubus)

/-- ALU `shl` (R68, R69). -/
def execHenShl (x : CtxRef) (s : State) : Host.Outcome State Fault Refusal :=
  .next (s.alu2 x 0x10 opShl)

/-- ALU `shr` (R68, R69). -/
def execHenShr (x : CtxRef) (s : State) : Host.Outcome State Fault Refusal :=
  .next (s.alu2 x 0x11 opShr)

/-- ALU `sar` (R68, R69). -/
def execHenSar (x : CtxRef) (s : State) : Host.Outcome State Fault Refusal :=
  .next (s.alu2 x 0x12 opSar)

/-- ALU `rol` (R68, R69). -/
def execHenRol (x : CtxRef) (s : State) : Host.Outcome State Fault Refusal :=
  .next (s.alu2 x 0x13 opRol)

/-- ALU `min` (R68, R69). -/
def execHenMin (x : CtxRef) (s : State) : Host.Outcome State Fault Refusal :=
  .next (s.alu2 x 0x18 opMin)

/-- ALU `max` (R68, R69). -/
def execHenMax (x : CtxRef) (s : State) : Host.Outcome State Fault Refusal :=
  .next (s.alu2 x 0x19 opMax)

/-- ALU `minu` (R68, R69). -/
def execHenMinu (x : CtxRef) (s : State) : Host.Outcome State Fault Refusal :=
  .next (s.alu2 x 0x1A opMinu)

/-- ALU `maxu` (R68, R69). -/
def execHenMaxu (x : CtxRef) (s : State) : Host.Outcome State Fault Refusal :=
  .next (s.alu2 x 0x1B opMaxu)

/-- ALU `ceq` (R68, R69). -/
def execHenCeq (x : CtxRef) (s : State) : Host.Outcome State Fault Refusal :=
  .next (s.alu2 x 0x20 opCeq)

/-- ALU `clt` (R68, R69). -/
def execHenClt (x : CtxRef) (s : State) : Host.Outcome State Fault Refusal :=
  .next (s.alu2 x 0x21 opClt)

/-- ALU `cltu` (R68, R69). -/
def execHenCltu (x : CtxRef) (s : State) : Host.Outcome State Fault Refusal :=
  .next (s.alu2 x 0x22 opCltu)

/-- ALU `mul` (R68, R69). -/
def execHenMul (x : CtxRef) (s : State) : Host.Outcome State Fault Refusal :=
  .next (s.alu2 x 0x30 opMul)

/-- ALU `mulh` (R68, R69). -/
def execHenMulh (x : CtxRef) (s : State) : Host.Outcome State Fault Refusal :=
  .next (s.alu2 x 0x31 opMulh)

/-- ALU `mulhu` (R68, R69). -/
def execHenMulhu (x : CtxRef) (s : State) : Host.Outcome State Fault Refusal :=
  .next (s.alu2 x 0x32 opMulhu)

/-- ALU `div` (R68, R69). -/
def execHenDiv (x : CtxRef) (s : State) : Host.Outcome State Fault Refusal :=
  .next (s.alu2 x 0x38 opDiv)

/-- ALU `divu` (R68, R69). -/
def execHenDivu (x : CtxRef) (s : State) : Host.Outcome State Fault Refusal :=
  .next (s.alu2 x 0x39 opDivu)

/-- ALU `rem` (R68, R69). -/
def execHenRem (x : CtxRef) (s : State) : Host.Outcome State Fault Refusal :=
  .next (s.alu2 x 0x3A opRem)

/-- ALU `remu` (R68, R69). -/
def execHenRemu (x : CtxRef) (s : State) : Host.Outcome State Fault Refusal :=
  .next (s.alu2 x 0x3B opRemu)

/-- ALU `popc` (R68). -/
def execHenPopc (x : CtxRef) (s : State) : Host.Outcome State Fault Refusal :=
  .next (s.alu1 x 0x28 opPopc)

/-- ALU `clz` (R68). -/
def execHenClz (x : CtxRef) (s : State) : Host.Outcome State Fault Refusal :=
  .next (s.alu1 x 0x29 opClz)

/-- ALU `ctz` (R68). -/
def execHenCtz (x : CtxRef) (s : State) : Host.Outcome State Fault Refusal :=
  .next (s.alu1 x 0x2A opCtz)

/-- ALU `and` (R68). -/
def execHenAnd (x : CtxRef) (s : State) : Host.Outcome State Fault Refusal :=
  .next (s.aluBits x 0x08 (fun a b => a &&& b))

/-- ALU `or` (R68). -/
def execHenOr (x : CtxRef) (s : State) : Host.Outcome State Fault Refusal :=
  .next (s.aluBits x 0x09 (fun a b => a ||| b))

/-- ALU `xor` (R68). -/
def execHenXor (x : CtxRef) (s : State) : Host.Outcome State Fault Refusal :=
  .next (s.aluBits x 0x0A (fun a b => a ^^^ b))

/-- ALU `andn` (R68). -/
def execHenAndn (x : CtxRef) (s : State) : Host.Outcome State Fault Refusal :=
  .next (s.aluBits x 0x0B (fun a b => a &&& ~~~b))

/-- ALU `dot` (R69). -/
def execHenDot (x : CtxRef) (s : State) : Host.Outcome State Fault Refusal :=
  .next (s.issue x (isAlu 0x33) (State.writeRd x (fun h c w =>
    opDot (laneBits (iType w)) (h.reg c (iRa w)).toNat (h.reg c (iRb w)).toNat)))

/-- `ADDI` (R68). -/
def execHenAddi (x : CtxRef) (s : State) : Host.Outcome State Fault Refusal :=
  .next (s.immOp x 0x02 (fun a i => a + sext64 16 i))

/-- `ANDI` (R68). -/
def execHenAndi (x : CtxRef) (s : State) : Host.Outcome State Fault Refusal :=
  .next (s.immOp x 0x03 (fun a i => a &&& BitVec.ofNat 64 i))

/-- `ORI` (R68). -/
def execHenOri (x : CtxRef) (s : State) : Host.Outcome State Fault Refusal :=
  .next (s.immOp x 0x04 (fun a i => a ||| BitVec.ofNat 64 i))

/-- `XORI` (R68). -/
def execHenXori (x : CtxRef) (s : State) : Host.Outcome State Fault Refusal :=
  .next (s.immOp x 0x05 (fun a i => a ^^^ BitVec.ofNat 64 i))

/-- `BFX` (R68). -/
def execHenBfx (x : CtxRef) (s : State) : Host.Outcome State Fault Refusal :=
  .next (s.immOp x 0x09 (fun a i => BitVec.ofNat 64 (bitsOf a.toNat (bitsOf i 0 6) (bitsOf i 6 6 + 1))))

/-- `SHLI` (R68). -/
def execHenShli (x : CtxRef) (s : State) : Host.Outcome State Fault Refusal :=
  .next (s.immOp x 0x0D (fun a i => a <<< bitsOf i 0 6))

/-- `SHRI` (R68). -/
def execHenShri (x : CtxRef) (s : State) : Host.Outcome State Fault Refusal :=
  .next (s.immOp x 0x0E (fun a i => a >>> bitsOf i 0 6))

/-- `SARI` (R68). -/
def execHenSari (x : CtxRef) (s : State) : Host.Outcome State Fault Refusal :=
  .next (s.immOp x 0x0F (fun a i => a.sshiftRight (bitsOf i 0 6)))

/-- `MOVZ` (R68): the immediate in halfword h, the rest 0; h is ra[1:0] of the word. -/
def execHenMovz (x : CtxRef) (s : State) : Host.Outcome State Fault Refusal :=
  .next (s.issue x (isOp 0x06) (State.writeRd x (fun _ _ w => BitVec.ofNat 64 (iImm w * 2 ^ (16 * (iRa w % 4))))))

/-- `MOVK` (R68): halfword h replaced, other bits kept. -/
def execHenMovk (x : CtxRef) (s : State) : Host.Outcome State Fault Refusal :=
  .next (s.issue x (isOp 0x07) (State.writeRd x (fun h c w =>
    BitVec.ofNat 64 (setBits (h.reg c (iRd w)).toNat (16 * (iRa w % 4)) 16 (iImm w)))))

/-- `SEL` (R68): by the bit pattern of the lane of rd. -/
def execHenSel (x : CtxRef) (s : State) : Host.Outcome State Fault Refusal :=
  .next (s.issue x (isOp 0x08) (State.writeRd x (fun h c w =>
    opSel (laneBits (iType w)) (h.reg c (iRd w)).toNat (h.reg c (iRa w)).toNat (h.reg c (iRb w)).toNat)))

/-- `BFI` (R68). -/
def execHenBfi (x : CtxRef) (s : State) : Host.Outcome State Fault Refusal :=
  .next (s.issue x (isOp 0x0A) (State.writeRd x (fun h c w => bfi (h.reg c (iRd w)).toNat (h.reg c (iRa w)).toNat (iImm w))))

/-- `MFS` (R78). -/
def execHenMfs (x : CtxRef) (s : State) : Host.Outcome State Fault Refusal :=
  .next (s.issue x (isOp 0x0B) (State.writeRd x (fun _ c w => s.special x c (iImm w))))

/-- `SETST` (R68). -/
def execHenSetst (x : CtxRef) (s : State) : Host.Outcome State Fault Refusal :=
  .next (s.issue x (isOp 0x0C) (fun _ c w s1 =>
    s1.stepCtx x { c with status := c.status ||| BitVec.ofNat 4 (iImm w % 8) }))

/-- FPU `fadd` (R70). -/
def execHenFadd (x : CtxRef) (s : State) : Host.Outcome State Fault Refusal :=
  .next (s.fpu2 x 0x00 FFmt.add)

/-- FPU `fsub` (R70). -/
def execHenFsub (x : CtxRef) (s : State) : Host.Outcome State Fault Refusal :=
  .next (s.fpu2 x 0x01 FFmt.sub)

/-- FPU `fmul` (R70). -/
def execHenFmul (x : CtxRef) (s : State) : Host.Outcome State Fault Refusal :=
  .next (s.fpu2 x 0x02 FFmt.mul)

/-- FPU `fmin` (R70). -/
def execHenFmin (x : CtxRef) (s : State) : Host.Outcome State Fault Refusal :=
  .next (s.fpu2 x 0x03 FFmt.minNum)

/-- FPU `fmax` (R70). -/
def execHenFmax (x : CtxRef) (s : State) : Host.Outcome State Fault Refusal :=
  .next (s.fpu2 x 0x04 FFmt.maxNum)

/-- FPU `fdiv` (R70). -/
def execHenFdiv (x : CtxRef) (s : State) : Host.Outcome State Fault Refusal :=
  .next (s.fpu2 x 0x10 FFmt.div)

/-- FPU `fabs` (R68, R70). -/
def execHenFabs (x : CtxRef) (s : State) : Host.Outcome State Fault Refusal :=
  .next (s.fpu1 x 0x05 FFmt.abs)

/-- FPU `fneg` (R68, R70). -/
def execHenFneg (x : CtxRef) (s : State) : Host.Outcome State Fault Refusal :=
  .next (s.fpu1 x 0x06 FFmt.neg)

/-- FPU `fsqrt` (R68, R70). -/
def execHenFsqrt (x : CtxRef) (s : State) : Host.Outcome State Fault Refusal :=
  .next (s.fpu1 x 0x11 FFmt.sqrt)

/-- FPU `fceq` (R68). -/
def execHenFceq (x : CtxRef) (s : State) : Host.Outcome State Fault Refusal :=
  .next (s.fpuCmp x 0x08 FFmt.ceq)

/-- FPU `fclt` (R68). -/
def execHenFclt (x : CtxRef) (s : State) : Host.Outcome State Fault Refusal :=
  .next (s.fpuCmp x 0x09 FFmt.clt)

/-- FPU `fcle` (R68). -/
def execHenFcle (x : CtxRef) (s : State) : Host.Outcome State Fault Refusal :=
  .next (s.fpuCmp x 0x0A FFmt.cle)

/-- `FMA` (R70): rd + ra × rb, one rounding. -/
def execHenFma (x : CtxRef) (s : State) : Host.Outcome State Fault Refusal :=
  .next (s.issue x (isOp 0x11) (State.writeRd x (fun h c w =>
    opFma (laneFmt (iType w)) (h.reg c (iRd w)).toNat (h.reg c (iRa w)).toNat (h.reg c (iRb w)).toNat)))

/-- `CVT` (R71): func[7:4] names the source format, func[3:0] the destination. -/
def execHenCvt (x : CtxRef) (s : State) : Host.Outcome State Fault Refusal :=
  .next (s.issue x (isOp 0x12) (State.writeRd x (fun h c w =>
    match eFmt (iFunc w / 16), eFmt (iFunc w % 16) with
    | some a, some b => BitVec.ofNat 64 (cvtLanes a b (h.reg c (iRa w)).toNat)
    | _, _ => 0)))

/-- `BR` (R68). -/
def execHenBr (x : CtxRef) (s : State) : Host.Outcome State Fault Refusal :=
  .next (s.branch x 0x30 (fun _ _ => true))

/-- `BZ` (R68). -/
def execHenBz (x : CtxRef) (s : State) : Host.Outcome State Fault Refusal :=
  .next (s.branch x 0x31 (fun a _ => a == 0))

/-- `BNZ` (R68). -/
def execHenBnz (x : CtxRef) (s : State) : Host.Outcome State Fault Refusal :=
  .next (s.branch x 0x32 (fun a _ => a != 0))

/-- `BLT` (R68). -/
def execHenBlt (x : CtxRef) (s : State) : Host.Outcome State Fault Refusal :=
  .next (s.branch x 0x33 (fun a b => a.slt b))

/-- `BGE` (R68). -/
def execHenBge (x : CtxRef) (s : State) : Host.Outcome State Fault Refusal :=
  .next (s.branch x 0x34 (fun a b => !a.slt b))

/-- `BLTU` (R68). -/
def execHenBltu (x : CtxRef) (s : State) : Host.Outcome State Fault Refusal :=
  .next (s.branch x 0x35 (fun a b => a.ult b))

/-- `BGEU` (R68). -/
def execHenBgeu (x : CtxRef) (s : State) : Host.Outcome State Fault Refusal :=
  .next (s.branch x 0x36 (fun a b => !a.ult b))

/-- `BEQ` (R68). -/
def execHenBeq (x : CtxRef) (s : State) : Host.Outcome State Fault Refusal :=
  .next (s.branch x 0x37 (fun a b => a == b))

/-- `BNE` (R68). -/
def execHenBne (x : CtxRef) (s : State) : Host.Outcome State Fault Refusal :=
  .next (s.branch x 0x38 (fun a b => a != b))

/-- `END` retires the context (R79). -/
def execHenEnd (x : CtxRef) (s : State) : Host.Outcome State Fault Refusal :=
  .next (s.issue x (isOp 0x3E) (fun _ _ _ s1 => s1.retire x))

/-- A ready context reaches an illegal word, an uncorrectable error or a `SEND` on an empty route: the illegal path (R55, R68, R74). -/
def execIllegalInstruction (x : CtxRef) (s : State) : Host.Outcome State Fault Refusal :=
  match s.readyCtx x with
  | none => .next s
  | some c => .next (if (s.hen x.hen).runnable c.pc then s else s.illegalPath x c.pc)

/-- A context bound longer than the cluster's age limit is dropped at instant `t` (R80). -/
def execAgeDrop (x : CtxRef) (t : Nat) (s0 : State) : Host.Outcome State Fault Refusal :=
  let s := s0.upTo t
  match Sparse.find (s.hen x.hen).ctxs x.ctx with
  | none => .next s
  | some c =>
    let lim := s.ageLimit x.hen.die x.hen.clu
    let i := [x.hen.die, x.hen.clu, x.hen.hen]
    if lim ≠ 0 ∧ c.bound + lim < s.now then
      let s1 := ((s.wr HSTAT.age_drop i 1).bump HCNT_AGE.drops i).olmWrite 0x0040 (item4 (s.henWord x.hen) ++ item4 2 ++ item4 c.pc)
      .next ((s1.fltNote 0x05 x.hen.die (henUnit x.hen) 3 (!s.cluPrompt x.hen.die x.hen.clu)).retire x)
    else .next s

/-- A token reaches a hen (R58 to R61). -/
def execHenToken (h : HenRef) (f : Flit) (t : Nat) (s : State) : Host.Outcome State Fault Refusal :=
  .next (s.henToken h f t)

end Sys2Proof.Machine
end

