-- ==== Sys2Proof/Machine/HenMem.lean ====
section
/-!
DEFINITION. What a context does outside itself (R72, R73, R75 to R77, R85 to R88): SRAM, sends, queues, time waits; and the
steering unit's own events (R89 to R91).
-/
namespace Sys2Proof.Machine

/-! ### SRAM (R72, R85 to R88) -/

/-- Bytes of a cluster's SRAM (R85). -/
def sramSize : Nat := 4194304

/-- The address of a load or store: ra + sext(imm) modulo 2^64 (R72). -/
def memAddr (h : Hen) (c : Ctx) (w : W32) : Nat := (h.reg c (iRa w) + sext64 16 (iImm w)).toNat

/-- An access waits at its bank, or takes the fault path where it is misaligned or beyond 4 MiB (R72, R74). -/
def State.access (x : CtxRef) (size : Nat) (rd : Option Nat) (op : Hen → Ctx → W32 → AccOp) : Hen → Ctx → W32 → State → State :=
  fun h c w s =>
    let a := memAddr h c w
    if a % size ≠ 0 ∨ sramSize ≤ a then s.faultPath x c rd
    else
      let s1 := s.putCtx x { c with wait := .mem }
      let y := s1.clu x.hen.die x.hen.clu
      s1.setClu x.hen.die x.hen.clu { y with bankQ := y.bankQ ++ [{ who := .ctx x, addr := a, op := op h c w, arrived := s1.now }] }

/-- A load of `size` bytes (R68, R72). -/
def State.load (s : State) (x : CtxRef) (o size : Nat) : State :=
  match s.readyCtx x with
  | none => s
  | some c =>
    let w := (s.hen x.hen).word c.pc
    s.issue x (isOp o) (State.access x size (some (iRd w)) (fun _ _ w => .load size (iRd w)))

/-- A store of `size` bytes of rd (R68, R72). -/
def State.store (s : State) (x : CtxRef) (o size : Nat) : State :=
  s.issue x (isOp o) (State.access x size none (fun h c w => .store size (h.reg c (iRd w))))

/-- `LD64` (R72). -/
def execHenLd64 (x : CtxRef) (s : State) : Host.Outcome State Fault Refusal := .next (s.load x 0x18 8)
/-- `LD32` (R72). -/
def execHenLd32 (x : CtxRef) (s : State) : Host.Outcome State Fault Refusal := .next (s.load x 0x19 4)
/-- `LD16` (R72). -/
def execHenLd16 (x : CtxRef) (s : State) : Host.Outcome State Fault Refusal := .next (s.load x 0x1A 2)
/-- `LD8` (R72). -/
def execHenLd8 (x : CtxRef) (s : State) : Host.Outcome State Fault Refusal := .next (s.load x 0x1B 1)
/-- `ST64` (R72). -/
def execHenSt64 (x : CtxRef) (s : State) : Host.Outcome State Fault Refusal := .next (s.store x 0x1C 8)
/-- `ST32` (R72, R88). -/
def execHenSt32 (x : CtxRef) (s : State) : Host.Outcome State Fault Refusal := .next (s.store x 0x1D 4)
/-- `ST16` (R72, R88). -/
def execHenSt16 (x : CtxRef) (s : State) : Host.Outcome State Fault Refusal := .next (s.store x 0x1E 2)
/-- `ST8` (R72, R88). -/
def execHenSt8 (x : CtxRef) (s : State) : Host.Outcome State Fault Refusal := .next (s.store x 0x1F 1)

/-- The banks an access occupies: one, or half of them for a wide access (R85, R87). -/
def Access.meets (a b : Access) : Bool :=
  let wide := fun (x : Access) => match x.op with | .wideRead => true | .wideWrite _ => true | _ => false
  let bank := fun (x : Access) => x.addr / 8 % 32
  if wide a || wide b then decide (bank a / 16 = bank b / 16) else decide (bank a = bank b)

/-- The first waiting access of a requester, and the list without it. -/
def takeAccess (who : Requester) : List Access → Option (Access × List Access)
  | [] => none
  | a :: r => if a.who = who then some (a, r) else (takeAccess who r).map (fun p => (p.1, a :: p.2))

/-- An uncorrectable word of a cluster's SRAM: counted, recorded, and in bulk reported (R88, R363). -/
def State.sramBad (s : State) (n c a : Nat) (scrub : Bool) : State :=
  let s1 := (s.bump SRAMECC.uncorrected [n, c]).olmWrite 0x0050
    (item4 (unitWord 0x04 n c 0 (s.cluPrompt n c)) ++ item8 a ++ item4 (b2n scrub))
  if s.cluPrompt n c then s1 else s1.fltNote 0x04 n c 6 true

/-- Counts what the ECC of a read word shows (R88). -/
def State.sramEcc (s : State) (n c a : Nat) (e : Ecc) : State :=
  match e with
  | .clean => s
  | .single => s.bump SRAMECC.corrected [n, c]
  | .double _ => s.sramBad n c a false

/-- Bytes of the word as a read delivers them (R88). -/
def eccWord (v : W64) : Ecc → W64
  | .double stored => stored
  | _ => v

/-- An uncorrectable read marks the context that made it, in a prompt cluster (R88). -/
def eccFault (prompt : Bool) : Ecc → BitVec 4
  | .double _ => if prompt then stFault else 0
  | _ => 0

/-- The context's access is done (R72, R88): the loaded value, or the merged store, and the context goes on. -/
def State.finishAccess (s : State) (x : CtxRef) (a : Access) (e : Ecc) : State :=
  let n := x.hen.die
  let cl := x.hen.clu
  match Sparse.find (s.hen x.hen).ctxs x.ctx with
  | none => s
  | some c =>
    let y := s.clu n cl
    let w := a.addr / 8
    let old := Sparse.get 0 y.sram w
    let c1 := { c with status := c.status ||| eccFault (s.cluPrompt n cl) e }
    match a.op with
    | .load size rd =>
      let v := BitVec.ofNat 64 (bitsOf (eccWord old e).toNat (8 * (a.addr % 8)) (8 * size))
      (s.sramEcc n cl a.addr e).stepCtx x (c1.setReg rd v)
    | .store size v =>
      if size = 8 then
        (s.setClu n cl { y with sram := Sparse.set 0 y.sram w v }).stepCtx x c
      else
        match e with
        | .double _ => (s.sramEcc n cl a.addr e).stepCtx x c1
        | _ =>
          let m := BitVec.ofNat 64 (setBits old.toNat (8 * (a.addr % 8)) (8 * size) v.toNat)
          ((s.setClu n cl { y with sram := Sparse.set 0 y.sram w m }).sramEcc n cl a.addr e).stepCtx x c
    | _ => s

/-- The bytes of 128 at a line address in SRAM words. -/
def sramLine (m : Sparse W64) (a : Nat) : List Byte := (List.range 16).flatMap (fun j => leBytes 8 (Sparse.get 0 m (a / 8 + j)).toNat)

/-- A line written over SRAM words. -/
def sramSetLine (m : Sparse W64) (a : Nat) (bs : List Byte) : Sparse W64 :=
  (List.range 16).foldl (fun k j => Sparse.set 0 k (a / 8 + j) (BitVec.ofNat 64 (leNat ((bs.drop (8 * j)).take 8)))) m

/-! ### Sends (R73, R92) -/

/-- Status of a token that leaves a cluster: SUBST joins after a substitution where `CLUCFG.state_subst` says so (R102). -/
def State.leaveStatus (s : State) (n c : Nat) (st : BitVec 4) : BitVec 4 :=
  if (s.clu n c).substituted && s.flag CLUCFG.state_subst [n, c] then st ||| stSubst else st

/-- The token of a `SEND` (R73). -/
def State.sendTok (s : State) (x : CtxRef) (h : Hen) (c : Ctx) (w : W32) : Token :=
  let rw := (h.word (32 + iRoute w)).toNat
  let tag := if iTsrc w = 1 then (h.reg c (iRa w)).setWidth 16
             else c.tag + (BitVec.ofNat 8 (iDelta w)).signExtend 16
  { data := h.reg c (iRd w), addr := BitVec.ofNat 28 (rw / 16), index := rw % 16, operand := iK w, tag
    prompt := s.cluPrompt x.hen.die x.hen.clu, epoch := c.epoch, status := s.leaveStatus x.hen.die x.hen.clu c.status
    beat := c.beat, copy := c.copy }

/-- The edge of a route. -/
def routeEdge (x : CtxRef) (r : Nat) : Edge := .hen x.hen.die x.hen.clu x.hen.hen r

/-- A send may leave on a route: a credit is held, no marker blocks the edge, and no earlier send of the route waits (R92, R175). -/
def State.sendOpen (s : State) (x : CtxRef) (r : Nat) : Bool :=
  s.creditOf (routeEdge x r) != 0 && !s.markBlocked (routeEdge x r) &&
    !(s.hen x.hen).sendQ.any (fun i => match Sparse.find (s.hen x.hen).ctxs i with
      | some c => (match c.wait with | .send q _ => q == r | _ => false)
      | none => false)

/-- The token leaves and takes a credit (R92). -/
def State.sendOut (s : State) (e : Edge) (t : Token) : State := (s.setCredit e (s.creditOf e - 1)).send { tok := t, edge := e }

/-- `SEND` (R73): the token leaves once a credit for its route is held. -/
def execHenSend (x : CtxRef) (s : State) : Host.Outcome State Fault Refusal :=
  .next (s.issue x (isOp 0x20) (fun h c w s1 =>
    let t := s1.sendTok x h c w
    let r := iRoute w
    if s1.sendOpen x r then (s1.sendOut (routeEdge x r) t).stepCtx x c
    else
      let s2 := s1.putCtx x { c with wait := .send r t }
      let y := s2.hen x.hen
      s2.setHen x.hen { y with sendQ := y.sendQ ++ [x.ctx] }))

/-- The oldest send that waits on a route leaves with a credit that came back (R64, R92). -/
def State.releaseSend (s : State) (n c h r : Nat) : State :=
  let hr : HenRef := ⟨n, c, h⟩
  let y := s.hen hr
  let e : Edge := .hen n c h r
  if s.creditOf e = 0 ∨ s.markBlocked e = true then s
  else
    match y.sendQ.find? (fun i => match Sparse.find y.ctxs i with
        | some k => (match k.wait with | .send q _ => q == r | _ => false)
        | none => false) with
    | none => s
    | some i =>
      match Sparse.find y.ctxs i with
      | none => s
      | some k =>
        match k.wait with
        | .send _ t =>
          (((s.setHen hr { y with sendQ := y.sendQ.filter (fun j => j ≠ i) }).sendOut e t).stepCtx ⟨hr, i⟩ k)
        | _ => s

/-! ### Queues (R75, R76) -/

/-- A queue instruction is valid (R75): bulk cluster, queue bound to the entry, direction as the instruction needs. -/
def State.queueValid (s : State) (x : CtxRef) (c : Ctx) (q : Nat) (write : Bool) : Bool :=
  !s.cluPrompt x.hen.die x.hen.clu && bitOf ((s.hen x.hen).qmask c.entry) q &&
    (let g := s.goat x.hen.die x.hen.clu (q / 8)
     match g.queueDesc (q % 8) with
     | some d => (g.desc d).kind == (if write then 2 else 1)
     | none => false)

/-- Every older live context of the entry has passed the queue on (R76). -/
def State.queueTurn (s : State) (x : CtxRef) (c : Ctx) (q : Nat) : Bool :=
  let h := s.hen x.hen
  h.ctxs.all (fun p => p.2.entry != c.entry || decide (h.dist c.entry c.tag ≤ h.dist c.entry p.2.tag) || p.2.passed.contains q)

/-- The context passes the queue on to the next tag (R76). -/
def Ctx.pass (c : Ctx) (q : Nat) (last : Bool) : Ctx := if last && !c.passed.contains q then { c with passed := c.passed ++ [q] } else c

/-- Entries appended to a write queue beyond its run's last line are discarded, counted and reported (R220). -/
def State.queueAppend (s : State) (n c q : Nat) (v : W64) : State :=
  let g := q / 8
  let y := s.goat n c g
  match y.queueDesc (q % 8) with
  | none => s
  | some d =>
    let st := y.stream d
    let k := y.queue (q % 8)
    let excess := match st.run with
      | some r => decide (16 * (y.desc d).lines ≤ r.appended)
      | none => st.runs != 0
    if excess then
      ((s.bump GTCNT_ERR.overrun [n, c, g]).wr GTSTAT.overrun [n, c, g] 1).fltNote 0x04 n c 9 true
    else
      let st1 := match st.run with | some r => { st with run := some { r with appended := r.appended + 1 } } | none => st
      s.putGoat n c g ((y.setStream d st1).setQueue (q % 8) { k with entries := k.entries ++ [v] })

/-- A queue instruction completes if its condition holds (R76). -/
def State.tryQueue (s : State) (x : CtxRef) (c : Ctx) : Option State :=
  let n := x.hen.die
  let cl := x.hen.clu
  match c.wait with
  | .qwait q m =>
    if s.queueTurn x c q && decide (m ≤ ((s.goat n cl (q / 8)).queue (q % 8)).entries.length) then
      some (s.stepCtx x { c with cleared := Sparse.set 0 c.cleared q m })
    else none
  | .qtake q rd last =>
    let y := s.goat n cl (q / 8)
    let k := y.queue (q % 8)
    match k.entries with
    | v :: r =>
      if s.queueTurn x c q then
        let c1 := ({ c with cleared := Sparse.set 0 c.cleared q (Sparse.get 0 c.cleared q - 1) } : Ctx).setReg rd v
        some ((s.putGoat n cl (q / 8) (y.setQueue (q % 8) { k with entries := r })).stepCtx x (c1.pass q last))
      else none
    | [] => none
  | .qput q v last =>
    let k := (s.goat n cl (q / 8)).queue (q % 8)
    if s.queueTurn x c q && decide (k.entries.length + k.leaving < 64) then
      some ((s.queueAppend n cl q v).stepCtx x (c.pass q last))
    else none
  | _ => none

/-- A queue instruction completes at once or waits (R76). -/
def State.queueOrWait (s : State) (x : CtxRef) (c : Ctx) (w : Wait) : State :=
  let c1 := { c with wait := w }
  match s.tryQueue x c1 with
  | some s1 => s1
  | none => s.putCtx x c1

/-- `QWAIT` (R75, R76). -/
def execHenQwait (x : CtxRef) (s : State) : Host.Outcome State Fault Refusal :=
  .next (s.issue x (isOp 0x24) (fun _ c w s1 =>
    if s1.queueValid x c (iQ w) false then s1.queueOrWait x c (.qwait (iQ w) (iN w)) else s1.faultPath x c none))

/-- `QTAKE` (R75, R76). -/
def execHenQtake (x : CtxRef) (s : State) : Host.Outcome State Fault Refusal :=
  .next (s.issue x (isOp 0x25) (fun _ c w s1 =>
    if s1.queueValid x c (iQ w) false then s1.queueOrWait x c (.qtake (iQ w) (iRd w) (iLast w))
    else s1.faultPath x c (some (iRd w))))

/-- `QPUT` (R75, R76). -/
def execHenQput (x : CtxRef) (s : State) : Host.Outcome State Fault Refusal :=
  .next (s.issue x (isOp 0x26) (fun h c w s1 =>
    if s1.queueValid x c (iQ w) true then s1.queueOrWait x c (.qput (iQ w) (h.reg c (iRd w)) (iLast w))
    else s1.faultPath x c none))

/-- A waiting queue instruction's condition has come to hold (R76). -/
def execQueueConditionMet (x : CtxRef) (s : State) : Host.Outcome State Fault Refusal :=
  match Sparse.find (s.hen x.hen).ctxs x.ctx with
  | none => .next s
  | some c => .next (match s.tryQueue x c with | some s1 => s1 | none => s)

/-! ### Time waits (R77) -/

/-- Instant, ps, of a time in units of 100 ps from the domain epoch, under given registers (R263, R271). -/
def domainInstant (x : TimeSeg) (u : Nat) : Nat := eighthsTo x ((u * 65536 + 9) / 10) * vernierPs

/-- Instant of occurrence `k` of a time event that has occurred, ps (R271). -/
def State.occurredAt (s : State) (e k : Nat) : Option Nat :=
  let v := Sparse.get {} s.tevents e
  let u := v.base + k * s.raw TEPER [e] % 2 ^ 48
  if v.armed = false ∨ v.occurred ≤ k then none
  else if s.flag TECFG.mode [e] then
    (if k < v.pre then some (domainInstant s.timeSeg u) else v.inst[k - v.pre]?)
  else some (u * vernierPs)

/-- `TWAIT` (R77): a passed time is counted and the context goes on. -/
def execHenTwait (x : CtxRef) (s : State) : Host.Outcome State Fault Refusal :=
  .next (s.issue x (isOp 0x28) (fun h c w s1 =>
    let i := [x.hen.die, x.hen.clu, x.hen.hen]
    let a := h.reg c (iRa w)
    if bitOf (iImm w) 0 then
      let e := bitsOf (iImm w) 1 4
      match s1.occurredAt e a.toNat with
      | some t => (s1.bump HCNT_AGE.tlate i).stepCtx x { c with twait := BitVec.ofNat 64 (t / tickPs) }
      | none => s1.putCtx x { c with wait := .time a.toNat (some e) }
    else if a.toNat * tickPs ≤ s1.now then (s1.bump HCNT_AGE.tlate i).stepCtx x { c with twait := a }
    else s1.putCtx x { c with wait := .time (a.toNat * tickPs) none, twait := a }))

/-- The named time of a `TWAIT` arrives: the raw instant passes, or the occurrence has occurred (R77, R271). -/
def execTwaitWake (x : CtxRef) (t : Nat) (s0 : State) : Host.Outcome State Fault Refusal :=
  let s := s0.upTo t
  match Sparse.find (s.hen x.hen).ctxs x.ctx with
  | none => .next s
  | some c =>
    match c.wait with
    | .time ps none => .next (if ps ≤ s.now then s.stepCtx x c else s)
    | .time k (some e) =>
      .next (match s.occurredAt e k with
        | some u => s.stepCtx x { c with twait := BitVec.ofNat 64 (u / tickPs) }
        | none => s)
    | _ => .next s

/-! ### The scrubber and the steering unit's events (R88 to R91) -/

/-- A scrub read of SRAM word `word` (R88): a correction is written back in bulk and listed in prompt. -/
def execSramScrub (n c word : Nat) (e : Ecc) (s : State) : Host.Outcome State Fault Refusal :=
  if s.flag SCRUBCFG.enable [n, c] then
    match e with
    | .clean => .next s
    | .single =>
      let s1 := s.bump SRAMECC.corrected [n, c]
      let x := s1.clu n c
      if !s.cluPrompt n c || x.repair.contains word then .next s1
      else if 16 ≤ x.repair.length then .next (s1.wr SRAMREPAIR.overflow [n, c] 1)
      else .next ((s1.setClu n c { x with repair := x.repair ++ [word] }).wr SRAMREPAIR.pending [n, c] (x.repair.length + 1))
    | .double _ => .next (s.sramBad n c (8 * word) true)
  else .next s

/-- A token reaches the steering unit of a cluster (R89 to R91). -/
def execSteeringToken (n c : Nat) (f : Flit) (t : Nat) (s : State) : Host.Outcome State Fault Refusal :=
  .next (s.steerToken n c f t)

/-- A slot's token is older than the age limit; one held for a substitution does not age (R91). -/
def Slot.aged (z : Slot) (limit now : Nat) : Bool :=
  limit != 0 && decide (z.taken + limit < now) && (match z.kind with | .subst _ => false | _ => true)

/-- The first token held past the age limit is discarded, counted and reported at instant `t` (R91). -/
def execSteeringAged (n c : Nat) (t : Nat) (s0 : State) : Host.Outcome State Fault Refusal :=
  let s := s0.upTo t
  let x := s.clu n c
  match takeSlot (fun z => z.aged (s.ageLimit n c) s.now) x.slots with
  | none => .next s
  | some (z, rest) =>
    let s1 := ((s.putSlots n c { x with slots := rest } 0).bump STEERCNT.aged [n, c]).fltNote 0x03 n c 4 (!s.cluPrompt n c)
    .next (s1.owe z.flit.edge)

/-- Any write to `STEERSTAT` sets its peak field to 0 (R89, its table). -/
def execSteerstatWrite (n c : Nat) (_v : W32) (s : State) : Host.Outcome State Fault Refusal :=
  .next (s.wr STEERSTAT.peak [n, c] 0)

end Sys2Proof.Machine
end

