-- ==== Sys2Proof/Machine/Extract.lean ====
section
/-!
DEFINITION. A port block's receive side: the Henist line code (R185 to R189), the CRC, and the field extractor with its
nested length walks (R192 to R198), as functions of the bytes landed.
-/
namespace Sys2Proof.Machine

/-! ### The Henist line code (R185) -/

/-- `n` bits of the PRBS31 sequence whose next 31 bits are the list, oldest first (R185; log 26). -/
def prbs31 : Nat → List Bool → List Bool
  | 0, _ => []
  | n + 1, l => l.headD false :: prbs31 n (l.drop 1 ++ [l.headD false != l.getD 3 false])

/-- The whitening word W, bit 0 first (R185). -/
def whitening : List Bool := prbs31 272 (List.replicate 31 true)

/-- The bits of codeword `c` of a line block, whitening removed (R185): line bits 2i + c. -/
def codeword (b : BitVec 272) (c : Nat) : List Bool :=
  (List.range 136).map (fun i => b.getLsbD (2 * i + c) != whitening.getD (2 * i + c) false)

/-- One step of division by g(x) = x^8 + x^4 + x^3 + x^2 + 1 (R185). -/
def crc8Step (r : Nat) (b : Bool) : Nat :=
  let v := 2 * r + b2n b
  if 256 ≤ v then (v ^^^ 0x11D) else v

/-- The remainder of a codeword; 0 for a codeword of the code (R185). -/
def syndrome (l : List Bool) : Nat := l.foldl crc8Step 0

/-- The bit position whose single error has syndrome `y`, among the next `n` powers of x from `p` at position `i` down. -/
def errorAt (y : Nat) : Nat → Nat → Nat → Option Nat
  | 0, _, _ => none
  | n + 1, p, i => if p = y then some i else errorAt y n (crc8Step p false) (i - 1)

/-- A list of bits with bit `i` flipped. -/
def flipBit (l : List Bool) (i : Nat) : List Bool := l.zipIdx.map (fun p => if p.2 = i then !p.1 else p.1)

/-- What decoding a codeword gives (R185, R189). -/
inductive Decoded where
  | good (bits : List Bool)
  | corrected (bits : List Bool)
  | uncorrectable
deriving DecidableEq, Repr

/-- A codeword is good, corrected, or uncorrectable where its syndrome names no position (R185, R189). -/
def decodeWord (l : List Bool) : Decoded :=
  let y := syndrome l
  if y = 0 then .good l
  else match errorAt y 136 1 135 with
    | some i => .corrected (flipBit l i)
    | none => .uncorrectable

/-- A number from bits, the lowest first. -/
def bitsNat : List Bool → Nat
  | [] => 0
  | b :: bs => b2n b + 2 * bitsNat bs

/-- The 16 data bytes of a codeword; zeros where it is uncorrectable (R186, R189). -/
def wordBytes : Decoded → List Byte
  | .uncorrectable => List.replicate 16 0
  | .good l => (List.range 16).map (fun j => BitVec.ofNat 8 (bitsNat ((l.drop (8 * j)).take 8)))
  | .corrected l => (List.range 16).map (fun j => BitVec.ofNat 8 (bitsNat ((l.drop (8 * j)).take 8)))

def Decoded.lost : Decoded → Bool
  | .uncorrectable => true | _ => false
def Decoded.fixed : Decoded → Bool
  | .corrected _ => true | _ => false

/-- The control byte of a block (R186). -/
inductive Control where
  | idle
  | run (start : Bool) (last : Option Nat)
  | unknown
deriving DecidableEq, Repr

/-- Reads a control byte (R186). -/
def controlOf (b : Byte) : Control :=
  let v := b.toNat
  if bitOf v 7 then (if v = 128 then .idle else .unknown)
  else if bitOf v 1 then (if bitsOf v 2 5 = 0 then .unknown else .run (bitOf v 0) (some (bitsOf v 2 5)))
  else .run (bitOf v 0) none

/-- Instant after the block's first bit at which the last bit of data byte `j` crosses the fibre face, ps: line bit
2 (8 (j mod 16) + 7) + j / 16 of 272 in 1,280 ps (R185). -/
def byteInstant (j : Nat) : Nat := (16 * (j % 16) + 15 + j / 16) * 1280 / 272

/-! ### CRC-32 (R186) -/

/-- Eight steps of the reflected IEEE 802.3 CRC. -/
def crcBits : Nat → W32 → W32
  | 0, r => r
  | n + 1, r => crcBits n (if r.getLsbD 0 then (r >>> 1) ^^^ 0xEDB88320 else r >>> 1)

/-- One byte into the CRC register. -/
def crcByte (r : W32) (b : Byte) : W32 := crcBits 8 (r ^^^ b.setWidth 32)

/-- The check sequence of a frame (IEEE 802.3): complement of the register, low byte first. -/
def crc32 (bs : List Byte) : W32 := ~~~ (bs.foldl crcByte 0xFFFFFFFF)

/-- The register after a frame with its own correct check. -/
def crcResidue : W32 := 0xDEBB20E3

/-! ### Rules and walk levels (R192, R193, R197) -/

/-- An extractor rule: its two 64-bit words. -/
structure Rule where
  num : Nat
  w0 : Nat
  w1 : Nat
deriving DecidableEq, Repr

def Rule.kind (r : Rule) : Nat := bitsOf r.w0 0 2
def Rule.anchor (r : Rule) : Bool := bitOf r.w0 2
def Rule.lenbyte (r : Rule) : Bool := bitOf r.w0 3
def Rule.order (r : Rule) : Bool := bitOf r.w0 4
def Rule.offset (r : Rule) : Nat := bitsOf r.w0 5 14
def Rule.width (r : Rule) : Nat := bitsOf r.w0 19 3 + 1
def Rule.ntok (r : Rule) : Nat := if r.kind = 3 then bitsOf r.w0 22 3 + 1 else 1
def Rule.level (r : Rule) : Nat := bitsOf r.w0 25 6
def Rule.value (r : Rule) : Nat := bitsOf r.w0 32 32
def Rule.mask (r : Rule) : Nat := bitsOf r.w1 0 32
def Rule.address (r : Rule) : Nat := bitsOf r.w1 0 28
def Rule.index (r : Rule) : Nat := bitsOf r.w1 28 4
def Rule.operand (r : Rule) : Nat := bitsOf r.w1 32 3
def Rule.copy (r : Rule) : Nat := bitsOf r.w1 35 2
def Rule.tagOff (r : Rule) : W16 := (BitVec.ofNat 8 (bitsOf r.w1 37 8)).signExtend 16

/-- A 64-bit little-endian word of a byte table. -/
def memWord (m : Sparse Byte) (a : Nat) : Nat := leNat (Sparse.getBytes m a 8)

/-- The rules of a port that are in use, in order (R192, R193). -/
def rulesOf (m : Sparse Byte) : List Rule :=
  ((List.range 64).map (fun i => ({ num := i, w0 := memWord m (16 * i), w1 := memWord m (16 * i + 8) } : Rule))).filter
    (fun r => r.kind != 0)

/-- A walk level descriptor (R197). -/
structure Level where
  parent : Nat
  start : Nat
  tsize : Nat
  lsize : Nat
  little : Bool
  incl : Bool
  tag : Nat
  occ : Nat
  maxItems : Nat
deriving DecidableEq, Repr

/-- Length bytes of a code. -/
def lsizeOf : Nat → Nat
  | 0 => 1 | 1 => 2 | 2 => 4 | _ => 8

/-- Descriptor `i` (R197). -/
def levelOf (m : Sparse Byte) (i : Nat) : Level :=
  let v := memWord m (0x400 + 8 * i)
  { parent := bitsOf v 0 6, start := bitsOf v 6 14, tsize := bitsOf v 20 2, lsize := lsizeOf (bitsOf v 22 2)
    little := bitOf v 24, incl := bitOf v 25, tag := bitsOf v 26 16, occ := bitsOf v 42 4, maxItems := bitsOf v 46 8 }

/-- The levels from the top down to level `i`, at most 8 of them (R197). -/
def levelChain (m : Sparse Byte) : Nat → Nat → List (Nat × Level)
  | 0, _ => []
  | n + 1, i =>
    let l := levelOf m i
    if l.parent = i then [(i, l)] else levelChain m n l.parent ++ [(i, l)]

/-! ### The walk (R198) -/

/-- The most bytes a port block buffers. -/
def portBuffer : Nat := 16384

/-- A big- or little-endian number of landed bytes `a` to `a + n - 1`. -/
def RxFrame.num (f : RxFrame) (a n : Nat) (little : Bool) : Nat :=
  let bs := (f.bytes.drop a).take n
  if little then leNat bs else leNat bs.reverse

/-- A byte of the run was delivered as 0 under R189. -/
def RxFrame.touched (f : RxFrame) (a n : Nat) : Bool := f.substituted.any (fun p => decide (a ≤ p) && decide (p < a + n))

/-- What a walk has come to (R198). `marked` joins SUBST to the walk's tokens; `items` are the items counted as overlong. -/
inductive Walk where
  /-- bytes are still to land -/
  | pending
  /-- no match; the container's end -/
  | absent (marked : Bool) (items : List (Nat × Nat)) (cend : Nat)
  /-- the found value: its first byte, the byte after its last, and whether it was cut -/
  | found (vs ve : Nat) (cut marked : Bool) (items : List (Nat × Nat))
deriving DecidableEq, Repr

/-- Items of level `lv` from `pos` in a container that ends at `cend` (R198). The first number bounds the items examined. -/
def walkItems (f : RxFrame) (lv : Nat) (l : Level) (cend : Nat) : Nat → Nat → Nat → Bool → List (Nat × Nat) → Walk
  | 0, _, _, mk, its => .absent mk its cend
  | n + 1, pos, occ, mk, its =>
    let h := pos + l.tsize + l.lsize
    let have_ := f.bytes.length
    let excess := (lv, pos) :: its
    if cend ≤ pos then (if f.len.isSome ∨ cend ≤ have_ then .absent mk its cend else .pending)
    else if cend < h then (if f.len.isSome ∨ cend ≤ have_ then .absent true excess cend else .pending)
    else if have_ < h then .pending
    else
      let tag := f.num pos l.tsize l.little
      let L := f.num (pos + l.tsize) l.lsize l.little
      let short := l.incl && decide (L < l.tsize + l.lsize)
      let len := if l.incl then L - (l.tsize + l.lsize) else L
      let cut := decide (cend < h + len)
      let mk1 := mk || short || cut || f.touched pos (l.tsize + l.lsize)
      let its1 := if short || cut then excess else its
      let ve := min (h + len) cend
      if tag = l.tag then
        (if occ = 0 then .found h ve cut mk1 its1 else walkItems f lv l cend n (h + len) (occ - 1) mk1 its1)
      else walkItems f lv l cend n (h + len) occ mk1 its1

/-- The end of the top container: the last byte before the check, and at most 16 KiB (R198). -/
def RxFrame.topEnd (f : RxFrame) : Nat := match f.len with | some n => min (n - 4) portBuffer | none => portBuffer

/-- The walk through a chain of levels, each in its parent's found value (R198). -/
def walkChain (f : RxFrame) : List (Nat × Level) → Nat → Nat → Bool → Bool → List (Nat × Nat) → Walk
  | [], vs, ve, cut, mk, its => .found vs ve cut mk its
  | (i, l) :: ls, cs, ce, _, mk, its =>
    match walkItems f i l ce l.maxItems (cs + l.start) l.occ mk its with
    | .found vs ve cut m its1 => walkChain f ls vs ve cut m its1
    | w => w

/-- The walk of a rule (R197, R198). -/
def RxFrame.walk (f : RxFrame) (m : Sparse Byte) (r : Rule) : Walk :=
  walkChain f (levelChain m 8 r.level) 0 f.topEnd false false []

/-! ### Tokens of a rule (R195, R196, R198) -/

/-- A token's data from its present bytes: order 0 puts the last byte at bits [7:0], order 1 the first (R195). -/
def packField (order : Bool) (bs : List Byte) : Nat := if order then leNat bs else leNat bs.reverse

/-- What a token of a rule is once its release condition holds (R195, R196, R198): data, SUBST, fields short and absent to count. -/
structure FieldTok where
  data : W64
  subst : Bool
  short : Nat := 0
  absent : Nat := 0
deriving DecidableEq, Repr

/-- Token `i` of a fixed field, where it can be released (R195, R196). -/
def RxFrame.fixedTok (f : RxFrame) (r : Rule) : Option FieldTok :=
  let e := r.offset + r.width
  let stop := match f.len with | some n => min (min n portBuffer) e | none => min portBuffer e
  let bs := (f.bytes.take stop).drop r.offset
  let d := BitVec.ofNat 64 (packField r.order bs)
  if e ≤ f.bytes.length then some { data := d, subst := f.touched r.offset r.width }
  else if stop < e ∧ f.len.isSome ∧ stop ≤ f.bytes.length then some { data := d, subst := true, short := 1 }
  else none

/-- Token `i` of a walk field, where it can be released (R195, R198). -/
def RxFrame.walkTok (f : RxFrame) (r : Rule) (w : Walk) (i : Nat) : Option FieldTok :=
  match w with
  | .pending => none
  | .absent sb _ _ =>
    some { data := if r.lenbyte then BitVec.ofNat 64 (0xFF * 2 ^ 56) else 0, subst := sb || !r.lenbyte
           absent := if r.lenbyte then 0 else 1 }
  | .found vs ve _ sb _ =>
    let a := vs + r.offset + i * r.width
    let e := min (a + r.width) ve
    if f.bytes.length < e then none
    else
      let bs := (f.bytes.take e).drop a
      some { data := BitVec.ofNat 64 (packField r.order bs + (if r.lenbyte then bs.length * 2 ^ 56 else 0))
             subst := sb || f.touched a bs.length }

/-- Position of the byte that stands for the anchor field's last byte, once the stamp can leave (R199). -/
def RxFrame.anchorPos (f : RxFrame) (r : Rule) (w : Walk) : Option Nat :=
  let have_ := f.bytes.length
  if r.kind = 1 then
    if r.offset + r.width ≤ have_ then some (r.offset + r.width - 1)
    else match f.len with
      | some n => if min n portBuffer ≤ have_ then some (min n portBuffer - 1) else none
      | none => none
  else
    match w with
    | .pending => none
    | .absent _ _ ce => if ce ≤ have_ then some (ce - 1) else none
    | .found vs ve cut _ _ =>
      let e := vs + r.offset + r.ntok * r.width
      if e ≤ ve then (if e ≤ have_ then some (e - 1) else none)
      else if cut then
        match f.len with
        | some n => if min n portBuffer ≤ have_ then some (min n portBuffer - 1) else none
        | none => if ve ≤ have_ then some (ve - 1) else none
      else if vs + r.offset < ve then (if ve ≤ have_ then some (ve - 1) else none)
      else some (vs - 1)

/-- A compare rule: `none` while its bytes are still to land (R194). -/
def RxFrame.compare (f : RxFrame) (r : Rule) : Option Bool :=
  let e := r.offset + r.width
  if e ≤ f.bytes.length then
    some (packField r.order ((f.bytes.drop r.offset).take r.width) &&& r.mask == r.value)
  else match f.len with
    | some n => if n < e ∨ portBuffer < e then some false else none
    | none => none

/-- Whether a frame is a beat, once it is decided (R194). -/
def RxFrame.decide (f : RxFrame) (rs : List Rule) : Option Bool :=
  let cs := (rs.filter (fun r => r.kind == 2)).map f.compare
  if cs.contains (some false) then some false
  else if cs.contains none ∨ f.bytes.isEmpty then none
  else some true

end Sys2Proof.Machine
end

