-- ==== Sys2Proof/Machine/Ring.lean ====
section
/-!
DEFINITION. The Vilovote ring as every unit of the hub uses it (R273 to R277, R287): frames out, forwarding, and the arrivals of
a barrier reaching the master.
-/
namespace Sys2Proof.Machine

/-- Nanoseconds in units of domain time. -/
def nsDom (n : Nat) : Nat := n * 65536

/-- Domain time now. -/
def State.domNow (s : State) : Nat := s.domainAt s.now

/-- A domain time as the 48-bit field of a ring frame (R275). -/
def dom48 (d : Nat) : Nat := d / 256 % 2 ^ 48

/-- The time nearest own domain time that a 48-bit field stands for (R275). -/
def State.nearest (s : State) (f : Nat) : Nat :=
  let d := s.domNow / 256
  let x := (f % 2 ^ 48 + 2 ^ 48 - d % 2 ^ 48) % 2 ^ 48
  256 * (if x < 2 ^ 47 then d + x else d + x - 2 ^ 48)

/-- The least instant, ps, whose domain time is not below `T` (R263). -/
def State.psOf (s : State) (T : Nat) : Nat := eighthsTo s.timeSeg T * vernierPs

/-- The bytes of a ring frame (R275). -/
def ringBytes (kind origin hop flags : Nat) (seq : W16) (time : Nat) (body : List Byte) : List Byte :=
  let b := leBytes 1 kind ++ leBytes 1 (origin % 64) ++ leBytes 1 (hop % 64) ++ leBytes 1 flags ++ leBytes 2 seq.toNat ++
    leBytes 6 (dom48 time) ++ (body ++ List.replicate 12 0).take 12
  b ++ leBytes 4 (crc32 b).toNat

/-- The node takes part in the ring (R273, R280): enabled, and its node number not another's. -/
def State.inRing (s : State) : Bool := s.flag VCFG.enable [] && !s.flag VSTAT.dup_node []

/-- Own node number. -/
def State.node (s : State) : Nat := s.rd VCFG.node []

/-- A frame of the node's own leaves on one lane (R275, R279). -/
def State.ringLane (s : State) (lane kind flags time : Nat) (body : List Byte) : State :=
  if s.inRing then
    ({ s with vote := { s.vote with seq := s.vote.seq + 1 } }).emit
      (.ring lane (ringBytes kind s.node 0 (flags + lane) s.vote.seq time body))
  else s

/-- A frame of the node's own leaves on both lanes under one number (R275, R277). -/
def State.ringSend (s : State) (kind flags time : Nat) (body : List Byte) : State :=
  if s.inRing then
    (({ s with vote := { s.vote with seq := s.vote.seq + 1 } }).emit
      (.ring 0 (ringBytes kind s.node 0 flags s.vote.seq time body))).emit
      (.ring 1 (ringBytes kind s.node 0 (flags + 1) s.vote.seq time body))
  else s

/-- A received frame goes on in its direction, `extra` added to a SYNC frame's correction (R277, R280). -/
def State.ringForward (s : State) (f : RingFrame) (body : List Byte) : State :=
  if s.flag VCFG.enable [] && decide (f.hop + 1 < s.rd VCFG.nodes []) && decide (f.origin ≠ s.node) then
    s.emit (.ring f.lane (ringBytes f.kind f.origin (f.hop + 1) f.flags f.seq (f.time * 256) body))
  else s

/-- A copy of the frame has been acted on within 8 µs (R277). -/
def State.ringSeen (s : State) (f : RingFrame) : Bool :=
  s.vote.seen.any (fun p => p.1 == f.origin && p.2.1 == f.seq && decide (s.now ≤ p.2.2 + 8000000))

/-- A ring frame comes in at `t`: forwarded, and to be acted on when the answer is true (R277). -/
def State.ringIn (s0 : State) (f : RingFrame) (t : Nat) : Bool × State :=
  let s := s0.upTo t
  let s1 := s.ringForward f f.body
  if s.inRing = false ∨ f.origin = s.node ∨ s.ringSeen f = true then (false, s1)
  else (true, { s1 with vote := { s1.vote with
    seen := (f.origin, f.seq, s1.now) :: s1.vote.seen.filter (fun p => decide (s1.now ≤ p.2.2 + 8000000)) } })

/-- The little-endian field of `n` bytes at byte `i` of a frame's body (R276). -/
def rfld (f : RingFrame) (i n : Nat) : Nat := leNat ((f.body.drop i).take n)

/-! ### Barriers (R231, R234, R287) -/

/-- A loaded job by its ring tag, `job_id` bits [7:0] (R276). -/
def State.jobOfTag (s : State) (tag : Nat) : Option Job := s.jobs.find? (fun j => j.id % 256 == tag)

/-- The job that holds a die. -/
def State.jobOfDie (s : State) (n : Nat) : Option Job := s.jobs.find? (fun j => j.dies.contains n)

/-- This module is the job master: it has rank 0 (R287). -/
def State.jobMaster (s : State) : Bool := s.jobs.any (fun j => j.rank == 0)

/-- The checkpoint armed on a job is taken at a complete barrier of it whose members all have ckpt set (R234). -/
def State.ckptAt (s : State) (j : Job) (b : Nat) : Bool :=
  s.ckpts.any (fun k => k.job == j.id && k.barrier == none) &&
    (s.barrier b).arrivals.all (fun a => ((s.goat a.die a.clu a.goat).desc a.desc).ckpt)

/-- The barrier is held for a checkpoint of the job (R234). -/
def State.holdBarrier (s : State) (j : Job) (b : Nat) : State :=
  ({ s with ckpts := s.ckpts.map (fun (k : Ckpt) => if k.job = j.id ∧ k.barrier = none then { k with barrier := some b, since := s.now } else k) }).wr
    BARSTAT.held [b] 1

/-- The release instant is agreed: the domain time now plus `VFIRE.bound` (R287). -/
def State.agreeRelease (s : State) (b : Nat) (T : Nat) : State :=
  s.setBarrier b { s.barrier b with release := some (s.psOf T) }

/-- Body of a RELEASE frame (R276). -/
def releaseBody (b gen T tag : Nat) : List Byte :=
  leBytes 1 b ++ leBytes 2 gen ++ leBytes 6 (dom48 T) ++ leBytes 2 0 ++ leBytes 1 tag

/-- The master holds what it needs of a barrier: it sends RELEASE, with hold where a checkpoint is due (R287). -/
def State.tryRelease (s : State) (j : Job) (b : Nat) : State :=
  let gen := s.rd BARSTAT.generation [b]
  let held := s.flag BARSTAT.held [b]
  let nodes := ((s.vote.arrives.filter (fun a => a.barrier == b && a.generation == gen && a.done == held)).map (·.node)).eraseDups
  let T := s.domNow + nsDom (s.rd VFIRE.bound [])
  if nodes.length < j.modules ∨ (s.barrier b).release ≠ none then s
  else if !held && s.ckptAt j b then
    (s.ringSend 0x21 2 s.domNow (releaseBody b gen 0 (j.id % 256))).holdBarrier j b
  else (s.ringSend 0x21 0 s.domNow (releaseBody b gen T (j.id % 256))).agreeRelease b T

/-- The master takes an ARRIVE, its own included (R287). -/
def State.noteArrive (s : State) (j : Job) (a : ArriveRec) : State :=
  ({ s with vote := { s.vote with arrives := a :: s.vote.arrives.filter (fun x => !(x.barrier == a.barrier && x.generation == a.generation &&
      x.node == a.node && x.done == a.done)) } }).tryRelease j a.barrier

/-- Least and greatest of a list of times. -/
def leastOf : List Nat → Nat
  | [] => 0
  | [x] => x
  | x :: xs => min x (leastOf xs)
def greatestOf : List Nat → Nat
  | [] => 0
  | x :: xs => max x (greatestOf xs)

/-- The module reports its arrivals at barrier `b` over the ring; `done` after its checkpoint (R287). -/
def State.sendArrive (s : State) (j : Job) (b : Nat) (done : Bool) : State :=
  let x := s.barrier b
  let gen := s.rd BARSTAT.generation [b]
  let ts := x.arrivals.map (·.at_)
  let last := greatestOf ts
  let a := (x.arrivals.find? (fun y => y.at_ == last)).getD { die := 0, clu := 0, goat := 0, desc := 0, at_ := 0, tok := {} }
  let die := (s.die a.die).logical - 1
  let clu := s.logClu a.die a.clu
  let body := leBytes 1 b ++ leBytes 2 gen ++ leBytes 1 die ++ leBytes 1 clu ++ leBytes 6 (dom48 (leastOf ts)) ++ leBytes 1 (j.id % 256)
  let s1 := s.ringSend 0x20 (if done then 4 else 0) last body
  if j.rank = 0 then s1.noteArrive j { barrier := b, generation := gen, node := s.node, first := leastOf ts, last, die, clu, done } else s1

/-- Every member on this module has arrived (R231, R287). -/
def State.barrierFull (s : State) (b n : Nat) : State :=
  match s.jobOfDie n with
  | none => s
  | some j =>
    if 1 < j.modules then s.sendArrive j b false
    else if s.ckptAt j b then s.holdBarrier j b
    else s.agreeRelease b (s.domNow + nsDom (s.rd VFIRE.bound []))

/-- A member's arrival is counted; the last one completes the module's part (R231). -/
def State.arriveAt (s : State) (b n c g d : Nat) (tok : Token) : State :=
  let x := s.barrier b
  let x1 := { x with
    arrivals := x.arrivals ++ [{ die := n, clu := c, goat := g, desc := d, at_ := s.domainAt s.now, tok }]
    since := match x.since with | some t => some t | none => some s.now }
  let s1 := (s.setBarrier b x1).wr BARSTAT.arrived [b] x1.arrivals.length
  if x1.arrivals.length = s.rd BARSTAT.expected [b] then s1.barrierFull b n else s1

end Sys2Proof.Machine
end

