-- ==== Sys2Proof/Machine/Goats.lean ====
section
/-!
DEFINITION. The bulk engine (R215 to R232, R256): goats and their lines, the tiers and their errors, the history writer, the
pacer, arrivals at barriers.
-/
namespace Sys2Proof.Machine

/-! ### Tiers (R215, R222, R226) -/

/-- A memory line as a goat sees it: a die's tier 1, tier 2, or a weight store. -/
inductive Place where
  | tier1 (a : Nat)
  | tier2 (a : Nat)
  | store (array space off : Nat)
  | nowhere
deriving DecidableEq, Repr

/-- The line lies in a region of its space that the image allocates (R222). -/
def State.inRegion (s : State) (n tier a : Nat) : Bool :=
  (s.die n).regions.any (fun r => r.tier == tier && decide (r.base ≤ a) && decide (a + 128 ≤ r.base + r.size))

/-- Where line `k` of a run lies (R218, R219, R222). -/
def State.linePlace (s : State) (n : Nat) (d : GDesc) (off k : Nat) : Place :=
  let a := d.lineAddr off k
  if a < 0 ∨ a % 128 ≠ 0 then .nowhere
  else
    let u := a.toNat
    match d.space with
    | 0 => if s.inRegion n 1 u && decide (u + 128 ≤ tier1Goat) then .tier1 u else .nowhere
    | 1 => if s.inRegion n 2 u then .tier2 u else .nowhere
    | 2 =>
      let h := Sparse.get {} s.hists n
      if h.size = 0 then .nowhere else .tier1 ((s.die n).history + u % h.size)
    | _ =>
      let o := bitsOf u 0 17
      let st := bitsOf u 17 6
      let ar := bitsOf u 23 2
      if o < 65536 then .store ar 0 (65536 * st + o)
      else if o < 73728 then .store ar 1 (8192 * st + (o - 65536)) else .nowhere

/-- The 128 bytes of a line; zeros outside every region (R222). -/
def State.readLine (s : State) (n : Nat) : Place → List Byte
  | .tier1 a => Sparse.getBytes (s.tier1 n) a 128
  | .tier2 a => Sparse.getBytes s.tier2 a 128
  | _ => List.replicate 128 0

/-- A line is written; outside every region nothing is (R222). -/
def State.writeLine (s : State) (n : Nat) (bs : List Byte) : Place → State
  | .tier1 a => s.setTier1 n (Sparse.setBytes (s.tier1 n) a bs)
  | .tier2 a => { s with tier2 := Sparse.setBytes s.tier2 a bs }
  | .store ar sp off => s.storeWrite n ar sp off bs true
  | .nowhere => s

/-- Register index of LPDDR6 package `p`: IO die and place on it. -/
def pkgIdx (p : Nat) : List Nat := [p / 5, p % 5]

/-- Corrections and an uncorrectable word of tier 1 are counted, and the word recorded (R226). -/
def State.tier1Ecc (s : State) (n a corrected : Nat) (bad scrub : Bool) : State :=
  let s1 := s.add T1ECC.corrected [n] corrected
  if bad then
    ((s1.bump T1ECC.uncorrected [n]).setRaw T1ERRADDR [n] (a % 2 ^ 41 + b2n scrub * 2 ^ 41 + 2 ^ 63)).olmWrite 0x0050
      (item4 1 ++ item8 a ++ item4 (b2n scrub))
  else s1

/-- The same for tier 2, at the address's package (R226). -/
def State.tier2Ecc (s : State) (a corrected : Nat) (bad scrub : Bool) : State :=
  let i := pkgIdx (s.tier2Package a)
  let s1 := s.add T2ECC.corrected i corrected
  if bad then
    ((s1.bump T2ECC.uncorrected i).setRaw T2ERRADDR i (a % 2 ^ 41 + b2n scrub * 2 ^ 41 + 2 ^ 63)).olmWrite 0x0050
      (item4 2 ++ item8 a ++ item4 (b2n scrub))
  else s1

/-! ### Runs and notifies (R219 to R221) -/

/-- A notify token leaves when a credit is held, else the run waits (R221). -/
def State.goatNotify (s : State) (n c g d : Nat) (t : Token) : State :=
  let e : Edge := .goat n c g d
  let x := s.goat n c g
  let st := x.stream d
  if s.creditOf e = 0 ∨ ¬ st.notes.isEmpty then s.setGoat n c g (x.setStream d { st with notes := st.notes ++ [t] })
  else s.sendOut e t

/-- The notify token of a descriptor (R221). -/
def State.notifyOf (s : State) (n c : Nat) (ds : GDesc) (tag : W16) (tok : Token) (data : W64) (fault : Bool) : Token :=
  { data, addr := BitVec.ofNat 28 ds.notify, index := ds.index, tag, prompt := s.cluPrompt n c, epoch := (s.die n).bulkEpoch
    status := tok.status ||| (if fault then stFault else 0), beat := tok.beat, copy := tok.copy }

/-- A run begins (R221). -/
def State.beginRun (s : State) (n c g d : Nat) (tok : Token) : State :=
  let x := s.goat n c g
  let st := x.stream d
  let ds := x.desc d
  let have_ := if ds.kind = 2 then (x.queue ds.queue).entries.length else 0
  s.putGoat n c g (x.setStream d { st with run := some { tok, number := st.runs, appended := have_ } })

/-- The next line of a descriptor is done: counted, notified where due, and at the last line the run ends and a pending one
begins (R221). -/
def State.lineDone (s : State) (n c g d : Nat) : State :=
  let x := s.goat n c g
  let st := x.stream d
  let ds := x.desc d
  match st.run with
  | none => s
  | some r =>
    let k := r.done + 1
    let fin := decide (ds.lines ≤ k)
    let due := fin || (ds.granule != 31 && k % 2 ^ ds.granule == 0)
    let runs := if fin then (st.runs + 1) % 2 ^ 32 else st.runs
    let r1 := { r with done := k, fault := if due then false else r.fault }
    let st1 : GStream := { st with run := if fin then none else some r1, runs }
    let s1 := s.putGoat n c g (x.setStream d st1)
    let tag := if ds.trig then r.tok.tag else BitVec.ofNat 16 r.number
    let s2 := if due then
        s1.goatNotify n c g d (s1.notifyOf n c ds tag r.tok (BitVec.ofNat 64 (k + runs * 2 ^ 32)) r.fault)
      else s1
    if fin then
      let y := s2.goat n c g
      match (y.stream d).waiting with
      | some f => ((s2.setGoat n c g (y.setStream d { y.stream d with waiting := none })).beginRun n c g d f.tok).owe f.edge
      | none => s2
    else s2

/-- Lines that are complete and next in order are taken: entries enter the queue, done lines are counted (R220). -/
def State.drainLines (s : State) (n c g d : Nat) : Nat → State
  | 0 => s
  | fuel + 1 =>
    let x := s.goat n c g
    match (x.stream d).run with
    | none => s
    | some r =>
      match x.lines.find? (fun l => l.desc == d && l.k == r.done) with
      | none => s
      | some l =>
        let rest := x.lines.filter (fun m => m ≠ l)
        match l.phase with
        | .landed bs =>
          let q := (x.desc d).queue
          let k := x.queue q
          let es := (List.range 16).map (fun j => BitVec.ofNat 64 (leNat ((bs.drop (8 * j)).take 8)))
          let y := ({ x with lines := rest } : Goat).setQueue q { k with entries := k.entries ++ es, reserved := k.reserved - 16 }
          ((s.putGoat n c g y).lineDone n c g d).drainLines n c g d fuel
        | .finished => ((s.putGoat n c g { x with lines := rest }).lineDone n c g d).drainLines n c g d fuel
        | _ => s

/-- A start token is discarded: counted, flagged, reported (R221). -/
def State.startExcess (s : State) (n c g : Nat) (f : Flit) : State :=
  (((s.bump GTCNT_ERR.range [n, c, g]).wr GTSTAT.excess [n, c, g] 1).fltNote 0x04 n c 10 true).owe f.edge

/-! ### Starts (R221, R231, R232) -/

/-- The member has an arrival in the current generation. -/
def Barrier.has (x : Barrier) (n c g d : Nat) : Bool := x.arrivals.any (fun a => a.die == n && a.clu == c && a.goat == g && a.desc == d)

/-- A start token reaches a descriptor of a goat (R221, R231, R232). -/
def State.goatStart (s0 : State) (n c g : Nat) (f : Flit) (t : Nat) : State :=
  let d := f.tok.index
  let s := (s0.upTo t).arrive (.goat n c g d) f
  let x := s.goat n c g
  let ds := x.desc d
  let st := x.stream d
  if f.tok.kind = 3 then s
  else if f.tok.epoch ≠ (s.die n).bulkEpoch then (s.owe f.edge)
  else if ds.kind = 0 ∨ ds.trig = false then (s.startExcess n c g f)
  else
    let hold := s.setGoat n c g (x.setStream d { st with waiting := some f })
    if ds.kind = 4 ∧ ds.func = 0 then
      if (s.barrier ds.barrier).has n c g d then
        (if st.waiting.isNone then hold else s.startExcess n c g f)
      else ((s.arriveAt ds.barrier n c g d f.tok).owe f.edge)
    else if ds.kind = 4 ∧ ds.func = 2 then
      ((s.setGoat n c g (x.setStream d { st with runs := (st.runs + 1) % 2 ^ 32 })).owe f.edge)
    else if ds.kind = 4 then
      -- install: the hub takes it up (R237); one more start may be pending
      if st.run.isNone then ((s.putGoat n c g (x.setStream d { st with run := some { tok := f.tok, number := st.runs } })).owe f.edge)
      else (if st.waiting.isNone then hold else s.startExcess n c g f)
    else if st.run.isNone then ((s.beginRun n c g d f.tok).owe f.edge)
    else (if st.waiting.isNone then hold else s.startExcess n c g f)

/-! ### Lines (R219, R220, R222, R224) -/

/-- A descriptor has a line to issue (R220): room or entries in its queue, no notify waiting for a credit. -/
def Goat.ready (x : Goat) (d : Nat) : Bool :=
  let ds := x.desc d
  let st := x.stream d
  match st.run with
  | none => false
  | some r =>
    decide (r.issued < ds.lines) && st.notes.isEmpty &&
      (let q := x.queue ds.queue
       match ds.kind with
       | 1 => decide (q.entries.length + q.reserved + q.leaving + 16 ≤ 64)
       | 2 => decide (16 ≤ q.entries.length)
       | 3 => true
       | _ => false)

/-- The next ready descriptor in rotation (R220). -/
def Goat.nextReady (x : Goat) : Option Nat := ((List.range 16).map (fun i => (x.rot + 1 + i) % 16)).find? x.ready

/-- Goat reordering is in effect (R224, R247). -/
def State.mayReorder (s : State) (n c g : Nat) : Bool := s.flag GTCFG.reorder [n, c, g] && !s.flag DETSTAT.strict []

/-- A line outside every region of its space: flagged, counted, reported; the next notify carries FAULT (R222). -/
def State.rangeFault (s : State) (n c g d : Nat) : State :=
  let s1 := ((s.bump GTCNT_ERR.range [n, c, g]).wr GTSTAT.range [n, c, g] 1).fltNote 0x04 n c 8 true
  let x := s1.goat n c g
  let st := x.stream d
  match st.run with
  | some r => s1.setGoat n c g (x.setStream d { st with run := some { r with fault := true } })
  | none => s1

/-- Bytes of queue entries, low byte first. -/
def entryBytes (es : List W64) : List Byte := es.flatMap (fun v => leBytes 8 v.toNat)

/-- A goat issues the next line of descriptor `d` (R219, R220, R230): in rotation order, or out of it where reordering is in
effect. Reads reserve 16 entries, writes take 16, copies from SRAM go to the banks. -/
def execLineIssue (n c g d : Nat) (t : Nat) (s0 : State) : Host.Outcome State Fault Refusal :=
  let s := s0.upTo t
  let x := s.goat n c g
  let turn := if s.mayReorder n c g then x.ready d else x.nextReady == some d
  if s.cluPrompt n c ∨ s.flag GTCFG.enable [n, c, g] = false ∨ s.bulkAdmits n = false ∨ 32 ≤ x.lines.length ∨ turn = false then .next s
  else
    let ds := x.desc d
    let st := x.stream d
    match st.run with
    | none => .next s
    | some r =>
      let k := r.issued
      let bad := decide (s.linePlace n ds r.tok.data.toNat k = .nowhere)
      let q := x.queue ds.queue
      let (phase, q1) : LinePhase × GQueue :=
        if ds.kind = 1 then (.reading, { q with reserved := q.reserved + 16 })
        else if ds.kind = 2 then
          (.writing (entryBytes (q.entries.take 16)), { q with entries := q.entries.drop 16, leaving := q.leaving + 16 })
        else if ds.dir then (.sram [], q) else (.reading, q)
      let line : GLine := { desc := d, k, addr := if bad then none else some (ds.lineAddr r.tok.data.toNat k).toNat, sram := ds.lineSram k, phase }
      let y := (({ x with lines := x.lines ++ [line], rot := d } : Goat).setStream d { st with run := some { r with issued := k + 1 } })
      let s1 := s.putGoat n c g (if ds.kind = 3 then y else y.setQueue ds.queue q1)
      let s2 := if bad then s1.rangeFault n c g d else s1
      if ds.kind = 3 ∧ ds.dir = true then
        let u := s2.clu n c
        .next (s2.setClu n c { u with bankQ := u.bankQ ++ [{ who := .goat n c g d k, addr := ds.lineSram k, op := .wideRead, arrived := s2.now }] })
      else .next s2

/-- Replaces one line in flight. -/
def Goat.setLine (x : Goat) (d k : Nat) (p : LinePhase) : Goat :=
  { x with lines := x.lines.map (fun l => if l.desc = d ∧ l.k = k then { l with phase := p } else l) }

/-- The line in flight of a descriptor by number. -/
def Goat.line (x : Goat) (d k : Nat) : Option GLine := x.lines.find? (fun l => l.desc == d && l.k == k)

/-- A read line lands (R220, R222, R226): `corrected` symbols were mended, `bad` says an uncorrectable block was read. -/
def execLineComplete (n c g d k corrected : Nat) (bad : Bool) (t : Nat) (s0 : State) : Host.Outcome State Fault Refusal :=
  let s := s0.upTo t
  let x := s.goat n c g
  match x.line d k, (x.stream d).run with
  | some l, some r =>
    if l.phase ≠ .reading then .next s
    else
      let ds := x.desc d
      let place := s.linePlace n ds r.tok.data.toNat k
      let bs := s.readLine n place
      let s1 := s.addWrap GTCNT_RD.lines [n, c, g] 1
      let s2 := match place with
        | .tier1 a => s1.tier1Ecc n a corrected bad false
        | .tier2 a => s1.tier2Ecc a corrected bad false
        | _ => s1
      let s3 := if bad && decide (place ≠ .nowhere) then (s2.wr GTSTAT.ecc [n, c, g] 1).fltNote 0x04 n c 13 true else s2
      if ds.kind = 1 then .next ((s3.setGoat n c g ((s3.goat n c g).setLine d k (.landed bs))).drainLines n c g d 33)
      else
        let s4 := s3.setGoat n c g ((s3.goat n c g).setLine d k (.sram bs))
        let u := s4.clu n c
        .next (s4.setClu n c { u with bankQ := u.bankQ ++ [{ who := .goat n c g d k, addr := l.sram, op := .wideWrite [], arrived := s4.now }] })
  | _, _ => .next s

/-- The memory controller accepts a written line; its queue entries are freed (R220). -/
def execWriteAccepted (n c g d k : Nat) (t : Nat) (s0 : State) : Host.Outcome State Fault Refusal :=
  let s := s0.upTo t
  let x := s.goat n c g
  match x.line d k, (x.stream d).run with
  | some l, some r =>
    match l.phase with
    | .writing bs =>
      let ds := x.desc d
      let wait := match s.linePlace n ds r.tok.data.toNat k with
        | .store ar sp off => s.storeBusy n ar sp off
        | _ => false
      if wait then .next s else
      let s1 := (s.writeLine n bs (s.linePlace n ds r.tok.data.toNat k)).addWrap GTCNT_WR.lines [n, c, g] 1
      let q := x.queue ds.queue
      let y := x.setLine d k .finished
      let y1 := if ds.kind = 2 then y.setQueue ds.queue { q with leaving := q.leaving - 16 } else y
      .next ((s1.putGoat n c g y1).drainLines n c g d 33)
    | _ => .next s
  | _, _ => .next s

/-- A bank serves an access (R86 to R88): the first waiting one of a requester, provided none that arrived earlier waits on the
same banks. `e` is what the ECC of the word read shows. -/
def execSramAccessComplete (n c : Nat) (who : Requester) (e : Ecc) (t : Nat) (s0 : State) : Host.Outcome State Fault Refusal :=
  let s := s0.upTo t
  let u := s.clu n c
  match takeAccess who u.bankQ with
  | none => .next s
  | some (a, rest) =>
    let ahead := rest.filter (fun b => b.meets a && decide (b.arrived < a.arrived))
    if ahead ≠ [] then .next s
    else
      let waits := countIf (fun b => b.meets a) rest
      let s1 := (s.setClu n c { u with bankQ := rest }).addWrap SRAMWAIT.waits [n, c] waits
      match who with
      | .ctx x => .next (if x.hen.die = n ∧ x.hen.clu = c then s1.finishAccess x a e else s1)
      | .quant _ _ => .next (s1.sramEcc n c a.addr e)
      | .goat _ _ g d k =>
        let x := s1.goat n c g
        match x.line d k with
        | none => .next s1
        | some l =>
          match l.phase, a.op with
          | .sram bs, .wideWrite _ =>
            let y := s1.clu n c
            let s2 := s1.setClu n c { y with sram := sramSetLine y.sram a.addr bs }
            .next ((s2.setGoat n c g (x.setLine d k .finished)).drainLines n c g d 33)
          | .sram _, .wideRead =>
            let m := (s1.clu n c).sram
            let bs := match e with
              | .double stored => leBytes 8 stored.toNat ++ (sramLine m a.addr).drop 8
              | _ => sramLine m a.addr
            .next ((s1.sramEcc n c a.addr e).setGoat n c g ((s1.goat n c g).setLine d k (.writing bs)))
          | _, _ => .next s1

/-! ### Memory upkeep (R217, R226) -/

/-- The patrol scrubber reads a word of a die's tier 1 (`tier` 1) or of tier 2 (`tier` 2): corrects and records (R226). -/
def execPatrolScrub (tier n a corrected : Nat) (bad : Bool) (s : State) : Host.Outcome State Fault Refusal :=
  if tier = 1 then .next (if s.flag T1SCRUB.enable [n] then s.tier1Ecc n a corrected bad true else s)
  else .next (s.tier2Ecc a corrected bad true)

/-- A memory channel is unavailable for a refresh (R217): it delays accesses and changes nothing else. -/
def execRefresh (_tier _n _channel t : Nat) (s : State) : Host.Outcome State Fault Refusal := .next (s.upTo t)

/-- DRAM die `b` of compute die `n` crosses 85 °C: `T1STAT.hot` follows (R217). -/
def execDramHot (n b : Nat) (hot : Bool) (s : State) : Host.Outcome State Fault Refusal :=
  let k := 2 * n + b
  let l := s.pwr.hot.filter (fun j => j ≠ k)
  let h := if hot then l ++ [k] else l
  .next (({ s with pwr := { s.pwr with hot := h } }).wr T1STAT.hot [n] (b2n (h.any (fun j => j / 2 == n))))

/-- A pacer phase begins on a die (R230). -/
def execPacerPhase (n : Nat) (s : State) : Host.Outcome State Fault Refusal :=
  .next { s with pacer := Sparse.set 0 s.pacer n ((Sparse.get 0 s.pacer n + 1) % 16) }

/-! ### The history writer (R227 to R229, R256) -/

/-- Queue entries of committed records that have been written out are freed, `k` records of them (R228). -/
def State.histFree (s : State) (n k : Nat) : State :=
  let h := Sparse.get {} s.hists n
  let held := h.held.drop k
  ({ s with hists := Sparse.set {} s.hists n { h with held } }).wr HISTQ.in_use [n] held.sum

/-- A record (R229): header, body, padding, trailer. -/
def histRecord (kind source : Nat) (pass beat cut : Bool) (beatNo epoch : Nat) (status : BitVec 4) (when_ seq : Nat) (body : List Byte) : List Byte :=
  let w0 := body.length % 2 ^ 15 + kind * 2 ^ 15 + source % 64 * 2 ^ 17 + b2n pass * 2 ^ 23 + b2n beat * 2 ^ 24 + b2n cut * 2 ^ 25
  let w1 := beatNo % 2 ^ 16 + epoch % 4 * 2 ^ 16 + status.toNat * 2 ^ 18
  let head := leBytes 4 w0 ++ leBytes 4 w1 ++ leBytes 8 when_ ++ leBytes 8 seq ++ List.replicate 8 0
  let used := 32 + body.length + 8
  head ++ body ++ List.replicate ((128 - used % 128) % 128) 0 ++ leBytes 8 seq

/-- Writes a record at the ring's next place (R228, R229). -/
def State.histPut (s : State) (n : Nat) (bs : List Byte) : State :=
  let h := Sparse.get {} s.hists n
  let p := s.rd HISTPTR.value [n]
  ((s.setTier1 n (Sparse.setBytes (s.tier1 n) ((s.die n).history + p) bs)).wr HISTPTR.value [n] ((p + bs.length) % max 1 h.size)).addWrap
    HISTSEQ.value [n] 1

/-- The open epoch's chain (R256). -/
def State.histChain (s : State) (n : Nat) : List Byte := (List.range 8).flatMap (fun w => leBytes 4 (s.rd HISTDIG.chain [n, w]))

/-- Sets the chain shown by `HISTDIG` (R256). -/
def State.setHistChain (s : State) (n : Nat) (c : List Byte) : State :=
  (List.range 8).foldl (fun a w => a.wr HISTDIG.chain [n, w] (leNat ((c.drop (4 * w)).take 4))) s

/-- A frame record joins the chain of its epoch (R256). -/
def State.chainRecord (s : State) (n when_ : Nat) (bs : List Byte) : State :=
  let h := Config.shake256 bs 32
  let x := Sparse.get {} s.hists n
  if when_ < x.since then
    { s with hists := Sparse.set {} s.hists n { x with prevChain := Config.shake256 (x.prevChain ++ h) 32, prevCount := x.prevCount + 1 } }
  else (s.setHistChain n (Config.shake256 (s.histChain n ++ h) 32)).addWrap HISTDCNT.records [n] 1

/-- A record is committed: a pad record goes before it where it would cross the ring's end (R229). -/
def State.histCommit (s : State) (n : Nat) (rec : Nat → List Byte) : State × List Byte :=
  let h := Sparse.get {} s.hists n
  let p := s.rd HISTPTR.value [n]
  let len := (rec 0).length
  let gap := h.size - p
  let s1 := if gap < len then
      s.histPut n (histRecord 2 0 false false false 0 (s.rd GEPOCH.epoch [n]) 0 (s.now / vernierPs) (s.rd HISTSEQ.value [n])
        (List.replicate (gap - 40) 0))
    else s
  let bs := rec (s1.rd HISTSEQ.value [n])
  (s1.histPut n bs, bs)

/-- The first item of the taps that is for die `n`, and the rest. -/
def takeItem (n : Nat) : List HistItem → Option (HistItem × List HistItem)
  | [] => none
  | x :: r =>
    let d := match x with | .frame t => t.die | .decision m _ _ _ _ _ _ => m
    if d = n then some (x, r) else (takeItem n r).map (fun p => (p.1, x :: p.2))

/-- The next tapped frame or release of a die enters the history queue, or finds no free entry and is dropped; `written` records
have been written out before it (R227, R228). Without region 255 nothing is taken and nothing counted. -/
def execHistoryFrame (n written : Nat) (t : Nat) (s0 : State) : Host.Outcome State Fault Refusal :=
  let s1 := s0.upTo t
  match takeItem n s1.histTap with
  | none => .next s1
  | some (item, rest) =>
    let s2 := { s1 with histTap := rest }
    if s2.flag HISTCFG.active [n] = false then .next s2
    else
      let s := s2.histFree n written
      let body := match item with
        | .frame f => f.bytes
        | .decision _ _ _ _ _ vs _ => (List.range 8).flatMap (fun p => leBytes 8 (vs.getD p 0).toNat)
      let need := (body.length + 255) / 256
      let used := s.rd HISTQ.in_use [n]
      let h := Sparse.get {} s.hists n
      if 64 < used + need then
        let s3 := { s with hists := Sparse.set {} s.hists n { h with dropped := true } }
        .next (match item with | .frame f => s3.bump PCNT_TAPDROP.count [n, f.port] | _ => s3)
      else
        let s3 := ({ s with hists := Sparse.set {} s.hists n { h with held := h.held ++ [need] } }).wr HISTQ.in_use [n] (used + need)
        let s4 := s3.wr HISTQ.peak [n] (max (s3.rd HISTQ.peak [n]) (used + need))
        let ep := s4.rd GEPOCH.epoch [n]
        match item with
        | .frame f =>
          let (s5, bs) := s4.histCommit n (fun q => histRecord 0 f.port (!f.failed) f.beat.isSome f.excess
            (match f.beat with | some b => b.toNat | none => 0) ep 0 (f.first / vernierPs) q body)
          .next (s5.chainRecord n f.first bs)
        | .decision _ g b e st _ fire =>
          .next (s4.histCommit n (fun q => histRecord 1 g false true false b.toNat e st (fire / vernierPs) q body)).1

/-- Any write to `HISTQ` sets its peak field to 0 (R228, its table). -/
def execHistqWrite (n : Nat) (_v : W32) (s : State) : Host.Outcome State Fault Refusal :=
  .next (s.wr HISTQ.peak [n] 0)

end Sys2Proof.Machine
end

