-- ==== Sys2Proof/Machine/Ports.lean ====
section
/-!
DEFINITION. Port blocks at work (R183 to R213): frames landing, field tokens, beats and stamps, verdicts, the reply composer,
cancels, and link mode.
-/
namespace Sys2Proof.Machine

/-! ### Latency entries of class 0x0A (R41), ps -/

def serdesRx : Nat := 2400
def henistRx : Nat := 4000
def ethRx : Nat := 124000
def composerPs : Nat := 2400

/-- Lanes of a port (R184). -/
def State.portLanes (s : State) (n i : Nat) : Nat := 2 ^ s.rd PCFG.width [n, i]

/-- Time from the receive fibre face to the extractor (R188, R190). -/
def State.rxDelay (s : State) (n i : Nat) : Nat := serdesRx + (if s.rd PCFG.mode [n, i] = 2 then ethRx else henistRx)

/-! ### Tokens and stamps (R195, R199, R200) -/

/-- A field token leaves on its rule's edge: it waits behind a marker, is dropped without a credit, or is sent (R175, R200). -/
def State.portSend (s : State) (n i rule : Nat) (t : Token) : State :=
  let e : Edge := .port n i rule
  if s.markBlocked e then
    let x := s.port n i
    s.setPort n i { x with waiting := x.waiting ++ [(rule, t)] }
  else if s.creditOf e = 0 then
    ((s.bump PCNT_NOCRED.count [n, i]).wr PSTAT.nocredit [n, i] 1).fltNote 0x0A n i 7 (!s.portPrompt n i)
  else (s.setCredit e (s.creditOf e - 1)).send { tok := t, edge := e }

/-- The token of a rule (R195). -/
def fieldToken (r : Rule) (i epoch : Nat) (beat : W16) (data : W64) (status : BitVec 4) : Token :=
  { data, addr := BitVec.ofNat 28 r.address, index := r.index, operand := (r.operand + i) % 8, tag := beat + r.tagOff
    prompt := true, epoch, status, beat, copy := r.copy }

/-- Replaces the last frame of a port block. -/
def setLast (f : RxFrame) : List RxFrame → List RxFrame
  | [] => [f]
  | [_] => [f]
  | x :: y :: r => x :: setLast f (y :: r)

/-- The last frame of a port block. -/
def Port.last (x : Port) : RxFrame := x.rx.getLastD {}

/-- Stores the last frame. -/
def State.putFrame (s : State) (n i : Nat) (f : RxFrame) : State :=
  let x := s.port n i
  s.setPort n i { x with rx := setLast f x.rx }

/-- Token `k` of rule `r` is released if it can be and has not been (R195 to R198); a frozen stream emits none (R251). -/
def State.releaseTok (s : State) (n i : Nat) (r : Rule) (w : Walk) (k : Nat) : State :=
  let x := s.port n i
  let f := x.last
  if f.closed ∨ f.emitted.any (fun e => e.rule == r.num && e.i == k) = true then s
  else if s.rd DETSTAT.stream [] = 1 ∨ s.rd DETSTAT.stream [] = 2 then s
  else
    match (if r.kind = 1 then f.fixedTok r else f.walkTok r w k) with
    | none => s
    | some t =>
      let st := (if t.subst then stSubst else 0) ||| f.linkStatus
      let s1 := s.putFrame n i { f with emitted := f.emitted ++ [{ rule := r.num, i := k, data := t.data }] }
      let s2 := (s1.add PCNT_CUT.short [n, i] t.short).add PCNT_CUT.absent [n, i] t.absent
      let s3 := if t.short + t.absent = 0 then s2 else s2.wr PSTAT.cut [n, i] 1
      s3.portSend n i r.num (fieldToken r k x.epoch f.beat t.data st)

/-- Items newly found overlong are counted once each (R198). -/
def State.countItems (s : State) (n i : Nat) : List (Nat × Nat) → State
  | [] => s
  | p :: ps =>
    let f := (s.port n i).last
    if f.counted.contains p then s.countItems n i ps
    else (((s.putFrame n i { f with counted := p :: f.counted }).bump PCNT_CUT.overlong [n, i]).wr PSTAT.cut [n, i] 1).countItems n i ps

/-- Overlong items a walk has met. -/
def Walk.items : Walk → List (Nat × Nat)
  | .pending => []
  | .absent _ l _ => l
  | .found _ _ _ _ l => l

/-- The stamp of a beat goes to every enabled ARRIVAL gate that names the port (R199). -/
def State.sendStamps (s : State) (n i : Nat) (beat : W16) (anchor : Nat) : State :=
  let gs := (List.range 64).filter (fun g => s.flag GCFG.enable [n, g] && !s.flag GCFG.mode [n, g] && s.rd GCFG.port [n, g] == i)
  { s with stamps := s.stamps ++ gs.map (fun g => { die := n, gate := g, beat, anchor }) }

/-- One rule acts on the bytes landed: overlong items, tokens, the stamp (R195 to R199). -/
def State.runRule (s : State) (n i : Nat) (r : Rule) : State :=
  let x := s.port n i
  let w := if r.kind = 3 then x.last.walk x.mem r else .pending
  let s1 := s.countItems n i w.items.reverse
  let s2 := (List.range r.ntok).foldl (fun a k => a.releaseTok n i r w k) s1
  let f := (s2.port n i).last
  if r.anchor ∧ f.stamped = false ∧ f.closed = false then
    match f.anchorPos r w with
    | none => s2
    | some p => (s2.putFrame n i { f with stamped := true }).sendStamps n i f.beat (f.times.getD p 0)
  else s2

/-- The frame becomes a beat or is found to be none (R194, R199); a link frame waits for its match (R212). -/
def State.decideBeat (s : State) (n i : Nat) (rs : List Rule) : State :=
  let x := s.port n i
  let f := x.last
  if f.isBeat ≠ none ∨ s.flag PCFG.link [n, i] = true then s
  else
    match f.decide rs with
    | none => s
    | some false => s.putFrame n i { f with isBeat := some false }
    | some true =>
      if s.rd DIESTAT.state [n] ≠ 3 ∨ f.times.headD 0 + s.rxDelay n i < (s.die n).startPs then
        s.putFrame n i { f with isBeat := some false }
      else
        let s1 := s.setPort n i { x with rx := setLast { f with isBeat := some true, beat := x.nextBeat } x.rx
                                         nextBeat := x.nextBeat + 1 }
        (s1.wr PSTAT.beat [n, i] x.nextBeat.toNat).addWrap PCNT_FRAMES.count [n, i] 1

/-- The extractor acts on the bytes landed so far (R194 to R199). -/
def State.extract (s : State) (n i : Nat) : State :=
  if (s.port n i).rx.isEmpty ∨ s.flag PSTAT.member [n, i] = true then s
  else
    let rs := rulesOf (s.port n i).mem
    let s1 := s.decideBeat n i rs
    if (s1.port n i).last.isBeat = some true then
      (rs.filter (fun r => r.kind != 2)).foldl (fun a r => a.runRule n i r) s1
    else s1

/-! ### Frames (R186, R189 to R191) -/

/-- A frame is open at a port block. -/
def State.frameOpen (s : State) (n i : Nat) : Bool :=
  match (s.port n i).rx.getLast? with | some f => !f.ended | none => false

/-- A frame begins; the port's markers go ahead of it where its first bit reaches the PCS at or after the switch time (R175). -/
def State.openFrame (s : State) (n i first : Nat) : State :=
  let x := s.port n i
  let s1 := s.setPort n i { x with rx := x.rx ++ [{ first }] }
  match (s1.die n).reconf with
  | some r => if r.tPs ≤ first + serdesRx then s1.portSwitch n i else s1
  | none => s1

/-- Bytes land one after another: byte, instant at the fibre face, delivered as 0 under R189. -/
def State.landBytes (s : State) (n i : Nat) : List (Byte × Nat × Bool) → State
  | [] => s
  | (b, t, z) :: r =>
    let f := (s.port n i).last
    let keep := decide (f.bytes.length < portBuffer)
    let f1 : RxFrame := { f with
      bytes := if keep then f.bytes ++ [b] else f.bytes
      times := if keep then f.times ++ [t] else f.times
      total := f.total + 1
      crc := crcByte f.crc b
      substituted := if z then f.substituted ++ [f.total] else f.substituted }
    ((s.putFrame n i f1).extract n i).landBytes n i r

/-- The frame's end is known (R191, R195): its length, and a failed verdict where the end itself is the fault. -/
def State.endKnown (s : State) (n i len : Nat) (bad : Bool) : State :=
  let f := (s.port n i).last
  s.putFrame n i { f with len := some len, bad := f.bad || bad }

/-- The check of a whole frame (R186, R189, R191). -/
def RxFrame.passes (f : RxFrame) : Bool := !f.bad && f.substituted.isEmpty && f.crc == crcResidue

/-- The frame has ended: what waits for the end is released, and the frame goes to the two taps (R183, R195). -/
def State.closeFrame (s : State) (n i : Nat) : State :=
  let f := (s.port n i).last
  let s1 := (s.putFrame n i { f with ended := true }).extract n i
  let g := (s1.port n i).last
  let s2 := s1.putFrame n i { g with isBeat := if g.isBeat = none ∧ s.flag PCFG.link [n, i] = false then some false else g.isBeat }
  let tap : Tap := { die := n, port := i, bytes := f.bytes, beat := if g.isBeat = some true then some g.beat else none
                     failed := !f.passes, excess := decide (portBuffer < f.total), first := f.first, last := f.times.getLastD f.first }
  { s2 with histTap := s2.histTap ++ [.frame tap], acqTap := s2.acqTap ++ [tap] }

/-- The open frame ends at the previous block with a failed verdict (R186, R189). -/
def State.breakFrame (s : State) (n i : Nat) : State :=
  if s.frameOpen n i then ((s.endKnown n i (s.port n i).last.total true).closeFrame n i) else s

/-- Bytes of an open Henist frame, up to the 16,384th, at which it is ended with a failed verdict (R186). -/
def State.henistBytes (s : State) (n i : Nat) (bs : List (Byte × Nat × Bool)) (fin : Bool) : State :=
  let total := (s.port n i).last.total + bs.length
  if fin ∧ total ≤ portBuffer then
    let short := decide (total < 8)
    let s1 := ((s.endKnown n i total short).landBytes n i bs).closeFrame n i
    if short then s1.bump PCNT_HBLK.count [n, i] else s1
  else if portBuffer ≤ total then
    (((s.endKnown n i portBuffer true).landBytes n i (bs.take (portBuffer - (s.port n i).last.total))).closeFrame n i)
  else s.landBytes n i bs

/-- A Henist line block whose first bit crosses the fibre face at `t` (R185, R186, R189). -/
def State.henistBlock (s : State) (n i : Nat) (b : BitVec 272) (t : Nat) : State :=
  let c0 := decodeWord (codeword b 0)
  let c1 := decodeWord (codeword b 1)
  let s1 := (s.add PCNT_HBLK.count [n, i] (b2n c0.lost + b2n c1.lost)).add PCNT_HCORR.count [n, i] (b2n c0.fixed + b2n c1.fixed)
  let bytes := wordBytes c0 ++ wordBytes c1
  let data := fun (last : Nat) => (List.range last).map (fun j =>
    (bytes.getD (j + 1) 0, t + byteInstant (j + 1), if j + 1 < 16 then c0.lost else c1.lost))
  match (if c0.lost then Control.unknown else controlOf (bytes.getD 0 0)) with
  | .idle => if s1.frameOpen n i then (s1.breakFrame n i).bump PCNT_HBLK.count [n, i] else s1
  | .unknown => if s1.frameOpen n i then s1.henistBytes n i (data 31) false else s1
  | .run start last =>
    let s2 := if start then (s1.breakFrame n i).openFrame n i (t + 8 * 1280 * 2 / 272) else s1
    if s2.frameOpen n i then s2.henistBytes n i (data (last.getD 31)) last.isSome
    else s2.bump PCNT_HBLK.count [n, i]

/-- Bytes of an Ethernet frame, the last of which lands at `t` at the fibre face: 40 / w ps a byte (R190). -/
def State.etherBytes (s : State) (n i : Nat) (bs : List Byte) (fin err : Bool) (t : Nat) : State :=
  let w := s.portLanes n i
  let m := bs.length
  let s1 := if s.frameOpen n i then s else s.openFrame n i (t - m * 40 / w)
  let s2 := if fin then s1.endKnown n i ((s1.port n i).last.total + m) err else s1
  let s3 := s2.landBytes n i (bs.zipIdx.map (fun p => (p.1, t - (m - 1 - p.2) * 40 / w, false)))
  if fin then s3.closeFrame n i else s3

/-- What arrives at a port block lands (R183 to R200): nothing without lock, on a block that is off, or on a member block. -/
def execFieldLanded (n i : Nat) (p : PortPiece) (t : Nat) (s0 : State) : Host.Outcome State Fault Refusal :=
  let s := s0.upTo (t + s0.rxDelay n i)
  if s.flag PSTAT.lock [n, i] then
    match p with
    | .block b => .next (if s.rd PCFG.mode [n, i] = 1 then s.henistBlock n i b t else s)
    | .ether bs fin err => .next (if s.rd PCFG.mode [n, i] = 2 then s.etherBytes n i bs fin err t else s)
  else .next s

/-- The ring lane that takes the place of port block `i` of die `n`: the last two lanes of the highest glowworm present (R12). -/
def State.ringPort (s : State) (n i : Nat) : Option Nat :=
  let e := ((List.range 8).filter (fun e => bitOf s.part.glow e)).foldl max 0
  if n = 2 * e + 1 ∧ 14 ≤ i ∧ i ≤ 15 then some (i - 14) else none

/-- A receiver gains lock (R187); a ring lane's is `VSTAT.lock_a` or `lock_b` (R12). -/
def State.blockLock (s : State) (n i : Nat) : State :=
  match s.ringPort n i with
  | some l => s.wr (if l = 0 then VSTAT.lock_a else VSTAT.lock_b) [] 1
  | none => if s.rd PCFG.mode [n, i] = 0 then s else s.wr PSTAT.lock [n, i] 1

/-- 64 clean blocks at one alignment, or the PCS's alignment, give the receiver lock (R187). -/
def execBlockLock (n i : Nat) (s : State) : Host.Outcome State Fault Refusal := .next (s.blockLock n i)

/-- A receiver loses lock; an open frame ends there, failed and cut (R187, R189). -/
def State.lockLost (s : State) (n i : Nat) : State :=
  match s.ringPort n i with
  | some l => s.wr (if l = 0 then VSTAT.lock_a else VSTAT.lock_b) [] 0
  | none => (s.breakFrame n i).wr PSTAT.lock [n, i] 0

/-- 16 uncorrectable blocks of 64 lose lock (R187). -/
def execLockLoss (n i : Nat) (t : Nat) (s : State) : Host.Outcome State Fault Refusal := .next ((s.upTo t).lockLost n i)

/-! ### The composer (R201 to R209) -/

/-- A directory entry: the template's offset, where it is valid (R201). -/
def dirEntry (m : Sparse Byte) (a : Nat) : Option Nat :=
  let v := leNat (Sparse.getBytes m a 4)
  if bitOf v 14 then some (bitsOf v 0 14) else none

/-- A template: frame length, patch count, offset of the body (R201). -/
structure Template where
  flen : Nat
  npatch : Nat
  at_ : Nat
deriving DecidableEq, Repr

/-- The template at an offset. -/
def templateAt (m : Sparse Byte) (a : Nat) : Template :=
  let h := memWord m a
  { flen := bitsOf h 0 12, npatch := bitsOf h 16 7, at_ := a }

/-- The sources of R202: bytes of each. -/
structure Sources where
  tokens : List Byte := []
  inbound : List Byte := []
  id : Nat := 0
  status : BitVec 4 := 0
  beat : W16 := 0
  stamp : List Byte := []
deriving DecidableEq, Repr

/-- Bytes of source `k` (R202). -/
def Sources.bytes (x : Sources) (k : Nat) : List Byte :=
  match k with
  | 0 => x.tokens
  | 1 => x.inbound
  | 3 => [x.status.setWidth 8]
  | 4 => leBytes 2 x.beat.toNat
  | 5 => x.stamp
  | _ => leBytes 6 x.id

/-- Replaces the bytes of a list from a place on. -/
def overlay (l : List Byte) (at_ : Nat) (bs : List Byte) : List Byte := l.take at_ ++ bs ++ l.drop (at_ + bs.length)

/-- One patch record applied to a body (R202). -/
def applyPatch (src : Sources) (body : List Byte) (rec : Nat) : List Byte :=
  let w := bitsOf rec 20 4 + 1
  let from_ := src.bytes (bitsOf rec 16 3)
  let bs := (List.range w).map (fun k => from_.getD (bitsOf rec 24 12 + k) 0)
  overlay body (bitsOf rec 0 12) (if bitOf rec 19 then bs.reverse else bs)

/-- The frame bytes of a template with its patches, and the check sequence, complemented for a stomped reply (R201, R202, R206). -/
def composeFrame (m : Sparse Byte) (t : Template) (src : Sources) : List Byte :=
  let body := Sparse.getBytes m (t.at_ + 8 + 8 * t.npatch) t.flen
  (List.range t.npatch).foldl (fun b k => applyPatch src b (memWord m (t.at_ + 8 + 8 * k))) body

/-- The check bytes that end a frame (R201, R206). -/
def checkBytes (bs : List Byte) (stomped : Bool) : List Byte :=
  leBytes 4 (if stomped then ~~~ (crc32 bs) else crc32 bs).toNat

/-- Time from a frame's first byte to byte `k` at a composer, ps: 40 / w on Ethernet, 31 bytes a block of 1,280 ps on Henist. -/
def State.txTime (s : State) (n i k : Nat) : Nat :=
  if s.rd PCFG.mode [n, i] = 2 then k * 40 / s.portLanes n i else k / 31 * 1280 + k % 31 * 40

/-- Time from a frame's first byte to the end of its interframe gap, ps, for `k` bytes with their check: 12 bytes on Ethernet,
the rest of the last block on Henist (R201, R209; log 27). -/
def State.gapTime (s : State) (n i k : Nat) : Nat :=
  if s.rd PCFG.mode [n, i] = 2 then (k + 12) * 40 / s.portLanes n i else (k + 30) / 31 * 1280

/-- The inbound frame of a beat (R205). -/
def State.inbound (s : State) (n i : Nat) (beat : W16) : Option RxFrame :=
  (s.port n i).rx.reverse.find? (fun f => f.isBeat == some true && f.beat == beat)

/-- Frames of a port block that nothing needs any longer are let go: their verdict is known, and no gate entry, release, stamp or
reply of their beat is left (R205). -/
def State.pruneFrames (s : State) (n i : Nat) : State :=
  let x := s.port n i
  let used := fun (b : W16) =>
    s.stamps.any (fun p => p.die == n && p.beat == b) || s.releases.any (fun r => r.die == n && r.beat == b) ||
    (List.range 16).any (fun j => (s.port n j).held.any (fun r => r.beat == b)) ||
    (List.range 64).any (fun g => s.rd GCFG.port [n, g] == i && (s.gate n g).entries.any (fun e => e.beat == b))
  let linked := s.flag PCFG.link [n, i]
  s.setPort n i { x with rx := x.rx.filter (fun f => !f.ended || f.verdict == none ||
    (f.isBeat == some true && (used f.beat || (linked && decide (x.nextLink ≤ f.link))))
    || (linked && f.isBeat == none)) }

/-- The frame a composer has sent goes out whole, and a provisional reply stays until its verdict (R206). -/
def State.finishTx (s : State) (n i : Nat) : State :=
  let x := s.port n i
  match x.tx with
  | none => s
  | some r =>
    let keep := !r.cancel && !r.stomped && r.status &&& stProv != 0 &&
      (match r.inPort with
        | some j => (match s.inbound n j r.beat with | some f => f.verdict == none | none => false)
        | none => false)
    (s.setPort n i { x with tx := none, provs := if keep then x.provs ++ [r] else x.provs }).emit
      (.frame n i (r.bytes ++ checkBytes r.bytes r.stomped) r.stomped)

/-- A template is composed and starts at instant `t`. -/
def State.startTx (s : State) (n i : Nat) (t : Nat) (r : Reply) (tp : Template) (src : Sources) : State :=
  let x := s.port n i
  let bytes := composeFrame x.mem tp src
  s.setPort n i { x with tx := some { r with bytes, start := t, commit := t + s.txTime n i tp.flen
                                             done := t + s.gapTime n i (tp.flen + 4) } }

/-- A release is composed and sent, or suppressed, at reply start `t` (R203 to R205). `late` joins LATE for R209. -/
def State.sendReply (s : State) (n i : Nat) (r : Release) (t : Nat) (late : Bool) : State :=
  let x := s.port n i
  match dirEntry x.mem (0x600 + 4 * r.gate) with
  | none => s.bump PCNT_SUPPR.count [n, i]
  | some a =>
    let sched := s.flag GCFG.mode [n, r.gate]
    let inP := s.rd GCFG.port [n, r.gate]
    let frame := if sched then none else s.inbound n inP r.beat
    let verdict := if sched then some true else match frame with | some f => f.verdict | none => none
    if verdict = some false then s.bump PCNT_SUPPR.count [n, i]
    else if verdict = none ∧ s.flag PCFG.policy [n, i] = true then s.bump PCNT_HOLD.count [n, i]
    else
      let prov := verdict == none
      let st := r.status ||| (if late then stLate else 0) ||| (if prov then stProv else 0)
      let id := s.rd PTXSEQ.seq [n, i]
      let src : Sources := {
        tokens := (r.values.take (s.rd GCFG.tokens [n, r.gate] + 1)).flatMap (fun v => leBytes 8 v.toNat)
        inbound := match frame with | some f => f.bytes | none => []
        id := id, status := st, beat := r.beat, stamp := stampBytes (s.domainAt r.anchor) }
      let rep : Reply := { gate := r.gate, inPort := if sched then none else some inP, beat := r.beat, id, status := st, anchor := r.anchor }
      let s1 := (s.startTx n i t rep (templateAt x.mem a) src).wr PTXSEQ.seq [n, i] (id + 1)
      let s2 := s1.addWrap PCNT_REPLY.count [n, i] 1
      if prov then s2.bump PCNT_PROV.count [n, i] else s2

/-- A composer that is still sending, its gap included, at instant `t` (R209). -/
def State.txBusy (s : State) (n i : Nat) (t : Nat) : Bool :=
  match (s.port n i).tx with | some r => decide (t < r.done) | none => false

/-- The reply start of a gate's release (R205, R209): the firing time plus COMPOSER. A muted standby die sends nothing (R173). -/
def execReplyStart (n g : Nat) (s0 : State) : Host.Outcome State Fault Refusal :=
  match s0.releases.find? (fun r => r.die == n && r.gate == g) with
  | none => .next s0
  | some r =>
    let t := r.fire + composerPs
    let s := { s0.upTo t with releases := eraseFirst r s0.releases }
    let i := s.rd GCFG.dest [n, g]
    if (s.die n).muted then .next (s.pruneFrames n (s.rd GCFG.port [n, g]))
    else if s.txBusy n i t = true ∨ (s.port n i).held ≠ [] then
      let x := s.port n i
      .next ((s.setPort n i { x with held := x.held ++ [r] }).bump PCNT_COLLIDE.count [n, i])
    else .next (((s.finishTx n i).sendReply n i r t false).pruneFrames n (s.rd GCFG.port [n, g]))

/-- The first held release that is sent starts at `t`; releases suppressed there leave the next one its place (R209). -/
def State.startHeld (s : State) (n i t : Nat) : Nat → State
  | 0 => s
  | k + 1 =>
    let x := s.port n i
    match x.held with
    | [] => s
    | r :: rs =>
      if x.tx.isSome then s
      else (((s.setPort n i { x with held := rs }).sendReply n i r t true).pruneFrames n (s.rd GCFG.port [n, r.gate])).startHeld n i t k

/-- A reply or cancel and its interframe gap have finished; a reply held behind them starts with LATE (R209). -/
def execInterframeGapEnd (n i : Nat) (s0 : State) : Host.Outcome State Fault Refusal :=
  match (s0.port n i).tx with
  | none => .next s0
  | some r =>
    let s := (s0.upTo r.done).finishTx n i
    .next (s.startHeld n i r.done ((s.port n i).held.length + 1))

/-! ### Cancels (R207) -/

/-- `PSTAT.cancels` follows the queue. -/
def State.putCancels (s : State) (n i : Nat) (q : List CancelEntry) : State :=
  let x := s.port n i
  (s.setPort n i { x with cancels := q }).wr PSTAT.cancels [n, i] q.length

/-- A cancel falls due for a reply whose verdict failed too late (R206, R207). -/
def State.queueCancel (s : State) (n i : Nat) (r : Reply) : State :=
  let x := s.port n i
  if (dirEntry x.mem 0x700).isNone then s.bump PCNT_CDROP.count [n, i]
  else if 16 ≤ x.cancels.length then
    ((s.bump PCNT_CDROP.count [n, i]).wr PSTAT.cancel_full [n, i] 1).olmWrite 0x0030
      (item4 n ++ item4 r.gate ++ item4 r.beat.toNat ++ item4 r.status.toNat)
  else s.putCancels n i (x.cancels ++ [{ gate := r.gate, beat := r.beat, id := r.id, status := r.status, anchor := r.anchor
                                         verdictAt := s.now }])

/-- Reply starts known at a composer: those of allocated gate entries and of releases (R207). -/
def State.knownStarts (s : State) (n i : Nat) : List Nat :=
  let gs := (List.range 64).filter (fun g => s.flag GCFG.enable [n, g] && !s.flag GCFG.target [n, g] && s.rd GCFG.dest [n, g] == i)
  gs.flatMap (fun g => (s.gate n g).entries.map (fun e => e.fire + composerPs)) ++
    (s.releases.filter (fun r => r.die == n && gs.contains r.gate)).map (fun r => r.fire + composerPs)

/-- The oldest queued cancel starts at `t` where the composer is free and no known reply start falls before the end of the
cancel's own gap (R207). -/
def execCancelStart (n i t : Nat) (s0 : State) : Host.Outcome State Fault Refusal :=
  let s := s0.upTo t
  let x := s.port n i
  match x.cancels, dirEntry x.mem 0x700 with
  | c :: cs, some a =>
    let tp := templateAt x.mem a
    let limit := c.verdictAt + s.rd PCFG.cancel_limit [n, i] * 1000000
    if s.txBusy n i t = true ∨ x.held ≠ [] ∨ limit < t
        ∨ (s.knownStarts n i).any (fun u => decide (u < t + s.gapTime n i (tp.flen + 4))) = true then .next s
    else
      let src : Sources := { id := c.id, status := c.status, beat := c.beat, stamp := stampBytes (s.domainAt c.anchor) }
      let s1 := (s.finishTx n i).putCancels n i cs
      .next ((s1.startTx n i t { gate := c.gate, beat := c.beat, id := c.id, status := c.status, anchor := c.anchor, cancel := true }
        tp src).bump PCNT_CANCEL.count [n, i])
  | _, _ => .next s

/-- The oldest cancel has not started within the cancel limit of its verdict: it is dropped, counted and recorded (R207). -/
def execCancelDrop (n i t : Nat) (s0 : State) : Host.Outcome State Fault Refusal :=
  let s := s0.upTo t
  match (s.port n i).cancels with
  | [] => .next s
  | c :: cs =>
    if c.verdictAt + s.rd PCFG.cancel_limit [n, i] * 1000000 < s.now then
      .next (((s.putCancels n i cs).bump PCNT_CDROP.count [n, i]).olmWrite 0x0030
        (item4 n ++ item4 c.gate ++ item4 c.beat.toNat ++ item4 c.status.toNat))
    else .next s

/-! ### Verdicts (R191, R206, R213) -/

/-- A reply that stands for the frame of port block `i` and beat `b`, sent provisionally. -/
def Reply.provFor (r : Reply) (i : Nat) (b : W16) : Bool :=
  !r.cancel && r.inPort == some i && r.beat == b && r.status &&& stProv != 0

/-- The verdict reaches the composer of port block `j` (R206). -/
def State.verdictAt (s : State) (n i : Nat) (b : W16) (pass : Bool) (j : Nat) : State :=
  let x := s.port n j
  let late := x.provs.filter (fun r => r.provFor i b)
  let s1 := if late.isEmpty then s else s.setPort n j { x with provs := x.provs.filter (fun r => !r.provFor i b) }
  let s2 := if pass then s1 else late.foldl (fun a r => a.queueCancel n j r) s1
  match x.tx with
  | some r =>
    if !pass && r.provFor i b then
      if s.now < r.commit then
        let y := s2.port n j
        (s2.setPort n j { y with tx := some { r with stomped := true } }).bump PCNT_STOMP.count [n, j]
      else s2.queueCancel n j r
    else s2
  | none => s2

/-- Records the verdict of the oldest ended frame without one. -/
def giveVerdict : List RxFrame → Option RxFrame × List RxFrame
  | [] => (none, [])
  | f :: fs =>
    if f.ended && f.verdict == none then
      let g := { f with verdict := some f.passes }
      (some g, g :: fs)
    else let (r, l) := giveVerdict fs; (r, f :: l)

/-- The port block's part of a verdict (R191, R206, R213): counts, composers, link report. -/
def State.portVerdict (s : State) (n i : Nat) (f : RxFrame) : State :=
  let pass := f.verdict == some true
  if f.isBeat ≠ some true then s
  else if s.flag PCFG.link [n, i] then
    (if pass ∨ f.emitted.isEmpty then s else (s.bump PCNT_VFAIL.count [n, i]).fltNote 0x0A n i 11 (!s.portPrompt n i))
  else
    let s1 := if pass then s else s.bump PCNT_VFAIL.count [n, i]
    (List.range 16).foldl (fun a j => a.verdictAt n i f.beat pass j) s1

/-! ### Link mode (R212, R213) -/

/-- Substitute instant of beat `k` of a link schedule, ps (R212). -/
def State.linkInstant (s : State) (n i k : Nat) : Nat :=
  s.raw PLINK_BASE [n, i] * vernierPs + k * (s.rd PLINK_CFG.period [n, i] * vernierPs)

/-- The earliest beat from `k` on whose low 16 bits are `b` and whose instant has not passed (R212): the least beat not passed is
raised to the wanted number. -/
def State.linkBeat (s : State) (n i : Nat) (b : W16) (t : Nat) : Nat :=
  let base := s.linkInstant n i 0
  let p := max 1 (s.rd PLINK_CFG.period [n, i] * vernierPs)
  let k := if t ≤ base then 0 else (t - base + p - 1) / p
  k + (b - BitVec.ofNat 16 k).toNat

/-- The first undecided frame of a link port whose first 8 bytes have landed is replaced by `g` of it. -/
def mapUndecided (g : RxFrame → RxFrame) : List RxFrame → List RxFrame
  | [] => []
  | f :: fs => if f.isBeat = none ∧ 8 ≤ f.bytes.length then g f :: fs else f :: mapUndecided g fs

/-- A link port's frame is matched to its beat, or discarded and counted (R212); its tokens due are then released. -/
def execLinkFrame (n i t : Nat) (s0 : State) : Host.Outcome State Fault Refusal :=
  let s := s0.upTo t
  let x := s.port n i
  match x.rx.find? (fun f => f.isBeat == none && decide (8 ≤ f.bytes.length)) with
  | none => .next s
  | some f =>
    if s.flag PCFG.link [n, i] = false then .next s
    else
      let b := BitVec.ofNat 16 (f.num 0 2 true)
      let k := s.linkBeat n i b t
      let free := !x.rx.any (fun y => y.isBeat == some true && y.link == k)
      if f.num 4 4 true = s.rd PLINK_CFG.job [n, i] ∧ s.rd DIESTAT.state [n] = 3 ∧ x.nextLink ≤ k ∧ free = true then
        let g := { f with isBeat := some true, beat := b, link := k, linkStatus := BitVec.ofNat 4 (f.num 2 1 true % 16) }
        -- the frame is run as the port's last one, then put back in its place
        let s1 := (s.setPort n i { x with rx := [g] }).extract n i
        let y := s1.port n i
        let s2 := s1.setPort n i { y with rx := mapUndecided (fun _ => y.last) x.rx }
        .next ((s2.wr PSTAT.beat [n, i] b.toNat).addWrap PCNT_FRAMES.count [n, i] 1)
      else
        .next ((s.setPort n i { x with rx := mapUndecided (fun y => { y with isBeat := some false }) x.rx }).bump
          PCNT_LINK.discarded [n, i])

/-- The tokens of a rule that a beat has not released, with the substitute value (R213). -/
def State.substTokens (s : State) (n i : Nat) (beat : W16) (have_ : List Emitted) : List Rule → State
  | [] => s
  | r :: rs =>
    let x := s.port n i
    let hold := s.flag PCFG.subst [n, i]
    let missing := (List.range r.ntok).filter (fun k => !have_.any (fun e => e.rule == r.num && e.i == k))
    let s1 := missing.foldl (fun a k =>
      let v := if hold then (match x.lastVals.find? (fun e => e.rule == r.num && e.i == k) with | some e => e.data | none => 0) else 0
      a.portSend n i r.num (fieldToken r k x.epoch beat v (stSubst ||| stLate))) s
    s1.substTokens n i beat have_ rs

/-- At S_k the port releases every token of beat k not yet released, with the substitute value, SUBST and LATE (R213). -/
def execLinkSubstitute (n i : Nat) (s0 : State) : Host.Outcome State Fault Refusal :=
  let k := (s0.port n i).nextLink
  let s := s0.upTo (s0.linkInstant n i k)
  if s.flag PCFG.link [n, i] = false ∨ s.rd DIESTAT.state [n] ≠ 3 then .next s0
  else
    let x := s.port n i
    let rs := (rulesOf x.mem).filter (fun r => r.kind != 2)
    let all : Nat := (rs.map Rule.ntok).sum
    let frame := x.rx.find? (fun f => f.isBeat == some true && f.link == k)
    let have_ : List Emitted := match frame with | some f => f.emitted | none => []
    let whole := decide (all ≤ have_.length)
    let s1 := s.setPort n i { x with
      nextLink := k + 1
      lastVals := if whole then have_ else x.lastVals
      rx := x.rx.map (fun f => if f.isBeat = some true ∧ f.link = k then { f with closed := true } else f) }
    if whole then .next (s1.pruneFrames n i)
    else .next (((s1.substTokens n i (BitVec.ofNat 16 k) have_ rs).bump PCNT_LINK.substituted [n, i]).pruneFrames n i)

end Sys2Proof.Machine
end

