-- ==== Sys2Proof/Machine/Time.lean ====
section
/-!
DEFINITION. The time base (R262 to R272): rate writes, steps and sets, snapshots, time events, time pins, transmit timestamps.
-/
namespace Sys2Proof.Machine

/-! ### Rebasing (R264, R265) -/

/-- The nominal rate (R263). -/
def tincNominal : Nat := 0x00CCCCCCCCCD

/-- The rate lies within 200 ppm of nominal (R264). -/
def rateOk (v : Nat) : Bool :=
  decide ((max v tincNominal - min v tincNominal) * 1000000 ≤ 200 * tincNominal)

/-- The first tick later than now and than that of every earlier write (R264). -/
def State.nextTick (s : State) : Nat := max (s.now / tickPs + 1) (s.vote.timeTick + 1)

/-- The tick of a write is used up (R264). -/
def State.takeTick (s : State) (w : Nat) : State := { s with vote := { s.vote with timeTick := w } }

/-- Domain time is rebased at tick `w` to the value `base` and the rate `inc` (R264). -/
def State.rebase (s : State) (w base inc : Nat) : State :=
  let s1 := { (s.takeTick w) with segs := s.timeSeg :: s.segs }
  (((s1.setRaw TREF [] w).setRaw TBASE_LO [] (base % 2 ^ 64)).wr TBASE_HI.value [] (base / 2 ^ 64 % 2 ^ 32)).setRaw TINC [] inc

/-- A rate write (R264). -/
def State.setRate (s : State) (v : Nat) : State :=
  if rateOk v then
    let w := s.nextTick
    s.rebase w (domainOf s.timeSeg (8 * w)) v
  else s

/-- A 64-bit word as a signed step. -/
def stepOf (v : W64) : Int := signed64 v.toNat

/-- The magnitude of a step exceeds `TJUMP.ns`; with 0 every step does (R265). -/
def State.tooFar (s : State) (d : Int) : Bool :=
  s.rd TJUMP.value [] == 0 || decide (nsDom (s.rd TJUMP.value []) < d.natAbs)

/-- A step of domain time at the next tick, or its refusal (R264, R265). -/
def State.stepTime (s : State) (d : Int) : State :=
  let w := s.nextTick
  if s.tooFar d then
    (((s.takeTick w).wr TSTAT.jump_refused [] 1).bump TCNT.steps []).olmWrite 0x0080 (item4 1 ++ item8 (d % 2 ^ 64).toNat)
  else s.rebase w (((domainOf s.timeSeg (8 * w) : Int) + d) % 2 ^ 96).toNat (s.raw TINC [])

/-- A compute die is in state 2 or 3 (R265). -/
def State.dieBusy (s : State) : Bool := (List.range 16).any (fun n => s.rd DIESTAT.state [n] == 2 || s.rd DIESTAT.state [n] == 3)

/-- A set of domain time, judged and made at the next tick (R264, R265). -/
def State.setTime (s0 : State) (v : Nat) : State :=
  let w := s0.nextTick
  let s := s0.upTo (w * tickPs)
  if s.dieBusy then
    (((s.takeTick w).wr TSTAT.set_refused [] 1).bump TCNT.sets []).olmWrite 0x0080 (item4 2 ++ leBytes 12 v)
  else s.rebase w (v % 2 ^ 96) (s.raw TINC [])

/-- A rate write from BAR0: ignored while a servo is the writer, refused more than 200 ppm from nominal (R264). -/
def State.hostRate (s : State) (v : W64) : State := if s.rd TCFG.source [] = 0 then s.setRate (v.toNat % 2 ^ 48) else s

/-- A 64-bit write to `TADJ` from BAR0 (R264). -/
def State.hostStep (s : State) (v : W64) : State := if s.rd TCFG.source [] = 0 then s.stepTime (stepOf v) else s

/-- A write to `TSET_HI` from BAR0 commits the set (R264). -/
def State.hostSet (s : State) (v : W32) : State :=
  if s.rd TCFG.source [] = 0 then s.setTime (s.raw TSET_LO [] + v.toNat * 2 ^ 64) else s

/-- A write to `TINC` (R264). -/
def execTincWrite (v : W64) (s : State) : Host.Outcome State Fault Refusal := .next (s.hostRate v)

/-- A 64-bit write to `TADJ` (R264, R265). -/
def execTadjStep (v : W64) (s : State) : Host.Outcome State Fault Refusal := .next (s.hostStep v)

/-- A write to `TSET_HI` (R264, R265). -/
def execTsetCommit (v : W32) (s : State) : Host.Outcome State Fault Refusal := .next (s.hostSet v)

/-- Raw and domain time of the present tick enter the snapshot registers (R263, its table). -/
def State.snapTime (s : State) : State :=
  let r := s.rawTicks
  let d := s.domainAt (r * tickPs)
  ((s.setRaw TSNAP_RAW [] r).setRaw TSNAP_LO [] (d % 2 ^ 64)).wr TSNAP_HI.value [] (d / 2 ^ 64 % 2 ^ 32)

/-- `TCFG.snap` (R263). -/
def execTimeSnap (s : State) : Host.Outcome State Fault Refusal := .next s.snapTime

/-! ### Time pins (R272) -/

def State.tpin (s : State) (p : Nat) : TPin := Sparse.get {} s.tpins p
def State.setTpin (s : State) (p : Nat) (x : TPin) : State := { s with tpins := Sparse.set {} s.tpins p x }

/-- The level of a pin that is active or not (R272). -/
def State.pinLevel (s : State) (p : Nat) (active : Bool) : Bool := active != s.flag TIOCFG.invert [p]

/-- A pulse is due on a pin at `t`; one still active is extended and the pulse counted (R272). -/
def State.pulse (s : State) (p t : Nat) : State :=
  let x := s.tpin p
  let stop := t + s.rd TIOCFG.width [p] * tickPs
  match x.until_ with
  | some u =>
    if t < u then (s.setTpin p { x with until_ := some (max u stop) }).bump TIOCNT.overlap [p]
    else (s.setTpin p { x with high := true, until_ := some stop }).emit (.timePin p (s.pinLevel p true))
  | none => (s.setTpin p { x with high := true, until_ := some stop }).emit (.timePin p (s.pinLevel p true))

/-- Pulses on several pins. -/
def State.pulses (s : State) (t : Nat) : List Nat → State
  | [] => s
  | p :: ps => (s.pulse p t).pulses t ps

/-- A pulse reaches its width (R272). -/
def execPulseEnd (p : Nat) (s0 : State) : Host.Outcome State Fault Refusal :=
  match (s0.tpin p).until_ with
  | none => .next s0
  | some u =>
    let s := s0.upTo u
    .next ((s.setTpin p { s.tpin p with high := false, until_ := none }).emit (.timePin p (s.pinLevel p false)))

/-- An active edge on a capture pin at instant `t`, ps (R272). -/
def execTioCapture (p t : Nat) (s0 : State) : Host.Outcome State Fault Refusal :=
  let s := s0.upTo t
  if s.rd TIOCFG.mode [p] ≠ 3 then .next s
  else
    let x := s.tpin p
    if 16 ≤ x.edges.length then .next (s.bump TIOCNT.overflow [p])
    else .next (s.setTpin p { x with edges := x.edges ++ [t / vernierPs] })

/-- What `TIOCAP` reads: the oldest captured edge with `valid`, or 0 (R272). -/
def State.tiocapValue (s : State) (p : Nat) : Nat :=
  match (s.tpin p).edges with | [] => 0 | e :: _ => e % 2 ^ 63 + 2 ^ 63

/-- A read of `TIOCAP` answers the oldest edge and pops it (R8, R272). -/
def State.tiocapPop (s : State) (p : Nat) : State :=
  (s.emit (.readValue (TIOCAP.addr [p]) 64 (s.tiocapValue p))).setTpin p { s.tpin p with edges := (s.tpin p).edges.drop 1 }

/-- A read of `TIOCAP` (R272). -/
def execTiocapRead (p : Nat) (s : State) : Host.Outcome State Fault Refusal := .next (s.tiocapPop p)

/-! ### Time events (R271) -/

def State.tevent (s : State) (e : Nat) : TEvent := Sparse.get {} s.tevents e
def State.setTevent (s : State) (e : Nat) (x : TEvent) : State :=
  ({ s with tevents := Sparse.set {} s.tevents e x }).setRaw TEOCC [e] x.occurred

/-- Domain time of occurrence `k` of a domain-mode event with the given base, rounded up to 2^-16 ns. -/
def occDomain (base period k : Nat) : Nat := ((base + k * period) * 65536 + 9) / 10

/-- Occurrences of an event that have passed when it is armed now (R271). -/
def State.passedAt (s : State) (e base : Nat) : Nat :=
  let p := max 1 (s.raw TEPER [e] % 2 ^ 48)
  let u := if s.flag TECFG.mode [e] then s.domNow * 10 / 65536 else s.now / vernierPs
  let k := if u < base then 0 else (u - base) / p + 1
  let c := s.rd TECFG.count [e]
  if c = 0 then k else min k c

/-- Instant of occurrence `k` under the registers in effect (R271). -/
def State.occInstant (s : State) (e base k : Nat) : Nat :=
  let p := s.raw TEPER [e] % 2 ^ 48
  if s.flag TECFG.mode [e] then s.psOf (occDomain base p k) else (base + k * p) * vernierPs

/-- The event has an occurrence to come. -/
def State.occLeft (s : State) (e k : Nat) : Bool := s.rd TECFG.count [e] == 0 || decide (k < s.rd TECFG.count [e])

/-- An event is armed now with a base in units of 100 ps (R271). -/
def State.armEvent (s : State) (e base : Nat) : State :=
  let k := s.passedAt e base
  s.setTevent e { armed := true, occurred := k, pre := k, base
                  next := if s.occLeft e k then some (s.occInstant e base k) else none }

/-- A write to `TECFG` (R271, R289): taken while the event is disabled; a write that disables is always taken. -/
def State.writeTecfg (s : State) (e : Nat) (v : W32) : State :=
  let on := bitOf v.toNat 0
  let kept := v.toNat - bitsOf v.toNat 3 5 * 8
  if on = false then (s.setRaw TECFG [e] kept).setTevent e {}
  else if s.flag TECFG.enable [e] then s
  else
    let s1 := s.setRaw TECFG [e] kept
    if s1.flag TECFG.rel [e] then s1.setTevent e { waitJob := true } else s1.armEvent e (s1.raw TEBASE [e])

/-- A write to `TECFG` (R271). -/
def execTecfgWrite (e : Nat) (v : W32) (s : State) : Host.Outcome State Fault Refusal := .next (s.writeTecfg e v)

/-- Events that wait for a job start are armed with their base counted from START_TICK (R271). -/
def State.armAtJob (s : State) (startPs : Nat) : State :=
  (List.range 16).foldl (fun a e =>
    let x := a.tevent e
    if x.waitJob then
      let d := if a.flag TECFG.mode [e] then a.domainAt startPs * 10 / 65536 else startPs / vernierPs
      a.armEvent e (a.raw TEBASE [e] + d)
    else a) s

/-- The pins that follow an event in mode 1. -/
def State.eventPins (s : State) (e : Nat) : List Nat :=
  (List.range 8).filter (fun p => s.rd TIOCFG.mode [p] == 1 && s.rd TIOCFG.event [p] == e)

/-- The next occurrence of an event (R271): pins pulse, waits on it may wake, the following one is converted. -/
def execTimeEventOccurrence (e : Nat) (s0 : State) : Host.Outcome State Fault Refusal :=
  let x := s0.tevent e
  match x.next with
  | none => .next s0
  | some t =>
    if x.armed = false then .next s0
    else
      let s := s0.upTo t
      let k := x.occurred + 1
      let s1 := s.setTevent e { x with occurred := k, inst := if s.flag TECFG.mode [e] then x.inst ++ [t] else x.inst
                                       next := if s.occLeft e k then some (s.occInstant e x.base k) else none }
      .next (s1.pulses t (s1.eventPins e))

/-! ### Transmit timestamps (R269) -/

/-- Key of the timestamp queue of port block `i` of die `n`; the 10BASE-T1S port's is 16384. -/
def t1sTxKey : Nat := 16384

/-- The four registers of a timestamp queue and their instance. -/
def txRegs (k : Nat) : Reg × Reg × Fld × Fld × Fld × List Nat :=
  if k = t1sTxKey then (T1S_TXTS_LO, T1S_TXTS_HI, T1S_TXTSSTAT.depth, T1S_TXTSSTAT.overflow, T1S_TXTSDROP.dropped, [])
  else (TXTS_LO, TXTS_HI, TXTSSTAT.depth, TXTSSTAT.overflow, TXTSDROP.dropped, [k / 1024, k % 1024])

/-- The queue's registers follow its contents (R269). -/
def State.putTxts (s : State) (k : Nat) (q : List TxStamp) : State :=
  let (lo, hi, depth, _, _, idx) := txRegs k
  let s1 := ({ s with txts := Sparse.set [] s.txts k q }).wr depth idx q.length
  match q with
  | [] => (s1.setRaw lo idx 0).setRaw hi idx 0
  | x :: _ =>
    let b := leNat (stampBytes x.time)
    (s1.setRaw lo idx (b % 2 ^ 64)).setRaw hi idx (b / 2 ^ 64 % 2 ^ 32 + x.id % 256 * 2 ^ 32 + b2n x.nosend * 2 ^ 40 + 2 ^ 41)

/-- An entry enters a queue, or is dropped where 32 are held (R269). -/
def State.txStamp (s : State) (k : Nat) (x : TxStamp) : State :=
  let (_, _, _, ovf, drop, idx) := txRegs k
  let q := Sparse.get [] s.txts k
  if 32 ≤ q.length then (s.bump drop idx).wr ovf idx 1 else s.putTxts k (q ++ [x])

/-- A read of `TXTS_HI` answers the oldest entry's word and pops it (R8, R269). -/
def State.txtsPop (s : State) (k : Nat) : State :=
  let (_, hi, _, _, _, idx) := txRegs k
  (s.emit (.readValue (hi.addr idx) 64 (s.raw hi idx))).putTxts k ((Sparse.get [] s.txts k).drop 1)

/-- A read of `TXTS_HI` of a port block, or of the 10BASE-T1S port where `t1s` is set (R269). -/
def execTxtsHiRead (t1s : Bool) (n i : Nat) (s : State) : Host.Outcome State Fault Refusal :=
  .next (s.txtsPop (if t1s then t1sTxKey else key2 n i))

end Sys2Proof.Machine
end

