-- ==== Sys2Proof/Machine/Vote.lean ====
section
/-!
DEFINITION. The Vilovote domain (R273 to R288): hop delays, domain time over the ring, arming, the trigger unit, fires, votes and
retractions, barrier releases and status.
-/
namespace Sys2Proof.Machine

/-! ### Records and periods -/

/-- A VOTE_EVENT record (R363): frame type, origin, sequence number, time. -/
def State.voteEvent (s : State) (kind origin : Nat) (seq : W16) (time : Nat) : State :=
  s.olmWrite 0x0090 (item4 kind ++ item4 origin ++ item4 seq.toNat ++ item8 (dom48 time))

/-- The STATUS period, ps (R288). -/
def State.statusPeriod (s : State) : Nat := s.rd VTIME.status_period [] * 1000000

/-- The job tag a frame of this module carries (R276). -/
def State.ownTag (s : State) : Nat := match s.jobs with | [] => 0 | j :: _ => j.id % 256

/-- The vote check (R285): CRC-32 over `VFIRE`, `VVOTE` bits [31:0] and `VVMASK`. -/
def State.voteCheck (s : State) : W32 :=
  crc32 (leBytes 4 (s.raw VFIRE []) ++ leBytes 4 (s.raw VVOTE [] % 2 ^ 32) ++ leBytes 8 (s.raw VVMASK []))

/-! ### Hop delays (R279) -/

/-- The delay period expires: a DELAY_REQ leaves on each lane (R279). -/
def execDelayPeriod (t : Nat) (s0 : State) : Host.Outcome State Fault Refusal :=
  let s := s0.upTo t
  if s.inRing = false then .next s
  else
    let d := s.domNow
    let s1 := (s.ringLane 0 0x02 0 d []).ringLane 1 0x02 0 d []
    .next { s1 with vote := { s1.vote with delayT1 := [(0, dom48 d + 1), (1, dom48 d + 1)] } }

/-- A DELAY_REQ comes in: a frame of the node's own number shows a duplicate; any other is answered on the other lane, at once
(R279, R280). -/
def execDelayReq (f : RingFrame) (t : Nat) (s0 : State) : Host.Outcome State Fault Refusal :=
  let s := s0.upTo t
  if s.flag VCFG.enable [] = false then .next s
  else if f.origin = s.node then .next (s.wr VSTAT.dup_node [] 1)
  else .next (s.ringLane (1 - f.lane) 0x03 0 s.domNow (leBytes 6 f.time ++ leBytes 6 (dom48 s.domNow)))

/-- Register of the hop into a lane (R279). -/
def hopReg (lane : Nat) : Fld × Fld := if lane = 0 then (VHOP0.delay, VHOP0.asym) else (VHOP1.delay, VHOP1.asym)

/-- Signed difference of two 48-bit times. -/
def diff48 (a b : Nat) : Int :=
  let x : Nat := (a + 2 ^ 48 - b % 2 ^ 48) % 2 ^ 48
  if x < 2 ^ 47 then (x : Int) else (x : Int) - 2 ^ 48

/-- A 16-bit field as a signed number. -/
def signed16 (v : Nat) : Int := if v < 2 ^ 15 then (v : Int) else (v : Int) - 2 ^ 16

/-- A DELAY_RESP comes in: the delay of the hop into its lane (R279). -/
def execDelayResp (f : RingFrame) (t : Nat) (s0 : State) : Host.Outcome State Fault Refusal :=
  let s := s0.upTo t
  let t1 := Sparse.get 0 s.vote.delayT1 (1 - f.lane)
  if s.inRing = false ∨ f.origin = s.node ∨ t1 = 0 ∨ t1 ≠ rfld f 0 6 + 1 then .next s
  else
    let (fd, fa) := hopReg f.lane
    let turn := diff48 f.time (rfld f 6 6)
    let d : Int := (diff48 (dom48 s.domNow) (t1 - 1) - turn) / 2 + signed16 (s.rd fa [])
    let v := min d.toNat (2 ^ 32 - 1)
    let s1 := s.wr fd [] v
    let s2 := { s1 with vote := { s1.vote with delayT1 := Sparse.erase s1.vote.delayT1 (1 - f.lane) } }
    .next (if 30 * 256 < v then s2.wr VSTAT.long_hop [] 1 else s2)

/-! ### Domain time over the ring (R267, R280, R281) -/

/-- A rate a servo chooses (R280, R281): free within 200 ppm of nominal (log 3); `dir` above or below nominal where given. -/
def State.servoRate (s : State) (dir : Option Bool) : State :=
  let (v, s1) := s.draw
  let span := 200 * tincNominal / 1000000
  s1.setRate (match dir with
    | some true => tincNominal + v % (span + 1)
    | some false => tincNominal - v % (span + 1)
    | none => tincNominal + v % (2 * span + 1) - span)

/-- `TSTAT.locked`: 16 consecutive corrections within 0.25 ns (R267). -/
def State.servoLock (s : State) (offset : Int) : State :=
  let k := if offset.natAbs ≤ 16384 then s.vote.lockRun + 1 else 0
  ({ s with vote := { s.vote with lockRun := k, lastSync := s.now } }).wr TSTAT.locked [] (b2n (decide (16 ≤ k)))

/-- A servo corrects by an offset: a set while far and idle, a slew while far and running, else rate and step (R267, R281). -/
def State.servo (s : State) (offset : Int) : State :=
  let far := decide (nsDom (s.rd TJUMP.value []) < offset.natAbs)
  if far && !s.dieBusy then
    let s1 := s.setTime (((s.domainAt s.now : Int) + offset).toNat)
    (s1.servoRate none).servoLock offset
  else if far then (s.servoRate (some (decide (0 < offset)))).servoLock offset
  else ((s.servoRate none).stepTime offset).servoLock offset

/-- A SYNC comes in at `t` (R280): the correction grows by the hop, a second master is settled, a follower's servo takes the nearer
direction. -/
def execSync (f : RingFrame) (t : Nat) (s0 : State) : Host.Outcome State Fault Refusal :=
  let s := s0.upTo t
  let hop := s.rd (hopReg f.lane).1 []
  let corr := rfld f 0 8 + hop
  let s1 := s.ringForward f (leBytes 8 corr ++ List.replicate 4 0)
  if s1.inRing = false ∨ f.origin = s1.node then .next s1
  else if s1.flag VCFG.master [] && !s1.vote.yielded then
    if f.origin < s1.node then
      .next (({ s1 with vote := { s1.vote with yielded := true } }).wr VSTAT.master_conflict [] 1)
    else .next s1
  else
    let other := Sparse.get 0 s1.vote.syncHops (1 - f.lane)
    let s2 := ({ s1 with vote := { s1.vote with syncHops := Sparse.set 0 s1.vote.syncHops f.lane (f.hop + 1) } }).wr
      VSTAT.master_node [] f.origin
    let nearer := other == 0 || decide (f.hop + 1 < other) || (f.hop + 1 == other && f.lane == 0)
    if s2.rd TCFG.source [] = 2 ∧ nearer = true then
      let m := s2.nearest f.time + corr * 256
      .next (s2.servo ((m : Int) - s2.domNow))
    else .next s2

/-- The sync period expires: the domain master sends SYNC (R280). -/
def execSyncPeriod (t : Nat) (s0 : State) : Host.Outcome State Fault Refusal :=
  let s := s0.upTo t
  if s.flag VCFG.master [] && !s.vote.yielded then .next (s.ringSend 0x01 0 s.domNow []) else .next s

/-- The ring servo's correction period, ps (R267, R280). A PTP clock's period is its messages' own. -/
def State.servoPeriod (s : State) : Nat := s.rd VTIME.sync_period [] * 1000000

/-- A servo without corrections for 4 of its periods loses its lock (R267). -/
def execServoUnlock (t : Nat) (s0 : State) : Host.Outcome State Fault Refusal :=
  let s := s0.upTo t
  if (s.rd TCFG.source [] = 1 ∧ s.vote.lastSync < s.now) ∨ s.vote.lastSync + 4 * s.servoPeriod ≤ s.now then
    .next (({ s with vote := { s.vote with lockRun := 0, syncHops := [] } }).wr TSTAT.locked [] 0)
  else .next s

/-! ### Arming (R282, R285) -/

/-- The domain is armed at a time, by the changes that are known (R282). -/
def State.armedAt (s : State) (T : Nat) : Bool :=
  match (s.vote.armPast ++ s.vote.armNext).reverse.find? (fun a => decide (a.effective ≤ T)) with
  | some a => a.armed
  | none => false

/-- An arm change in order of its effective time. -/
def insertArm (a : ArmRec) : List ArmRec → List ArmRec
  | [] => [a]
  | x :: xs => if a.effective < x.effective then a :: x :: xs else x :: insertArm a xs

/-- An arm change is scheduled; the vote check of its frame is compared (R282, R285). -/
def State.scheduleArm (s : State) (effective : Nat) (armed : Bool) (check : W32) : State :=
  let s1 := { s with vote := { s.vote with armNext := insertArm { effective, armed } s.vote.armNext } }
  if check ≠ s.voteCheck then s1.wr VSTAT.vote_mismatch [] 1
  else if armed then s1.wr VSTAT.vote_mismatch [] 0 else s1

/-- An ARM comes in (R282). -/
def execArm (f : RingFrame) (t : Nat) (s0 : State) : Host.Outcome State Fault Refusal :=
  let (act, s) := s0.ringIn f t
  if act = false then .next s
  else .next (s.scheduleArm (s.nearest (rfld f 2 6)) (bitOf (rfld f 1 1) 0) (BitVec.ofNat 32 (rfld f 8 4)))

/-- A write to `VARM`: the master sends ARM, or the write is refused (R282). -/
def State.writeVarm (s : State) (v : W64) : State :=
  if s.flag VCFG.master [] = false ∨ s.vote.yielded = true then s
  else
    let eff := s.nearest (bitsOf v.toNat 8 48)
    if eff < s.domNow + nsDom (s.rd VFIRE.bound []) then s.wr VSTAT.arm_refused [] 1
    else
      let armed := bitOf v.toNat 0
      let g := (s.vote.armGen + 1) % 256
      let s1 := { s with vote := { s.vote with armGen := g } }
      let body := leBytes 1 g ++ leBytes 1 (b2n armed) ++ leBytes 6 (dom48 eff) ++ leBytes 4 s.voteCheck.toNat
      (s1.ringSend 0x10 0 s1.domNow body).scheduleArm eff armed s1.voteCheck

/-- A write to `VARM` (R282). -/
def execVarmWrite (v : W64) (s : State) : Host.Outcome State Fault Refusal := .next (s.writeVarm v)

/-- The earliest scheduled arm change takes effect (R282). -/
def State.armEffective (s0 : State) : Option (ArmRec × State) :=
  match s0.vote.armNext with
  | [] => none
  | a :: r =>
    let s := s0.upTo (s0.psOf a.effective)
    some (a, ({ s with vote := { s.vote with armNext := r, armPast := s.vote.armPast ++ [a] } }).wr VSTAT.armed [] (b2n a.armed))

/-! ### Fires and votes (R284, R285) -/

/-- `VFIRE.delay` in domain units. -/
def State.actDelay (s : State) : Nat := nsDom (s.rd VFIRE.delay [])

/-- Act instant of a fire, vote or local request: its time plus the delay; with delay 0 the instant of acceptance (R284). -/
def State.actInstant (s : State) (time : Nat) : Nat := if s.actDelay = 0 then s.domNow else time + s.actDelay

/-- A fire is accepted at a node (R282, R284, R285): late ones act on arrival. -/
def State.acceptFire (s : State) (time origin : Nat) (seq : W16) (rule : Nat) (word : W64) : State :=
  if s.armedAt time = false then s.bump VCNT_DISARMED.count []
  else if s.flag VSTAT.vote_mismatch [] then s
  else
    let A := s.actInstant time
    let a : ActRec := { at_ := max A s.domNow, time, origin, seq, rule, kind := 1, word }
    let s1 := { s with vote := { s.vote with acts := s.vote.acts ++ [a] } }
    if A < s.domNow then (s1.bump VCNT_LATE_ACT.count []).voteEvent 0x11 origin seq time else s1

/-- A FIRE comes in (R284). -/
def execFire (f : RingFrame) (t : Nat) (s0 : State) : Host.Outcome State Fault Refusal :=
  let (act, s) := s0.ringIn f t
  if act = false then .next s
  else .next (s.acceptFire (s.nearest f.time) f.origin f.seq (rfld f 0 1 % 16) (BitVec.ofNat 64 (rfld f 4 8)))

/-- A vote is held for its evaluation; one past its evaluation instant is counted (R285). -/
def State.acceptVote (s : State) (time origin : Nat) (seq : W16) (rule : Nat) (word : W64) : State :=
  if s.armedAt time = false then s.bump VCNT_DISARMED.count []
  else if s.flag VSTAT.vote_mismatch [] || s.rd VVOTE.k [] == 0 || decide (64 < s.rd VVOTE.k []) then s
  else if s.actDelay ≠ 0 ∧ time + s.actDelay < s.domNow then s.bump VCNT_LATE_VOTE.count []
  else { s with vote := { s.vote with votes := s.vote.votes ++ [{ time, origin, seq, rule, word }] } }

/-- A VOTE comes in (R285). -/
def execVote (f : RingFrame) (t : Nat) (s0 : State) : Host.Outcome State Fault Refusal :=
  let (act, s) := s0.ringIn f t
  if act = false then .next s
  else .next (s.acceptVote (s.nearest f.time) f.origin f.seq (rfld f 0 1 % 16) (BitVec.ofNat 64 (rfld f 4 8)))

/-- A vote comes before another in the order of evaluation (R285). -/
def VoteRec.before (a b : VoteRec) : Bool := decide (a.time < b.time) || (a.time == b.time && decide (a.origin < b.origin))

/-- The next vote to evaluate. -/
def nextVote : List VoteRec → Option VoteRec
  | [] => none
  | v :: vs =>
    match nextVote vs with
    | none => if v.evaluated then none else some v
    | some w => if v.evaluated then some w else if w.before v then some w else some v

/-- The earliest vote is evaluated at its instant (R285). -/
def execVoteEvaluation (s0 : State) : Host.Outcome State Fault Refusal :=
  match nextVote s0.vote.votes with
  | none => .next s0
  | some v =>
    let s := s0.upTo (s0.psOf (v.time + s0.actDelay))
    let W := nsDom (s.rd VVOTE.window [])
    let k := s.rd VVOTE.k []
    let later := fun (x : VoteRec) => match s.vote.lastFire with | none => true | some u => decide (u < x.time)
    let votes := s.vote.votes.map (fun x => if x = v then { x with evaluated := true } else x)
    let counted := votes.filter (fun x => x.evaluated && decide (x.time ≤ v.time) && decide (v.time ≤ x.time + W) &&
      bitOf (s.raw VVMASK []) x.origin && later x)
    let origins := (counted.map (·.origin)).eraseDups
    if bitOf (s.raw VVMASK []) v.origin && k != 0 && decide (k ≤ 64) && decide (k ≤ origins.length) && later v then
      let a : ActRec := { at_ := max (s.actInstant v.time) (v.time + s.actDelay), time := v.time, origin := v.origin, seq := v.seq,
                          rule := v.rule, kind := 2, word := v.word }
      .next { s with vote := { s.vote with votes := votes.filter (fun x => decide (v.time < x.time)), lastFire := some v.time
                                           acts := s.vote.acts ++ [a] } }
    else .next { s with vote := { s.vote with votes := votes.filter (fun x => !x.evaluated || decide (v.time ≤ x.time + W)) } }

/-- A retraction reaches a node: honoured in time, else counted and recorded (R286). -/
def State.acceptRetract (s : State) (time origin : Nat) (seq : W16) : State :=
  let bound := nsDom (s.rd VFIRE.bound [])
  let hit := fun (u : Nat) => decide (time + bound ≤ u + s.actDelay)
  let a := s.vote.acts.find? (fun x => x.kind == 1 && x.origin == origin && x.seq == seq)
  let v := s.vote.votes.find? (fun x => !x.evaluated && x.origin == origin && x.seq == seq)
  let ok := match a, v with | some x, _ => hit x.time | none, some y => hit y.time | none, none => false
  if ok then
    ({ s with vote := { s.vote with
      acts := s.vote.acts.filter (fun x => !(x.kind == 1 && x.origin == origin && x.seq == seq))
      votes := s.vote.votes.filter (fun x => !(!x.evaluated && x.origin == origin && x.seq == seq)) } }).bump VCNT_RETRACT.retracted []
  else (s.bump VCNT_RETRACT.retract_late []).voteEvent 0x13 origin seq time

/-- A RETRACT comes in (R286). -/
def execRetract (f : RingFrame) (t : Nat) (s0 : State) : Host.Outcome State Fault Refusal :=
  let (act, s) := s0.ringIn f t
  if act = false then .next s else .next (s.acceptRetract (s.nearest f.time) f.origin (BitVec.ofNat 16 (rfld f 0 2)))

/-! ### The trigger unit (R283, R286) -/

/-- TRIG_OUT (R41, R283), ps. -/
def trigOutPs : Nat := 3200

/-- A request proceeds: a local one to its act, the others to the queue (R283, R284, R285). -/
def State.makeRequest (s : State) (r : TrigReq) : State :=
  if r.action = 0 then
    let a : ActRec := { at_ := max (s.actInstant r.time) s.domNow, time := r.time, origin := s.node, seq := 0, req := r.id, rule := r.rule, kind := 0, word := r.word }
    { s with vote := { s.vote with acts := s.vote.acts ++ [a] } }
  else if 16 ≤ s.vote.queue.length ∨ (r.action = 2 ∧ (s.rd VVOTE.k [] = 0 ∨ 64 < s.rd VVOTE.k [])) then s.bump VCNT_QUEUE_DROP.count []
  else { s with vote := { s.vote with queue := s.vote.queue ++ [r] } }

/-- One rule tests a gate's release (R283). -/
def State.testRule (s : State) (x : Release) (r : Nat) : State :=
  if !s.flag VRULE0.enable [r] || s.flag VRULE0.src [r] || s.rd VRULE0.die [r] != x.die || s.rd VRULE0.gate [r] != x.gate then s
  else if x.status.toNat &&& s.rd VRULE0.smask [r] ≠ 0 then s.bump VCNT_STATUS_DROP.count []
  else
    match x.values[s.rd VRULE0.pos [r]]? with
    | none => s
    | some w =>
      if w &&& BitVec.ofNat 64 (s.raw VRULE1 [r]) ≠ BitVec.ofNat 64 (s.raw VRULE2 [r]) then s
      else
        let id := s.vote.nextId + 1
        let q : TrigReq := { id, rule := r, action := s.rd VRULE0.action [r], time := s.domainAt (x.fire + trigOutPs)
                             status := x.status, beat := x.beat, word := w }
        let s1 := { s with vote := { s.vote with nextId := id } }
        if x.status &&& stProv = 0 then s1.makeRequest q
        else
          let held := s1.flag VRULE0.prov [r]
          let s2 := { s1 with vote := { s1.vote with
            provs := s1.vote.provs ++ [{ req := q, die := x.die, port := s1.rd GCFG.port [x.die, x.gate], held }] } }
          if held then s2 else s2.makeRequest q

/-- A release to the trigger unit meets every rule, with PROV where its frame's verdict is unknown (R210, R283); a standby die is muted
(R173). -/
def State.triggerRelease (s : State) (x : Release) : State :=
  if (s.die x.die).muted then s else
  let i := s.rd GCFG.port [x.die, x.gate]
  let prov := !s.flag GCFG.mode [x.die, x.gate] &&
    (match (s.port x.die i).rx.reverse.find? (fun f => f.isBeat == some true && f.beat == x.beat) with
      | some f => f.verdict == none
      | none => false)
  let y := if prov then { x with status := x.status ||| stProv } else x
  (List.range 16).foldl (fun a r => a.testRule y r) (s.emit (.trigger y.die y.gate y.beat y.values y.status))

/-- At its firing time a gate releases (R48): to its composer, or to the trigger unit (R45, R210). -/
def execGateFire (n g : Nat) (s : State) : Host.Outcome State Fault Refusal :=
  match s.gateFire n g with
  | none => .next s
  | some (r, s1) =>
    if s1.flag GCFG.target [n, g] then .next ((s1.upTo (r.fire + trigOutPs)).triggerRelease r)
    else .next { s1 with releases := s1.releases ++ [r] }

/-- The verdict of a provisional request's frame (R286). -/
def State.provVerdict (s : State) (pass : Bool) (p : ProvReq) : State :=
  if p.held then
    if pass then s.makeRequest { p.req with time := s.domNow } else s.bump VCNT_STATUS_DROP.count []
  else if pass then s
  else if p.req.action = 0 then
    if s.vote.acts.any (fun a => a.req == p.req.id) then
      { s with vote := { s.vote with acts := s.vote.acts.filter (fun a => a.req != p.req.id) } }
    else (s.bump VCNT_RETRACT.retract_late []).voteEvent 0x13 s.node 0 p.req.time
  else
    match p.seq with
    | some q => s.makeRequest { id := s.vote.nextId, rule := p.req.rule, action := 3, time := s.domNow, target := q.toNat }
    | none =>
      -- its frame has not left: the request goes
      ({ s with vote := { s.vote with queue := s.vote.queue.filter (fun r => r.id != p.req.id) } }).bump VCNT_STATUS_DROP.count []

/-- A frame's verdict reaches the trigger unit (R210, R286). -/
def State.trigVerdict (s : State) (n i : Nat) (b : W16) (pass : Bool) : State :=
  let mine := fun (p : ProvReq) => p.die == n && p.port == i && p.req.beat == b
  let s1 := { s with vote := { s.vote with provs := s.vote.provs.filter (fun p => !mine p) } }
  (s.vote.provs.filter mine).foldl (fun a p => a.provVerdict pass p) s1

/-- The verdict of the oldest ended frame becomes known (R191): composers, trigger unit, link. -/
def execFrameVerdict (n i t : Nat) (s0 : State) : Host.Outcome State Fault Refusal :=
  let s := s0.upTo t
  let x := s.port n i
  match giveVerdict x.rx with
  | (none, _) => .next s
  | (some f, l) =>
    let s1 := (s.setPort n i { x with rx := l }).portVerdict n i f
    let s2 := if f.isBeat = some true then s1.trigVerdict n i f.beat (f.verdict == some true) else s1
    .next (s2.pruneFrames n i)

/-- An active edge on a trigger-input pin makes a request of its rule, with the edge's instant as its fire time (R272, R283). -/
def execTioTrigger (p t : Nat) (s0 : State) : Host.Outcome State Fault Refusal :=
  let s := s0.upTo t
  let r := s.rd TIOACT.rule [p]
  if s.rd TIOCFG.mode [p] = 4 ∧ s.flag VRULE0.enable [r] = true ∧ s.flag VRULE0.src [r] = true then
    let id := s.vote.nextId + 1
    .next (({ s with vote := { s.vote with nextId := id } }).makeRequest
      { id, rule := r, action := s.rd VRULE0.action [r], time := s.domainAt t })
  else .next s

/-- The trigger unit sends the oldest request, at most 4 frames in any 1 µs (R283, R286). -/
def execTriggerSend (t : Nat) (s0 : State) : Host.Outcome State Fault Refusal :=
  let s := s0.upTo t
  let recent := s.vote.sent.filter (fun u => decide (s.now < u + 1000000))
  match s.vote.queue with
  | [] => .next s
  | r :: q =>
    if 4 ≤ recent.length then .next s
    else
      let seq := s.vote.seq
      let s1 := { s with vote := { s.vote with
        queue := q, sent := s.now :: recent
        provs := s.vote.provs.map (fun (p : ProvReq) => if p.req.id = r.id then { p with seq := some seq } else p) } }
      let body := leBytes 1 r.rule ++ leBytes 1 r.status.toNat ++ leBytes 2 r.beat.toNat ++ leBytes 8 r.word.toNat
      match r.action with
      | 1 => .next ((s1.ringSend 0x11 0 r.time body).acceptFire r.time s1.node seq r.rule r.word)
      | 2 => .next ((s1.ringSend 0x12 0 r.time body).acceptVote r.time s1.node seq r.rule r.word)
      | _ => .next ((s1.ringSend 0x13 0 r.time (leBytes 2 r.target)).acceptRetract r.time s1.node (BitVec.ofNat 16 r.target))

/-! ### Acts (R284) -/

/-- The earliest act. -/
def firstAct : List ActRec → Option ActRec
  | [] => none
  | a :: r =>
    match firstAct r with
    | none => some a
    | some b => if b.at_ < a.at_ then some b else some a

/-- The entry of `VACT` for an act (R284). -/
def actEntry (a : ActRec) : W64 :=
  BitVec.ofNat 64 (dom48 a.at_ + a.origin % 64 * 2 ^ 48 + a.rule % 16 * 2 ^ 54 + a.kind % 4 * 2 ^ 58 + 2 ^ 63)

/-- The earliest act is made: pins pulse and `VACT` takes its entry (R284). Answers the act for the acquisition stream's mark. -/
def State.makeAct (s0 : State) : Option (ActRec × State) :=
  match firstAct s0.vote.acts with
  | none => none
  | some a =>
    let t := s0.psOf a.at_
    let s := s0.upTo t
    let s1 : State := { s with vote := { s.vote with acts := eraseFirst a s.vote.acts } }
    let pins := (List.range 8).filter (fun p => s1.rd TIOCFG.mode [p] == 2 && bitOf (s1.rd TIOACT.rules [p]) a.rule)
    let s2 : State := s1.pulses (max t s1.now) pins
    let s3 : State := if 16 ≤ s2.vote.vact.length then s2.bump VCNT_ACT_LOST.count []
              else { s2 with vote := { s2.vote with vact := s2.vote.vact ++ [actEntry a] } }
    some (a, s3)

/-- What a read of `VACT` answers (R284). -/
def State.vactValue (s : State) : Nat := match s.vote.vact with | [] => 0 | v :: _ => v.toNat

/-- A read of `VACT` answers the oldest entry and pops it (R8, R284). -/
def State.vactPop (s : State) : State :=
  let s1 := s.emit (.readValue (VACT.addr []) 64 s.vactValue)
  { s1 with vote := { s1.vote with vact := s1.vote.vact.drop 1 } }

/-- A read of `VACT` (R284). -/
def execVactRead (s : State) : Host.Outcome State Fault Refusal := .next s.vactPop

/-! ### Barriers (R231, R233, R287) -/

/-- An ARRIVE comes in: the master holds it (R287). -/
def execArrive (f : RingFrame) (t : Nat) (s0 : State) : Host.Outcome State Fault Refusal :=
  let (act, s) := s0.ringIn f t
  match s.jobOfTag (rfld f 11 1) with
  | none => .next s
  | some j =>
    if act = false ∨ j.rank ≠ 0 then .next s
    else .next (s.noteArrive j { barrier := rfld f 0 1 % 16, generation := rfld f 1 2 % 4096, node := f.origin, first := s.nearest (rfld f 5 6)
                                 last := s.nearest f.time, die := rfld f 3 1 % 16, clu := rfld f 4 1 % 64, done := bitOf f.flags 2 })

/-- A RELEASE comes in: the release instant, or a hold for a checkpoint (R287); late ones release on arrival. -/
def execRelease (f : RingFrame) (t : Nat) (s0 : State) : Host.Outcome State Fault Refusal :=
  let (act, s) := s0.ringIn f t
  let b := rfld f 0 1 % 16
  match s.jobOfTag (rfld f 11 1) with
  | none => .next s
  | some j =>
    if act = false ∨ rfld f 1 2 % 4096 ≠ s.rd BARSTAT.generation [b] ∨ (s.barrier b).arrivals.isEmpty = true then .next s
    else if bitOf f.flags 1 then .next (s.holdBarrier j b)
    else
      let T := s.nearest (rfld f 3 6)
      if T < s.domNow then
        .next ((s.setBarrier b { s.barrier b with release := some s.now }).bump VCNT_LATE_ACT.count [])
      else .next (s.agreeRelease b T)

/-- A difference of domain times in ticks, saturating at 32 bits (R233). -/
def ticksOf (d : Nat) : Nat := min (d * 10 / 524288) (2 ^ 32 - 1)

/-- The straggler registers of the job master (R233): from the ARRIVE frames of several modules, or this module's arrivals. -/
def State.noteStraggler (s : State) (j : Job) (b : Nat) : State :=
  if j.rank ≠ 0 then s
  else
    let gen := s.rd BARSTAT.generation [b]
    let recs := s.vote.arrives.filter (fun a => a.barrier == b && a.generation == gen && !a.done)
    let all : List (Nat × Nat × Nat × Nat) :=
      if 1 < j.modules then recs.flatMap (fun a =>
        (if a.first = a.last then [] else [(a.first, a.node, a.die, a.clu)]) ++ [(a.last, a.node, a.die, a.clu)])
      else (s.barrier b).arrivals.map (fun a => (a.at_, s.node, (s.die a.die).logical - 1, s.logClu a.die a.clu))
    let ts := all.map (·.1)
    let last := greatestOf ts
    let who := (all.reverse.find? (fun x => x.1 == last)).getD (0, 0, 0, 0)
    let second := greatestOf (eraseFirst last ts)
    let s1 := s.setRaw BSTRAG [] (who.2.1 % 64 + who.2.2.1 % 16 * 2 ^ 6 + who.2.2.2 % 64 * 2 ^ 10 + b * 2 ^ 16 + gen * 2 ^ 20 + 2 ^ 63)
    s1.setRaw BSTRAG_T [] (ticksOf (if ts.length < 2 then 0 else last - second) + ticksOf (last - leastOf ts) * 2 ^ 32)

/-- A start token that waited behind a member's arrival becomes its next arrival (R231). -/
def State.nextArrival (s : State) (b : Nat) (a : Arrival) : State :=
  let x := s.goat a.die a.clu a.goat
  let st := x.stream a.desc
  match st.waiting with
  | none => s
  | some f => ((s.setGoat a.die a.clu a.goat (x.setStream a.desc { st with waiting := none })).arriveAt b a.die a.clu a.goat a.desc f.tok).owe f.edge

/-- The release instant of a barrier: every member's notify leaves, the generation increments (R231, R233, R287). -/
def execBarrierRelease (b : Nat) (s0 : State) : Host.Outcome State Fault Refusal :=
  let x := s0.barrier b
  match x.release, x.arrivals with
  | some t, a0 :: _ =>
    let s := s0.upTo t
    let gen := s.rd BARSTAT.generation [b]
    let s1 := match s.jobOfDie a0.die with | some j => s.noteStraggler j b | none => s
    let s2 := x.arrivals.foldl (fun q a =>
      let ds := (q.goat a.die a.clu a.goat).desc a.desc
      q.goatNotify a.die a.clu a.goat a.desc (q.notifyOf a.die a.clu ds a.tok.tag a.tok (BitVec.ofNat 64 (gen % 2 ^ 16)) false)) s1
    let s3 := (((s2.setBarrier b {}).wr BARSTAT.generation [b] ((gen + 1) % 4096)).wr BARSTAT.arrived [b] 0).wr BARSTAT.held [b] 0
    let s4 := { s3 with vote := { s3.vote with arrives := s3.vote.arrives.filter (fun r => r.barrier != b || r.generation != gen) } }
    .next (x.arrivals.foldl (fun q a => q.nextArrival b a) s4)
  | _, _ => .next s0

/-! ### Status (R278, R288) -/

/-- A node count test fails (R278). -/
def State.countBad (s : State) : State :=
  (({ s with vote := { s.vote with badCount := s.now + 1 } }).wr VSTAT.nodes_mismatch [] 1).voteEvent 0x30 s.node s.vote.seq s.domNow

/-- A test has failed within the last three status periods (R278). -/
def State.countFails (s : State) : Bool := s.vote.badCount != 0 && decide (s.now + 1 < s.vote.badCount + 3 * s.statusPeriod)

/-- Origins heard from within three status periods (R278). -/
def State.heardNodes (s : State) : List Nat :=
  (s.vote.statusAt.filter (fun p => decide (s.now + 1 ≤ p.2 + 3 * s.statusPeriod))).map (·.1)

/-- The count is found too small where more origins are heard than there can be (R278). -/
def State.countCheck (s : State) : State :=
  if s.rd VCFG.nodes [] - 1 < s.heardNodes.length then s.countBad else s

/-- STATUS counts enter the job master's node register (R288). -/
def State.noteStatus (s : State) (n late fault step : Nat) (failover : Bool) : State :=
  if s.jobMaster then
    ((((s.add VNODE.late [n] late).add VNODE.fault [n] fault).wr VNODE.step [n] step).wr VNODE.failover [n] (b2n failover)).wr
      VNODE.present [n] 1
  else s

/-- Least voltage step of the dies that are not idle or absent. -/
def State.leastStep (s : State) : Nat := leastOf (((List.range 16).filter (fun n => bitOf s.fit.dies n)).map (fun n => s.rd PWRDIE.step [n]))

/-- The status period expires (R278, R288). -/
def execStatusPeriod (t : Nat) (s0 : State) : Host.Outcome State Fault Refusal :=
  let s := s0.upTo t
  if s.inRing = false then .next s
  else
    let step := s.leastStep % 16
    let fo := s.flag FLTSTAT.failover []
    let b6 := step + b2n fo * 16 + b2n (s.flag VSTAT.vote_mismatch []) * 32 + b2n (!s.flag TSTAT.locked []) * 64 + b2n s.countFails * 128
    let body := leBytes 4 s.vote.late ++ leBytes 2 (min s.vote.fault 65535) ++ leBytes 1 b6 ++ List.replicate 4 0 ++ leBytes 1 s.ownTag
    let s1 := (s.ringSend 0x30 0 s.domNow body).noteStatus s.node s.vote.late s.vote.fault step fo
    .next ({ s1 with vote := { s1.vote with late := 0, fault := 0 } }).countCheck

/-- A STATUS comes in: the node's own shows the ring's length, another's is counted (R278, R288). -/
def execStatus (f : RingFrame) (t : Nat) (s0 : State) : Host.Outcome State Fault Refusal :=
  let (act, s) := s0.ringIn f t
  if s.inRing = false then .next s
  else if f.origin = s.node then
    .next (if !s.flag VCFG.star [] && f.hop != s.rd VCFG.nodes [] - 1 then s.countBad else s)
  else if act = false then .next s
  else
    let b6 := rfld f 6 1
    let s1 := { s with vote := { s.vote with statusAt := Sparse.set 0 s.vote.statusAt f.origin (s.now + 1) } }
    let s2 := s1.noteStatus f.origin (rfld f 0 4) (rfld f 4 2) (b6 % 16) (bitOf b6 4)
    let s3 := if bitOf b6 7 && s2.jobMaster then (s2.wr VSTAT.nodes_mismatch [] 1).voteEvent 0x30 f.origin f.seq (s2.nearest f.time) else s2
    .next s3.countCheck

/-- Three periods without STATUS from a node: the job master marks it missing (R288). -/
def execNodeMissing (n t : Nat) (s0 : State) : Host.Outcome State Fault Refusal :=
  let s := s0.upTo t
  let u := Sparse.get 0 s.vote.statusAt n
  if s.jobMaster = true ∧ n ≠ s.node ∧ s.flag VNODE.present [n] = true ∧ u + 3 * s.statusPeriod ≤ s.now + 1 then
    .next (((s.wr VNODE.present [n] 0).wr VSTAT.node_missing [] 1).voteEvent 0x30 n 0 s.domNow)
  else .next s

/-- A write of `clear` to `VNODE` (R288). -/
def State.clearVnode (s : State) (n : Nat) (v : W64) : State :=
  if bitOf v.toNat 63 then (s.wr VNODE.late [n] 0).wr VNODE.fault [n] 0 else s

/-- `VNODE.clear` (R288). -/
def execVnodeClear (n : Nat) (s : State) : Host.Outcome State Fault Refusal := .next (s.clearVnode n 0x8000000000000000)

/-! ### Other frames (R275, R276) -/

/-- A frame with a bad CRC or in an uncorrectable block (R275). -/
def execBadRingFrame (t : Nat) (s0 : State) : Host.Outcome State Fault Refusal := .next ((s0.upTo t).bump VCNT_BAD.count [])

/-- A frame of an unlisted type is forwarded and counted (R276). -/
def execUnknownFrameType (f : RingFrame) (t : Nat) (s0 : State) : Host.Outcome State Fault Refusal :=
  let (_, s) := s0.ringIn f t
  .next (if s.flag VCFG.enable [] then s.bump VCNT_UNKNOWN.count [] else s)

/-! ### Gates that need the trigger unit's clock -/

/-- A write to `GCFG` (R54). -/
def execGcfgWrite (n g : Nat) (v : W32) (s : State) : Host.Outcome State Fault Refusal := .next (s.writeGcfg n g v)

end Sys2Proof.Machine
end

