-- ==== Sys2Proof/Machine/Irq.lean ====
section
/-!
DEFINITION. The interrupt controller and the reading of the olm (R351 to R364).
-/
namespace Sys2Proof.Machine

/-! ### Sources (R351) -/

/-- A compute die is present (R30, R31). -/
def State.hasDie (s : State) (n : Nat) : Bool := bitOf s.fit.dies n

/-- Port blocks `lo` to `lo + 7` of a die report a cancel queue full, a cut frame or a token without credit. -/
def State.portCond (s : State) (n lo : Nat) : Bool :=
  (List.range 8).any (fun k => s.flag PSTAT.cancel_full [n, lo + k] || s.flag PSTAT.cut [n, lo + k] || s.flag PSTAT.nocredit [n, lo + k])

/-- A MAC counter of a port block that clears on reading is not zero. -/
def State.macCond (s : State) (n i : Nat) : Bool :=
  [MCNT_FCS, MCNT_SIZE, MCNT_FILTERED, MCNT_NOMEM, MCNT_PAUSETX, MCNT_PAUSERX, MCNT_TXERR, MCNT_RELERR].any (fun r => s.raw r [n, i] != 0)

/-- The condition of a source of compute die `n` (R351). -/
def State.dieCond (s : State) (n b : Nat) : Bool :=
  if b < 16 then (List.range 4).any (fun k =>
    s.flag GCFG.irq [n, 4 * b + k] && (s.flag GSTAT.late [n, 4 * b + k] || s.flag GSTAT.fault [n, 4 * b + k]))
  else match b with
    | 16 => s.flag HSMON_LAST.valid [n]
    | 17 => (List.range 65).any (fun c => s.flag SRAMREPAIR.overflow [n, c] ||
        (List.range 65).any (fun h => s.flag HSTAT.illegal [n, c, h] || s.flag HSTAT.age_drop [n, c, h]))
    | 18 => (List.range 4).any (fun a => s.flag AREPAIR.overflow [n, a] || s.flag ASTAT.failed [n, a])
    | 19 => s.flag T1ERRADDR.valid [n]
    | 20 => s.flag RCFGSTAT.forced [n]
    | 21 => s.portCond n 0
    | 22 => s.portCond n 8
    | _ => false

/-- The condition of a hardware source; that of every other source is 0 (R351, R352). -/
def State.irqCond (s : State) (src : Nat) : Bool :=
  let b := src % 32
  match src / 32 with
  | 0 =>
    match b with
    | 0 => !s.flt.queue.isEmpty
    | 1 => s.flag FLTSTAT.failover []
    | 2 => s.flag ACQSTAT.refused [] || s.flag ACQSTAT.loss []
    | 3 => !s.vote.vact.isEmpty
    | 4 => s.flag VSTAT.master_conflict [] || s.flag VSTAT.dup_node [] || s.flag VSTAT.arm_refused [] || s.flag VSTAT.long_hop [] ||
        s.flag VSTAT.node_missing [] || s.flag VSTAT.nodes_mismatch []
    | 5 => s.flag TSTAT.jump_refused [] || s.flag TSTAT.set_refused []
    | 6 => s.flag OLMSTAT.new []
    | 7 => s.flag PWRSTAT.alert_mod [] || s.flag PWRSTAT.alert_rack [] || s.flag PWRSTAT.alert_seen [] || s.flag PWRSTAT.therm_seen []
    | _ => false
  | 1 =>
    if b < 8 then bitOf s.fit.glow b && (List.range 32).any (fun k => s.flag LSTAT.lock_lost [b, k])
    else match b with
      | 12 => s.flag HOSTSTAT.degraded [] || s.rd HOSTCNT.link_down [] != 0
      | 13 => s.fit.t1s && (s.flag T1SSTAT.rxq_full [] || !s.t1s.rxq.isEmpty)
      | _ => if 8 ≤ b ∧ b < 12 then s.fit.ethMac && (List.range 4).any (fun k => (List.range 16).any (fun i => s.macCond (4 * (b - 8) + k) i))
             else false
  | g => if 16 ≤ g then s.hasDie (g - 16) && s.dieCond (g - 16) b else false

/-- A source exists: a hardware source of R351, or a software source. -/
def sourceListed (src : Nat) : Bool :=
  let b := src % 32
  let g := src / 32
  if src = 1023 then false
  else if g = 0 then decide (b < 8)
  else if g = 1 then decide (b < 14)
  else if g < 8 then true
  else decide (16 ≤ g) && decide (g < 32) && decide (b < 23)

/-- Pending and active bits of a group with one bit set or cleared. -/
def State.setPending (s : State) (src : Nat) (on : Bool) : State :=
  s.setRaw IPEND [src / 32] (setBits (s.raw IPEND [src / 32]) (src % 32) 1 (b2n on))
def State.setActive (s : State) (src : Nat) (on : Bool) : State :=
  s.setRaw IACTIVE [src / 32] (setBits (s.raw IACTIVE [src / 32]) (src % 32) 1 (b2n on))

/-- A hardware condition that holds sets its source's pending bit while the source is not active (R352). -/
def execPendingSet (src t : Nat) (s0 : State) : Host.Outcome State Fault Refusal :=
  let s := s0.upTo t
  if src < 1023 ∧ s.irqCond src = true ∧ bitOf (s.raw IACTIVE [src / 32]) (src % 32) = false then .next (s.setPending src true)
  else .next s

/-- The bits of a group that a write to `IPEND` can set (R351). -/
def writableSources (g : Nat) : Nat := (List.range 32).foldl (fun a b => a + (if sourceListed (32 * g + b) then 2 ^ b else 0)) 0

/-- A write to `IPEND` replaces the group's pending word, bits of reserved sources apart (R351, R354). -/
def State.writeIpend (s : State) (g : Nat) (v : W32) : State := s.setRaw IPEND [g] (v.toNat &&& writableSources g)

/-- A write to `IPEND` (R354). -/
def execIpendWrite (g : Nat) (v : W32) (s : State) : Host.Outcome State Fault Refusal := .next (s.writeIpend g v)

/-! ### Delivery (R353, R356 to R358) -/

/-- Bit `t` of a source's 40-bit target mask (R353). -/
def State.targets (s : State) (src t : Nat) : Bool :=
  if t < 8 then bitOf (s.rd ITGT.hub [src]) t else bitOf (s.rd ITGT.host [src]) (t - 8)

/-- Sources of a group that are pending, not active and unmasked in a target's class (R353). -/
def State.readyWord (s : State) (g t : Nat) : Nat :=
  let m := if t < 8 then s.raw IMASK_HUB [g] else s.raw IMASK_HOST [g]
  (BitVec.ofNat 32 (s.raw IPEND [g]) &&& ~~~ BitVec.ofNat 32 (s.raw IACTIVE [g]) &&& ~~~ BitVec.ofNat 32 m).toNat

/-- The lowest source of a group deliverable to a target. -/
def State.firstIn (s : State) (g t : Nat) : Option Nat :=
  let w := s.readyWord g t
  if w = 0 then none else ((List.range 32).find? (fun b => bitOf w b && s.targets (32 * g + b) t)).map (fun b => 32 * g + b)

/-- The lowest source deliverable to a target (R357). -/
def State.lowest (s : State) (t : Nat) : Option Nat := (List.range 32).findSome? (fun g => s.firstIn g t)

/-- Groups whose timer is not running and that hold a source deliverable to a target (R356). -/
def State.signalGroups (s : State) (t : Nat) : List Nat :=
  (List.range 32).filter (fun g => !s.flag IHOLD.running [g] && (s.firstIn g t).isSome)

/-- A group's hold-off timer starts; 0 never runs (R356). -/
def State.startHold (s : State) (g : Nat) : State :=
  let h := s.rd IHOLD.holdoff [g]
  if h = 0 then s
  else ({ s with irq := { s.irq with holdUntil := Sparse.set 0 s.irq.holdUntil g (s.now + h * 100000) } }).wr IHOLD.running [g] 1

/-- An MSI-X message leaves, or waits as pending while its vector is masked or the link is down (R323, R359). -/
def State.msixSend (s : State) (v : Nat) : State :=
  if s.flag MSIXCTL.masked [v] then s.setRaw MSIXPBA [] (setBits (s.raw MSIXPBA []) v 1 1) else s.emit (.msix v)

/-- A target is signalled on its core line or by a message (R356). -/
def execTargetSignal (t u : Nat) (s0 : State) : Host.Outcome State Fault Refusal :=
  let s := s0.upTo u
  let gs := s.signalGroups t
  if 40 ≤ t ∨ s.flag ICLAIM.notified [t] = true ∨ gs = [] then .next s
  else
    let s1 := gs.foldl (fun a g => a.startHold g) (s.wr ICLAIM.notified [t] 1)
    .next (if t < 8 then s1.emit (.coreLine t) else s1.msixSend (t - 8))

/-- A group's hold-off timer expires (R356). -/
def execHoldoffExpiry (g : Nat) (s0 : State) : Host.Outcome State Fault Refusal :=
  if s0.flag IHOLD.running [g] then
    let s := s0.upTo (Sparse.get 0 s0.irq.holdUntil g)
    .next (({ s with irq := { s.irq with holdUntil := Sparse.erase s.irq.holdUntil g } }).wr IHOLD.running [g] 0)
  else .next s0

/-- A read of `ICLAIM` of a target (R357): the lowest deliverable source is claimed, the notified flag cleared. -/
def State.claim (s : State) (t : Nat) : State :=
  let id := match s.lowest t with | some x => x | none => 0x3FF
  let s1 := (s.emit (.readValue (ICLAIM.addr [t]) 32 (id + s.rd ICLAIM.notified [t] * 2 ^ 10))).wr ICLAIM.notified [t] 0
  if id = 0x3FF then s1
  else
    let s2 := (s1.setPending id false).setActive id true
    { s2 with irq := { s2.irq with claimedBy := Sparse.set 0 s2.irq.claimedBy id (t + 1) } }

/-- A read of `ICLAIM` (R8, R357). -/
def execIclaimRead (t : Nat) (s : State) : Host.Outcome State Fault Refusal := .next (s.claim t)

/-- A write to `ICOMPLETE` of a target (R358): the active state of a source it claimed ends; any other write is counted. -/
def State.complete (s : State) (t : Nat) (v : W32) : State :=
  let id := v.toNat % 1024
  if Sparse.get 0 s.irq.claimedBy id = t + 1 then
    let s1 := s.setActive id false
    { s1 with irq := { s1.irq with claimedBy := Sparse.erase s1.irq.claimedBy id } }
  else s.bump ISTRAY.count []

/-- A write to `ICOMPLETE` (R358). -/
def execIcompleteWrite (t : Nat) (v : W32) (s : State) : Host.Outcome State Fault Refusal := .next (s.complete t v)

/-- A vector is unmasked: a pending one sends its message (R323). -/
def State.unmask (s : State) (v : Nat) : State :=
  let s1 := s.wr MSIXCTL.masked [v] 0
  if bitOf (s1.raw MSIXPBA []) v then (s1.setRaw MSIXPBA [] (setBits (s1.raw MSIXPBA []) v 1 0)).emit (.msix v) else s1

/-- A vector's mask bit is cleared (R323). -/
def execMsixUnmask (v : Nat) (s : State) : Host.Outcome State Fault Refusal := .next (if v < 64 then s.unmask v else s)

/-! ### The olm (R362, R364) -/

/-- A token becomes available for a code with suppressed records (R362). -/
def execSuppressed (code t : Nat) (s0 : State) : Host.Outcome State Fault Refusal :=
  let s := s0.upTo t
  let b := s.olmBucket code
  if b.count ≠ 0 ∧ 0 < b.level then .next (s.olmSuppressed code b) else .next s

/-- Records of the area that holds sequence number `q`, from it on. -/
def State.olmFrom (s : State) (q : Nat) : List OlmRec :=
  (if q < 4096 then s.olm.birth else s.olm.circ).dropWhile (fun r => r.seq < q)

/-- The record of a sequence number is held (R364). -/
def State.olmHeld (s : State) (q : Nat) : Bool := match s.olmFrom q with | r :: _ => r.seq == q | [] => false

/-- Bytes of a record as it lies in MRAM (R360). -/
def OlmRec.bytes (r : OlmRec) : List Byte :=
  let n := (r.body.length + 3) / 4 * 4
  leBytes 2 r.length ++ leBytes 2 r.code ++ leBytes 4 r.seq ++ leBytes 5 r.hours ++ leBytes 3 r.cycles ++ (r.body ++ List.replicate 3 0).take n

/-- A write to `OLMSEL` selects a record (R364). -/
def State.selectOlm (s : State) (q : Nat) : State :=
  ((s.setRaw OLMSEL [] q).wr OLMSTAT.found [] (b2n (s.olmHeld q))).wr OLMSTAT.birth [] (b2n (s.olmHeld q && decide (q < 4096)))

/-- A write to `OLMSEL` (R364). -/
def execOlmselWrite (v : W64) (s : State) : Host.Outcome State Fault Refusal := .next (s.selectOlm v.toNat)

/-- The 1,024 bytes the window shows (R364): the selected record and the records after it in its area; 0 where the record was not
held. The bytes of a place overwritten since are free (log 3). -/
def State.olmWindow (s : State) : List Byte :=
  let q := s.raw OLMSEL []
  if s.flag OLMSTAT.found [] = false then List.replicate 1024 0
  else if s.olmHeld q then (((s.olmFrom q).take 64).flatMap OlmRec.bytes ++ List.replicate 1024 0).take 1024
  else leBytes 1024 (Config.freeNat s.fresh)

end Sys2Proof.Machine
end

