-- ==== Sys2Proof/Machine/Power.lean ====
section
/-!
DEFINITION. Supply, steps, ballast reference, droop, alerts and thermal limits (R365 to R374).
-/
namespace Sys2Proof.Machine

/-! ### Input power (R365, R366) -/

/-- A POWER record (R363): alert source, step before and after. Sources 0 ALERT_N, 1 PWRALERT_N, 2 a die's temperature, 3 the cap
unmet, 4 a long droop (log 28). -/
def State.powerRecord (s : State) (source before after : Nat) : State :=
  s.olmWrite 0x00C0 (item4 source ++ item4 before ++ item4 after)

/-- Samples the averaging window holds, one each 10 µs (R366). -/
def State.windowSamples (s : State) : Nat := s.rd PWRCAP.window [] * 10000

/-- A sample of input voltage and current, in 10 mV and 10 mA (R366): P10 and W follow, in W, over the samples held. -/
def execPowerSample (volts amps t : Nat) (s0 : State) : Host.Outcome State Fault Refusal :=
  let s := s0.upTo t
  let l := (volts * amps :: s.pwr.samples).take s.windowSamples
  let w := l.sum / (10000 * max 1 l.length)
  let s1 := { s with pwr := { s.pwr with samples := l } }
  .next ((((s1.wr PWRIN.volts [] (min volts 65535)).wr PWRIN.amps [] (min amps 65535)).wr PWRIN.p10 [] (min (volts * amps / 10000) 65535)).wr
    PWRIN.w [] (min w 65535))

/-- Input power has stayed above 5.4 kW for 1 ms: the converters assert ALERT_N (R366). -/
def execConverterOverload (t : Nat) (s0 : State) : Host.Outcome State Fault Refusal :=
  let s := s0.upTo t
  .next (s.wr PWRSTAT.alert_mod [] 1)

/-- The input lies below 44 V or above 59.5 V: the converters assert ALERT_N (R365). -/
def execInputOutOfRange (t : Nat) (s0 : State) : Host.Outcome State Fault Refusal :=
  let s := s0.upTo t
  .next (s.wr PWRSTAT.alert_mod [] 1)

/-! ### Steps in effect -/

/-- Compute dies that are present and not marked failed. -/
def State.liveDies (s : State) : List Nat :=
  (List.range 16).filter (fun n => s.hasDie n && !bitOf (s.rd FLTDIE.failed []) n)

/-- The voltage step of a die. -/
def State.setStep (s : State) (n v : Nat) : State := s.wr PWRDIE.step [n] v

/-- The pacer step of a die, in `PWRDIE` and in `BPACE` (R230, R367). -/
def State.setPacer (s : State) (n v : Nat) : State := (s.wr PWRDIE.pacer [n] v).wr BPACE.step [n] v

/-- `PWRSTAT.forced`: some die is forced (R372). -/
def State.putForced (s : State) : State :=
  s.wr PWRSTAT.forced [] (b2n ((List.range 16).any (fun n => s.flag PWRDIE.forced [n])))

/-- A running bulk job has a unit on the die (R367). -/
def State.bulkJobOn (s : State) (n : Nat) : Bool :=
  decide (2 ≤ s.rd DIESTAT.state [n]) && s.jobs.any (fun j => j.bulk && j.dies.contains n)

/-! ### Alerts (R372, R373, R374) -/

/-- One die goes to a forced step 0: what waited is discarded, the step before the alert kept (R371, R372). -/
def State.forceDie (s : State) (n : Nat) : State :=
  let p := s.pwr
  let keep := s.flag PWRDIE.forced [n] || p.rising.contains n
  let p1 := { p with holds := Sparse.erase p.holds n, rising := p.rising.filter (· != n)
                     before := if keep then p.before else Sparse.set 0 p.before n (s.rd PWRDIE.step [n] + 1) }
  let s1 := ((({ s with pwr := p1 }).setStep n 0).setPacer n 0).wr PWRDIE.forced [n] 1
  (List.range 4).foldl (fun a k => a.wr ABALLAST.level [n, k] 0) s1

/-- Highest step of a list of dies. -/
def State.highStep (s : State) (ns : List Nat) : Nat := greatestOf (ns.map (fun n => s.rd PWRDIE.step [n]))

/-- ALERT_N or PWRALERT_N asserts: every die is forced to step 0 (R372). -/
def execAlert (rack : Bool) (t : Nat) (s0 : State) : Host.Outcome State Fault Refusal :=
  let s := s0.upTo t
  let before := s.highStep s.liveDies
  let s1 := (s.wr (if rack then PWRSTAT.alert_rack else PWRSTAT.alert_mod) [] 1).wr PWRSTAT.alert_seen [] 1
  let s2 := s1.liveDies.foldl (fun a n => a.forceDie n) s1
  let s3 := { s2 with pwr := { s2.pwr with holdFrom := none } }
  .next (s3.putForced.powerRecord (b2n rack) before 0)

/-- An alert input deasserts, or a die's thermal alert ends (`die` the die): the hold starts where none is left (R373, R374). -/
def execAlertDeassert (rack : Bool) (die : Option Nat) (t : Nat) (s0 : State) : Host.Outcome State Fault Refusal :=
  let s := s0.upTo t
  match die with
  | some n =>
    if s.pwr.thermDies.contains n then .next { s with pwr := { s.pwr with thermHold := Sparse.set 0 s.pwr.thermHold n (s.now + 1) } } else .next s
  | none =>
    let s1 := s.wr (if rack then PWRSTAT.alert_rack else PWRSTAT.alert_mod) [] 0
    let clear := !s1.flag PWRSTAT.alert_rack [] && !s1.flag PWRSTAT.alert_mod []
    .next { s1 with pwr := { s1.pwr with holdFrom := if clear then some s1.now else none } }

/-- `PWRSLOPE.alert_hold`, ps. -/
def State.alertHold (s : State) : Nat := s.rd PWRSLOPE.alert_hold [] * 100000000

/-- A die begins to rise back (R373). -/
def State.riseDie (s : State) (n : Nat) : State :=
  ({ s with pwr := { s.pwr with rising := s.pwr.rising ++ [n] } }).wr PWRDIE.forced [n] 0

/-- The hold has run: recovery of the dies begins, and of dies whose thermal alert ended (R373, R374). -/
def execAlertRecovery (t : Nat) (s0 : State) : Host.Outcome State Fault Refusal :=
  let s := s0.upTo t
  let inputs := s.flag PWRSTAT.alert_rack [] || s.flag PWRSTAT.alert_mod []
  let module := !inputs && (match s.pwr.holdFrom with | some u => decide (u + s.alertHold ≤ s.now) | none => false)
  let ended := s.pwr.thermDies.filter (fun n =>
    Sparse.get 0 s.pwr.thermHold n != 0 && decide (Sparse.get 0 s.pwr.thermHold n + s.alertHold ≤ s.now + 1))
  let s1 := { s with pwr := { s.pwr with
    thermDies := s.pwr.thermDies.filter (fun n => !ended.contains n)
    thermHold := s.pwr.thermHold.filter (fun p => !ended.contains p.1)
    holdFrom := if module then none else s.pwr.holdFrom } }
  let moduleHeld := inputs || s1.pwr.holdFrom.isSome
  let free := if moduleHeld then [] else (List.range 16).filter (fun n => s1.flag PWRDIE.forced [n] && !s1.pwr.thermDies.contains n)
  .next (free.foldl (fun a n => a.riseDie n) s1).putForced

/-- A die reaches 110 °C: it is forced to step 0 (R374). -/
def execThermalAlert (n tj t : Nat) (s0 : State) : Host.Outcome State Fault Refusal :=
  let s := s0.upTo t
  if tj < 110 ∨ s.hasDie n = false then .next s
  else
    let before := s.rd PWRDIE.step [n]
    let s1 := ((((s.wr PWRDIE.tj [n] (min tj 255)).wr PWRDIE.throttle [n] 1).wr PWRDIE.therm_limit [n] 1).wr PWRSTAT.therm_seen [] 1).wr
      PWRSTAT.alert_seen [] 1
    let s2 := s1.forceDie n
    let s3 := { s2 with pwr := { s2.pwr with thermDies := n :: s2.pwr.thermDies.filter (· != n), thermHold := Sparse.erase s2.pwr.thermHold n } }
    .next (s3.putForced.powerRecord 2 before 0)

/-! ### Droop (R370, R371) -/

/-- A droop sensor reads out of band (R370). -/
def execDroop (n t : Nat) (s0 : State) : Host.Outcome State Fault Refusal :=
  let s := s0.upTo t
  if s.flag PWRDIE.droop [n] = true ∨ s.hasDie n = false then .next s
  else .next ((((({ s with pwr := { s.pwr with droopAt := Sparse.set 0 s.pwr.droopAt n (s.now + 1), bandAt := Sparse.erase s.pwr.bandAt n } }).wr PWRDIE.droop [n] 1).bump PWRDCNT.droops [n])).wr
    BPACE.paused [n] 1)

/-- Every sensor of the die reads in band (R370). -/
def execDroopClear (n t : Nat) (s0 : State) : Host.Outcome State Fault Refusal :=
  let s := s0.upTo t
  if s.flag PWRDIE.droop [n] then
    .next ((({ s with pwr := { s.pwr with droopAt := Sparse.erase s.pwr.droopAt n, bandAt := Sparse.set 0 s.pwr.bandAt n (s.now + 1) } }).wr PWRDIE.droop [n] 0).wr BPACE.paused [n] 0)
  else .next s

/-- A droop flag has stayed set for 10 µs (R370). -/
def execDroopLong (n t : Nat) (s0 : State) : Host.Outcome State Fault Refusal :=
  let s := s0.upTo t
  let u := Sparse.get 0 s.pwr.droopAt n
  if s.flag PWRDIE.droop [n] = true ∧ u ≠ 0 ∧ u + 10000000 ≤ s.now + 1 then
    .next ((((s.bump PWRDCNT.long [n]).wr PWRSTAT.droop_long [] 1)).powerRecord 4 (s.rd PWRDIE.step [n]) (s.rd PWRDIE.step [n]))
  else .next s

/-- The rail of a die may take a held change: no droop, and 200 ns in band since the last (R371). -/
def State.inBand (s : State) (n : Nat) : Bool :=
  !s.flag PWRDIE.droop [n] && decide (Sparse.get 0 s.pwr.bandAt n = 0 ∨ Sparse.get 0 s.pwr.bandAt n + 200000 ≤ s.now + 1)

/-- A change held at a die applies: the voltage step first, the pacer step once the rail has reached it (R371). -/
def execDroopSettled (n t : Nat) (s0 : State) : Host.Outcome State Fault Refusal :=
  let s := s0.upTo t
  let h := Sparse.get {} s.pwr.holds n
  if s.inBand n = false then .next s
  else
    match h.step, h.pacer with
    | some v, p => .next (({ s with pwr := { s.pwr with holds := Sparse.set {} s.pwr.holds n { step := none, pacer := p } } }).setStep n v)
    | none, some p => .next (({ s with pwr := { s.pwr with holds := Sparse.erase s.pwr.holds n } }).setPacer n p)
    | none, none => .next s

/-! ### The slope interval (R368, R369, R374) -/

/-- What one interval makes of a die's steps (R368): voltage step, pacer step, and whether the cap is unmet. -/
def slopeRule (excess low bulk unmet : Bool) (v p req maxp : Nat) : Nat × Nat × Bool :=
  let (v1, p1, u) :=
    if excess then
      if 0 < p then (v, p - 1, false) else if 4 < v then (v - 1, p, false) else (v, p, unmet)
    else if low then (if v < req then v + 1 else v, if bulk && decide (p < maxp) then p + 1 else p, false)
    else (v, p, false)
  (if v1 = v ∧ req < v then v - 1 else v1, if p1 = p ∧ maxp < p then p - 1 else p1, u)

/-- Changes due at a die: applied, or held in a droop; a pacer change follows a voltage change (R371). -/
def State.changeSteps (s : State) (n v p : Nat) : State :=
  let dv := decide (v ≠ s.rd PWRDIE.step [n])
  let dp := decide (p ≠ s.rd PWRDIE.pacer [n])
  let hold := fun (a : State) (h : StepHold) => { a with pwr := { a.pwr with holds := Sparse.set {} a.pwr.holds n h } }
  if s.inBand n = false then hold s { step := if dv then some v else none, pacer := if dp then some p else none }
  else if dv && dp then hold (s.setStep n v) { step := none, pacer := some p }
  else (if dv then s.setStep n v else s) |> (fun a => if dp then a.setPacer n p else a)

/-- One die at a slope interval (R368, R373, R374). -/
def State.slopeDie (s0 : State) (n tj : Nat) : State :=
  let hot := decide (s0.rd PWRTHERM.throttle [] ≤ tj)
  let limit := decide (s0.rd PWRTHERM.limit [] ≤ tj)
  let s1 := ((s0.wr PWRDIE.tj [n] (min tj 255)).wr PWRDIE.throttle [n] (b2n hot)).wr PWRDIE.therm_limit [n] (b2n limit)
  let s := if limit then s1.wr PWRSTAT.therm_seen [] 1 else s1
  let h := Sparse.get {} s.pwr.holds n
  if s.flag PWRDIE.forced [n] = true ∨ h ≠ {} then s
  else
    let v := s.rd PWRDIE.step [n]
    let p := s.rd PWRDIE.pacer [n]
    let req := s.rd PWRDIE.req_step [n]
    let bulk := s.bulkJobOn n
    let maxp := if bulk then s.rd PWRDIE.max_pacer [n] else 0
    let w := s.rd PWRIN.w []
    let p10 := s.rd PWRIN.p10 []
    let cap := s.rd PWRCAP.cap [] * 10
    let margin := s.rd PWRCAP.margin [] * 20
    let guard := s.rd PWRCAP.peak_guard [] * 10
    let unmet := decide (cap < w + margin)
    let excess := unmet || decide (guard < p10) || hot
    let low := decide (w + 2 * margin < cap) && decide (p10 < guard)
    if s.pwr.rising.contains n then
      let goal := min (Sparse.get 0 s.pwr.before n - 1) req
      if goal ≤ v then
        { s with pwr := { s.pwr with rising := s.pwr.rising.filter (· != n), before := Sparse.erase s.pwr.before n } }
      else if low && !excess then s.changeSteps n (v + 1) p else s
    else if limit then s.changeSteps n (if 4 < v then v - 1 else v) 0
    else
      let (v1, p1, u) := slopeRule excess low bulk unmet v p req maxp
      let s2 := s.changeSteps n v1 p1
      if u then (s2.wr PWRSTAT.cap_unmet [] 1).powerRecord 3 v v else s2

/-- The reference of an array at a slope interval (R369). -/
def State.slopeArray (s : State) (n a : Nat) : State :=
  let k := key2 n a
  let r := max (Sparse.get 0 s.pwr.winMax k) (Sparse.get 0 s.pwr.ra k - 1)
  { s with pwr := { s.pwr with ra := Sparse.set 0 s.pwr.ra k r, winMax := Sparse.erase s.pwr.winMax k } }

/-- Every die and array at a slope interval; `tj` the junction temperatures reported by die (R368, R369, R374). -/
def State.slope (s : State) (tj : List Nat) : State :=
  let s1 := s.liveDies.foldl (fun a n => a.slopeDie n (tj.getD n (a.rd PWRDIE.tj [n]))) s
  s1.liveDies.foldl (fun a n => (List.range 4).foldl (fun b k => b.slopeArray n k) a) s1

/-- A slope interval ends (R368): the train runs from module reset, each interval of the length in effect at the end before it. -/
def execSlopeInterval (tj : List Nat) (s0 : State) : Host.Outcome State Fault Refusal :=
  let t := s0.pwr.slopeNext
  let s := s0.upTo t
  let s1 := s.slope tj
  .next { s1 with pwr := { s1.pwr with slopeNext := t + s1.rd PWRSLOPE.interval [] * 100000 } }

end Sys2Proof.Machine
end

