-- ==== Sys2Proof/Machine/Links.lean ====
section
/-!
DEFINITION. Optical engines and lanes, bulk Ethernet ports, the 10BASE-T1S port and the host link (R304 to R324).
-/
namespace Sys2Proof.Machine

/-! ### Lasers and glowworms (R306, R307) -/

/-- Glowworms present on the module. -/
def State.glows (s : State) : List Nat := (List.range 8).filter (fun e => bitOf s.fit.glow e)

/-- A lane loses its light: its port block loses lock (R307, R308). -/
def State.laneDark (s : State) (e k : Nat) : State :=
  let s1 := (s.wr LSTAT.signal [e, k] 0).wr LSTAT.cdr_lock [e, k] 0
  let s2 := if s.flag LSTAT.cdr_lock [e, k] then s1.wr LSTAT.lock_lost [e, k] 1 else s1
  s2.lockLost (2 * e + k / 16) (k % 16)

/-- A glowworm is marked failed: its lanes go dark, and the module leaves the ring where it carries it (R307, R378). -/
def State.glowLost (s : State) (e : Nat) : State :=
  if s.flag GWSTAT.failed [e] then s
  else
    let s1 := (s.wr GWSTAT.failed [e] 1).fltFailed 0xF2 0 3 2 e
    let s2 := (List.range 32).foldl (fun a k => a.laneDark e k) s1
    if (s2.ringPort (2 * e + 1) 14).isSome then s2.wr TSTAT.locked [] 0 else s2

/-- A glowworm's control path fails, or all its receive lanes go dark while their peers transmit (R307). -/
def execGlowwormFailure (e t : Nat) (s0 : State) : Host.Outcome State Fault Refusal :=
  let s := s0.upTo t
  .next (if bitOf s.fit.glow e then s.glowLost e else s)

/-- A laser die (0 A, 1 B) has stayed below 30 % for 500 ns: it is marked failed and switched off; without either, every glowworm is
lost (R306, R378, R379). -/
def State.laserLost (s : State) (l : Nat) : State :=
  let mine := if l = 0 then GWLASER.a_failed else GWLASER.b_failed
  let power := if l = 0 then GWLASER.power_a else GWLASER.power_b
  let other := if l = 0 then GWLASER.b_failed else GWLASER.a_failed
  if s.glows.any (fun e => s.flag mine [e]) then s
  else
    let both := s.glows.any (fun e => s.flag other [e])
    let s1 := s.fltFailed 0xF3 0 3 (if both then 2 else 1) l
    let s2 := s1.glows.foldl (fun a e => (a.wr mine [e] 1).wr power [e] 0) s1
    if both then s2.glows.foldl (fun a e => a.glowLost e) s2 else s2

/-- A laser die fails (R306). -/
def execLaserFailure (l t : Nat) (s0 : State) : Host.Outcome State Fault Refusal := .next ((s0.upTo t).laserLost l)

/-! ### Lanes (R308 to R311) -/

/-- A lane loses CDR lock; training runs again (R308). -/
def execCdrLockLoss (e k t : Nat) (s0 : State) : Host.Outcome State Fault Refusal :=
  let s := s0.upTo t
  .next (if s.flag LSTAT.cdr_lock [e, k] then (s.wr LSTAT.cdr_lock [e, k] 0).wr LSTAT.lock_lost [e, k] 1 else s)

/-- A lane locks (R308): training picked `best`, which applies with `adapt`; `oma` the received power, in 0.01 dBm. -/
def State.laneLock (s : State) (e k best oma : Nat) : State :=
  (((s.wr LSTAT.signal [e, k] 1).wr LSTAT.cdr_lock [e, k] 1).wr LSTAT.peaking_now [e, k]
    (if s.flag LCFG.adapt [e, k] then best else s.rd LCFG.peaking [e, k])).wr LOPT.rx_oma [e, k] oma

/-- Light reaches a lane or returns, training completes and the CDR locks (R308). -/
def execCdrLock (e k best oma t : Nat) (s0 : State) : Host.Outcome State Fault Refusal :=
  let s := s0.upTo t
  .next (if bitOf s.fit.glow e && !s.flag GWSTAT.failed [e] then s.laneLock e k best oma else s)

/-- The pattern checker has predicted 64 bits in a row (R310). -/
def execPrbsLock (e k t : Nat) (s0 : State) : Host.Outcome State Fault Refusal :=
  let s := s0.upTo t
  .next (if s.rd LCFG.prbs_rx [e, k] = 0 then s else s.wr LSTAT.prbs_lock [e, k] 1)

/-- The checker has seen 64 errors within 1,024 bits: it drops lock; `bits` and `errs` are what it counted while locked, and are kept
(R310). -/
def execPrbsLockLoss (e k bits errs t : Nat) (s0 : State) : Host.Outcome State Fault Refusal :=
  let s := s0.upTo t
  if s.flag LSTAT.prbs_lock [e, k] then
    .next (((s.wr LSTAT.prbs_lock [e, k] 0).addWrap LPRBSBITS.bits [e, k] bits).add LPRBSERR.errors [e, k] errs)
  else .next s

/-- Key of a lane. -/
def laneKey (e k : Nat) : Nat := e * 32 + k

/-- A running injection ends (R311). -/
def State.injectEnd (s : State) (e k : Nat) : State :=
  ({ s with injects := Sparse.erase s.injects (laneKey e k) }).wr LINJ.busy [e, k] 0

/-- A write to `LINJ` (R311): with `go` while busy it is ignored; kind 0 ends a run; `go` starts one. -/
def State.writeLinj (s : State) (e k : Nat) (v : W64) : State :=
  let kind := v.toNat % 4
  let go := bitOf v.toNat 51
  let spacing := bitsOf v.toNat 26 16
  let offset := bitsOf v.toNat 42 9
  if spacing = 0 ∨ 271 < offset then s
  else if kind ≠ 0 ∧ go = true ∧ s.flag LINJ.busy [e, k] = true then s
  else
    let s1 := s.setRaw LINJ [e, k] (v.toNat % 2 ^ 51 + s.rd LINJ.busy [e, k] * 2 ^ 52)
    if kind = 0 then s1.injectEnd e k
    else if go then
      let n := s1.rd LINJ.count [e, k]
      ({ s1 with injects := Sparse.insert s1.injects (laneKey e k) { left := if n = 0 then none else some n } }).wr LINJ.busy [e, k] 1
    else s1

/-- `LINJ.go` (R311): `v` is the word written. -/
def execLinjGo (e k : Nat) (v : W64) (s : State) : Host.Outcome State Fault Refusal :=
  .next (if bitOf v.toNat 51 then s.writeLinj e k v else s)

/-- Writing kind 0 ends a running injection at once (R311). -/
def execLinjStop (e k : Nat) (v : W64) (s : State) : Host.Outcome State Fault Refusal :=
  .next (if v.toNat % 4 = 0 then s.writeLinj e k v else s)

/-- The spacing count expires: one injection is made (R311). -/
def execInjection (e k t : Nat) (s0 : State) : Host.Outcome State Fault Refusal :=
  let s := s0.upTo t
  match Sparse.find s.injects (laneKey e k) with
  | none => .next s
  | some x =>
    let kind := s.rd LINJ.kind [e, k]
    let par := if kind = 3 then s.rd LINJ.symbol [e, k] else if kind = 2 then s.rd LINJ.length [e, k] + 1 else 1
    let s1 := (s.bump LINJCNT.made [e, k]).emit (.inject e k kind par)
    match x.left with
    | none => .next s1
    | some 1 => .next (s1.injectEnd e k)
    | some m => .next { s1 with injects := Sparse.insert s1.injects (laneKey e k) { left := some (m - 1) } }

/-! ### Bulk Ethernet: receiving (R312 to R316) -/

def State.mac (s : State) (n i : Nat) : Mac := Sparse.get {} s.macs (key2 n i)
def State.setMac (s : State) (n i : Nat) (x : Mac) : State := { s with macs := Sparse.set {} s.macs (key2 n i) x }
def Mac.ring (x : Mac) (q : Nat) : RxRing := Sparse.get {} x.rings q
def Mac.setRing (x : Mac) (q : Nat) (r : RxRing) : Mac := { x with rings := Sparse.set {} x.rings q r }
def Mac.tx (x : Mac) (q : Nat) : TxQueue := Sparse.get {} x.txq q
def Mac.setTx (x : Mac) (q : Nat) (r : TxQueue) : Mac := { x with txq := Sparse.set {} x.txq q r }

/-- Port block `i` is the first of a bulk Ethernet port (R312). -/
def State.bulkEth (s : State) (n i : Nat) : Bool :=
  s.fit.ethMac && s.rd PCFG.mode [n, i] == 2 && !s.portPrompt n i

/-- A big-endian number of bytes, as Ethernet writes its fields. -/
def beNat (bs : List Byte) : Nat := leNat bs.reverse

/-- 512 bit times of a port, ps (R316, R317). -/
def State.quantumPs (s : State) (n i : Nat) : Nat := 2560 / s.portLanes n i

/-- Cells of 256 bytes a frame takes (R316). -/
def MacFrame.cells (f : MacFrame) : Nat := (f.bytes.length + 255) / 256

/-- Cells in use, of all queues or of those with a priority (R316). -/
def State.macCells (s : State) (n i : Nat) (prio : Option Nat) : Nat :=
  (((s.mac n i).frames.filter (fun f => match prio with | none => true | some p => s.rd MRQ.prio [n, i, f.queue] == p)).map MacFrame.cells).sum

/-- The port may send flow control again: 512 bit times have passed since the last (R316). -/
def State.pauseFree (s : State) (n i : Nat) : Bool :=
  (s.mac n i).pauseAt == 0 || decide ((s.mac n i).pauseAt + s.quantumPs n i ≤ s.now + 1)

/-- A pause frame leaves. -/
def State.sendPause (s : State) (n i : Nat) (plain : Bool) (qs : List (Nat × Nat)) : State :=
  if qs.isEmpty then s
  else ((s.setMac n i { s.mac n i with pauseAt := s.now + 1 }).bump MCNT_PAUSETX.count [n, i]).emit (.pause n i plain qs)

/-- What one priority's occupancy asks for: whether pause is asserted, and whether that changed (R316). -/
def State.pauseWant (s : State) (n i occ : Nat) (on : Bool) : Bool :=
  if on then decide (s.rd MWM.low [n, i] ≤ occ) else decide (s.rd MWM.high [n, i] ≤ occ)

/-- Occupancy is compared with the watermarks; changes go out in one frame (R316). -/
def State.macFlow (s0 : State) (n i : Nat) : State :=
  let s := s0.wr MOCC.cells [n, i] (s0.macCells n i none)
  let quanta := s.rd MACPAUSE.quanta [n / 4]
  if s.pauseFree n i = false then s
  else
    match s.rd MCFG.fc [n, i] with
    | 1 =>
      let on := s.rd MOCC.pausing [n, i] != 0
      let want := s.pauseWant n i (s.macCells n i none) on
      if on = want then s
      else (s.wr MOCC.pausing [n, i] (if want then 255 else 0)).sendPause n i true [(0, if want then quanta else 0)]
    | 2 =>
      let mask := s.rd MOCC.pausing [n, i]
      let ps := (List.range 8).filter (fun p => bitOf (s.rd MCFG.pfc_mask [n, i]) p &&
        s.pauseWant n i (s.macCells n i (some p)) (bitOf mask p) != bitOf mask p)
      let mask1 := ps.foldl (fun m p => setBits m p 1 (b2n (!bitOf mask p))) mask
      (s.wr MOCC.pausing [n, i] mask1).sendPause n i false (ps.map (fun p => (p, if bitOf mask p then 0 else quanta)))
    | _ => s

/-- The refresh interval expires: PAUSE is repeated while occupancy stays at or above `low` (R316). -/
def execPauseRefresh (n i t : Nat) (s0 : State) : Host.Outcome State Fault Refusal :=
  let s := (s0.upTo t).macFlow n i
  let quanta := s.rd MACPAUSE.quanta [n / 4]
  let mask := s.rd MOCC.pausing [n, i]
  if s.pauseFree n i = false ∨ mask = 0 then .next s
  else if s.rd MCFG.fc [n, i] = 1 then .next (s.sendPause n i true [(0, quanta)])
  else .next (s.sendPause n i false (((List.range 8).filter (fun p => bitOf mask p)).map (fun p => (p, quanta))))

/-- The tags of a frame and its EtherType (R314): VID and PCP of an outer tag, one further 0x8100 tag skipped. -/
def frameTags (bs : List Byte) : Option (Nat × Nat) × Nat :=
  let f := fun a => beNat ((bs.drop a).take 2)
  if f 12 = 0x8100 ∨ f 12 = 0x88A8 then
    (some (f 14 % 4096, f 14 / 8192), if f 16 = 0x8100 then f 20 else f 16)
  else (none, f 12)

/-- A rule of `MFILT` matches (R314). -/
def State.filterHit (s : State) (n i r : Nat) (tag : Option (Nat × Nat)) (et : Nat) : Bool :=
  let x := [n, i, r]
  let pcp := match tag with | some (_, p) => p | none => s.rd MCFG.untagged_pcp [n, i]
  s.flag MFILT.valid x &&
    (!s.flag MFILT.vid_en x || (match tag with | some (v, _) => v == s.rd MFILT.vid x | none => false)) &&
    (!s.flag MFILT.pcp_en x || pcp == s.rd MFILT.pcp x) && (!s.flag MFILT.et_en x || et == s.rd MFILT.ethertype x)

/-- The queue a frame is steered to; none where a rule drops it (R314). -/
def State.steerFrame (s : State) (n i : Nat) (bs : List Byte) : Option Nat :=
  let (tag, et) := frameTags bs
  match (List.range 16).find? (fun r => s.filterHit n i r tag et) with
  | some r => if s.flag MFILT.drop [n, i, r] then none else some (s.rd MFILT.queue [n, i, r])
  | none => some (s.rd MCFG.default_q [n, i])

/-- A frame is PTP: EtherType 0x88F7, or UDP over IPv4 to port 319 or 320 (R313). -/
def isPtp (bs : List Byte) : Bool :=
  let (tag, et) := frameTags bs
  let l3 := match tag with | none => 14 | some _ => if beNat ((bs.drop 16).take 2) = 0x8100 then 22 else 18
  let ihl := (bs.getD l3 0).toNat % 16 * 4
  let port := beNat ((bs.drop (l3 + ihl + 2)).take 2)
  et == 0x88F7 || (et == 0x0800 && (bs.getD (l3 + 9) 0).toNat == 17 && (port == 319 || port == 320))

/-- A destination address is accepted (R313): the bits of an address register are its octets, the first the most significant (log 29). -/
def addressOk (own : Nat) (mcast promisc : Bool) (bs : List Byte) : Bool :=
  let da := beNat (bs.take 6)
  da == own || da == 2 ^ 48 - 1 || (bitOf (da / 2 ^ 40) 0 && mcast) || promisc

/-- The port the PTP clock runs on is this one (R268, R313). -/
def State.ptpPort (s : State) (n i : Nat) : Bool := s.rd TPTP.port [] == 16 * n + i

/-- A bulk port's frame goes to the two taps, the first 16 KiB of it (R18, R183). -/
def State.tapBulk (s : State) (n i : Nat) (bytes : List Byte) (failed : Bool) (first t : Nat) : State :=
  let tap : Tap := { die := n, port := i, bytes := bytes.take portBuffer, beat := none, failed, excess := decide (portBuffer < bytes.length),
                     first, last := t }
  { s with histTap := s.histTap ++ [.frame tap], acqTap := s.acqTap ++ [tap] }

/-- A bulk Ethernet frame has come in whole, its FCS included, its first byte at `first`, ps; `err` marks a PCS error (R312 to R316). -/
def execMacReceive (n i : Nat) (bytes : List Byte) (err : Bool) (first t : Nat) (s0 : State) : Host.Outcome State Fault Refusal :=
  let len := bytes.length
  let bad := err || bytes.foldl crcByte 0xFFFFFFFF != crcResidue
  let s := if (s0.upTo t).bulkEth n i then (s0.upTo t).tapBulk n i bytes bad first t else s0.upTo t
  if s.bulkEth n i = false then .next s
  else if len < 64 ∨ 9216 < len then .next (s.bump MCNT_SIZE.count [n, i])
  else if bad = true then .next (s.bump MCNT_FCS.count [n, i])
  else if addressOk (s.raw MACADDR [n / 4, 16 * (n % 4) + i]) (s.flag MCFG.mcast [n, i]) (s.flag MCFG.promisc [n, i]) bytes = false then
    .next (s.bump MCNT_FILTERED.count [n, i])
  else if (frameTags bytes).2 = 0x8808 ∨ (s.ptpPort n i = true ∧ isPtp bytes = true) then .next s
  else
    match s.steerFrame n i bytes with
    | none => .next (s.bump MCNT_FILTERED.count [n, i])
    | some q =>
      let f : MacFrame := { queue := q, bytes, at_ := first }
      if s.flag MRQ.enable [n, i, q] = false then .next (s.bump MCNT_FILTERED.count [n, i])
      else if 256 * s.portLanes n i < s.macCells n i none + f.cells then .next (s.bump MCNT_NOMEM.count [n, i])
      else .next ((s.setMac n i { s.mac n i with frames := (s.mac n i).frames ++ [f] }).macFlow n i)

/-- A ring region of a port's die by its id (R315). -/
def State.regionOf (s : State) (n id : Nat) : Option Region := (s.die n).regions.find? (fun r => r.id == id)

/-- Bytes written into a region's tier. -/
def State.regionPut (s : State) (n : Nat) (r : Region) (off : Nat) (bs : List Byte) : State :=
  if r.tier = 2 then { s with tier2 := Sparse.setBytes s.tier2 (r.base + off) bs }
  else s.setTier1 n (Sparse.setBytes (s.tier1 n) (r.base + off) bs)

/-- A notify of a receive or transmit queue leaves on a credit, or waits merged (R315, R318). -/
def State.macNotify (s : State) (e : Edge) (addr index : Nat) (n : Nat) (data : W64) (status : BitVec 4) : Option State :=
  if s.creditOf e = 0 then none
  else some (s.sendOut e { data, addr := BitVec.ofNat 28 addr, index, epoch := (s.die n).bulkEpoch, status })

/-- A receive queue's notify with its newest sequence number (R315). -/
def State.rxNotify (s : State) (n i q : Nat) : State :=
  let x := s.mac n i
  let r := x.ring q
  match s.macNotify (.mac n i q false) (s.rd MRQ.notify [n, i, q]) (s.rd MRQ.index [n, i, q]) n (BitVec.ofNat 64 ((r.seq - 1) % 2 ^ 48)) 0 with
  | some s1 => s1.setMac n i (x.setRing q { r with notify := false })
  | none => s.setMac n i (x.setRing q { r with notify := true })

/-- The first waiting frame of a queue, and the others. -/
def takeFrame (q : Nat) : List MacFrame → Option (MacFrame × List MacFrame)
  | [] => none
  | f :: fs => if f.queue = q then some (f, fs) else (takeFrame q fs).map (fun p => (p.1, f :: p.2))

/-- A receive queue writes its oldest frame's record where the ring has room, and notifies (R315, R316). -/
def execReceiveRecord (n i q t : Nat) (s0 : State) : Host.Outcome State Fault Refusal :=
  let s := s0.upTo t
  let x := s.mac n i
  match takeFrame q x.frames, s.regionOf n (s.rd MRQ.region [n, i, q]) with
  | some (f, rest), some g =>
    let r := x.ring q
    let p := r.written % max 1 g.size
    let body := fun seq => histRecord 0 i true false false 0 (s.rd GEPOCH.epoch [n]) 0 (f.at_ / vernierPs) seq f.bytes
    let len := (body 0).length
    let gap := g.size - p
    let pad := decide (gap < len)
    let need := if pad then gap + len else len
    if g.size < (r.held.map (·.2)).sum + need then .next s
    else
      let s1 := if pad then
          s.regionPut n g p (histRecord 2 i false false false 0 (s.rd GEPOCH.epoch [n]) 0 (f.at_ / vernierPs) r.seq (List.replicate (gap - 40) 0))
        else s
      let seq := if pad then r.seq + 1 else r.seq
      let s2 := s1.regionPut n g (if pad then 0 else p) (body seq)
      let r1 : RxRing := { r with seq := seq + 1, written := r.written + need, held := r.held ++ [(seq, need)] }
      let s3 := ((s2.setMac n i ({ x with frames := rest }.setRing q r1)).setRaw MRQSEQ [n, i, q] ((seq + 1) % 2 ^ 48)).addWrap MCNT_RX.count [n, i] 1
      .next ((s3.rxNotify n i q).macFlow n i)
  | _, _ => .next s

/-- A release token frees a queue's records up to a sequence number (R315). -/
def execReceiveRelease (n i : Nat) (f : Flit) (t : Nat) (s0 : State) : Host.Outcome State Fault Refusal :=
  let s := ((s0.upTo t).arrive (.port n i) f).owe f.edge
  let q := f.tok.data.toNat % 16
  let seq := bitsOf f.tok.data.toNat 16 48
  let x := s.mac n i
  let r := x.ring q
  if f.tok.kind ≠ 0 ∨ f.tok.epoch ≠ (s.die n).bulkEpoch then .next s
  else if r.seq ≤ seq ∨ bitsOf f.tok.data.toNat 4 12 ≠ 0 then .next (s.bump MCNT_RELERR.count [n, i])
  else .next (s.setMac n i (x.setRing q { r with held := r.held.filter (fun p => decide (seq < p.1)) }))

/-! ### Bulk Ethernet: sending (R317, R318) -/

/-- A received PAUSE (`plain`) or per-priority pause stops transmit queues for its quanta; quanta 0 lets them go on (R317). -/
def execPauseReceived (n i : Nat) (plain : Bool) (quanta : List (Nat × Nat)) (t : Nat) (s0 : State) : Host.Outcome State Fault Refusal :=
  let s := s0.upTo t
  if s.bulkEth n i = false then .next s
  else
    let s1 := s.bump MCNT_PAUSERX.count [n, i]
    if s1.flag MCFG.pause_rx [n, i] = false then .next s1
    else
      let qs := if plain then (match quanta with | [] => [] | (_, v) :: _ => (List.range 8).map (fun p => (p, v))) else quanta
      let x := s1.mac n i
      let until_ := qs.foldl (fun m p => Sparse.set 0 m p.1 (if p.2 = 0 then 0 else s1.now + p.2 * s1.quantumPs n i)) x.pausedTo
      .next ((s1.setMac n i { x with pausedTo := until_ }).wr MOCC.paused [n, i]
        ((List.range 8).foldl (fun m p => m + (if Sparse.get 0 until_ p = 0 then 0 else 2 ^ p)) 0))

/-- A received pause's quanta have run out for queue `q` (R317). -/
def execPauseExpiry (n i q : Nat) (s0 : State) : Host.Outcome State Fault Refusal :=
  let u := Sparse.get 0 (s0.mac n i).pausedTo q
  if u = 0 then .next s0
  else
    let s := s0.upTo u
    let x := s.mac n i
    .next ((s.setMac n i { x with pausedTo := Sparse.erase x.pausedTo q }).wr MOCC.paused [n, i] (setBits (s.rd MOCC.paused [n, i]) q 1 0))

/-- A token queues a frame descriptor on a transmit queue (R318). -/
def State.transmitToken (s0 : State) (n i : Nat) (f : Flit) (t : Nat) : State :=
  let s := (s0.upTo t).arrive (.port n i) f
  let q := f.tok.index
  let x := s.mac n i
  let u := x.tx q
  if f.tok.kind = 3 then s
  else if 7 < q ∨ f.tok.epoch ≠ (s.die n).bulkEpoch ∨ s.flag MTQ.enable [n, i, q] = false ∨ 64 ≤ u.toks.length then (s.owe f.edge)
  else (s.setMac n i (x.setTx q { u with toks := u.toks ++ [f] }))

/-- A token reaches a bulk port block (R318). -/
def execTransmitToken (n i : Nat) (f : Flit) (t : Nat) (s0 : State) : Host.Outcome State Fault Refusal := .next (s0.transmitToken n i f t)

/-- A transmit queue's notify with its frame count (R318). -/
def State.txNotify (s : State) (n i q : Nat) (fault : Bool) : State :=
  let x := s.mac n i
  let u := x.tx q
  let flt := fault || u.notify == some true
  match s.macNotify (.mac n i q true) (s.rd MTQ.notify [n, i, q]) (s.rd MTQ.index [n, i, q]) n (BitVec.ofNat 64 (u.sent % 2 ^ 32))
      (if flt then stFault else 0) with
  | some s1 => s1.setMac n i (x.setTx q { u with notify := none })
  | none => s.setMac n i (x.setTx q { u with notify := some flt })

/-- `len` bytes of a space where they lie whole in one region of the image (R318, R222); space 0 is the die's tier 1. -/
def State.spaceBytes (s : State) (n : Nat) (tier2 : Bool) (a len : Nat) : Option (List Byte) :=
  let tier := if tier2 then 2 else 1
  if (s.die n).regions.any (fun r => r.tier == tier && decide (r.base ≤ a) && decide (a + len ≤ r.base + r.size)) then
    some (Sparse.getBytes (if tier2 then s.tier2 else s.tier1 n) a len)
  else none

/-- The frame a transmit descriptor names, and its timestamp request (R318): none where the table is broken. -/
def State.txDesc (s : State) (n : Nat) (data : W64) : Option (List Byte) × Option Nat :=
  let a := data.toNat
  if a % 16 ≠ 0 then (none, none)
  else
    match s.spaceBytes n (bitOf a 63) (a % 2 ^ 63) 16 with
    | none => (none, none)
    | some d =>
      let w0 := leNat (d.take 8)
      let w1 := leNat (d.drop 8)
      let len := bitsOf w1 0 14
      let ts := if bitOf w1 14 then some (bitsOf w1 15 8) else none
      if len < 60 ∨ 9212 < len ∨ bitsOf w1 23 41 ≠ 0 then (none, ts)
      else (s.spaceBytes n (bitOf w0 63) (w0 % 2 ^ 63) len, ts)

/-- The transmit queue a port serves next: 7 down to 0, paused queues skipped (R317). -/
def State.txPick (s : State) (n i : Nat) : Option Nat :=
  [7, 6, 5, 4, 3, 2, 1, 0].find? (fun q => !((s.mac n i).tx q).toks.isEmpty && !bitOf (s.rd MOCC.paused [n, i]) q)

/-- A bulk frame has been sent, its first bit after the start frame delimiter at `first`, ps; or its descriptor is refused (R317, R318, R269). -/
def execFrameSent (n i first t : Nat) (s0 : State) : Host.Outcome State Fault Refusal :=
  let s := s0.upTo t
  match s.bulkEth n i, s.txPick n i with
  | true, some q =>
    let x := s.mac n i
    let u := x.tx q
    match u.toks with
    | [] => .next s
    | f :: rest =>
      let s1 := (s.setMac n i (x.setTx q { u with toks := rest })).owe f.edge
      match s.txDesc n f.tok.data with
      | (some bytes, ts) =>
        let s2 := (s1.emit (.ethernet n i (bytes ++ leBytes 4 (crc32 bytes).toNat))).addWrap MCNT_TX.count [n, i] 1
        let y := s2.mac n i
        let s3 := s2.setMac n i (y.setTx q { y.tx q with sent := u.sent + 1 })
        let s4 := match ts with | some id => s3.txStamp (key2 n i) { time := s3.domainAt first, id, nosend := false } | none => s3
        .next (s4.txNotify n i q false)
      | (none, ts) =>
        let s2 := (s1.bump MCNT_TXERR.count [n, i]).fltNote 0x0A n i 12 true
        let s3 := match ts with | some id => s2.txStamp (key2 n i) { time := 0, id, nosend := true } | none => s2
        .next (s3.txNotify n i q true)
  | _, _ => .next s

/-! ### 10BASE-T1S (R319, R320) -/

def State.setT1s (s : State) (x : T1s) : State := ({ s with t1s := x }).wr T1SSTAT.tx_busy [] (b2n (!x.txq.isEmpty))

/-- A frame reaches the slow-control port, its FCS included; `t` the receipt at the MDI, ps (R319, R320). -/
def execT1sReceive (bytes : List Byte) (t : Nat) (s0 : State) : Host.Outcome State Fault Refusal :=
  let s := s0.upTo t
  if s.fit.t1s = false ∨ s.flag T1SCFG.enable [] = false then .next s
  else if bytes.foldl crcByte 0xFFFFFFFF ≠ crcResidue then .next (s.bump T1SCNT.fcs [])
  else if bytes.length < 64 ∨ 1522 < bytes.length then .next s
  else if addressOk (s.raw T1SADDR []) (s.flag T1SCFG.mcast []) (s.flag T1SCFG.promisc []) bytes = false then .next s
  else if s.rd TPTP.port [] = 0x1FF ∧ isPtp bytes = true then .next s
  else if 32 ≤ s.t1s.rxq.length then .next (s.wr T1SSTAT.rxq_full [] 1)
  else .next (s.setT1s { s.t1s with rxq := s.t1s.rxq ++ [(bytes, s.domainAt t)] })

/-- A frame of the slow-control port has left whole at `first`, ps (R319, R320, R269). -/
def State.t1sSent (s : State) (x : T1sTx) (first : Nat) : State :=
  let s1 := (s.setT1s { s.t1s with txq := s.t1s.txq.drop 1 }).emit (.t1s (x.bytes ++ leBytes 4 (crc32 x.bytes).toNat))
  if x.stamp then s1.txStamp t1sTxKey { time := s1.domainAt first, id := x.id, nosend := false } else s1

/-- A frame of the slow-control port is given up (R319, R269). -/
def State.t1sDrop (s : State) (x : T1sTx) : State :=
  let s1 := s.setT1s { s.t1s with txq := s.t1s.txq.drop 1 }
  if x.stamp then s1.txStamp t1sTxKey { time := 0, id := x.id, nosend := true } else s1

/-- A collision after `bits` bits of the frame in transmission (R319): jam, then back-off, discard after 16, or abort when late. -/
def execT1sCollision (bits t : Nat) (s0 : State) : Host.Outcome State Fault Refusal :=
  let s := s0.upTo t
  match s.t1s.txq with
  | [] => .next s
  | x :: r =>
    if x.backoff then .next s
    else
      let s1 := (s.bump T1SCNT.collisions []).emit .t1sJam
      if 512 < bits then .next ((s1.bump T1SCNT.late []).t1sDrop x)
      else if 15 ≤ x.tries then .next ((s1.bump T1SCNT.excessive []).t1sDrop x)
      else .next (s1.setT1s { s1.t1s with txq := { x with tries := x.tries + 1, backoff := true } :: r })

/-- The wait of the first frame is over, be it deferral or back-off: the frame is tried at `t`, and leaves whole when no collision meets it
(R319; log 35). -/
def execT1sBackoff (clear : Bool) (t : Nat) (s0 : State) : Host.Outcome State Fault Refusal :=
  let s := s0.upTo t
  match s.t1s.txq with
  | [] => .next s
  | x :: r =>
    if x.backoff = false then .next s
    else if clear then .next (s.t1sSent x t)
    else .next (s.setT1s { s.t1s with txq := { x with backoff := false } :: r })

/-! ### The host link (R321 to R324) -/

/-- The CXL function state is reset: MSI-X alone of what the model holds (R324, R359). -/
def State.resetFunction (s : State) : State :=
  ((List.range 64).foldl (fun a v => ((a.setRaw MSIXADDR [v] 0).setRaw MSIXDATA [v] 0).setRaw MSIXCTL [v] 1) s).setRaw MSIXPBA [] 0

/-- The link goes down. -/
def State.linkDown (s : State) : State := ((s.wr HOSTSTAT.up [] 0).wr HOSTSTAT.rate [] 0).wr HOSTSTAT.width [] 0

/-- A link-down (0), a hot reset (1) or a function-level reset (2) of the host link (R324). -/
def execLinkDown (kind t : Nat) (s0 : State) : Host.Outcome State Fault Refusal :=
  let s := (s0.upTo t).resetFunction
  match kind with
  | 0 => .next (s.linkDown.bump HOSTCNT.link_down [])
  | _ => .next s

/-- Lanes of the strapped width (R321). -/
def State.strapLanes (s : State) : Nat := if s.straps.hostX8 then 8 else 16

/-- The link trains to a width and rate (R324). -/
def State.linkUp (s : State) (width rate : Nat) : State :=
  let low := decide (width < s.strapLanes) || decide (rate < 128)
  let s1 := (((s.wr HOSTSTAT.up [] 1).wr HOSTSTAT.width [] width).wr HOSTSTAT.rate [] rate).wr HOSTSTAT.degraded [] (b2n low)
  if low then s1.olmWrite 0x0080 (item4 3 ++ item8 (width + rate * 256)) else s1

/-- The host link trains (R324). -/
def execLinkTrained (width rate t : Nat) (s0 : State) : Host.Outcome State Fault Refusal := .next ((s0.upTo t).linkUp width rate)

end Sys2Proof.Machine
end

