-- ==== Sys2Proof/Machine/Acq.lean ====
section
/-!
DEFINITION. The acquisition engine (R290 to R303) and the two events of the Vilovote domain it takes part in: acts and arm changes.
-/
namespace Sys2Proof.Machine

/-- A field of a committed register value. -/
def fieldIn (f : Fld) (v : Nat) : Nat := bitsOf v f.lo f.w

def State.acqDest (s : State) (d : Nat) : AcqDest := Sparse.get {} s.acq.dests d
def State.setAcqDest (s : State) (d : Nat) (x : AcqDest) : State := { s with acq := { s.acq with dests := Sparse.set {} s.acq.dests d x } }
def State.acqStream (s : State) (k : Nat) : AcqStream := Sparse.get {} s.acq.streams k
def State.setAcqStream (s : State) (k : Nat) (x : AcqStream) : State :=
  { s with acq := { s.acq with streams := Sparse.set {} s.acq.streams k x } }

/-- Kind of a committed destination (R298). -/
def AcqDest.kind (x : AcqDest) : Nat := fieldIn ACQDCFG.kind x.cfg

/-- Destination of a committed stream. -/
def AcqStream.dest (x : AcqStream) : Nat := fieldIn ACQSCFG.dest x.cfg

/-! ### Records (R292) -/

/-- Bytes of a record with a body of `n` bytes: header, body, trailer, up to a multiple of 32 (R292). -/
def acqRecBytes (n : Nat) : Nat := (40 + n + 31) / 32 * 32

/-- A whole record (R292). -/
def AcqRec.bytes (r : AcqRec) (seq : Nat) : List Byte :=
  let size := acqRecBytes r.body.length
  leBytes 4 (r.body.length % 2 ^ 15 + r.kind % 16 * 2 ^ 15 + r.stream % 16 * 2 ^ 19 + r.flags % 16 * 2 ^ 23)
    ++ leBytes 4 (r.beat % 2 ^ 16 + r.die % 16 * 2 ^ 16 + r.block % 16 * 2 ^ 20) ++ stampBytes r.when_ ++ leBytes 4 (size / 32)
    ++ leBytes 8 seq ++ r.body ++ List.replicate (size - 40 - r.body.length) 0 ++ leBytes 8 seq

/-- A PAD record of `n` bytes, a multiple of 32 (R292): where it is 32 bytes long, its header's seq is its trailer too. Its `when`
is not stated (log 31): `w`. -/
def acqPad (n w seq : Nat) : List Byte :=
  leBytes 4 ((n - 40) % 2 ^ 15) ++ leBytes 4 0 ++ stampBytes w ++ leBytes 4 (n / 32) ++ leBytes 8 seq
    ++ (if n ≤ 32 then [] else List.replicate (n - 40) 0 ++ leBytes 8 seq)

/-- Ring size of a destination (R298). -/
def AcqDest.ringSize (x : AcqDest) : Nat := if x.kind = 2 then 64 * 2 ^ 20 else 2 ^ fieldIn ACQDSIZE.size x.size

/-- Bytes go to a ring: into host memory where the link is up, counted as dropped where not; or into the device ring (R298). -/
def State.acqWrite (s : State) (d off : Nat) (bs : List Byte) : State :=
  let x := s.acqDest d
  if x.kind = 2 then { s with acq := { s.acq with ring := Sparse.setBytes s.acq.ring off bs } }
  else if s.flag HOSTSTAT.up [] then s.emit (.hostWrite (x.base / 4096 * 4096 + off) bs)
  else s.bump ACQDCNT.dropped [d]

/-! ### Datagrams (R298) -/

/-- One's complement sum of big-endian halfwords. -/
def sum16 : List Byte → Nat
  | a :: b :: r => a.toNat * 256 + b.toNat + sum16 r
  | [a] => a.toNat * 256
  | [] => 0

/-- A one's complement checksum: carries folded in, then inverted. -/
def check16 (n : Nat) : Nat :=
  let a := n % 65536 + n / 65536
  65535 - (a % 65536 + a / 65536)

/-- `n` big-endian bytes of a number. -/
def beBytes (n v : Nat) : List Byte := (leBytes n v).reverse

/-- A datagram: the template with the IPv4 total length, its header checksum and the UDP length filled in and the UDP checksum 0,
the 16-byte prefix, the records (R298). -/
def AcqDest.datagram (x : AcqDest) : List Byte :=
  let n := 16 + x.dgram.length
  let h1 := overlay (overlay (overlay x.template 16 (beBytes 2 (28 + n))) 24 [0, 0]) 38 (beBytes 2 (8 + n) ++ [0, 0])
  overlay h1 24 (beBytes 2 (check16 (sum16 ((h1.drop 14).take 20))))
    ++ leBytes 8 x.dgSeq ++ leBytes 2 x.dgCount ++ List.replicate 6 0 ++ x.dgram

/-- The open datagram of a destination is sent, or dropped and counted where the port's link is down (R298). -/
def State.acqFlush (s : State) (d : Nat) : State :=
  let x := s.acqDest d
  if x.dgram.isEmpty then s
  else
    let l := fieldIn ACQDCFG.eport x.cfg
    let s1 := s.setAcqDest d { x with dgram := [], dgCount := 0, dgSeq := 0, dgAt := 0 }
    if s.flag PSTAT.lock [l / 16, l % 16] then s1.emit (.ethernet (l / 16) (l % 16) x.datagram) else s1.bump ACQDCNT.dropped [d]

/-- A record enters an Ethernet destination's datagram; one that cannot fit any datagram is dropped (R298; log 31). -/
def State.acqDatagram (s : State) (d seq : Nat) (bs : List Byte) : State :=
  let P := fieldIn ACQDETH.P (s.acqDest d).eth
  if P < bs.length then s.bump ACQDCNT.dropped [d]
  else
    let s1 := if P < (s.acqDest d).dgram.length + bs.length then s.acqFlush d else s
    let x := s1.acqDest d
    let s2 := s1.setAcqDest d { x with dgram := x.dgram ++ bs, dgCount := x.dgCount + 1
                                       dgSeq := if x.dgram.isEmpty then seq else x.dgSeq, dgAt := if x.dgram.isEmpty then s1.now else x.dgAt }
    if (s2.acqDest d).dgram.length = P then s2.acqFlush d else s2

/-- A record enters its destination under the next sequence number; a PAD record first where it would cross the ring's end (R292,
R299). -/
def State.acqPut (s : State) (d : Nat) (r : AcqRec) : State :=
  let x := s.acqDest d
  let len := acqRecBytes r.body.length
  if x.kind = 0 then s
  else if x.kind = 3 then
    let seq := s.rd ACQDSEQ.seq [d]
    (s.wr ACQDSEQ.seq [d] (seq + 1)).acqDatagram d seq (r.bytes seq)
  else
    let off := s.rd ACQDPTR.offset [d]
    let room := x.ringSize - off
    let s1 := if len ≤ room then s
      else
        let (w, s') := s.draw
        let seq := s'.rd ACQDSEQ.seq [d]
        ((s'.acqWrite d off (acqPad room w seq)).wr ACQDSEQ.seq [d] (seq + 1)).wr ACQDPTR.offset [d] 0
    let seq := s1.rd ACQDSEQ.seq [d]
    let at_ := s1.rd ACQDPTR.offset [d]
    ((s1.acqWrite d at_ (r.bytes seq)).wr ACQDSEQ.seq [d] (seq + 1)).wr ACQDPTR.offset [d] ((at_ + len) % x.ringSize)

/-- A stream's record is committed (R294). -/
def State.acqRecord (s : State) (k : Nat) (r : AcqRec) : State := (s.acqPut (s.acqStream k).dest r).addWrap ACQSCNT.records [k] 1

/-! ### Segments (R296) -/

/-- A time lies in the segment of an act of the stream's rules (R296). -/
def State.inSegment (s : State) (x : AcqStream) (when_ : Nat) : Bool :=
  let pre := nsDom (1000 * fieldIn ACQSSEG.pre x.seg)
  let post := nsDom (1000 * fieldIn ACQSSEG.post x.seg)
  s.acq.acts.any (fun a => bitOf (fieldIn ACQSWIN.rules x.win) a.2 && decide (a.1 ≤ when_ + pre) && decide (when_ < a.1 + post))

/-- A stream's record goes to its destination, or into its delay line in segment mode (R294, R296). -/
def State.acqMake (s : State) (k : Nat) (r : AcqRec) : State :=
  let x := s.acqStream k
  if fieldIn ACQSCFG.segment x.cfg = 1 then s.setAcqStream k { x with line := x.line ++ [r] } else s.acqRecord k r

/-- Acts older than every segment are forgotten. -/
def State.acqPrune (s : State) : State :=
  { s with acq := { s.acq with acts := s.acq.acts.filter (fun a => decide (s.domNow < a.1 + nsDom 68000000)) } }

/-- The oldest record of a stream's delay line leaves it `pre` after its time, committed or discarded (R294, R296). -/
def execSegmentCommit (k : Nat) (s0 : State) : Host.Outcome State Fault Refusal :=
  let x := s0.acqStream k
  match x.line with
  | [] => .next s0
  | r :: rest =>
    let s := s0.upTo (max r.landed (s0.psOf (r.when_ + nsDom (1000 * fieldIn ACQSSEG.pre x.seg))))
    let s1 := s.setAcqStream k { x with line := rest }
    .next (if s.inSegment x r.when_ then s1.acqRecord k r else s1)

/-! ### Windows (R293) -/

/-- fp64, to which window minima, maxima and sums are widened (R293). -/
def fp64 : FFmt := ⟨64, 11, 52, 1023, 0x7FEFFFFFFFFFFFFF, some 0x7FF0000000000000, some 0x7FF8000000000000, true⟩

/-- Whether the elements of a stream are floating, and their bytes (R291). -/
def acqFloat (fmt : Nat) : Bool := decide (4 ≤ fmt)
def acqElemBytes (fmt : Nat) : Nat := match eFmt fmt with | some f => f.lane / 8 | none => 1

/-- The order key of an fp64 code: −0 lies below +0 (R293). -/
def fp64Key (c : Nat) : Int := if c < 2 ^ 63 then (c : Int) else 2 ^ 63 - 1 - (c : Int)

/-- The fp64 code of an order key. -/
def fp64OfKey (k : Int) : Nat := if 0 ≤ k then k.toNat else (2 ^ 63 - 1 - k).toNat

/-- The 64-bit code of an element: sign-extended, or widened to fp64 (R293). -/
def acqCode (fmt : Nat) (v : Num) : Nat :=
  if acqFloat fmt then (fp64.convert true .rne v).1
  else match v with | .fin neg m _ => intCode 64 (if neg then -(m : Int) else m) | _ => 0

/-- The order key of an element. -/
def acqKey (fmt : Nat) (code : Nat) : Int := if acqFloat fmt then fp64Key code else intOf 64 code

/-- A finite element in whole units: 1 for integers, 2^−149 for floating formats. -/
def acqUnits (fmt : Nat) (neg : Bool) (m : Nat) (e : Int) : Int :=
  let v : Nat := if acqFloat fmt then m * 2 ^ (e + 149).toNat else m
  if neg then -(v : Int) else v

/-- An element is strictly greater than the threshold (R293). -/
def acqOver (fmt thr : Nat) (v : Num) : Bool :=
  if acqFloat fmt then (fp64.decode thr).lt v
  else match v with | .fin neg m _ => decide (intOf 64 thr < (if neg then -(m : Int) else m)) | _ => false

/-- One position enters a window (R293). -/
def AcqWin.take (w : AcqWin) (fmt thr : Nat) (v : Num) (when_ : Nat) : AcqWin :=
  let code := acqCode fmt v
  let w1 : AcqWin := { w with got := w.got + 1, first := if w.got = 0 then code else w.first, when_ := when_ }
  match v with
  | .fin neg m e =>
    let k := acqKey fmt code
    let u := acqUnits fmt neg m e
    { w1 with finite := w.finite + 1, excess := w.excess + b2n (acqOver fmt thr v)
              minv := if w.finite = 0 ∨ k < w.minv then k else w.minv, maxv := if w.finite = 0 ∨ w.maxv < k then k else w.maxv
              sum := w.sum + u, squares := w.squares + u.natAbs * u.natAbs }
  | _ => { w1 with nonfinite := w.nonfinite + 1 }

/-- An exact sum of units 2^−`e`, rounded once to fp64 (R293). -/
def acqSum (v : Int) (e : Nat) : Nat := (fp64.round true .rne (exactOf (decide (v < 0)) v.natAbs (-(e : Int)))).1

/-- The body of a WINDOW record (R293). -/
def AcqWin.body (w : AcqWin) (fmt : Nat) : List Byte :=
  let keyBytes := fun (k : Int) => leBytes 8 (if w.finite = 0 then 0 else if acqFloat fmt then fp64OfKey k else intCode 64 k)
  keyBytes w.minv ++ keyBytes w.maxv
    ++ (if acqFloat fmt then leBytes 8 (if w.finite = 0 then 0 else acqSum w.sum 149) ++ leBytes 8 0 else leBytes 16 (intCode 128 w.sum))
    ++ (if acqFloat fmt then leBytes 8 (acqSum w.squares 298) ++ leBytes 8 0 else leBytes 16 w.squares)
    ++ leBytes 8 w.first ++ leBytes 4 w.excess ++ leBytes 4 w.finite ++ leBytes 4 w.nonfinite ++ leBytes 4 0

/-- A window's record (R293). -/
def windowRec (x : AcqStream) (k : Nat) (w : AcqWin) (part : Bool) (now : Nat) : AcqRec :=
  { kind := 2, stream := k, flags := 8 * b2n part, die := fieldIn ACQSCFG.die x.cfg, block := fieldIn ACQSCFG.block x.cfg
    when_ := w.when_, body := w.body (fieldIn ACQSCFG.fmt x.cfg), landed := now }

/-- An open window closes before its N positions, with `partial` (R297, R301). -/
def State.acqClose (s : State) (k : Nat) : State :=
  let x := s.acqStream k
  match x.window with
  | none => s
  | some w => (s.setAcqStream k { x with window := none }).acqMake k (windowRec x k w true s.now)

/-- Positions enter a stream's windows one by one; each N of them make a record (R291, R293). -/
def State.acqElems (s : State) (k when_ : Nat) : List Num → State
  | [] => s
  | v :: vs =>
    let x := s.acqStream k
    let w := (x.window.getD {}).take (fieldIn ACQSCFG.fmt x.cfg) x.thr v when_
    if fieldIn ACQSWIN.N x.win + 1 ≤ w.got then
      ((s.setAcqStream k { x with window := none }).acqMake k (windowRec x k w false s.now)).acqElems k when_ vs
    else (s.setAcqStream k { x with window := some w }).acqElems k when_ vs

/-! ### Frames (R291) -/

/-- Bytes of a tapped frame without its check, at most 16 KiB (R293). -/
def Tap.content (f : Tap) : List Byte := if f.excess then f.bytes.take 16384 else f.bytes.take (f.bytes.length - 4)

/-- The elements a stream reads from a frame (R291). -/
def acqValues (x : AcqStream) (bs : List Byte) : List Num :=
  let b := acqElemBytes (fieldIn ACQSCFG.fmt x.cfg)
  (List.range (fieldIn ACQSCFG.n x.cfg + 1)).filterMap (fun i =>
    let o := fieldIn ACQSCFG.offset x.cfg + i * b
    if bs.length < o + b then none
    else (eFmt (fieldIn ACQSCFG.fmt x.cfg)).map (fun f => f.decode (leNat ((bs.drop o).take b))))

/-- A tapped frame at one stream (R291 to R294, R297). -/
def State.acqStreamFrame (s : State) (f : Tap) (k : Nat) : State :=
  let x := s.acqStream k
  let when_ := s.domainAt f.first
  if x.on = false ∨ fieldIn ACQSCFG.die x.cfg ≠ f.die ∨ fieldIn ACQSCFG.block x.cfg ≠ f.port then s
  else if fieldIn ACQSCFG.beats_only x.cfg = 1 ∧ f.beat.isNone = true then s
  else if fieldIn ACQSCFG.armed_only x.cfg = 1 ∧ s.armedAt when_ = false then s
  else
    let bs := f.content
    if fieldIn ACQSCFG.kind x.cfg = 0 then
      let snap := 8 * (fieldIn ACQSCFG.snap x.cfg + 1)
      s.acqMake k { kind := 1, stream := k, flags := b2n (!f.failed) + 2 * b2n f.beat.isSome + 4 * b2n (decide (snap < bs.length) || f.excess)
                    beat := match f.beat with | some b => b.toNat | none => 0
                    die := f.die, block := f.port, when_, body := bs.take snap, landed := s.now }
    else
      let vs := acqValues x bs
      let s1 := if vs.length < fieldIn ACQSCFG.n x.cfg + 1 then s.bump ACQSSHORT.short [k] else s
      s1.acqElems k when_ vs

/-- A tapped frame at streams `ks`, in their order. -/
def State.acqStreamsFrame (s : State) (f : Tap) : List Nat → State
  | [] => s
  | k :: ks => (s.acqStreamFrame f k).acqStreamsFrame f ks

/-- The next tapped frame's last byte lands: every stream of its port takes it (R291, R294). -/
def execAcqFrame (s0 : State) : Host.Outcome State Fault Refusal :=
  match s0.acqTap with
  | [] => .next s0
  | f :: rest =>
    let s := ({ s0 with acqTap := rest }).upTo f.last
    .next (if s.fit.acq && !s.flt.lost.contains (0xF5, 0, f.die / 4) then s.acqStreamsFrame f (List.range 16) else s)

/-! ### Marks and arm changes (R284, R295 to R297) -/

/-- The act instant, domain: its time plus the delay; the instant it is made where the delay is 0 (R284). -/
def State.actTime (s : State) (a : ActRec) : Nat := if s.actDelay = 0 then a.at_ else a.time + s.actDelay

/-- A MARK at one destination, within its budget of each millisecond of domain time (R293, R295). -/
def State.acqMark (s : State) (a : ActRec) (d : Nat) : State :=
  let x := s.acqDest d
  if x.kind = 0 ∨ fieldIn ACQDCFG.marks x.cfg = 0 then s
  else
    let ms := s.domNow / nsDom 1000000
    let used := if x.markMs = ms then x.markCount else 0
    if fieldIn ACQDCFG.mark_budget x.cfg ≤ used then
      (s.setAcqDest d { x with markMs := ms, markCount := used, marksLost := x.marksLost + 1 }).bump ACQDCNT.marks_dropped [d]
    else
      let A := s.actTime a
      let late := decide (A < a.at_)
      let cut := late && (List.range 16).any (fun k =>
        let z := s.acqStream k
        z.on && fieldIn ACQSCFG.segment z.cfg == 1 && z.dest == d && bitOf (fieldIn ACQSWIN.rules z.win) a.rule)
      (s.setAcqDest d { x with markMs := ms, markCount := used + 1, marksLost := 0 }).acqPut d
        { kind := 3, when_ := A, body := stampBytes A ++ leBytes 1 (a.origin % 64) ++ leBytes 1 (a.rule % 16) ++ leBytes 1 a.kind
                                  ++ leBytes 1 (b2n late + 2 * b2n cut) ++ leBytes 4 x.marksLost ++ List.replicate 12 0 }

/-- The earliest act is made (R284): pins and `VACT`, then the mark of every destination and the segment it opens (R295, R296). -/
def execAct (s : State) : Host.Outcome State Fault Refusal :=
  match s.makeAct with
  | none => .next s
  | some (a, s1) =>
    let s2 := (List.range 4).foldl (fun z d => z.acqMark a d) s1
    .next ({ s2 with acq := { s2.acq with acts := s2.acq.acts ++ [(s2.actTime a, a.rule)] } }).acqPrune

/-- The earliest scheduled arm change takes effect; a disarm closes the open windows of `armed_only` streams (R282, R297). -/
def execArmEffective (s : State) : Host.Outcome State Fault Refusal :=
  match s.armEffective with
  | none => .next s
  | some (a, s1) =>
    .next (if a.armed then s1
      else ((List.range 16).filter (fun k => fieldIn ACQSCFG.armed_only (s1.acqStream k).cfg == 1)).foldl (fun z k => z.acqClose k) s1)

/-- A loss of the engine from `start` to now: one LOSS record at each destination, none within 10 us of its last (R293, R300). -/
def State.acqLoss (s : State) (cause start : Nat) : State :=
  (List.range 4).foldl (fun z d =>
    let x := z.acqDest d
    let near := match x.lossAt with | some t => decide (z.now < t + 10000000) | none => false
    if x.kind = 0 ∨ near = true then z
    else
      ((z.setAcqDest d { x with lossAt := some z.now }).acqPut d
        { kind := 4, when_ := z.domNow, body := stampBytes (z.domainAt start) ++ stampBytes z.domNow ++ leBytes 1 cause
                                          ++ List.replicate 7 0 }).wr ACQSTAT.loss [] 1) s

/-! ### Admission (R301, R302) -/

/-- The quotient rounded upward. -/
def ceilDiv (a b : Nat) : Nat := (a + b - 1) / b

/-- Lanes of a stream (R302). -/
def acqWidth (cfg : Nat) : Nat := 2 ^ fieldIn ACQSCFG.width cfg

/-- Worst-case rate of a stream, MB/s (R302). -/
def acqStreamRate (cfg win : Nat) : Nat :=
  let w := acqWidth cfg
  if fieldIn ACQSCFG.kind cfg = 0 then
    let c := acqRecBytes (8 * (fieldIn ACQSCFG.snap cfg + 1))
    ceilDiv (w * min 300000 (3125 * c)) 4
  else
    let b := acqElemBytes (fieldIn ACQSCFG.fmt cfg)
    let n := fieldIn ACQSCFG.n cfg + 1
    ceilDiv (128 * w * min (3125000000 / 4 * n * b) 25000000000) (b * (fieldIn ACQSWIN.N win + 1) * 1000000)

/-- Pending streams that are enabled. -/
def State.acqOn (s : State) : List Nat := (List.range 16).filter (fun k => s.flag ACQSCFG.enable [k])

/-- Pending rate of a stream. -/
def State.acqPendRate (s : State) (k : Nat) : Nat := acqStreamRate (s.raw ACQSCFG [k]) (s.raw ACQSWIN [k])

/-- Pending rate of a destination: its streams, its marks, LOSS and the tail block or the datagrams' own bytes (R302). -/
def State.acqDestRate (s : State) (d : Nat) : Nat :=
  let S := ((s.acqOn.filter (fun k => s.rd ACQSCFG.dest [k] == d)).map s.acqPendRate).sum
    + ceilDiv (96 * s.rd ACQDCFG.mark_budget [d]) 1000 + 10
  if s.rd ACQDCFG.kind [d] = 3 then
    let P := s.rd ACQDETH.P [d]
    ceilDiv (S * (P + 82)) P + ceilDiv 82 (s.rd ACQDETH.flush [d])
  else if s.rd ACQDCFG.kind [d] = 1 then S + ceilDiv 64 (s.rd ACQDSIZE.tail_period [d])
  else S

/-- A port block has a lane: its glowworm is present and it is no ring lane's place (R12). -/
def State.hasLane (s : State) (n i : Nat) : Bool := bitOf s.fit.glow (n / 2) && (s.ringPort n i).isNone

/-- Check 1 (R301): every field in range, destinations on, sources present, elements within 16,384 bytes, one device at most. -/
def State.acqConfigOk (s : State) : Bool :=
  (List.range 4).all (fun d =>
    let z := s.rd ACQDSIZE.size [d]
    let P := s.rd ACQDETH.P [d]
    decide (20 ≤ z ∧ z ≤ 40) && s.rd ACQDSIZE.tail_period [d] != 0 && decide (512 ≤ P ∧ P ≤ 8960 ∧ P % 32 = 0)
      && decide (1 ≤ s.rd ACQDETH.flush [d] ∧ s.rd ACQDETH.flush [d] ≤ 1000))
  && (List.range 16).all (fun k => [0, 1, 2, 4, 5, 6].contains (s.rd ACQSCFG.fmt [k]) && decide (s.rd ACQSSEG.pre [k] ≤ 1000))
  && s.acqOn.all (fun k =>
    let n := s.rd ACQSCFG.die [k]
    s.rd ACQDCFG.kind [s.rd ACQSCFG.dest [k]] != 0 && bitOf s.fit.dies n && s.hasLane n (s.rd ACQSCFG.block [k])
      && (s.rd ACQSCFG.kind [k] == 0
          || decide (s.rd ACQSCFG.offset [k] + (s.rd ACQSCFG.n [k] + 1) * acqElemBytes (s.rd ACQSCFG.fmt [k]) ≤ 16384)))
  && decide (countIf (fun d => s.rd ACQDCFG.kind [d] == 2) (List.range 4) ≤ 1)

/-- Sum of the pending rates of streams for which `p` holds of their die. -/
def State.acqDieRate (s : State) (p : Nat → Bool) : Nat :=
  ((s.acqOn.filter (fun k => p (s.rd ACQSCFG.die [k]))).map s.acqPendRate).sum

/-- Largest reservation for acquisition, MB/s (R30, R324). -/
def State.hostReserve (s : State) : Nat := if s.straps.hostX8 then 80000 else 160000

/-- The code of the first check a pending configuration fails, 0 where it passes (R301). -/
def State.acqCheck (s : State) : Nat :=
  let hosts := (List.range 4).filter (fun d => s.rd ACQDCFG.kind [d] == 1)
  let eths := (List.range 4).filter (fun d => s.rd ACQDCFG.kind [d] == 3)
  if s.acqConfigOk = false then 1
  else if s.acqOn.any (fun k => decide (s.rd ACQSCFG.width [k] < s.rd PCFG.width [s.rd ACQSCFG.die [k], s.rd ACQSCFG.block [k]])) then 2
  else if hosts.any (fun d => decide (100 * s.rd ACQDRES.reserve [d] < s.acqDestRate d))
      || decide (s.hostReserve < (hosts.map (fun d => 100 * s.rd ACQDRES.reserve [d])).sum) then 3
  else if eths.any (fun d =>
      let l := s.rd ACQDCFG.eport [d]
      !(decide (l < 256) && s.bulkEth (l / 16) (l % 16) && !s.flag PSTAT.member [l / 16, l % 16])
        || decide (22500 * s.portLanes (l / 16) (l % 16) < s.acqDestRate d)) then 4
  else if (List.range 16).any (fun n => decide (100000 < s.acqDieRate (· == n)))
      || (List.range 4).any (fun x => decide (200000 < s.acqDieRate (fun n => n / 4 == x))) || decide (200000 < s.acqDieRate (fun _ => true)) then 5
  else if 33554432 < ((s.acqOn.filter (fun k => s.flag ACQSCFG.segment [k])).map (fun k => s.rd ACQSSEG.pre [k] * s.acqPendRate k)).sum then 6
  else 0

/-- Records of a changed segment stream's delay line leave it at once: those in a segment are committed (R296, R301; log 31). -/
def State.acqDrain (s : State) (k : Nat) : State :=
  let x := s.acqStream k
  (x.line.filter (fun r => s.inSegment x r.when_)).foldl (fun z r => z.acqRecord k r) (s.setAcqStream k { x with line := [] })

/-- A pending stream as it would be committed, its window and line empty. -/
def State.acqPending (s : State) (k : Nat) : AcqStream :=
  { on := s.flag ACQSCFG.enable [k], cfg := s.raw ACQSCFG [k], win := s.raw ACQSWIN [k], thr := s.raw ACQSTHR [k], seg := s.raw ACQSSEG [k] }

/-- A pending destination as it would be committed. -/
def State.acqPendDest (s : State) (d : Nat) : AcqDest :=
  { cfg := s.raw ACQDCFG [d], base := s.raw ACQDBASE [d], size := s.raw ACQDSIZE [d], res := s.raw ACQDRES [d]
    tail := s.raw ACQDTAIL [d], eth := s.raw ACQDETH [d]
    template := ((List.range 11).flatMap (fun w => leBytes 4 (s.raw ACQTMPL [d, w]))).take 42 }

/-- The registers a destination was committed with are those now pending. -/
def AcqDest.same (x y : AcqDest) : Bool :=
  x.cfg == y.cfg && x.base == y.base && x.size == y.size && x.res == y.res && x.tail == y.tail && x.eth == y.eth && x.template == y.template

/-- The registers a stream was committed with are those now pending. -/
def AcqStream.same (x y : AcqStream) : Bool := x.on == y.on && x.cfg == y.cfg && x.win == y.win && x.thr == y.thr && x.seg == y.seg

/-- One stream's commit (R301). -/
def State.acqCommitStream (s : State) (k : Nat) : State :=
  let y := s.acqPending k
  let s1 := if (s.acqStream k).same y then s else ((s.acqClose k).acqDrain k).setAcqStream k y
  (s1.wr ACQSSTAT.running [k] (b2n y.on)).wr ACQSRATE.rate [k] (if y.on then s.acqPendRate k else 0)

/-- One destination's commit: a changed one restarts its seq at 1 at the start of its ring (R299, R301). -/
def State.acqCommitDest (s : State) (d : Nat) : State :=
  let y := s.acqPendDest d
  if (s.acqDest d).same y then s
  else (((s.acqFlush d).setAcqDest d y).wr ACQDSEQ.seq [d] 1).wr ACQDPTR.offset [d] 0

/-- A commit of the pending configuration (R301). -/
def State.acqCommit (s : State) : State :=
  let c := s.acqCheck
  if c ≠ 0 then (s.wr ACQSTAT.code [] c).wr ACQSTAT.refused [] 1
  else
    let s1 := (List.range 16).foldl (fun z k => z.acqCommitStream k) s
    let s2 := (List.range 4).foldl (fun z d => z.acqCommitDest d) s1
    (s2.wr ACQSTAT.running [] (b2n (!s.acqOn.isEmpty))).wr ACQRATE.total [] (s.acqDieRate (fun _ => true))

/-- Stop: every stream and destination is disabled at once (R301). -/
def State.acqStopAll (s : State) : State :=
  let s1 : State := { s with acq := { s.acq with streams := [], dests := [] } }
  let s2 := (List.range 16).foldl (fun z k => (z.wr ACQSSTAT.running [k] 0).wr ACQSRATE.rate [k] 0) s1
  (s2.wr ACQSTAT.running [] 0).wr ACQRATE.total [] 0

/-- `ACQCTL.commit` (R301). -/
def execAcqCommit (s : State) : Host.Outcome State Fault Refusal := .next (if s.fit.acq then s.acqCommit else s)

/-- `ACQCTL.stop` (R301). -/
def execAcqStop (s : State) : Host.Outcome State Fault Refusal := .next (if s.fit.acq then s.acqStopAll else s)

/-- The tail period of a host destination expires: its tail block is written (R298). -/
def execTailBlock (d t : Nat) (s0 : State) : Host.Outcome State Fault Refusal :=
  let s := s0.upTo t
  let x := s.acqDest d
  if x.kind ≠ 1 then .next s
  else if s.flag HOSTSTAT.up [] = false then .next (s.bump ACQDCNT.dropped [d])
  else .next (s.emit (.hostWrite (x.tail / 64 * 64) (leBytes 8 (s.rd ACQDSEQ.seq [d]) ++ leBytes 8 (s.rd ACQDPTR.offset [d])
    ++ stampBytes s.domNow ++ List.replicate 36 0)))

/-- The flush time of an Ethernet destination's open datagram has come (R298). -/
def execDatagramFlush (d : Nat) (s0 : State) : Host.Outcome State Fault Refusal :=
  let x := s0.acqDest d
  if x.dgram.isEmpty then .next s0
  else .next ((s0.upTo (x.dgAt + fieldIn ACQDETH.flush x.eth * 1000000)).acqFlush d)

/-- A load widened the port of running streams beyond their width: those streams stop (R303). -/
def State.acqWidthStop (s : State) (n : Nat) : State :=
  (List.range 16).foldl (fun z k =>
    let x := z.acqStream k
    if x.on && fieldIn ACQSCFG.die x.cfg == n
        && decide (fieldIn ACQSCFG.width x.cfg < z.rd PCFG.width [n, fieldIn ACQSCFG.block x.cfg]) then
      (((z.setAcqStream k { x with on := false }).wr ACQSSTAT.running [k] 0).wr ACQSSTAT.width_stop [k] 1).forcedRecord (2 ^ n)
    else z) s

end Sys2Proof.Machine
end

