-- ==== Sys2Proof/Machine/Packets.lean ====
section
/-!
DEFINITION. Command windows, packets, replies, completions, tags and sessions (R325 to R345).
-/
namespace Sys2Proof.Machine

def State.win (s : State) (w : Nat) : Win := Sparse.get {} s.wins w
def State.setWin (s : State) (w : Nat) (x : Win) : State := { s with wins := Sparse.set {} s.wins w x }

/-- The bytes of an ASCII string. -/
def asciiBytes (t : String) : List Byte := t.toList.map (fun c => BitVec.ofNat 8 c.toNat)

/-- A byte string cut or filled with zeros to `n` bytes. -/
def fitTo (n : Nat) (l : List Byte) : List Byte := (l ++ List.replicate (n - l.length) 0).take n

/-- A free byte string (log 3). -/
def State.drawBytes (s : State) (n : Nat) : List Byte × State :=
  let (v, s1) := s.draw
  (leBytes n v, s1)

/-- The 16-byte tag of an object under a session key (R342). -/
def mac16 (custom : String) (key x : List Byte) : List Byte := fitTo 16 (Config.kmac256 custom key x 16)

/-! ### Sessions (R340) -/

/-- The session slot of an id. -/
def State.sessSlot (s : State) (id : Nat) : Option (Nat × Sess) :=
  (List.range 8).findSome? (fun k => match Sparse.get none s.sec.sessions k with
    | some x => if x.id == id then some (k, x) else none
    | none => none)

/-- Stores a session slot, with `SECSESS` and `SECSTAT` following it; `next` its expected seq. -/
def State.putSess (s : State) (k : Nat) (x : Option Sess) (next : Nat) : State :=
  let s1 : State := { s with sec := { s.sec with sessions := Sparse.set none s.sec.sessions k x } }
  let s2 := match x with
    | some y => (((s1.wr SECSESS.id [k] y.id).wr SECSESS.kind [k] (if y.maint then 1 else 2)).wr SECSESS.key [k] y.slot).wr
        SECSESS.next_seq [k] next
    | none => s1.setRaw SECSESS [k] 0
  let of := fun (m : Bool) => countIf (fun i => match Sparse.get none s2.sec.sessions i with | some y => y.maint == m | none => false)
    (List.range 8)
  (s2.wr SECSTAT.maint_open [] (min 1 (of true))).wr SECSTAT.op_sessions [] (of false)

/-- Expected seq of a session slot. -/
def State.nextSeq (s : State) (k : Nat) : Nat := s.rd SECSESS.next_seq [k]

/-- A SECURITY record (R336, R345, R363): the event's number is not given (log 32): free. -/
def State.secRecord (s : State) (session window : Nat) : State :=
  let (e, s1) := s.draw
  s1.olmWrite 0x00B0 (item4 e ++ item4 session ++ item4 window)

/-- The tag record of a session. -/
def Sess.tagRec (x : Sess) (t : Nat) : TagRec := Sparse.get {} x.tags t

/-- Sets the tag record of a session, where it is open. -/
def State.setTag (s : State) (id t : Nat) (r : TagRec) : State :=
  match s.sessSlot id with
  | none => s
  | some (k, x) => s.putSess k (some { x with tags := Sparse.set {} x.tags t r }) (s.nextSeq k)

/-- A timed-out operation of a session still runs on tag `t` with generation `g` (R336). -/
def State.staleRuns (s : State) (id t g : Nat) : Bool :=
  s.sec.cmds.any (fun c => c.timedOut && c.pkt.session == id && c.pkt.tag == t && c.pkt.gen == g)

/-! ### Replies and completion entries (R331, R332) -/

/-- Words 0 to 2 of a packet repeated, with a length. -/
def headWords (p : Pkt) (len : Nat) : List Byte :=
  leBytes 4 (p.op + p.tag * 2 ^ 16 + p.gen * 2 ^ 28) ++ leBytes 4 (len + p.session * 2 ^ 16) ++ leBytes 4 p.seq

/-- A reply is written into a window: state 3, the count, and vector 32 + w (R328, R331). `key` is that of its MAC, none for a MAC of
zeros. -/
def State.reply (s : State) (w : Nat) (p : Pkt) (status : Nat) (details : List Nat) (data : List Byte) (key : Option (List Byte)) : State :=
  let body := data ++ List.replicate ((4 - data.length % 4) % 4) 0
  let det := (List.range 4).flatMap (fun i => leBytes 4 (details.getD i 0))
  let bytes := headWords p (12 + body.length / 4) ++ leBytes 4 status ++ det ++ body
  let mac := match key with | some k => mac16 "IADAR S2 RPL" k bytes | none => List.replicate 16 0
  let s1 := (s.setWin w { s.win w with taken := none, reply := bytes ++ mac }).emit (.reply w (bytes ++ mac))
  ((s1.wr CWSTATE.state [w] 3).wr CWSTATE.replies [w] (s1.rd CWSTATE.replies [w] + 1)).msixSend (32 + w)

/-- Key of the session a packet came in, none for session 0 or a closed one. -/
def State.keyOf (s : State) (id : Nat) : Option (List Byte) := if id = 0 then none else (s.sessSlot id).map (fun p => p.2.key)

/-- A completion entry is written to a window's ring (R332). -/
def State.postEntry (s : State) (w op tag gen session seq status : Nat) (details : List Nat) (word8 : Option Nat) : State :=
  let n := s.rd CWCOMP.written [w]
  let time := stampBytes s.domNow
  let body := leBytes 4 (op + tag * 2 ^ 16 + gen * 2 ^ 28) ++ leBytes 4 (status + session * 2 ^ 16) ++ leBytes 4 seq ++ leBytes 4 n
    ++ (List.range 4).flatMap (fun i => leBytes 4 (details.getD i 0))
    ++ (match word8 with | some v => leBytes 4 v ++ time.drop 4 | none => time) ++ leBytes 4 0
  let mac := match s.keyOf session with | some k => mac16 "IADAR S2 CPL" k body | none => List.replicate 16 0
  let x := s.win w
  ((s.setWin w { x with ring := Sparse.set [] x.ring (n % 128) (body ++ mac) }).wr CWCOMP.written [w] (n + 1)).emit
    (.entry w n (body ++ mac))

/-- A session closes: its outstanding tags are retired as at a deadline, and what their operations still complete is dropped (R335,
R345). -/
def State.closeSess (s : State) (id : Nat) : State :=
  match s.sessSlot id with
  | none => s
  | some (k, _) =>
    let out := s.sec.cmds.filter (fun c => c.pkt.session == id && !c.timedOut)
    let s1 := out.foldl (fun z c => z.postEntry c.window c.pkt.op c.pkt.tag c.pkt.gen id c.pkt.seq 0x000D [] none) s
    let s2 : State := { s1 with sec := { s1.sec with
      cmds := s1.sec.cmds.map (fun c => if c.pkt.session = id then { c with timedOut := true } else c) } }
    s2.putSess k none 0

/-- An event of a job is written to the window that loaded it (R333). -/
def State.jobEvent (s : State) (j : Job) (status : Nat) : State :=
  s.postEntry j.window 0x0100 0 0 j.session 0 status [j.id % 2 ^ 32] none

/-! ### Packets (R327 to R330) -/

/-- The request area's bytes from `a`, `n` of them. -/
def Win.bytes (x : Win) (a n : Nat) : List Byte :=
  (List.range n).map (fun i => BitVec.ofNat 8 ((Sparse.get 0 x.words ((a + i) / 4)).toNat / 2 ^ (8 * ((a + i) % 4))))

/-- Word `i` of the request area. -/
def Win.word (x : Win) (i : Nat) : Nat := (Sparse.get 0 x.words i).toNat

/-- The kind of an opcode (R338): its sessions as a mask (1 session 0, 2 maintenance, 4 operating), kind C, and the bytes of its fixed
parameters; `none` where the opcode is unknown. -/
def opInfo : Nat → Option (Nat × Bool)
  | 0x0001 => some (1, false)
  | 0x0002 => some (1, false)
  | 0x0003 => some (1, false)
  | 0x0004 => some (6, false)
  | 0x0005 => some (7, false)
  | 0x0006 => some (7, false)
  | 0x0007 => some (7, false)
  | 0x0101 => some (4, true)
  | 0x0102 => some (4, true)
  | 0x0103 => some (4, true)
  | 0x0104 => some (4, true)
  | 0x0201 => some (4, true)
  | 0x0202 => some (4, true)
  | 0x0203 => some (4, true)
  | 0x0204 => some (4, false)
  | 0x0205 => some (4, false)
  | 0x0206 => some (4, false)
  | 0x0207 => some (4, false)
  | 0x0501 => some (4, false)
  | 0x0502 => some (4, false)
  | 0x0601 => some (2, false)
  | 0x0602 => some (2, false)
  | 0x0603 => some (2, false)
  | 0x0604 => some (2, false)
  | 0x0605 => some (2, true)
  | _ => none

/-- Opcodes recovery firmware accepts (R384). -/
def recoveryOps : List Nat := [0x0001, 0x0002, 0x0004, 0x0005, 0x0007, 0x0605]

/-- A parameter string of little-endian number `n` bytes at offset `a`. -/
def pnum (p : List Byte) (a n : Nat) : Nat := leNat ((p.drop a).take n)

/-- A timestamp read back as a domain time (R266). -/
def stampNat (p : List Byte) (a : Nat) : Nat := (pnum p (a + 6) 6 * 1000000000 + pnum p (a + 2) 4) * 65536 + pnum p a 2

/-- A host memory list at offset `a` of the parameters (R339): its extents and the offset after it; `none` where malformed. -/
def hostList (p : List Byte) (a : Nat) (zero : Bool) : Option (List (Nat × Nat) × Nat) :=
  let n := pnum p a 2
  let ext := (List.range n).map (fun i => (pnum p (a + 8 + 16 * i) 8, pnum p (a + 16 + 16 * i) 8))
  if p.length < a + 8 + 16 * n ∨ pnum p (a + 2) 6 ≠ 0 ∨ 1024 < n ∨ (n = 0 ∧ zero = false)
      ∨ ext.any (fun e => e.1 % 64 != 0 || e.2 % 64 != 0 || e.2 == 0) = true then none
  else some (ext, a + 8 + 16 * n)

/-- Bytes a list holds. -/
def listBytes (l : List (Nat × Nat)) : Nat := (l.map (·.2)).sum

/-- The parameters end at `n`. -/
def endsAt (p : List Byte) (n : Nat) : Bool := p.length == n

/-- A list at `a` followed by `rest` bytes ends the parameters. -/
def listThen (p : List Byte) (a rest : Nat) (zero : Bool) : Bool :=
  match hostList p a zero with | some (_, b) => endsAt p (b + rest) | none => false

/-- A word of the parameters holds only the bits of `mask`. -/
def onlyBits (p : List Byte) (a mask : Nat) : Bool := pnum p a 4 &&& mask == pnum p a 4

/-- Check 7: the parameters of an opcode have the length and values R338 gives. -/
def paramsOk (op : Nat) (p : List Byte) : Bool :=
  match op with
  | 0x0001 => endsAt p 0
  | 0x0002 => endsAt p 32
  | 0x0003 => decide (1608 ≤ p.length) && endsAt p (1608 + (pnum p 1604 4 + 3) / 4 * 4)
  | 0x0004 => endsAt p 4 && onlyBits p 0 1
  | 0x0005 => listThen p 0 0 true
  | 0x0006 => listThen p 0 0 true
  | 0x0007 => listThen p 32 0 true
  | 0x0101 => listThen p 0 40 false
  | 0x0102 => listThen p 0 16 false && (match hostList p 0 false with
      | some (_, b) => decide (pnum p (b + 12) 4 ≤ 10000)
      | none => false)
  | 0x0103 => endsAt p 4 && onlyBits p 0 0xFFFF
  | 0x0104 => (match hostList p 0 false with | some (_, b) => listThen p (b + 40) 0 false | none => false)
  | 0x0201 => listThen p 0 4 false
  | 0x0202 => listThen p 16 0 false
  | 0x0203 => listThen p 12 0 true
  | 0x0204 => endsAt p 4 && onlyBits p 0 3
  | 0x0205 => endsAt p 4 && onlyBits p 0 3
  | 0x0206 => endsAt p 40
  | 0x0207 => endsAt p 12 && (pnum p 0 4 == 1 || pnum p 0 4 == 2)
  | 0x0501 => decide (4 ≤ p.length) && onlyBits p 0 0xFF0107FF && endsAt p (4 + (pnum p 0 4 % 2048 + 3) / 4 * 4)
  | 0x0502 => endsAt p 0
  | 0x0601 => endsAt p 1804 && decide (pnum p 0 4 < 16) && decide (1 ≤ pnum p 4 4 ∧ pnum p 4 4 < 8) && pnum p 1801 3 == 0
  | 0x0602 => endsAt p 4 && decide (pnum p 0 4 < 16)
  | 0x0603 => endsAt p 48
  | 0x0604 => endsAt p 4 && onlyBits p 0 0x3FFFF && pnum p 0 4 % 4 != 3
  | 0x0605 => listThen p 0 0 false
  | _ => false

/-- Check 8: the units a command names are present (R31). -/
def State.unitsPresent (s : State) (op : Nat) (p : List Byte) : Bool :=
  match op with
  | 0x0103 => pnum p 0 4 &&& s.fit.dies == pnum p 0 4
  | 0x0501 => s.fit.t1s
  | 0x0502 => s.fit.t1s
  | _ => true

/-- The status of the first check of R330 that fails, 0 where all pass; the second part is the state after check 3. -/
def State.packetCheck (s : State) (w : Nat) (p : Pkt) (len : Nat) : Nat × State :=
  let bytes := (s.win w).bytes 0 (4 * len)
  match (if p.session = 0 then some (8, ({ id := 0, maint := false, key := [] } : Sess)) else s.sessSlot p.session) with
  | none => (0x0004, s)
  | some (k, x) =>
    if p.session ≠ 0 ∧ bytes.drop (4 * len - 16) ≠ mac16 "IADAR S2 CMD" x.key (bytes.take (4 * len - 16)) then
      let s1 := (s.putSess k (some { x with macFails := x.macFails + 1 }) (s.nextSeq k)).addWrap SECCNT.mac_bad [] 1
      (0x0005, if 16 ≤ x.macFails + 1 then (s1.closeSess p.session).secRecord p.session w else s1)
    else if p.session ≠ 0 ∧ p.seq ≠ s.nextSeq k then (0x0006, s.addWrap SECCNT.seq_bad [] 1)
    else
      let s1 := if p.session = 0 then s else s.putSess k (some { x with last := s.now }) (s.nextSeq k + 1)
      let level := if p.session = 0 then 1 else if x.maint then (if s.flag SECPOLICY.maint_ops [] then 6 else 2) else 4
      let r := x.tagRec p.tag
      match opInfo p.op with
      | none => (0x0007, s1)
      | some (who, _) =>
        let hostLoad := p.op == 0x0605 && p.session == 0 && w == 0 && s.straps.boot == 2 && s.rd BOOTSTAT.stage [] == 1
        if hostLoad = false ∧ ((who &&& level) = 0 ∨ (s.flag BOOTSTAT.recovery [] = true ∧ recoveryOps.contains p.op = false)
            ∨ (p.op = 0x0007 ∧ p.session = 0 ∧ s.flag SECPOLICY.attest_open [] = false)) then (0x0008, s1)
        else if p.session ≠ 0 ∧ (r.out = true ∨ s.staleRuns p.session p.tag p.gen = true) then (0x0009, s1)
        else if p.session ≠ 0 ∧ p.gen ≠ r.gen then (0x000A, s1)
        else if paramsOk p.op p.params = false then (0x000B, s1)
        else if s.unitsPresent p.op p.params = false then (0x000C, s1)
        else (0, s1)

/-- The packet in a window as the firmware reads it, of `len` words (R327). -/
def State.readPacket (s : State) (w len : Nat) : Pkt :=
  let x := s.win w
  let w0 := x.word 0
  let w3 := x.word 3
  let d := w3 % 65536
  let kindC := match opInfo (w0 % 65536) with | some (_, c) => c | none => false
  { op := w0 % 65536, tag := bitsOf w0 16 12, gen := bitsOf w0 28 4, session := x.word 1 / 65536, seq := x.word 2
    deadline := if d = 0 then (if kindC then 60000000000000 else 100000000000) else d * (if bitOf w3 16 then 1000000000000 else 1000000000)
    commit := s.now, params := x.bytes 16 (4 * len - 32) }

/-- A committed packet is checked (R330) and taken: refused at once, left for its own command, or started where it is of kind C;
the session closes where its seq can go no further (R342). -/
def State.takePacket (s : State) (w len : Nat) : State :=
  let p := s.readPacket w len
  let (code, s1) := s.packetCheck w p len
  let code1 := if code = 0 ∧ bitsOf ((s.win w).word 3) 17 15 ≠ 0 then 0x000B else code
  let key := s1.keyOf p.session
  let last := decide (p.session ≠ 0 ∧ code ≠ 4 ∧ code ≠ 5 ∧ code ≠ 6 ∧ p.seq = 2 ^ 32 - 1)
  let s1 := if last then s1.closeSess p.session else s1
  if code1 ≠ 0 then s1.reply w p code1 [] [] (if code1 = 4 ∨ code1 = 5 then none else key)
  else
    match opInfo p.op with
    | some (_, true) =>
      let c : Cmd := { id := s1.sec.nextCmd, window := w, pkt := p }
      let s2 : State := { s1 with sec := { s1.sec with cmds := s1.sec.cmds ++ [c], nextCmd := s1.sec.nextCmd + 1 } }
      let s3 := s2.setTag p.session p.tag { gen := p.gen, out := true }
      s3.reply w p 0x0001 [] [] key
    | _ => s1.setWin w { s1.win w with taken := some p }

/-- Words written from word number `i`. -/
def setWords (m : Sparse W32) (i : Nat) : List W32 → Sparse W32
  | [] => m
  | v :: vs => setWords (Sparse.set 0 m i v) (i + 1) vs

/-- A BAR2 write of `ws` from byte offset `off` of window `w` (R325 to R330). -/
def State.writeWindow (s : State) (w off : Nat) (ws : List W32) : State :=
  if 16 ≤ w ∨ off % 4 ≠ 0 ∨ ws = [] then s
  else
    let i := off / 4
    let inside := ws.take (12288 - i)
    if 12288 ≤ i then s
    else if s.rd CWSTATE.state [w] = 2 then s.bump CWCNT.ignored [w]
    else
      let st := s.rd CWSTATE.state [w]
      let x := s.win w
      let seen := (x.lenSeen && st == 1) || (decide (i ≤ 1) && decide (1 < i + inside.length))
      let wrote := decide (i ≤ 1) && decide (1 < i + inside.length)
      let y : Win := { x with words := setWords x.words i inside, lenSeen := seen }
      let s1 := (s.setWin w y).wr CWSTATE.state [w] 1
      let len := y.word 1 % 65536
      if wrote = true ∧ len < 8 then
        ((s1.wr CWSTATE.state [w] 2).bump CWCNT.length [w]).reply w (s1.readPacket w 8) 0x0003 [] [] none
      else if wrote = true ∧ 12288 < len then
        ((s1.wr CWSTATE.state [w] 2).bump CWCNT.length [w]).reply w (s1.readPacket w 8) 0x0002 [] [] none
      else if seen = true ∧ 8 ≤ len ∧ len ≤ 12288 ∧ i ≤ len - 1 ∧ len - 1 < i + inside.length then
        (s1.wr CWSTATE.state [w] 2).takePacket w len
      else s1

/-- A BAR2 write that does not commit a packet (R328). -/
def execRequestAreaWrite (w off : Nat) (ws : List W32) (t : Nat) (s : State) : Host.Outcome State Fault Refusal :=
  .next ((s.upTo t).writeWindow w off ws)

/-- A BAR2 write that covers the final word commits a packet (R328 to R330). -/
def execPacketCommit (w off : Nat) (ws : List W32) (t : Nat) (s : State) : Host.Outcome State Fault Refusal :=
  .next ((s.upTo t).writeWindow w off ws)

/-! ### Operations of kind C (R331 to R336) -/

/-- An operation that has not ended, by its number. -/
def State.cmdOf (s : State) (id op : Nat) : Option Cmd := s.sec.cmds.find? (fun c => c.id == id && c.pkt.op == op && c.ended.isNone)

/-- Changes one operation. -/
def State.setCmd (s : State) (id : Nat) (f : Cmd → Cmd) : State :=
  { s with sec := { s.sec with cmds := s.sec.cmds.map (fun c => if c.id = id then f c else c) } }

/-- An operation ends; its completion entry follows (R332). -/
def State.endCmd (s : State) (id : Nat) (e : Ending) : State := s.setCmd id (fun c => if c.ended.isNone then { c with ended := some e } else c)

/-- The completion of an ended operation is written, or dropped as stale (R332, R336, R345). -/
def State.completeCmd (s : State) (id : Nat) : State :=
  match s.sec.cmds.find? (fun c => c.id == id) with
  | some c =>
    match c.ended with
    | none => s
    | some e =>
      let s1 : State := { s with sec := { s.sec with cmds := s.sec.cmds.filter (fun d => d.id != id) } }
      if c.timedOut then (s1.addWrap SECCNT.stale [] 1).secRecord c.pkt.session c.window
      else
        let s2 := s1.postEntry c.window c.pkt.op c.pkt.tag c.pkt.gen c.pkt.session c.pkt.seq e.status e.details e.word8
        (s2.setTag c.pkt.session c.pkt.tag { gen := c.pkt.gen, out := false })
  | none => s

/-- An operation's deadline passes (R335, R336): unless the tag's next generation is one a timed-out operation still holds. -/
def execCommandTimeout (id : Nat) (s0 : State) : Host.Outcome State Fault Refusal :=
  match s0.sec.cmds.find? (fun c => c.id == id && !c.timedOut) with
  | none => .next s0
  | some c =>
    let s := s0.upTo (c.pkt.commit + c.pkt.deadline)
    let g := (c.pkt.gen + 1) % 16
    if s.staleRuns c.pkt.session c.pkt.tag g then .next s
    else
      let s1 := s.postEntry c.window c.pkt.op c.pkt.tag c.pkt.gen c.pkt.session c.pkt.seq 0x000D [] none
      .next ((s1.setCmd id (fun d => { d with timedOut := true })).setTag c.pkt.session c.pkt.tag { gen := g, out := false })

/-- Bytes written into a host memory list, extent by extent; what runs past it is left (R339). -/
def State.writeList (s : State) (bs : List Byte) : List (Nat × Nat) → State
  | [] => s
  | (a, n) :: r => if bs.isEmpty then s else (s.emit (.hostWrite a (bs.take n))).writeList (bs.drop n) r

/-- A packet taken in window `w` with opcode `op`, for the command that acts on it. -/
def State.takenOp (s : State) (w op : Nat) : Option Pkt :=
  match (s.win w).taken with
  | some p => if p.op = op then some p else none
  | none => none

/-- A kind-I command acts on its packet and replies (R331). -/
def State.answer (s : State) (w : Nat) (p : Pkt) (status : Nat) (details : List Nat) (data : List Byte) : State :=
  s.reply w p status details data (s.keyOf p.session)

/-- Reply data to a list where one is given, else into the reply area (R339). -/
def State.answerList (s : State) (w : Nat) (p : Pkt) (a : Nat) (data : List Byte) : State :=
  match hostList p.params a true with
  | none => s.answer w p 0x000B [] []
  | some ([], _) => if 8176 < 48 + data.length then s.answer w p 0x000E [] [] else s.answer w p 0 [] data
  | some (l, _) => if listBytes l < data.length then s.answer w p 0x000E [] [] else (s.writeList data l).answer w p 0 [] []

end Sys2Proof.Machine
end

