-- ==== Sys2Proof/Machine/QuantMath.lean ====
section
/-!
DEFINITION. The arithmetic of the quantiser (R131 to R145, R155): working values, rotation, block and channel scaling,
stochastic bits, dequantised values and error statistics.
-/
namespace Sys2Proof.Machine

/-- The mixing function of R135. -/
def mix (z : W64) : W64 :=
  let a := (z ^^^ (z >>> 30)) * 0xBF58476D1CE4E5B9
  let b := (a ^^^ (a >>> 27)) * 0x94D049BB133111EB
  b ^^^ (b >>> 31)

/-- The 32 rounding bits of an element (R135). -/
def rbits (seed : W64) (tid idx : Nat) : Nat :=
  let key := BitVec.ofNat 64 (tid % 2 ^ 24 * 2 ^ 40 + idx % 2 ^ 40)
  (mix (seed ^^^ mix key) >>> 32).toNat

/-- Sign of element `j` of a rotation (R145). -/
def rotSign (rseed : W64) (j : Nat) : Bool := bitOf (mix (rseed + BitVec.ofNat 64 (j / 64))).toNat (j % 64)

/-- A value times 2^k. -/
def Num.scale (k : Int) : Num → Num
  | .fin n m e => .fin n m (e + k)
  | x => x

/-- One butterfly stage of half-size `h` over a list of fp32 codes (R144). -/
def butterfly (h : Nat) (y : List Nat) : List Nat :=
  (List.range y.length).map (fun i =>
    if i / h % 2 = 0 then fp32.add (y.getD i 0) (y.getD (i + h) 0)
    else fp32.sub (y.getD (i - h) 0) (y.getD i 0))

/-- The butterfly stages of a group of n (R144). -/
def butterflies (n : Nat) (y : List Nat) : List Nat :=
  let y4 := butterfly 8 (butterfly 4 (butterfly 2 (butterfly 1 y)))
  let y5 := if 32 ≤ n then butterfly 16 y4 else y4
  let y6 := if 64 ≤ n then butterfly 32 y5 else y5
  if 128 ≤ n then butterfly 64 y6 else y6

/-- Exponent of the gain (R144): activation 2^−c, weight 2^c / n. -/
def rotGain (n : Nat) (weight : Bool) : Int :=
  match n, weight with
  | 16, _ => -2
  | 32, false => -3 | 32, true => -2
  | 64, _ => -3
  | _, false => -4 | _, true => -3

/-- The rotation of one group, as fp32 codes (R144). -/
def rotate (n : Nat) (weight : Bool) (rseed : W64) (xs : List Num) : List Nat :=
  let y := xs.zipIdx.map (fun p =>
    let c := fp32.ofNum p.1
    if rotSign rseed p.2 then (if fp32.decode c = .nan then c else fp32.neg c) else c)
  (butterflies n y).map (fun c => fp32.ofNum ((fp32.decode c).scale (rotGain n weight)))

/-- Group size of a rotation code: 0 none, 1 to 4 for 16, 32, 64, 128. -/
def rotSize : Nat → Nat
  | 1 => 16 | 2 => 32 | 3 => 64 | 4 => 128 | _ => 1

/-- Finite magnitude as an exact value. -/
def absExact : Num → Option Exact
  | .fin _ m e => some (exactOf false m e)
  | _ => none

/-- The larger of two finite magnitudes. -/
def maxMag (a b : Exact) : Exact := if ltFin false a.num a.e false b.num b.e then b else a

/-- Largest finite magnitude of a list (R138); zero where there is none. -/
def amax (xs : List Num) : Exact := (xs.filterMap absExact).foldl maxMag (exactOf false 0 0)

/-- An exact value times 2^k. -/
def Exact.scale (k : Int) (x : Exact) : Exact := { x with e := x.e + k }

/-- A block or integer destination format (R131, R148). -/
inductive BlockFmt where
  | mxInt8 | mxFlt (f : FFmt) | qb (n : Nat)
deriving DecidableEq, Repr

/-- Block formats by code (R148). -/
def blockFmt : Nat → Option BlockFmt
  | 16 => some .mxInt8
  | 17 => some (.mxFlt e4m3) | 18 => some (.mxFlt e5m2) | 19 => some (.mxFlt e3m2)
  | 20 => some (.mxFlt e2m3) | 21 => some (.mxFlt e2m1)
  | 24 => some (.qb 8) | 25 => some (.qb 6) | 26 => some (.qb 4)
  | _ => none

/-- Bits an element takes in memory, tokens and vectors (R130, R131). -/
def fmtLane (code : Nat) : Nat :=
  match blockFmt code with
  | some .mxInt8 => 8
  | some (.mxFlt f) => if f.width = 4 then 4 else 8
  | some (.qb n) => if n = 4 then 4 else 8
  | none => match eFmt code with | some f => f.lane | none => 64

/-- The format code exists (R148). -/
def fmtListed (code : Nat) : Bool := (blockFmt code).isSome || (eFmt code).isSome

/-- emax of an MX element (R139). -/
def mxEmax : BlockFmt → Int
  | .mxFlt f => if f = e4m3 then 8 else if f = e5m2 then 15 else if f = e3m2 then 4 else 2
  | _ => 0

/-- One converted element: its code, overflow, NaN made zero, and its dequantised value. -/
structure Conv where
  code : Nat
  excess : Bool
  nan : Bool
  deq : Num
deriving DecidableEq, Repr

/-- Least X from `X` on at which a magnitude fits, at most xhi (R138); `n` bounds the search. -/
def fitX (a : Exact) (qmax : Int) (X : Nat) : Nat → Nat
  | 0 => X
  | n + 1 => if qmax < (a.scale (127 - X)).toInt .rne then fitX a qmax (X + 1) n else X

/-- Finest sub-scale at which a half-block fits (R138). -/
def fitK (h : Exact) (qmax : Int) (X k : Nat) : Nat → Nat
  | 0 => k
  | n + 1 => if (h.scale (128 - X + k)).toInt .rne ≤ qmax then fitK h qmax X (k + 1) n else k

/-- Value of an integer code at an exponent. -/
def intNum (v : Int) (e : Int) : Num := .fin (decide (v < 0)) v.natAbs e

/-- The scale of a block of 32 working values (R138 to R140): X, k0, k1. -/
def blockScale (f : BlockFmt) (xlo xhi : Nat) (v : List Num) : Nat × Nat × Nat :=
  let a := amax v
  if a.num = 0 then (xlo, 0, 0)
  else
    match f with
    | .qb n =>
      let qmax : Int := 2 ^ (n - 1) - 1
      let X := fitX a qmax xlo (xhi - xlo)
      (X, fitK (amax (v.take 16)) qmax X 0 3, fitK (amax (v.drop 16)) qmax X 0 3)
    | _ =>
      let X := floorLog2 a.num a.den + a.e - mxEmax f + 127
      ((max (xlo : Int) (min (xhi : Int) X)).toNat, 0, 0)

/-- One element of a block converted under its scale (R138, R139). -/
def blockElem (f : BlockFmt) (ieee : Bool) (mode : Rounding) (X k : Nat) (v : Num) : Conv :=
  match f with
  | .qb n =>
    let q : Int := 2 ^ (n - 1) - 1
    let (c, o, z) := convertInt (-q) q mode (v.scale (127 - (X : Int) + k))
    { code := intCode n c, excess := o, nan := z, deq := intNum c ((X : Int) - 127 - k) }
  | .mxInt8 =>
    let (c, o, z) := convertInt (-127) 127 mode (v.scale (127 - (X : Int) + 6))
    { code := intCode 8 c, excess := o, nan := z, deq := intNum c ((X : Int) - 127 - 6) }
  | .mxFlt e =>
    let (c, o, z) := e.convert ieee mode (v.scale (127 - (X : Int)))
    { code := c, excess := o, nan := z, deq := (e.decode c).scale ((X : Int) - 127) }

/-- An element of a block format read as a value (R132). -/
def blockDecode (f : BlockFmt) (code X k : Nat) : Num :=
  if X = 255 then .nan
  else
    match f with
    | .qb n => intNum (intOf n code) ((X : Int) - 127 - k)
    | .mxInt8 => intNum (intOf 8 code) ((X : Int) - 127 - 6)
    | .mxFlt e => (e.decode (code % 2 ^ e.width)).scale ((X : Int) - 127)

/-- v / S for finite v and a positive finite S. -/
def divS (v : Num) (S : Nat) : Num × Option Exact :=
  match v, fp32.decode S with
  | .fin n m e, .fin _ k g => (.fin n m e, some { neg := n, num := m, den := max k 1, e := e - g })
  | x, _ => (x, none)

/-- Channel parameters (R141, R142): S as an fp32 code, Z, limits, and the constant of a degenerate channel. -/
structure Chan where
  S : Nat
  Z : Int
  lo : Int
  hi : Int
  degen : Option Num
deriving DecidableEq, Repr

/-- Least and greatest finite values of a list, both +0 where it has none (R141). -/
def finiteMin (xs : List Num) : Num :=
  ((xs.filter (fun x => (absExact x).isSome)).foldl (fun a x => match a with
    | none => some x | some y => if x.lt y then some x else some y) none).getD (.fin false 0 0)
def finiteMax (xs : List Num) : Num :=
  ((xs.filter (fun x => (absExact x).isSome)).foldl (fun a x => match a with
    | none => some x | some y => if y.lt x then some x else some y) none).getD (.fin false 0 0)

/-- qmax of a target: the largest integer code or the largest finite value (R141). -/
def targetMax : EFmt → Num
  | .int n => intNum (2 ^ (n - 1) - 1) 0
  | .flt f => f.decode f.maxCode

/-- |x| / q rounded to fp32. -/
def rnd32Div (x q : Num) : Nat :=
  match x, q with
  | .fin _ m e, .fin _ k g => fp32.rnd { neg := false, num := m, den := max k 1, e := e - g }
  | _, _ => 0

/-- S kept between 2^−149 and the largest finite value (R141). -/
def clampS (S : Nat) : Nat := max 1 (min S 0x7F7FFFFF)

/-- Exact a − b of finite values. -/
def subNum : Num → Num → Num
  | .fin a m e, .fin b k g => let s := addFin a m e (!b) k g; .fin s.neg s.num s.e
  | _, _ => .nan

/-- The dynamic scale of a channel (R141, R142). -/
def dynChan (f : EFmt) (symmetric : Bool) (xs : List Num) : Chan :=
  let mn := finiteMin xs
  let mx := finiteMax xs
  let q := targetMax f
  let qhi : Int := match f with | .int n => 2 ^ (n - 1) - 1 | .flt _ => 0
  let qlo : Int := match f with | .int n => -(2 ^ (n - 1) : Int) | .flt _ => 0
  if mn.eqv mx then
    let S := if mn.eqv (.fin false 0 0) then 0x3F800000 else rnd32Div mn q
    { S, Z := 0, lo := -qhi, hi := qhi, degen := some mn }
  else
    let isInt := match f with | .int _ => true | .flt _ => false
    if symmetric || !isInt then
      let big := amax [mn, mx]
      { S := clampS (rnd32Div (.fin false big.num big.e) q), Z := 0, lo := -qhi, hi := qhi, degen := none }
    else
      let a := if mn.lt (.fin false 0 0) then mn else .fin false 0 0
      let b := if (Num.fin false 0 0).lt mx then mx else .fin false 0 0
      let S := clampS (rnd32Div (subNum b a) (intNum (qhi - qlo) 0))
      let ra : Int := match (divS a S).2 with | some x => x.toInt .rne | none => 0
      { S, Z := (clampInt qlo qhi (qlo - ra)).1, lo := qlo, hi := qhi, degen := none }

/-- The static scale of a descriptor (R141). -/
def staticChan (f : EFmt) (S : Nat) (Z : Int) : Chan :=
  match f with
  | .int n => { S, Z, lo := -(2 ^ (n - 1) : Int), hi := 2 ^ (n - 1) - 1, degen := none }
  | .flt _ => { S, Z := 0, lo := 0, hi := 0, degen := none }

/-- S × (code − Z) for an integer target, S × value for a floating one (R143). -/
def chanDeq (c : Chan) (v : Num) : Num := mulNum (fp32.decode c.S) v

/-- One element under channel scaling (R141, R142). -/
def chanElem (f : EFmt) (ieee : Bool) (mode : Rounding) (c : Chan) (v : Num) : Conv :=
  match c.degen, absExact v with
  | some k, some _ =>
    let neg := k.sign && !k.eqv (.fin false 0 0)
    match f with
    | .int n =>
      let code : Int := if k.eqv (.fin false 0 0) then 0 else if neg then -c.hi else c.hi
      { code := intCode n code, excess := false, nan := false, deq := k }
    | .flt g =>
      { code := if k.eqv (.fin false 0 0) then g.withSign k.sign 0 else g.withSign neg g.maxCode
        excess := false, nan := false, deq := k }
  | _, _ =>
    match f with
    | .int n =>
      match v, (divS v c.S).2 with
      | .nan, _ => { code := 0, excess := false, nan := true, deq := .nan }
      | .inf s, _ => { code := intCode n (if s then c.lo else c.hi), excess := true, nan := false, deq := .inf s }
      | _, some x =>
        let (r, o) := clampInt c.lo c.hi (x.toInt mode + c.Z)
        { code := intCode n r, excess := o, nan := false, deq := chanDeq c (intNum (r - c.Z) 0) }
      | _, none => { code := 0, excess := false, nan := false, deq := .nan }
    | .flt g =>
      match v, (divS v c.S).2 with
      | .fin _ _ _, some x =>
        let (r, o) := g.round ieee mode x
        { code := r, excess := o, nan := false, deq := chanDeq c (g.decode r) }
      | w, _ =>
        let (r, o, z) := g.convert ieee mode w
        { code := r, excess := o, nan := z, deq := w }

/-- One element without scaling (R133, R134). -/
def plainElem (f : EFmt) (ieee : Bool) (mode : Rounding) (v : Num) : Conv :=
  let (c, o, z) := f.convert ieee mode v
  { code := c, excess := o, nan := z, deq := f.decode c }

/-- The 128-bit scale record of a channel (R143). -/
def scaleRecord (c : Chan) : List Byte :=
  let k := match c.degen with | some v => fp32.ofNum v | none => 0
  leBytes 8 (c.S + intCode 16 c.Z * 2 ^ 32 + b2n c.degen.isSome * 2 ^ 48) ++ leBytes 8 k

/-- fp32 code of a non-negative exact value rounded toward +infinity (R155). -/
def ceil32 (x : Exact) : Nat :=
  if x.num = 0 then 0
  else
    let ue := max (floorLog2 x.num x.den + x.e) fp32.emin - 23
    let (a, b) := scaleBy x.num x.den (x.e - ue)
    let code := ((ue + 149).toNat) * 2 ^ 23 + (a + b - 1) / b
    min code 0x7F800000

/-- (m × 2^e)² in units of 2^−320 (R155). -/
def squareUnits (m : Nat) (e : Int) : Nat :=
  let k := 2 * e + 320
  if 0 ≤ k then m * m * 2 ^ k.toNat else m * m / 2 ^ (-k).toNat

end Sys2Proof.Machine
end

