-- ==== Sys2Proof/Machine/Quant.lean ====
section
/-!
DEFINITION. The quantiser unit (R133 to R156): streams, words, vectors, SRAM passes, statistics slots and the snapshot.
-/
namespace Sys2Proof.Machine

def State.slot (s : State) (n c q : Nat) : StatSlot := Sparse.get {} (s.quant n c).slots q
def State.setSlot (s : State) (n c q : Nat) (x : StatSlot) : State :=
  let k := s.quant n c
  s.setQuant n c { k with slots := Sparse.set {} k.slots q x }

/-- A stream's descriptor (R149, `QDESC`). -/
structure QCfg where
  op : Nat
  src : Nat
  dst : Nat
  sfmt : Nat
  dfmt : Nat
  scale : Nat
  rot : Nat
  weight : Bool
  rnd : Bool
  entropy : Bool
  ieee : Bool
  stats : Bool
  xlo : Nat
  xhi : Nat
  chanLen : Nat
  gexp : Int
  S : Nat
  Z : Int
  rseed : W64
  tid : Nat
  base : Nat
deriving DecidableEq, Repr

/-- The descriptor of stream `q` as it stands (R149). -/
def State.qcfg (s : State) (n c q : Nat) : QCfg :=
  let i := [n, c, q]
  { op := s.rd QDESC0.op i, src := s.rd QDESC0.src i, dst := s.rd QDESC0.dst i, sfmt := s.rd QDESC0.sfmt i
    dfmt := s.rd QDESC0.dfmt i, scale := s.rd QDESC0.scale i, rot := rotSize (s.rd QDESC0.rot i)
    weight := s.flag QDESC0.rot_dir i, rnd := s.flag QDESC0.rnd i, entropy := s.flag QDESC0.seed_src i
    ieee := s.flag QDESC0.e5m2_ieee i, stats := s.flag QDESC0.stats i, xlo := s.rd QDESC0.xlo i, xhi := s.rd QDESC0.xhi i
    chanLen := s.rd QDESC0.chan_len i + 1, gexp := intOf 8 (s.rd QDESC0.gexp i), S := s.rd QDESC2.S i
    Z := intOf 16 (s.rd QDESC2.Z i), rseed := BitVec.ofNat 64 (s.rd QDESC5.rseed i), tid := s.rd QDESC6.tid i
    base := s.rd QDESC6.base i }

/-- Elements a conversion takes together: a channel, a block or a rotation group. -/
def QCfg.group (k : QCfg) : Nat :=
  if 2 ≤ k.scale then k.chanLen
  else if (blockFmt k.dfmt).isSome then max 32 k.rot else k.rot

/-- Values of source codes that need no block scale. -/
def QCfg.values (k : QCfg) (codes : List Nat) : List Num :=
  match eFmt k.sfmt with
  | some f => codes.map f.decode
  | none => codes.map (fun _ => .nan)

/-- A list cut into pieces of `n`, at most `fuel` of them. -/
def chunks {α : Type} (n : Nat) : Nat → List α → List (List α)
  | 0, _ => []
  | k + 1, l => if l.isEmpty then [] else l.take n :: chunks n k (l.drop n)

/-- Working values of a list of source values (R133, R144): rotated, rounded to fp32 for a channel scale, or exact. A last
rotation group that a pass leaves short has no stated result: its outputs are free values from number `free` on (log 25). -/
def QCfg.working (k : QCfg) (free : Nat) (xs : List Num) : List Num :=
  if k.rot ≠ 1 then
    ((chunks k.rot xs.length xs).flatMap (fun g =>
      if g.length = k.rot then (rotate k.rot k.weight k.rseed g).map fp32.decode
      else g.zipIdx.map (fun p => fp32.decode (Config.freeNat (free + p.2) % 2 ^ 32)))).map (Num.scale k.gexp)
  else if k.scale ≠ 0 then xs.map (fun x => (fp32.decode (fp32.ofNum x)).scale k.gexp)
  else xs.map (Num.scale k.gexp)

/-- Rounding of the element of logical index `idx` (R134, R135). -/
def QCfg.mode (k : QCfg) (seed : W64) (idx : Nat) : Rounding := if k.rnd then .bits (rbits seed k.tid idx) else .rne

/-- Conversion of one group of working values (R138 to R142): elements, block scales, channel parameters. -/
def QCfg.convert (k : QCfg) (seed : W64) (idx : Nat) (w : List Num) : List Conv × List (Nat × Nat × Nat) × List Chan :=
  match blockFmt k.dfmt, eFmt k.dfmt with
  | some f, _ =>
    let bs := chunks 32 w.length w
    let sc := bs.map (blockScale f k.xlo k.xhi)
    (((bs.zip sc).zipIdx.flatMap (fun p => p.1.1.zipIdx.map (fun e =>
      blockElem f k.ieee (k.mode seed (idx + 32 * p.2 + e.2)) p.1.2.1 (if e.2 < 16 then p.1.2.2.1 else p.1.2.2.2) e.1))), sc, [])
  | none, some f =>
    if k.scale = 0 then (w.zipIdx.map (fun e => plainElem f k.ieee (k.mode seed (idx + e.2)) e.1), [], [])
    else
      let ch := if k.scale = 1 then staticChan f k.S k.Z else dynChan f (k.scale == 2) w
      (w.zipIdx.map (fun e => chanElem f k.ieee (k.mode seed (idx + e.2)) ch e.1), [], [ch])
  | none, none => ([], [], [])

/-- One element's share of a statistics slot (R155, R137). -/
def StatSlot.count1 (x : StatSlot) (w : Num) (v : Conv) : StatSlot :=
  let x1 := { x with sat := min (x.sat + b2n v.excess) (2 ^ 32 - 1), nan := min (x.nan + b2n v.nan) (2 ^ 32 - 1) }
  match w with
  | .fin _ _ _ =>
    let x2 :=
      if x1.seen then
        { x1 with minv := if w.lt (fp32.decode x1.minv) then fp32.ofNum w else x1.minv
                  maxv := if (fp32.decode x1.maxv).lt w then fp32.ofNum w else x1.maxv }
      else { x1 with seen := true, minv := fp32.ofNum w, maxv := fp32.ofNum w }
    match subNum w v.deq with
    | .fin _ m e =>
      { x2 with sse := (x2.sse + squareUnits m e) % 2 ^ 640, count := (x2.count + 1) % 2 ^ 64
                maxErr := max x2.maxErr (ceil32 (exactOf false m e)) }
    | _ => x2
  | _ => x1

/-- Statistics of a converted group, if the stream keeps them (R155). -/
def State.qStats (s : State) (n c q : Nat) (k : QCfg) (w : List Num) (v : List Conv) (ch : List Chan) : State :=
  if k.stats then
    let x := (w.zip v).foldl (fun acc p => acc.count1 p.1 p.2) (s.slot n c q)
    s.setSlot n c q { x with degen := min (x.degen + countIf (fun y => y.degen.isSome) ch) (2 ^ 32 - 1), tid := k.tid }
  else s

/-- Marks of the words numbered in a list. -/
def marksOf (ms : List WordMark) (ws : List Nat) : List WordMark := ms.filter (fun m => ws.contains m.num)

/-- Marks an output takes (R149): those of its first word, statuses joined, FAULT where beat or copy differ. -/
def joinMarks (ms : List WordMark) : W16 × BitVec 4 × W16 × Nat :=
  match ms with
  | [] => (0, 0, 0, 0)
  | m :: r =>
    (m.tag, (r.foldl (fun a x => a ||| x.status) m.status) |||
      (if r.any (fun x => x.beat != m.beat || x.copy != m.copy) then stFault else 0), m.beat, m.copy)

/-- A token on the notify edge leaves when a credit is held, else waits (R92). -/
def State.qNotify (s : State) (n c q : Nat) (t : Token) : State :=
  let x := s.stream n c q
  if x.credit = 0 ∨ ¬ x.waitOut.isEmpty ∨ s.markBlocked (.quant n c q) = true then s.setStream n c q { x with waitOut := x.waitOut ++ [t] }
  else (s.setStream n c q { x with credit := x.credit - 1 }).send { tok := t, edge := .quant n c q }

/-- The token of a gallery output or completion (R149). -/
def State.notifyTok (s : State) (n c q operand : Nat) (data : W64) (m : W16 × BitVec 4 × W16 × Nat) : Token :=
  { data, addr := BitVec.ofNat 28 (s.rd QDESC1.notify [n, c, q]), index := s.rd QDESC1.notify_index [n, c, q], operand
    tag := m.1, prompt := s.cluPrompt n c, epoch := s.rd QSTAT.epoch [n, c], status := m.2.1, beat := m.2.2.1, copy := m.2.2.2 }

/-- Arrays the quantiser of physical cluster `c` feeds (R113, R149). -/
def State.fedArrays (s : State) (n c : Nat) : List Nat :=
  (List.range 4).filter (fun a => s.flag AFEED.enable [n, a] && s.rd AFEED.cluster [n, a] == s.logClu n c
    && s.arrPrompt n a == s.cluPrompt n c)

/-- Block exponents and sub-scales of a vector as `xexp` and `xsub` (R106). -/
def packScales (sc : List (Nat × Nat × Nat)) : W64 × W32 :=
  (BitVec.ofNat 64 ((sc.zipIdx.foldl (fun a p => a + p.1.1 * 2 ^ (8 * p.2)) 0)),
   BitVec.ofNat 32 ((sc.zipIdx.foldl (fun a p => a + (p.1.2.1 + 4 * p.1.2.2) * 2 ^ (4 * p.2)) 0)))

/-- Element codes packed into bytes at a lane width (R130). -/
def packBytes (bits : Nat) (l : List Nat) : List Byte :=
  leBytes ((l.length * bits + 7) / 8) (l.zipIdx.foldl (fun a p => a + p.1 % 2 ^ bits * 2 ^ (bits * p.2)) 0)

/-- Elements a vector or an output word of the stream holds (R149). -/
def QCfg.outSize (k : QCfg) : Nat :=
  if k.dst = 0 then (if fmtLane k.dfmt = 4 then 256 else 128) else 64 / fmtLane k.dfmt

/-- One full vector goes to the array feed (R107, R149). -/
def State.feedVector (s : State) (n c q : Nat) (k : QCfg) (els : List OutElem) (sc : List (Nat × Nat × Nat)) : State :=
  let x := s.stream n c q
  let nacc := s.rd QDESC3.n_acc [n, c, q] + 1
  let tmpl := s.rd QDESC3.header [n, c, q]
  let m := joinMarks (marksOf x.marks (els.flatMap (·.words)))
  let h0 := if x.fillDue then tmpl else setBits tmpl 3 8 0
  let h1 := setBits (setBits (setBits h0 1 1 (b2n (x.chunk == 0))) 2 1 (b2n (x.chunk + 1 == nacc))) 27 12 x.chunk
  let (xe, xs) := packScales sc
  let v : Vec := { data := packBytes (fmtLane k.dfmt) (els.map (·.code)), xexp := xe, xsub := xs, header := BitVec.ofNat 64 h1
                   tag := m.1, epoch := s.rd QSTAT.epoch [n, c], status := m.2.1, beat := m.2.2.1, copy := m.2.2.2 }
  let s1 := s.setStream n c q { x with chunk := (x.chunk + 1) % nacc, fillDue := false }
  match s1.fedArrays n c with
  | [] => s1
  | a :: _ => { s1 with feed := s1.feed ++ [(n, a, v)] }

/-- One full output word goes to the notify address (R149). -/
def State.galleryWord (s : State) (n c q : Nat) (k : QCfg) (els : List OutElem) : State :=
  let x := s.stream n c q
  let m := joinMarks (marksOf x.marks (els.flatMap (·.words)))
  let d := BitVec.ofNat 64 (leNat (packBytes (fmtLane k.dfmt) (els.map (·.code))))
  (s.setStream n c q { x with outWord := x.outWord + 1 }).qNotify n c q (s.notifyTok n c q (x.outWord % 8) d m)

/-- Full vectors or words leave while there are enough converted elements. -/
def State.qDrain (s : State) (n c q : Nat) (k : QCfg) : Nat → State
  | 0 => s
  | fuel + 1 =>
    let x := s.stream n c q
    let m := k.outSize
    if x.outs.length < m ∨ m = 0 then s
    else
      let els := x.outs.take m
      let nb := if (blockFmt k.dfmt).isSome then m / 32 else 0
      let s1 := s.setStream n c q { x with outs := x.outs.drop m, scales := x.scales.drop nb }
      (if k.dst = 0 then s1.feedVector n c q k els (x.scales.take nb) else s1.galleryWord n c q k els).qDrain n c q k fuel

/-- Whole groups of waiting source elements are converted (R133 to R142, R151). -/
def State.qConvert (s : State) (n c q : Nat) (k : QCfg) : Nat → State
  | 0 => s
  | fuel + 1 =>
    let x := s.stream n c q
    let g := k.group
    if x.elems.length < g ∨ g = 0 then s
    else
      let src := x.elems.take g
      let w := k.working s.fresh (k.values (src.map (·.code)))
      let (v, sc, ch) := k.convert (BitVec.ofNat 64 x.seed) x.elemIdx w
      let words := (src.map (·.word)).eraseDups
      let outs := (v.zip src).map (fun p => ({ code := p.1.code, words := if k.rot ≠ 1 then words else [p.2.word] } : OutElem))
      let s1 := s.setStream n c q { x with
        elems := x.elems.drop g, elemIdx := (x.elemIdx + g) % 2 ^ 40, outs := x.outs ++ outs, scales := x.scales ++ sc }
      (s1.qStats n c q k w v ch).qConvert n c q k fuel

/-- Marks of words that no waiting element needs any more are forgotten. -/
def Stream.trimMarks (x : Stream) : Stream :=
  let live := x.elems.map (·.word) ++ x.outs.flatMap (·.words)
  { x with marks := x.marks.filter (fun m => live.contains m.num) }

/-- Source elements join a stream and go through it. -/
def State.qTake (s : State) (n c q : Nat) (k : QCfg) (codes : List Nat) (m : WordMark) : State :=
  let x := s.stream n c q
  let s1 := s.setStream n c q { x with
    elems := x.elems ++ codes.map (fun e => { code := e, word := m.num }), marks := x.marks ++ [m], wordPos := x.wordPos + 1 }
  let s2 := s1.qConvert n c q k (x.elems.length + codes.length + 1)
  let s3 := s2.qDrain n c q k ((s2.stream n c q).outs.length + 1)
  s3.setStream n c q (s3.stream n c q).trimMarks

/-- A discarded word returns its credit (R92, R151). -/
def State.qDiscard (s : State) (n c : Nat) (f : Flit) : State := (s.bump QCNT.discard [n, c]).owe f.edge

/-- A gallery word reaches a stream of the quantiser of physical cluster `c` (R149 to R151). -/
def State.quantWord (s0 : State) (n c : Nat) (f0 : Flit) (t : Nat) : State :=
  let q := f0.tok.index
  let s := (s0.upTo t).arrive (.quant n c q) f0
  let k := s.qcfg n c q
  let x := s.stream n c q
  let ep := s.rd QSTAT.epoch [n, c]
  let f := s.relabel n ep f0
  if f.tok.kind = 3 then s
  else if f.tok.epoch ≠ ep ∨ k.op ≠ 1 ∨ k.src ≠ 0 ∨ x.started = false then (s.qDiscard n c f)
  else
    let bad := f.tok.operand ≠ x.wordPos % 8
    let s1 := if bad then (s.bump QCNT.order [n, c]).wr QSTAT.order_fault [n, c] 1 else s
    let lane := fmtLane k.sfmt
    let codes := (List.range (64 / lane)).map (fun j => bitsOf f.tok.data.toNat (j * lane) lane)
    let m : WordMark := { num := x.wordPos, tag := f.tok.tag, beat := f.tok.beat, copy := f.tok.copy
                          status := f.tok.status ||| (if bad then stFault else 0) }
    ((s1.owe f.edge).qTake n c q k codes m)

/-- A gallery word reaches a quantiser (R149 to R151). -/
def execQuantWord (n c : Nat) (f0 : Flit) (t : Nat) (s0 : State) : Host.Outcome State Fault Refusal := .next (s0.quantWord n c f0 t)

/-- The running stream of a cluster whose source is the array return (R149, R153). -/
def State.returnStream (s : State) (n c : Nat) : Option Nat :=
  (List.range 16).find? (fun q => s.rd QDESC0.op [n, c, q] == 1 && s.rd QDESC0.src [n, c, q] == 1 && (s.stream n c q).started)

/-- Array return lines reach the quantiser of physical cluster `c` (R121, R149, R151; log 24). -/
def execQuantReturn (n c : Nat) (t : Nat) (s0 : State) : Host.Outcome State Fault Refusal :=
  let s := s0.upTo t
  match s.returns.find? (fun r => r.die == n && r.clu == s.logClu n c) with
  | none => .next s
  | some r =>
    let s1 := { s with returns := eraseFirst r s.returns }
    match s1.returnStream n c with
    | none => .next (s1.bump QCNT.discard [n, c])
    | some q =>
      if r.epoch ≠ s1.rd QSTAT.epoch [n, c] then .next (s1.bump QCNT.discard [n, c])
      else
        let k := s1.qcfg n c q
        let lane := fmtLane k.sfmt
        let codes := (List.range (r.bytes.length * 8 / lane)).map (fun j => bitsOf (leNat r.bytes) (j * lane) lane)
        .next (s1.qTake n c q k codes
          { num := (s1.stream n c q).wordPos, tag := r.tag, status := r.status, beat := r.beat, copy := r.copy })

/-! ### SRAM passes (R149, R151, R154) -/

/-- Bytes of SRAM from byte address `a`, `n` of them (R85). -/
def sramBytes (m : Sparse W64) (a n : Nat) : List Byte :=
  (List.range n).map (fun i => BitVec.ofNat 8 (bitsOf (Sparse.get 0 m ((a + i) / 8)).toNat (8 * ((a + i) % 8)) 8))

/-- One byte stored into SRAM words. -/
def sramSetByte (m : Sparse W64) (a : Nat) (b : Byte) : Sparse W64 :=
  Sparse.set 0 m (a / 8) (BitVec.ofNat 64 (setBits (Sparse.get 0 m (a / 8)).toNat (8 * (a % 8)) 8 b.toNat))

/-- Bytes stored into SRAM from byte address `a`. -/
def sramSetBytes (m : Sparse W64) (a : Nat) : List Byte → Sparse W64
  | [] => m
  | b :: bs => sramSetBytes (sramSetByte m a b) (a + 1) bs

/-- Bytes of an element plane of `n` elements. -/
def planeBytes (fmt n : Nat) : Nat := (n * fmtLane fmt + 7) / 8

/-- The scale plane of an element plane at `a` begins at the next 128-byte boundary (R131). -/
def scalePlane (a fmt n : Nat) : Nat := (a + planeBytes fmt n + 127) / 128 * 128

/-- End of what a tensor of `n` elements takes, scale plane included; channel records of 16 bytes (R131, R143). -/
def tensorEnd (a fmt n chans : Nat) : Nat :=
  if (blockFmt fmt).isSome then scalePlane a fmt n + 2 * ((n + 31) / 32)
  else if chans = 0 then a + planeBytes fmt n else scalePlane a fmt n + 16 * chans

/-- A pass's fields (R149). -/
def passOf (t : Token) : Pass :=
  { src := bitsOf t.data.toNat 0 22, dst := bitsOf t.data.toNat 22 22, count := 32 * bitsOf t.data.toNat 44 20, start := t }

/-- Channels a pass writes records for. -/
def QCfg.passChans (k : QCfg) (n : Nat) : Nat := if 2 ≤ k.scale ∧ k.op = 1 then (n + k.chanLen - 1) / k.chanLen else 0

/-- A pass whose planes reach beyond 4 MiB, or whose addresses are misaligned, does nothing (R149). -/
def QCfg.passBad (k : QCfg) (p : Pass) : Bool :=
  p.src % 128 != 0 || decide (0x400000 < tensorEnd p.src k.sfmt p.count 0) ||
  (k.op == 1 && (p.dst % 128 != 0 || decide (0x400000 < tensorEnd p.dst k.dfmt p.count (k.passChans p.count))))

/-- Source values of a pass (R131, R132). -/
def QCfg.passValues (k : QCfg) (m : Sparse W64) (p : Pass) : List Num :=
  let lane := fmtLane k.sfmt
  let bytes := leNat (sramBytes m p.src (planeBytes k.sfmt p.count))
  (List.range p.count).map (fun i =>
    let code := bitsOf bytes (i * lane) lane
    match blockFmt k.sfmt, eFmt k.sfmt with
    | some f, _ =>
      let w := leNat (sramBytes m (scalePlane p.src k.sfmt p.count + 2 * (i / 32)) 2)
      blockDecode f code (bitsOf w 0 8) (match f with | .qb _ => bitsOf w (8 + 2 * (i % 32 / 16)) 2 | _ => 0)
    | none, some f => f.decode code
    | none, none => .nan)

/-- The whole conversion of a pass, group by group: elements, scale words, channels. -/
def QCfg.passConvert (k : QCfg) (seed : W64) (idx : Nat) (w : List Num) : List Conv × List (Nat × Nat × Nat) × List Chan :=
  (chunks (max 1 (if 2 ≤ k.scale then k.chanLen else 32)) w.length w).foldl (fun acc g =>
    let (v, sc, ch) := k.convert seed ((idx + acc.1.length) % 2 ^ 40) g
    (acc.1 ++ v, acc.2.1 ++ sc, acc.2.2 ++ ch)) ([], [], [])

/-- The seed of a pass or start (R154): descriptor word 4, or hardware entropy unless STRICT is 1. -/
def State.takeSeed (s : State) (n c q : Nat) : State :=
  let x := s.stream n c q
  if s.flag QDESC0.seed_src [n, c, q] then
    if s.flag DETSTAT.strict [] then
      (s.setStream n c q { x with seed := s.rd QDESC4.seed [n, c, q] }).wr QSTAT.strict_forced [n, c] 1
    else
      let (v, s1) := s.draw
      let w : W64 := BitVec.ofNat 64 v
      let s2 : State := { s1 with jobs := s1.jobs.map (fun j =>
        if j.dies.contains n then { j with prov := { j.prov with seeds := j.prov.seeds ++ [((s1.die n).logical, s1.logClu n c, q, j.prov.seeds.length, w)] } } else j) }
      s2.setStream n c q { x with seed := v % 2 ^ 64 }
  else s.setStream n c q { x with seed := s.rd QDESC4.seed [n, c, q] }

/-- Wide accesses of a plane, one for each 128-byte line (R87). -/
def wideLines (who : Requester) (a n : Nat) (op : AccOp) (t : Nat) : List Access :=
  (List.range ((n + 127) / 128)).map (fun i => { who, addr := a + 128 * i, op, arrived := t })

/-- A start token begins an SRAM pass of its stream, or queues it behind the one that runs (R149). Its reads arrive at the banks. -/
def execSramPass (n c : Nat) (f0 : Flit) (t : Nat) (s0 : State) : Host.Outcome State Fault Refusal :=
  let q := f0.tok.index
  let s := (s0.upTo t).arrive (.quant n c q) f0
  let k := s.qcfg n c q
  let x := s.stream n c q
  let ep := s.rd QSTAT.epoch [n, c]
  let f := s.relabel n ep f0
  if f.tok.epoch ≠ ep ∨ k.op = 0 ∨ k.src ≠ 2 ∨ x.started = false then .next (s.qDiscard n c f)
  else
    let p := passOf f.tok
    let s1 := (s.owe f.edge).setStream n c q { x with passes := x.passes ++ [p] }
    if k.passBad p then .next s1
    else
      let y := s1.clu n c
      let ls := wideLines (.quant n c) p.src (planeBytes k.sfmt p.count) .wideRead s1.now
      .next (s1.setClu n c { y with bankQ := y.bankQ ++ ls })

/-- The running pass of stream `q` ends: its elements are converted and written, its completion token leaves (R149, R151). -/
def execPassComplete (n c q : Nat) (t : Nat) (s0 : State) : Host.Outcome State Fault Refusal :=
  let s := s0.upTo t
  let k := s.qcfg n c q
  match (s.stream n c q).passes with
  | [] => .next s
  | p :: ps =>
    let s1 := s.setStream n c q { (s.stream n c q) with passes := ps }
    let done := fun (s2 : State) (d : W64) (st : BitVec 4) =>
      s2.qNotify n c q (s2.notifyTok n c q 0 d (p.start.tag, st, p.start.beat, p.start.copy))
    if k.passBad p then
      let s2 := (s1.wr QSTAT.pass_fault [n, c] 1).fltNote 0x07 n c 11 (!s.cluPrompt n c)
      .next (done s2 0 (p.start.status ||| stFault))
    else
      let s1b := s1.takeSeed n c q
      let s2 := { s1b with fresh := s1b.fresh + 128 }
      let m := s2.clu n c
      let w := k.working s1b.fresh (k.passValues m.sram p)
      let d := BitVec.ofNat 64 (fp32.ofNum (finiteMax w) + fp32.ofNum (finiteMin w) * 2 ^ 32)
      let bank := m.bankQ.filter (fun a => a.who != .quant n c ||
        !(decide (p.src ≤ a.addr) && decide (a.addr < p.src + planeBytes k.sfmt p.count)))
      if k.op = 2 then .next (done (s2.setClu n c { m with bankQ := bank }) d p.start.status)
      else
        let idx := (k.base + p.start.tag.toNat * 2 ^ 25) % 2 ^ 40
        let (v, sc, ch) := k.passConvert (BitVec.ofNat 64 (s2.stream n c q).seed) idx w
        let m1 := sramSetBytes m.sram p.dst (packBytes (fmtLane k.dfmt) (v.map (·.code)))
        let at_ := scalePlane p.dst k.dfmt p.count
        let m2 := if (blockFmt k.dfmt).isSome then
            sramSetBytes m1 at_ (sc.flatMap (fun x => leBytes 2 (x.1 + x.2.1 * 2 ^ 8 + x.2.2 * 2 ^ 10)))
          else if 2 ≤ k.scale then sramSetBytes m1 at_ (ch.flatMap scaleRecord) else m1
        let s3 := (s2.setClu n c { m with sram := m2, bankQ := bank }).qStats n c q k w v ch
        let s4 := if k.stats then s3.setSlot n c q { s3.slot n c q with seed := (s3.stream n c q).seed } else s3
        .next (done s4 d p.start.status)

/-! ### Start, epoch change, snapshot -/

/-- Valid logical sets that a stream's vectors meet in the register its header names: the one a load fills it from, and those the
headers of the array's streams have it filled with (R107, R110, R177). -/
def State.streamSets (s : State) (n c a q : Nat) : List Nat :=
  let r := bitsOf (s.rd QDESC3.header [n, c, q]) 0 1
  let asked := (List.range 16).filterMap (fun p =>
    let h := s.rd QDESC3.header [n, c, p]
    if s.rd QDESC0.op [n, c, p] = 1 ∧ s.rd QDESC0.dst [n, c, p] = 0 ∧ bitOf h 3 = true ∧ bitsOf h 4 1 = r then some (bitsOf h 5 6) else none)
  (r :: asked).eraseDups.filter (fun l => s.flag ASETDESC.valid [n, a, l])

/-- A stream's destination format is the set's input format, and its exponent range the set's window (R153). -/
def State.setFits (s : State) (n a l : Nat) (k : QCfg) : Bool :=
  match setFmt (s.rd ASETDESC.cls [n, a, l]) (s.rd ASETDESC.xfmt [n, a, l]) with
  | none => false
  | some f =>
    let lo := s.rd ASETDESC.xwin_lo [n, a, l]
    let window := k.xlo == lo && k.xhi == lo + s.rd ASETDESC.xwin_span [n, a, l]
    match blockFmt k.dfmt with
    | none => f.blk == 0 && decide (eFmt k.dfmt = some f.elem)
    | some .mxInt8 => f.blk == 1 && decide (f.elem = .int 8) && window
    | some (.mxFlt g) => f.blk == 1 && decide (f.elem = .flt g) && window
    | some (.qb w) => f.blk == 2 && decide (f.elem = .int w) && window

/-- The tests of R153 that a stream can fail when its die starts; the header bits that must be 0 are among them (DEDUCED). -/
def State.streamOk (s : State) (n c q : Nat) : Bool :=
  let k := s.qcfg n c q
  let prompt := s.cluPrompt n c
  let blk := (blockFmt k.dfmt).isSome
  let n128 := k.outSize
  !(prompt && (k.src == 2 || k.dst == 1 || decide (2 ≤ k.scale) || k.op == 2 || k.entropy))
    && !(blk && k.dst == 2) && bitsOf (s.rd QDESC3.header [n, c, q]) 1 2 == 0 && bitsOf (s.rd QDESC3.header [n, c, q]) 27 12 == 0
    && !(k.src == 1 && (List.range 16).any (fun r => r != q && s.rd QDESC0.op [n, c, r] != 0 && s.rd QDESC0.src [n, c, r] == 1))
    && !(k.dst == 0 && n128 % k.rot != 0) && !(k.scale != 0 && k.chanLen % k.rot != 0) && decide (k.chanLen ≤ 4096)
    && !(k.entropy && s.flag DETSTAT.strict [])
    && !(k.scale != 0 && blk)
    && !(k.scale == 1 && (match fp32.decode k.S with | .fin false m _ => m == 0 | _ => true))
    && !(k.scale == 1 && k.Z != 0 && (match eFmt k.dfmt with | some (.flt _) => true | _ => false))
    && !(k.dst == 0 && k.op == 1 && ((s.fedArrays n c).isEmpty
          || (s.fedArrays n c).any (fun a => (s.streamSets n c a q).any (fun l => !s.setFits n a l k))))

/-- One stream starts, or is left out with `QSTAT.cfg_error` (R153, R154). -/
def State.startStream (s : State) (n c q : Nat) : State :=
  if s.rd QDESC0.op [n, c, q] = 0 then s.setStream n c q {}
  else if s.streamOk n c q then
    let s1 := (s.setStream n c q { started := true, elemIdx := s.rd QDESC6.base [n, c, q], credit := s.rd QDESC1.credit [n, c, q] }).takeSeed n c q
    let s2 := if s1.flag QDESC0.stats [n, c, q] then
        s1.setSlot n c q { s1.slot n c q with seed := (s1.stream n c q).seed, tid := s1.rd QDESC6.tid [n, c, q] } else s1
    s2.setRaw QSTAT [n, c] (setBits (s2.raw QSTAT [n, c]) q 1 1)
  else (s.setStream n c q {}).wr QSTAT.cfg_error [n, c] 1

/-- Every stream of a cluster's quantiser starts (R153). -/
def State.startStreams (s : State) (n c : Nat) : State := (List.range 16).foldl (fun s1 q => s1.startStream n c q) s

/-- A sump marker has passed: the epoch changes and every stream counts from its beginning (R149, R151, R154). -/
def State.quantEpoch (s : State) (n c ep : Nat) : State :=
  (List.range 16).foldl (fun s1 q =>
    let x := s1.stream n c q
    if x.started then
      (s1.setStream n c q { started := true, elemIdx := s1.rd QDESC6.base [n, c, q], credit := x.credit, waitOut := x.waitOut
                            passes := x.passes, seed := x.seed }).takeSeed n c q
    else s1) (s.wr QSTAT.epoch [n, c] ep)

/-- The snapshot registers take a slot (R156). -/
def State.snapshot (s : State) (n c q : Nat) : State :=
  let x := s.slot n c q
  let s1 := (List.range 10).foldl (fun s2 w => s2.wr QSSE.sum [n, c, w] (x.sse / 2 ^ (64 * w) % 2 ^ 64)) (s.wr QSNAP.slot [n, c] q)
  let s2 := ((s1.wr QSCOUNT.value [n, c] x.count).wr QSMAXERR.value [n, c] x.maxErr).wr QSSAT.value [n, c] x.sat
  let s3 := ((s2.wr QSDEGEN.value [n, c] x.degen).wr QSNAN.value [n, c] x.nan).wr QSTENSOR.value [n, c] x.tid
  ((s3.wr QSSEED.value [n, c] x.seed).wr QSMIN.value [n, c] x.minv).wr QSMAX.value [n, c] x.maxv

/-- `QSNAP.take` copies a slot into the snapshot registers (R156). -/
def execQsnapTake (n c q : Nat) (s : State) : Host.Outcome State Fault Refusal := .next (s.snapshot n c q)

/-- `QSNAP.take` with clear also zeroes the slot at the same point (R156). -/
def execQsnapTakeClear (n c q : Nat) (s : State) : Host.Outcome State Fault Refusal :=
  .next ((s.snapshot n c q).setSlot n c q {})

end Sys2Proof.Machine
end

