-- ==== Sys2Proof/Machine/Ckpt.lean ====
section
/-!
DEFINITION. Jobs and their dies, and the files of checkpoints and freeze saves (R160, R234, R235, R252).
-/
namespace Sys2Proof.Machine

/-! ### Jobs -/

/-- Changes one job. -/
def State.setJob (s : State) (id : Nat) (f : Job → Job) : State := { s with jobs := s.jobs.map (fun j => if j.id = id then f j else j) }

/-- Dies of a job that are no standby. -/
def State.activeDies (s : State) (j : Job) : List Nat := j.dies.filter (fun n => !(s.die n).muted)

/-- Cluster numbers of a die, the spare included. -/
def allClusters : List Nat := List.range 65

/-- Physical clusters of a die in one partition. -/
def State.clusOf (s : State) (n : Nat) (prompt : Bool) : List Nat := allClusters.filter (fun c => s.cluPrompt n c == prompt)

/-- Arrays of a die in one partition. -/
def State.arraysOf (s : State) (n : Nat) (prompt : Bool) : List Nat := (List.range 4).filter (fun a => s.arrPrompt n a == prompt)

/-- The physical hen of index 64 × cluster + hen, both logical (R161). -/
def State.henAt (s : State) (n idx : Nat) : HenRef :=
  let c := s.physClu n (idx / 64)
  ⟨n, c, s.physHen n c (idx % 64)⟩

/-- An ox pair of a die. -/
def State.ox (s : State) (n p : Nat) : Ox := Sparse.get {} s.oxs (key2 n p)
def State.setOx (s : State) (n p : Nat) (x : Ox) : State := { s with oxs := Sparse.set {} s.oxs (key2 n p) x }

/-! ### Records (R160) -/

/-- A record of an image, a checkpoint or a freeze save. -/
structure Rec where
  kind : Nat
  die : Nat
  unit : Nat
  body : List Byte
deriving DecidableEq, Repr

/-- The bytes of a record, its length a multiple of 8. -/
def Rec.bytes (r : Rec) : List Byte :=
  leBytes 2 (r.kind % 256 + r.die % 16 * 256) ++ leBytes 2 r.unit ++ leBytes 4 (8 + (r.body.length + 7) / 8 * 8)
    ++ r.body ++ List.replicate ((8 - r.body.length % 8) % 8) 0

/-- Records placed back to back, to the end of the bytes; `none` where the framing is wrong. `fuel` bounds their number. -/
def recordsIn : Nat → List Byte → Option (List Rec)
  | 0, bs => if bs.isEmpty then some [] else none
  | fuel + 1, bs =>
    if bs.isEmpty then some []
    else
      let n := pnum bs 4 4
      let w := pnum bs 0 2
      if n < 8 ∨ n % 8 ≠ 0 ∨ bs.length < n ∨ 4096 ≤ w then none
      else
        match recordsIn fuel (bs.drop n) with
        | some r => some ({ kind := w % 256, die := w / 256, unit := pnum bs 2 2, body := (bs.take n).drop 8 } :: r)
        | none => none

/-- Records of a byte string. -/
def records (bs : List Byte) : Option (List Rec) := recordsIn (bs.length / 8) bs

/-! ### Checkpoints (R234, R235) -/

/-- Header of a checkpoint or save (R235, R252): `word` the upper half of its barrier word. -/
def State.ckHeader (s : State) (j : Job) (magic total word seq : Nat) : List Byte :=
  leBytes 4 magic ++ leBytes 4 1 ++ leBytes 8 total ++ fitTo 32 j.prov.image ++ leBytes 8 j.id ++ leBytes 1 j.rank ++ leBytes 1 j.modules
    ++ leBytes 2 word ++ leBytes 4 s.part.identityCode ++ leBytes 8 j.seed ++ leBytes 8 s.rawTicks ++ leBytes 8 seq ++ List.replicate 40 0

/-- A whole file: header, records, digest of all before it (R235). -/
def State.ckFile (s : State) (j : Job) (magic word seq : Nat) (rs : List Rec) : List Byte :=
  let body := rs.flatMap Rec.bytes
  let x := s.ckHeader j magic (128 + body.length + 32) word seq ++ body
  x ++ fitTo 32 (Config.shake256 x 32)

/-- Logical clusters of one partition of a die, in order. -/
def State.logClus (s : State) (n : Nat) (prompt : Bool) : List Nat :=
  (List.range 64).filter (fun l => decide (l < s.rd PARTCFG.prompt_clusters [n]) == prompt)

/-- Body of CK_ARRAY (R235): the registers by logical set. -/
def Arr.ckBody (x : Arr) : List Byte :=
  let w0 := x.regA.logical % 64 + b2n x.regA.filled * 2 ^ 6 + x.regB.logical % 64 * 2 ^ 7 + b2n x.regB.filled * 2 ^ 13
    + (match x.acc with | some a => 2 ^ 14 + a.chunk % 4096 * 2 ^ 15 | none => 0)
  leBytes 8 w0 ++
    (match x.acc with
      | none => leBytes 8 0
      | some a => leBytes 8 a.header.toNat ++
        (if a.float then (List.range 256).flatMap (fun c =>
            let k := Sparse.get [] a.piles c
            (List.range 13).flatMap (fun l => leBytes 4 ((stackAt k l).getD 0))
              ++ leBytes 4 (((List.range 13).map (fun l => if (stackAt k l).isSome then 2 ^ l else 0)).sum))
          else (List.range 512).flatMap (fun c => leBytes 8 (intCode 64 (Sparse.get 0 a.sums c)))))

/-- Body of CK_QUANT (R235): the statistics in the order of the snapshot registers. -/
def quantBody (x : Stream) (y : StatSlot) : List Byte :=
  leBytes 8 x.elemIdx ++ leBytes 8 x.chunk ++ leBytes 80 y.sse ++ leBytes 8 y.count ++ leBytes 4 y.maxErr ++ leBytes 4 y.sat
    ++ leBytes 4 y.degen ++ leBytes 4 y.nan ++ leBytes 4 y.minv ++ leBytes 4 y.maxv ++ List.replicate 16 0

/-- Records of one type of a job's checkpoint, over the logical dies in order (R235). -/
def State.ckKind (s : State) (j : Job) (kind : Nat) : List Rec :=
  if kind = 0x47 then (List.range 16).map (fun b => { kind, die := 0, unit := b, body := leBytes 8 (s.rd BARSTAT.generation [b]) })
  else
    j.map.zipIdx.flatMap (fun p =>
      let n := p.1
      let rec_ := fun (u : Nat) (b : List Byte) => ({ kind, die := p.2, unit := u, body := b } : Rec)
      let ls := s.logClus n false
      match kind with
      | 0x40 => ls.map (fun l => rec_ l (sramBytes (s.clu n (s.physClu n l)).sram 0 4194304))
      | 0x41 => ((s.die n).regions.filter (fun r => r.id != 255)).map (fun r => rec_ r.id (leBytes 8 r.tier ++
          Sparse.getBytes (if r.tier = 1 then s.tier1 n else s.tier2) r.base r.size))
      | 0x42 => ls.flatMap (fun l => (List.range 64).map (fun h =>
          let x := s.hen (s.henAt n (64 * l + h))
          rec_ (64 * l + h) ((List.range 16).flatMap (fun e => leBytes 8 ((x.baseTag e).toNat + (x.doneMask e).toNat * 2 ^ 16)))))
      | 0x43 => (s.arraysOf n false).map (fun a => rec_ a (s.arr n a).ckBody)
      | 0x44 => (s.arraysOf n false).map (fun a => rec_ a (Sparse.getBytes (s.arr n a).store 0 4194304
          ++ Sparse.getBytes (s.arr n a).sidecar 0 524288 ++ Sparse.getBytes (s.arr n a).scale 0 32768))
      | 0x45 => ls.flatMap (fun l => (List.range 16).map (fun q =>
          let c := s.physClu n l
          rec_ (16 * l + q) (quantBody (s.stream n c q) (s.slot n c q))))
      | 0x46 => ls.flatMap (fun l => (List.range 2).map (fun g =>
          rec_ (2 * l + g) ((List.range 16).flatMap (fun d => leBytes 8 ((s.goat n (s.physClu n l) g).stream d).runs))))
      | _ => [])

/-- The checkpoint of a job at barrier `b` (R235). -/
def State.checkpointFile (s : State) (j : Job) (b : Nat) : List Byte :=
  s.ckFile j 0x544B4347 (b + s.rd BARSTAT.generation [b] * 16) j.prov.ckpts
    ([0x40, 0x41, 0x42, 0x43, 0x44, 0x45, 0x46, 0x47].flatMap (s.ckKind j))

/-- The bulk partition of a job's dies is quiescent (R234). -/
def State.quiescent (s : State) (j : Job) : Bool :=
  j.dies.all (fun n =>
    (s.clusOf n false).all (fun c =>
      allClusters.all (fun h => (s.hen ⟨n, c, h⟩).ctxs.isEmpty) && (s.clu n c).slots.isEmpty &&
      (List.range 2).all (fun g => let x := s.goat n c g
        x.queues.all (fun q => q.2.entries.isEmpty && q.2.leaving == 0) && x.streams.all (fun d => d.2.run.isNone) && x.lines.isEmpty)) &&
    s.rd HISTQ.in_use [n] == 0 &&
    (List.range 64).all (fun r => (s.router n r).holds.all (fun h => h.flit.tok.prompt)))

/-! ### Freeze saves (R251, R252) -/

/-- The unit and input a cycle's back edge ends at (R163). -/
def State.backDest (s : State) (n c : Nat) : Option (UnitId × Nat) :=
  match (s.die n).cycles[c]? with
  | some x => ((s.die n).edges.find? (fun i => decide (i.src = x.backEdge))).map (fun i => (normUnit i.dst, i.input))
  | none => none

/-- Tokens of cycle `c` that its entry's held contexts hold (R251, R252). -/
def State.carryTokens (s : State) (n c : Nat) : List Token :=
  match s.backDest n c with
  | some (.hen h, e) =>
    if (List.range c).any (fun k => decide (s.backDest n k = some (.hen h, e))) then []
    else
      ((s.hen h).ctxs.filter (fun p => p.2.entry == e && !p.2.fired)).flatMap (fun p => p.2.ops.map (fun o =>
        ({ data := o.data, addr := henAddr n (s.logClu n h.clu) (s.logHen h), index := e, operand := o.k, tag := p.2.tag
           status := o.status } : Token)))
  | _ => []

/-- 24 bytes of an FZ_CARRY token (R252), and such a token read back. -/
def carryBytes (t : Token) : List Byte :=
  leBytes 8 t.data.toNat ++ leBytes 8 (t.addr.toNat + t.index % 16 * 2 ^ 28 + t.operand % 8 * 2 ^ 32 + t.tag.toNat * 2 ^ 48)
    ++ leBytes 8 t.status.toNat
def carryToken (b : List Byte) : Token :=
  let w := pnum b 8 8
  { data := BitVec.ofNat 64 (pnum b 0 8), addr := BitVec.ofNat 28 w, index := bitsOf w 28 4, operand := bitsOf w 32 3
    tag := BitVec.ofNat 16 (bitsOf w 48 16), status := BitVec.ofNat 4 (pnum b 16 8) }

/-- The save of a frozen stream (R252). -/
def State.freezeSave (s : State) (j : Job) (kT : Nat) : List Byte :=
  s.ckFile j 0x5A524647 (kT % 65536) j.prov.ckpts
    (j.map.zipIdx.flatMap (fun p => ((s.logClus p.1 true).filter (fun l => s.flag CLUCFG.state_subst [p.1, s.physClu p.1 l])).map (fun l =>
        ({ kind := 0x40, die := p.2, unit := l, body := sramBytes (s.clu p.1 (s.physClu p.1 l)).sram 0 4194304 } : Rec)))
      ++ j.map.zipIdx.flatMap (fun p => (List.range (s.die p.1).cycles.length).filterMap (fun c =>
        let ts := s.carryTokens p.1 c
        if ts.isEmpty then none else some ({ kind := 0x48, die := p.2, unit := c, body := ts.flatMap carryBytes } : Rec))))

/-- The magic, trailer and identity of a checkpoint or save fit a job (R236, R253): `image` the digest of the job's image. -/
def State.ckMatches (s : State) (j : Job) (magic : Nat) (withModules : Bool) (bs : List Byte) : Bool :=
  let n := pnum bs 8 8
  let x := bs.take n
  decide (160 ≤ n) && decide (n ≤ bs.length) && pnum x 0 4 == magic && pnum x 4 4 == 1 &&
    x.drop (n - 32) == fitTo 32 (Config.shake256 (x.take (n - 32)) 32) &&
    (x.drop 16).take 32 == fitTo 32 j.prov.image && pnum x 48 8 == j.id && pnum x 56 1 == j.rank &&
    (!withModules || pnum x 57 1 == j.modules) && pnum x 60 4 == s.part.identityCode

/-- Records of a checkpoint or save. -/
def ckRecords (bs : List Byte) : Option (List Rec) := records ((bs.take (pnum bs 8 8 - 32)).drop 128)

end Sys2Proof.Machine
end

