-- ==== Sys2Proof/Machine/Jobs.lean ====
section
/-!
DEFINITION. Jobs and their ends, drained and forced switches, and the provenance digests (R170 to R180, R226, R231, R232, R256 to R259).
-/
namespace Sys2Proof.Machine

/-! ### Provenance (R256 to R259) -/

/-- Weights of a prompt array in an epoch: each valid logical set's store set and sidecar, then the eight scale banks (R257). -/
def State.arrayWeights (s : State) (n a ep : Nat) : List Byte :=
  ((List.range 64).filter (fun l => s.flag ASETDESC.valid [n, a, l])).flatMap (fun l =>
    let st := s.setMap n a ep l
    Sparse.getBytes (s.arr n a).store (65536 * st) 65536 ++ Sparse.getBytes (s.arr n a).sidecar (8192 * st) 8192)
  ++ Sparse.getBytes (s.arr n a).scale 0 32768

/-- The weight digest of an epoch (R257). -/
def State.weightDigest (s : State) (j : Job) (ep : Nat) : List Byte :=
  fitTo 32 (Config.shake256 ((s.activeDies j).flatMap (fun n => (s.arraysOf n true).flatMap (fun a => s.arrayWeights n a ep))) 32)

/-- The history chains of a job's dies close at an instant: records from then on belong to the next epoch (R256). -/
def State.rollChains (s : State) (ns : List Nat) (at_ : Nat) : State :=
  ns.foldl (fun z n =>
    let h := Sparse.get {} z.hists n
    let h1 : Hist := { h with prevChain := z.histChain n, prevCount := z.rd HISTDCNT.records [n], since := at_ }
    let z1 : State := { z with hists := Sparse.set {} z.hists n h1 }
    (z1.setHistChain n (List.replicate 32 0)).wr HISTDCNT.records [n] 0) s

/-- The input digest of the epoch that closed, and whether its history is incomplete (R256). -/
def State.inputDigest (s : State) (j : Job) : List Byte × Bool :=
  let ns := s.activeDies j
  let one := fun n =>
    let h := Sparse.get {} s.hists n
    if s.flag HISTCFG.active [n] then fitTo 32 h.prevChain ++ leBytes 8 h.prevCount else List.replicate 40 0
  (fitTo 32 (Config.shake256 (ns.flatMap one) 32),
   ns.any (fun n => !s.flag HISTCFG.active [n] || (Sparse.get {} s.hists n).dropped))

/-- Inserts a drawn seed in ascending order of die, cluster, stream and draw (R258). -/
def seedBefore (a b : Nat × Nat × Nat × Nat × W64) : Bool :=
  decide (a.1 < b.1) || (a.1 == b.1 && (decide (a.2.1 < b.2.1) || (a.2.1 == b.2.1 && (decide (a.2.2.1 < b.2.2.1)
    || (a.2.2.1 == b.2.2.1 && decide (a.2.2.2.1 ≤ b.2.2.2.1))))))
def insertSeed (a : Nat × Nat × Nat × Nat × W64) : List (Nat × Nat × Nat × Nat × W64) → List (Nat × Nat × Nat × Nat × W64)
  | [] => [a]
  | b :: r => if seedBefore a b then a :: b :: r else b :: insertSeed a r

/-- The material of a provenance digest (R258). -/
def State.material (s : State) (j : Job) (kind seq : Nat) (prev weight input : List Byte) (incomplete forced : Bool) : List Byte :=
  let p := j.prov
  let flags := b2n (!s.flag DETSTAT.nonstrict_seen []) + 2 * b2n p.fitted + 4 * b2n j.anyId + 8 * b2n (!p.seeds.isEmpty)
    + 16 * b2n incomplete + 32 * b2n forced
  let seeds := (p.seeds.foldl (fun l x => insertSeed x l) []).flatMap (fun x => leBytes 8 x.2.2.2.2.toNat)
  [0x49, 0x41, 0x44, 0x41, 0x52, 0x50, 0x56, 0x31] ++ leBytes 4 kind ++ leBytes 4 flags ++ fitTo 32 prev ++ fitTo 32 p.image
    ++ fitTo 32 p.graph ++ fitTo 32 weight ++ fitTo 32 input ++ fitTo 32 (Config.shake256 (leBytes 8 j.seed ++ seeds) 32)
    ++ leBytes 8 j.id ++ leBytes 8 seq ++ leBytes 1 j.modules ++ leBytes 1 j.rank ++ leBytes 2 (s.activeDies j).length
    ++ leBytes 4 s.part.identityCode ++ List.replicate 24 0

/-- A digest is issued: shown in `PROVLAST` or `PROVBULK`, and written with its material to the olm (R259). -/
def State.issue_ (s : State) (kind seq : Nat) (m : List Byte) : List Byte × State :=
  let d := fitTo 32 (Config.shake256 m 32)
  let s1 := (List.range 8).foldl (fun z w => z.wr (if kind = 1 then PROVLAST.digest else PROVBULK.digest) [w] (leNat ((d.drop (4 * w)).take 4))) s
  let s2 := s1.wr (if kind = 1 then PROVSEQ.epoch else PROVRSEQ.result) [] seq
  (d, ({ s2 with issued := s2.issued ++ [(kind, seq, m, d)] }).olmWrite 0x0070 (m ++ d))

/-- The open prompt epoch of a job ends (R259): its chains are already closed; `ep` is the epoch value it ran under. -/
def State.closeEpoch (s : State) (id ep : Nat) (forced : Bool) : State :=
  match s.jobs.find? (fun j => j.id == id) with
  | none => s
  | some j =>
    let (input, inc) := s.inputDigest j
    let (d, s1) := s.issue_ 1 j.prov.epoch (s.material j 1 j.prov.epoch j.prov.last (s.weightDigest j ep) input inc forced)
    let s2 := (s.activeDies j).foldl (fun z n =>
      { z with hists := Sparse.set {} z.hists n { Sparse.get {} z.hists n with dropped := false } }) s1
    s2.setJob id (fun k => { k with prov := { k.prov with epoch := k.prov.epoch + 1, last := d } })

/-- A bulk result digest (R259). -/
def State.bulkDigest (s : State) (id : Nat) : State :=
  match s.jobs.find? (fun j => j.id == id) with
  | none => s
  | some j =>
    let input := match j.prov.inputs with | some (k, d) => if k = j.id then d else [] | none => []
    let (d, s1) := s.issue_ 2 j.prov.results (s.material j 2 j.prov.results j.prov.lastBulk [] input false false)
    s1.setJob id (fun k => { k with prov := { k.prov with results := k.prov.results + 1, lastBulk := d } })

/-! ### Freeing a partition (R179, R226) -/

/-- Contexts of a cluster's hens are freed and its slots with them, their credits returned (R92, R179). -/
def State.freeCluster (s : State) (n c ep : Nat) : State :=
  let x := s.clu n c
  let s1 := (s.putSlots n c { x with slots := [], bankQ := x.bankQ.filter (fun a => match a.who with | .ctx _ => false | _ => true)
                                     chanEpoch := (List.range 16).foldl (fun m k => Sparse.set 0 m k ep) [] } 0).oweAll (x.slots.map (·.flit.edge))
  allClusters.foldl (fun z h =>
    let r : HenRef := ⟨n, c, h⟩
    ((z.setHen r { z.hen r with ctxs := [], sendQ := [] }).wr HSTAT.live [n, c, h] 0).wr HSTAT.epoch [n, c, h] ep) s1

/-- The goats of a cluster stop and their queues are emptied (R226). -/
def State.stopGoats (s : State) (n c : Nat) : State :=
  (List.range 2).foldl (fun z g =>
    let x := z.goat n c g
    z.putGoat n c g { x with queues := [], lines := [], streams := x.streams.map (fun p => (p.1, { p.2 with run := none, waiting := none, notes := [] })) }) s

/-- Every bulk unit of a die takes an epoch at once (R170, R174, R226): contexts, slots, queues, goats and accumulations are emptied. -/
def State.setBulk (s : State) (n ep : Nat) : State :=
  let s1 := (s.clusOf n false).foldl (fun z c => ((z.freeCluster n c ep).stopGoats n c).quantEpoch n c ep) s
  let s2 := (s1.arraysOf n false).foldl (fun z a =>
    (z.putArr n a { z.arr n a with acc := none, waiting := [] }).wr ASTAT.epoch [n, a] ep) s1
  s2.setDie n { s2.die n with bulkEpoch := ep }

/-- A die's bulk partition ends its part of a job, and its epoch advances (R226). -/
def State.endBulkDie (s : State) (n : Nat) : State := s.setBulk n (((s.die n).bulkEpoch + 1) % 4)

/-- The job tag body of a JOBEND frame (R288). -/
def jobEndBody (status tag : Nat) : List Byte := leBytes 2 status ++ List.replicate 9 0 ++ leBytes 1 tag

/-- A bulk job ends on every die of this module, and on every other module unless the end came from one (R226, R232, R333). -/
def State.endJob (s : State) (id status : Nat) (remote : Bool) : State :=
  match s.jobs.find? (fun j => j.id == id && j.bulk) with
  | none => s
  | some j =>
    let s1 := j.dies.foldl (fun z n => z.endBulkDie n) s
    let mine := fun (b : Nat) => (s1.barrier b).arrivals.any (fun a => j.dies.contains a.die)
    let s2 := ((List.range 16).filter mine).foldl (fun z b => ((z.setBarrier b {}).wr BARSTAT.arrived [b] 0).wr BARSTAT.held [b] 0) s1
    let s3 := (s2.ckpts.filter (fun k => k.job == id)).foldl (fun z k => z.endCmd k.tag { status := 0x0208 }) s2
    let s4 : State := { s3 with ckpts := s3.ckpts.filter (fun k => k.job != id)
                                flt := { s3.flt with notes := s3.flt.notes.filter (fun e => !(e.bulk && j.dies.contains e.die)) } }
    let s5 := s4.setJob id (fun k => { k with bulk := false })
    let s6 := if status = 0 ∨ status = 0x0300 then s5.bulkDigest id else s5
    let s7 := if 1 < j.modules ∧ remote = false then s6.ringSend 0x25 0 s6.domNow (jobEndBody status (id % 256)) else s6
    s7.jobEvent j status

/-- The status a report ends a bulk job with (R226, R337). -/
def noteStatus (e : FltNote) : Nat :=
  match e.cause with
  | 1 => 0x0303
  | 2 => 0x0304
  | 3 => 0x0305
  | 4 => 0x0305
  | 6 => if e.cls = 0x04 then 0x0302 else 0x030A
  | 8 => 0x0306
  | 9 => 0x0307
  | 12 => 0x0309
  | 13 => 0x0301
  | _ => 0x030A

/-- The hub ends the bulk job on which the oldest report from a bulk unit falls (R226). -/
def execBulkJobEnd (t : Nat) (s0 : State) : Host.Outcome State Fault Refusal :=
  let s := s0.upTo t
  match s.flt.notes.find? (fun e => e.bulk && (match s.jobOfDie e.die with | some j => j.bulk | none => false)) with
  | none => .next s
  | some e =>
    match s.jobOfDie e.die with
    | some j => .next (s.endJob j.id (noteStatus e) false)
    | none => .next s

/-- A barrier incomplete for its limit ends its job (R231). -/
def execBarrierTimeout (b : Nat) (s0 : State) : Host.Outcome State Fault Refusal :=
  let x := s0.barrier b
  let limit := s0.rd BARTIMEOUT.limit [] * 1000000000
  match x.since, x.arrivals with
  | some f, a :: _ =>
    if limit = 0 ∨ x.release.isSome = true then .next s0
    else
      let s := s0.upTo (f + limit)
      match s.jobOfDie a.die with
      | some j => .next (s.endJob j.id 0x0308 false)
      | none => .next s
  | _, _ => .next s0

/-- Func-2 descriptors of a job, by whether each has received a start token (R232). -/
def State.finishes (s : State) (j : Job) : List Bool :=
  j.dies.flatMap (fun n => allClusters.flatMap (fun c => (List.range 2).flatMap (fun g =>
    let x := s.goat n c g
    ((List.range 16).filter (fun d => (x.desc d).kind == 4 && (x.desc d).func == 2)).map (fun d => decide (0 < (x.stream d).runs)))))

/-- A job whose finish descriptors have all started, or one of them under an armed early exit, ends as complete (R232, R248). -/
def State.tryFinish (s : State) (n : Nat) : State :=
  match s.jobOfDie n with
  | none => s
  | some j =>
    let f := s.finishes j
    if j.bulk = false ∨ f.isEmpty = true then s
    else if f.all (fun b => b) then s.endJob j.id 0 false
    else if s.flag DETSTAT.exit_armed [] ∧ f.any (fun b => b) = true then s.endJob j.id 0x0300 false
    else s

/-- A start token reaches a descriptor of a goat (R221, R231, R232). -/
def execGoatStart (n c g : Nat) (f : Flit) (t : Nat) (s : State) : Host.Outcome State Fault Refusal :=
  .next ((s.goatStart n c g f t).tryFinish n)

/-! ### Writes to the spaces of R161 -/

/-- Bytes of a table of `n` words of `k` bytes with others written over them at a byte offset. -/
def overlayWords {w : Nat} (k n : Nat) (m : Sparse (BitVec w)) (off : Nat) (bs : List Byte) : Sparse (BitVec w) :=
  let first := off / k
  let last := min n ((off + bs.length + k - 1) / k)
  let old := (List.range (last - first)).flatMap (fun i => leBytes k (Sparse.get 0 m (first + i)).toNat)
  let new := overlay old (off - k * first) bs
  (List.range (last - first)).foldl (fun z i => Sparse.set 0 z (first + i) (BitVec.ofNat w (leNat ((new.drop (k * i)).take k)))) m

/-- IMEM words and constants under a write at a byte offset. -/
def setWords32 (m : Sparse W32) (off : Nat) (bs : List Byte) : Sparse W32 := overlayWords 4 1024 m off bs
def setWords64 (m : Sparse W64) (off : Nat) (bs : List Byte) : Sparse W64 := overlayWords 8 16 m off bs

/-- Bytes written to a space of R161 but TIER (9), at the unit that serves the index. -/
def State.writeSpace (s : State) (n space idx off : Nat) (bs : List Byte) : State :=
  match space with
  | 0 => let h := s.henAt n idx
    s.setHen h { s.hen h with imem := setWords32 (s.hen h).imem off bs }
  | 1 => let h := s.henAt n idx
    s.setHen h { s.hen h with consts := setWords64 (s.hen h).consts off bs }
  | 2 => let c := s.physClu n idx
    s.setClu n c { s.clu n c with sram := sramSetBytes (s.clu n c).sram off bs }
  | 3 => s.setArr n idx { s.arr n idx with store := Sparse.setBytes (s.arr n idx).store off bs }
  | 4 => s.setArr n idx { s.arr n idx with sidecar := Sparse.setBytes (s.arr n idx).sidecar off bs }
  | 5 => s.setArr n idx { s.arr n idx with scale := Sparse.setBytes (s.arr n idx).scale off bs }
  | 6 => s.setPort n idx { s.port n idx with mem := Sparse.setBytes (s.port n idx).mem off bs }
  | 7 => let c := s.physClu n (idx / 2)
    s.setGoat n c (idx % 2) { s.goat n c (idx % 2) with mem := Sparse.setBytes (s.goat n c (idx % 2)).mem off bs }
  | 8 => s.setOx n idx { s.ox n idx with data := overlay (fitTo 262144 (s.ox n idx).data) off bs }
  | _ => s

/-- The image-store copy of a write (R167): IMEM and constants of every hen, load-time SRAM of prompt clusters, CLU registers. -/
def State.storeCopy (s : State) (n : Nat) (w : ImgWrite) : State :=
  let d := s.die n
  let x := d.store
  match w with
  | .mem _ 0 idx off bs => s.setDie n { d with store := { x with imem := Sparse.set [] x.imem idx (setWords32 (Sparse.get [] x.imem idx) off bs) } }
  | .mem _ 1 idx off bs => s.setDie n { d with store := { x with consts := Sparse.set [] x.consts idx (setWords64 (Sparse.get [] x.consts idx) off bs) } }
  | .mem _ 2 idx off bs =>
    if idx < s.rd PARTCFG.prompt_clusters [n] then
      s.setDie n { d with store := { x with sram := Sparse.set [] x.sram idx (sramSetBytes (Sparse.get [] x.sram idx) off bs) } }
    else s
  | .mem _ _ _ _ _ => s
  | .reg a v =>
    let o := a % 0x100000
    if o < 0x30000 ∨ 0x30000 + 65 * 0x2000 ≤ o then s
    else
      let l := s.logClu n ((o - 0x30000) / 0x2000)
      s.setDie n { d with store := { x with cluRegs := Sparse.set [] x.cluRegs l (Sparse.get [] x.cluRegs l ++ [((o - 0x30000) % 0x2000, v)]) } }

/-- One write of an image is made (R170, R174); one to a stream descriptor zeroes its statistics slot (R156). -/
def State.imgWrite (s : State) (n : Nat) (w : ImgWrite) : State :=
  (match w with
    | .reg a v =>
      match findReg a with
      | some (r, idx, b) =>
        let s1 := s.setRaw r idx (stored r (0xFFFFFFFF * 2 ^ (8 * b)) (v.toNat * 2 ^ (8 * b)) (s.raw r idx))
        if [QDESC0, QDESC1, QDESC2, QDESC3, QDESC4, QDESC5, QDESC6].any (fun q => r.is q) then
          s1.setSlot (idx.headD 0) (idx.getD 1 0) (idx.getD 2 0) {}
        else s1
      | none => s
    | .mem m sp idx off bs => s.writeSpace m sp idx off bs).storeCopy n w

/-- Writes of an image, in order. -/
def State.imgWrites (s : State) (n : Nat) : List ImgWrite → State
  | [] => s
  | w :: ws => (s.imgWrite n w).imgWrites n ws

/-! ### Drained switches (R174 to R178) -/

/-- A quantiser switches (R151, R176). -/
def State.quantSwitch (s : State) (n c : Nat) : State :=
  match s.marksIn (.quant n c 0) with
  | none => s
  | some r =>
    let old := s.rd QSTAT.epoch [n, c]
    (s.quantEpoch n c r.target).unitSwitched (.quant n c 0) old

/-- An array switches as the marker passes its feed (R111, R176, R177). -/
def State.arraySwitch (s : State) (n a : Nat) : State :=
  match s.marksIn (.array n a) with
  | none => s
  | some r =>
    let old := s.rd ASTAT.epoch [n, a]
    (s.arrayMark n a r.target).unitSwitched (.array n a) old

/-- An ox pair switches (R176). -/
def State.oxSwitch (s : State) (n p : Nat) : State :=
  match s.marksIn (.ox n p) with
  | none => s
  | some r =>
    let x := s.ox n p
    (s.setOx n p { x with epoch := r.target }).unitSwitched (.ox n p) x.epoch

/-- A unit switches if its markers are in (R176). -/
def State.trySwitch (s : State) (u : UnitId) : State :=
  match u with
  | .hen h => s.henSwitch h
  | .chan n c k => s.chanSwitch n c k
  | .quant n c _ => s.quantSwitch n c
  | .array n a => s.arraySwitch n a
  | .gate n g => s.gateSwitch n g
  | .port n i => s.portSwitch n i
  | .ox n p => s.oxSwitch n p
  | _ => s

/-- An install descriptor's part is over: its notify leaves and a start token that waited takes its place (R221, R238). -/
def State.installEnd (s : State) (i : InstallRec) (data : W64) (fault : Bool) : State :=
  let x := s.goat i.die i.clu i.goat
  let st := x.stream i.desc
  let next : Option GRun := st.waiting.map (fun f => { tok := f.tok, number := (st.runs + 1) % 2 ^ 32 })
  let s1 := s.putGoat i.die i.clu i.goat (x.setStream i.desc { st with run := next, waiting := none, runs := (st.runs + 1) % 2 ^ 32 })
  let s2 := match st.waiting with | some f => s1.owe f.edge | none => s1
  s2.goatNotify i.die i.clu i.goat i.desc (s2.notifyOf i.die i.clu (x.desc i.desc) i.tok.tag i.tok data fault)

/-- A freeze is complete: the save is written to its list, unless it was forced (R251, R252). -/
def State.freezeDone (s : State) (j : Job) (forced : Bool) : State :=
  let s1 := s.wr DETSTAT.stream [] 2
  match s.frozen with
  | none => s1
  | some f =>
    if forced then s1.endCmd f.cmd { status := 0x0207 }
    else
      let bs := s1.freezeSave j f.kT
      if listBytes f.list < bs.length then s1.endCmd f.cmd { status := 0x000E }
      else (s1.writeList bs f.list).endCmd f.cmd { status := 0, details := [bs.length % 2 ^ 32, bs.length / 2 ^ 32, f.kT] }

/-- A switch of a job is over on every die: the job's epoch closes, what asked for it completes (R178, R238, R251, R253). -/
def State.finishSwitch (s : State) (w : SwitchRec) : State :=
  let s1 : State := { s with switches := s.switches.filter (fun x => x.job != w.job) }
  match s1.jobs.find? (fun j => j.id == w.job) with
  | none => s1
  | some j0 =>
    let newSets := w.sets.flatMap (fun p =>
      Sparse.getBytes (s1.arr p.1 p.2.1).store (65536 * p.2.2) 65536 ++ Sparse.getBytes (s1.arr p.1 p.2.1).sidecar (8192 * p.2.2) 8192)
    let wd := fitTo 32 (Config.shake256 newSets 32)
    let mask := (w.dies.map (fun n => 2 ^ n)).sum
    let s2 := (s1.closeEpoch w.job w.old w.forced).olmWrite 0x0060 (item4 mask ++ item4 w.target ++ wd)
    let s3 := if w.image.isEmpty then s2 else s2.setJob w.job (fun k => { k with prov := { k.prov with image := w.image }, digest := w.image })
    match w.cause with
    | 0 =>
      let s4 := w.edges.foldl (fun z p => z.setDie p.1 { z.die p.1 with edges := p.2 }) s3
      let s5 := w.credits.foldl (fun z p => z.setCredit p.1 (z.creditOf p.1 + p.2.2 - p.2.1)) s4
      s5.endCmd (w.cmd - 1) { status := 0, details := [0, 0, 0, 0], word8 := some (j0.stretch % 2 ^ 32) }
    | 1 =>
      let data : W64 := BitVec.ofNat 64 (w.target % 4 + leNat wd % 2 ^ 62 * 4)
      let s4 := (s3.installs.filter (fun i => w.dies.contains i.die)).foldl (fun z i => z.installEnd i data false) s3
      { s4 with installs := s4.installs.filter (fun i => !w.dies.contains i.die) }
    | 2 => match s3.jobs.find? (fun j => j.id == w.job) with
      | some j => s3.freezeDone j w.forced
      | none => s3
    | _ => (({ s3 with frozen := none } : State).wr DETSTAT.stream [] 0).endCmd (w.cmd - 1)
        { status := 0, details := [match s3.frozen with | some f => f.kT | none => 0] }

/-- Every switch whose dies have all switched is finished (R178). -/
def State.switchDone (s : State) : State :=
  (s.switches.filter (fun w => decide (w.tPs ≤ s.now) && w.dies.all (fun n => (s.die n).reconf.isNone))).foldl (fun z w => z.finishSwitch w) s

/-- A sump marker is in at a unit, which switches when markers are in on every input edge (R175, R176). -/
def State.markerIn (s : State) (u : UnitId) (f : Flit) : State :=
  if (s.inputEdges u).contains f.edge then ((s.markArrived u f.edge).trySwitch u).switchDone else s.owe f.edge

/-- A sump marker reaches a unit (R175, R176). -/
def execMarkerArrival (u : UnitId) (f : Flit) (t : Nat) (s : State) : Host.Outcome State Fault Refusal :=
  .next (if f.tok.kind ≠ 2 then s.upTo t else ((s.upTo t).arrive (normUnit u) f).markerIn (normUnit u) f)

/-- A sump marker passes an array's feed (R111, R177). -/
def execArrayMarker (n a : Nat) (f : Flit) (t : Nat) (s0 : State) : Host.Outcome State Fault Refusal :=
  let s := (s0.upTo t).arrive (.array n a) f
  if f.tok.kind ≠ 2 then .next (s0.upTo t)
  else if (s.inputEdges (.array n a)).contains f.edge then .next (((s.markArrived (.array n a) f.edge).arraySwitch n a).switchDone)
  else .next s

/-- The words of a cluster's or an array's repair list are written back and the list is empty (R88, R127, R178). -/
def State.repairDone (s : State) (u : UnitId) : State :=
  match u with
  | .hen h =>
    (s.setClu h.die h.clu { s.clu h.die h.clu with repair := [] }).setRaw SRAMREPAIR [h.die, h.clu] 0
  | .array n a => (s.setArr n a { s.arr n a with repair := [] }).setRaw AREPAIR [n, a] 0
  | _ => s

/-- The hub writes a held unit's new state and releases it (R178). -/
def State.releaseUnit (s : State) (u : UnitId) : State :=
  let n := unitDie u
  match (s.die n).reconf with
  | none => s
  | some r =>
    if r.holding.contains u then
      let s1 := s.imgWrites n ((r.held.filter (fun h => decide (h.unit = u))).flatMap (·.writes))
      let s2 := s1.repairDone u
      let r1 := { r with holding := r.holding.filter (fun x => x ≠ u), held := r.held.filter (fun h => h.unit ≠ u) }
      ((s2.oweAll (s2.inputEdges u)).putReconf n r1).settleDie n
    else s

/-- A held unit is written and released (R178). -/
def execUnitRelease (u : UnitId) (t : Nat) (s : State) : Host.Outcome State Fault Refusal :=
  .next ((((s.upTo t).releaseUnit (normUnit u))).switchDone)

/-! ### Forced reconfiguration (R179, R180) -/

/-- The next epoch value a job may use on every die: the one after the current, held-back values passed over (R180). -/
def State.nextEpoch (s : State) (ns : List Nat) : Nat :=
  let cur := s.rd GEPOCH.epoch [ns.headD 0]
  let held := fun e => ns.any (fun n => s.flag RCFGSTAT.q_valid [n] && s.rd RCFGSTAT.q_epoch [n] == e)
  (([1, 2, 3].map (fun k => (cur + k) % 4)).find? (fun e => !held e)).getD ((cur + 1) % 4)

/-- Every prompt unit of a die takes an epoch at once (R170, R179): contexts, slots and gate entries are freed, accumulations
discarded. -/
def State.setPrompt (s : State) (n ep : Nat) : State :=
  let s1 := (s.clusOf n true).foldl (fun z c => (z.freeCluster n c ep).quantEpoch n c ep) s
  let s2 := (s1.arraysOf n true).foldl (fun z a =>
    (z.putArr n a { z.arr n a with waiting := [] }).arrayMark n a ep) s1
  let s3 := (List.range 64).foldl (fun z g => let y := z.gateClear n g; y.setGate n g { y.gate n g with epoch := ep }) s2
  let s4 := ((List.range 16).filter (fun i => s3.portPrompt n i)).foldl (fun z i => z.setPort n i { z.port n i with epoch := ep, waiting := [] }) s3
  ((List.range 8).filter (fun p => (s4.ox n p).prompt)).foldl (fun z p => z.setOx n p { z.ox n p with epoch := ep }) s4

/-- Seeds of a die's cycles through its prompt partition, or its bulk one, in an epoch. -/
def State.injectSeeds (s : State) (n ep : Nat) (prompt : Bool) : State :=
  s.sendAll (((List.range (s.die n).cycles.length).flatMap (fun c => s.seedFlits n c ep 0)).filter (fun f => f.tok.prompt == prompt))

/-- A forced reconfiguration of one die to an epoch (R179, R180). -/
def State.forceEpoch (s : State) (n ep : Nat) : State :=
  let old := s.rd GEPOCH.epoch [n]
  let writes := match (s.die n).reconf with | some r => r.held.flatMap (·.writes) | none => []
  let s1 := (s.setPrompt n ep).imgWrites n writes
  let d := s1.die n
  let wait := (List.range 16).flatMap (fun i => (s.port n i).waiting.map (fun p => (i, p.1, p.2)))
  let s2 := s1.setDie n { d with reconf := none, markOut := [], markWant := [], holdUntil := s1.now + 1000000000 }
  let s3 := wait.foldl (fun z p => z.portSend n p.1 p.2.1 { p.2.2 with epoch := ep }) s2
  let s4 := (((s3.injectSeeds n ep true).wr GEPOCH.epoch [n] ep).wr RCFGSTAT.forced [n] 1).wr RCFGSTAT.state [n] 0
  (((s4.wr RCFGSTAT.q_valid [n] 1).wr RCFGSTAT.q_epoch [n] old).wr RCFGSTAT.pending [n] 0).wr RCFGSTAT.done_at [n] s4.rawTicks

/-- Forced reconfiguration of several dies, with its record (R179). -/
def State.forceDies (s : State) (ns : List Nat) (ep : Nat) : State :=
  (ns.foldl (fun z n => z.forceEpoch n ep) s).forcedRecord ((ns.map (fun n => 2 ^ n)).sum)

/-- The switch that a die takes part in is forced on every die it names; a freeze is then complete, without a save (R179, R251). -/
def State.forceSwitch (s : State) (n : Nat) : State :=
  match s.switches.find? (fun w => w.dies.contains n) with
  | none => s
  | some w =>
    let s1 := s.forceDies w.dies w.target
    let s2 : State := { s1 with switches := s1.switches.map (fun x => if x.job = w.job then { x with forced := true } else x) }
    s2.switchDone

/-- A switch has not completed within its drain limit (R179). -/
def execDrainLimit (n : Nat) (s0 : State) : Host.Outcome State Fault Refusal :=
  match (s0.die n).reconf with
  | none => .next s0
  | some r => .next ((s0.upTo (r.tPs + r.limitPs)).forceSwitch n)

/-- One millisecond after a forced reconfiguration the retired epoch may be issued again, unless a prompt cluster's age limit is off
(R180). -/
def execEpochHoldExpiry (n : Nat) (s0 : State) : Host.Outcome State Fault Refusal :=
  if s0.flag RCFGSTAT.q_valid [n] = false then .next s0
  else
    let s := s0.upTo (s0.die n).holdUntil
    if (s.clusOf n true).any (fun c => s.rd HENCFG.age_prompt [n, c] == 0) then .next s else .next (s.wr RCFGSTAT.q_valid [n] 0)

/-- The switch time has come on a die (R175): the epoch's records end here, cycles that nothing feeds from outside get their markers at
the seeded entry, and the die drains. -/
def State.beginSwitch (s0 : State) (n : Nat) : State :=
  match (s0.die n).reconf with
  | none => s0
  | some r =>
    let s := s0.rollChains [n] r.tPs
    let entries := ((s.die n).cycles.filterMap (fun x =>
      match s.cycleEntry n x with
      | some u => if (s.inputEdges u).isEmpty then some u else none
      | none => none)).eraseDups
    (entries.foldl (fun z u => z.trySwitch u) (s.putReconf n r)).settleDie n

/-- The switch time of a die's armed update or install (R175). -/
def execSwitchTime (n : Nat) (s0 : State) : Host.Outcome State Fault Refusal :=
  match (s0.die n).reconf with
  | none => .next s0
  | some r => if 2 ≤ r.cause then .next s0 else .next (((s0.upTo r.tPs).beginSwitch n).switchDone)

/-- A switch is armed on the dies of a job (R174, R238, R251, R253). -/
def State.armSwitch (s : State) (w : SwitchRec) (limitPs : Nat) (held : List (Nat × HeldWrite)) : State :=
  let s1 := w.dies.foldl (fun z n =>
    let r : Reconf := { target := w.target, tPs := w.tPs, limitPs, cause := w.cause
                        held := (held.filter (fun h => h.1 == n)).map (·.2) }
    (z.putReconf n r).wr RCFGTIME.t [n] (w.tPs / tickPs)) s
  { s1 with switches := s1.switches ++ [w] }

/-- The current map of every prompt array of the named dies becomes the map of a new epoch (R174, R238). -/
def State.copyMaps (s : State) (ns : List Nat) (old new : Nat) : State :=
  ns.foldl (fun z n => (z.arraysOf n true).foldl (fun y a =>
    (List.range 16).foldl (fun x w => x.setRaw ASETMAP [n, a, new, w] (x.raw ASETMAP [n, a, old, w])) y) z) s

/-! ### Credits (R92, R175) -/

/-- Output rules of a port block whose tokens waited behind a marker leave again (R175). -/
def State.portResume (s : State) (n i rule : Nat) : State :=
  let x := s.port n i
  let mine := x.waiting.filter (fun p => p.1 == rule)
  mine.foldl (fun z p => z.portSend n i p.1 p.2) (s.setPort n i { x with waiting := x.waiting.filter (fun p => p.1 != rule) })

/-- Output tokens of a quantiser stream that waited for a credit leave (R92). -/
def State.quantResume (s : State) (n c q : Nat) : State :=
  let x := s.stream n c q
  match x.waitOut with
  | [] => s
  | t :: r => if x.credit = 0 ∨ s.markBlocked (.quant n c q) = true then s
    else (s.setStream n c q { x with waitOut := r }).sendOut (.quant n c q) t

/-- A notify of a goat that waited for a credit leaves (R92, R221). -/
def State.goatResume (s : State) (n c g d : Nat) : State :=
  let x := s.goat n c g
  let st := x.stream d
  match st.notes with
  | [] => s
  | t :: r => if s.creditOf (.goat n c g d) = 0 then s
    else (s.setGoat n c g (x.setStream d { st with notes := r })).sendOut (.goat n c g d) t

/-- A notify of a bulk port that waited for a credit leaves (R315, R318). -/
def State.macResume (s : State) (n i r : Nat) (tx : Bool) : State :=
  if tx then
    match ((s.mac n i).tx r).notify with
    | some f => s.txNotify n i r f
    | none => s
  else if ((s.mac n i).ring r).notify then s.rxNotify n i r else s

/-- An output token of an ox pair that waited for a credit leaves (R92). -/
def State.oxResume (s : State) (n p k : Nat) : State :=
  let x := s.ox n p
  match x.outs.find? (fun o => o.1 == k) with
  | none => s
  | some o => if s.creditOf (.ox n p k) = 0 ∨ s.markBlocked (.ox n p k) = true then s
    else (s.setOx n p { x with outs := eraseFirst o x.outs }).sendOut (.ox n p k) o.2

/-- What waited on an edge goes on with a credit (R64, R92). -/
def State.resumeEdge (s : State) : Edge → State
  | .hen n c h r => s.releaseSend n c h r
  | .port n i j => s.portResume n i j
  | .quant n c q => s.quantResume n c q
  | .goat n c g d => s.goatResume n c g d
  | .mac n i r tx => s.macResume n i r tx
  | .ox n p k => s.oxResume n p k
  | _ => s

/-- A credit comes back to its producer (R92): a marker's frees the edge for the new epoch, and a marker that waited for one leaves. -/
def execCreditReturn (e : Edge) (t : Nat) (s0 : State) : Host.Outcome State Fault Refusal :=
  let s := s0.upTo t
  if s.creditsDue.contains e then
    let n := edgeDie e
    let d := s.die n
    let s1 : State := { s with creditsDue := eraseFirst e s.creditsDue }
    let s2 := (s1.setDie n { d with markOut := eraseFirst e d.markOut, markWant := eraseFirst e d.markWant }).setCredit e (s1.creditOf e + 1)
    if d.markWant.contains e then
      match d.reconf with
      | some r => .next (s2.sendMarker r.target (s.rd GEPOCH.epoch [n]) e)
      | none => .next (s2.resumeEdge e)
    else .next (s2.resumeEdge e)
  else .next s

/-- The completion of an ended operation is written, or dropped as stale (R332, R336, R345). -/
def execCommandComplete (id t : Nat) (s : State) : Host.Outcome State Fault Refusal := .next ((s.upTo t).switchDone.completeCmd id)

end Sys2Proof.Machine
end

