-- ==== Sys2Proof/Machine/Determ.lean ====
section
/-!
DEFINITION. Starts and stops of jobs, checkpoints, freezes and installs as the hub carries them out (R170, R179, R234, R237, R238,
R251 to R253, R260, R261, R288).
-/
namespace Sys2Proof.Machine

/-! ### Start (R170, R260) -/

/-- A mapped die starts: state 3, its streams and beat counters start (R47, R153, R199, R256). -/
def State.startDie (s : State) (n startPs : Nat) : State :=
  let s1 := allClusters.foldl (fun z c => z.startStreams n c) ((s.wr DIESTAT.state [n] 3).wr GEPOCH.epoch [n] 0)
  let s2 := (List.range 16).foldl (fun z i => z.setPort n i { z.port n i with nextBeat := 0, nextLink := 0, lastVals := [] }) s1
  let s3 : State := { s2 with hists := Sparse.set {} s2.hists n { Sparse.get {} s2.hists n with since := startPs, dropped := false } }
  (s3.setHistChain n (List.replicate 32 0)).wr HISTDCNT.records [n] 0

/-- Goat descriptors of kinds 1 to 3 with trig 0 begin their one run at START_TICK (R218, R221). -/
def State.startGoats (s : State) (n : Nat) : State :=
  (s.clusOf n false).foldl (fun z c => (List.range 2).foldl (fun y g => (List.range 16).foldl (fun x d =>
    let ds := (x.goat n c g).desc d
    if 1 ≤ ds.kind ∧ ds.kind ≤ 3 ∧ ds.trig = false then x.beginRun n c g d {} else x) y) z) s

/-- A resumed job's saved streams go on where they stood, and its held barrier is released (R236). -/
def State.resumeJob (s : State) (j : Job) : State :=
  let s1 := j.streams.foldl (fun z (n, c, q, e, k) => z.setStream n c q { z.stream n c q with elemIdx := e, chunk := k }) s
  match j.resume with
  | some b => (s1.setBarrier b { s1.barrier b with release := some j.startPs }).setJob j.id (fun k => { k with resume := none, streams := [] })
  | none => s1

/-- START_TICK comes: every mapped die enters state 3, the prompt epoch is 0 and the seeds are injected (R170). -/
def execJobStart (id : Nat) (s0 : State) : Host.Outcome State Fault Refusal :=
  match s0.jobs.find? (fun j => j.id == id) with
  | none => .next s0
  | some j =>
    if j.go = false ∨ j.dies.any (fun n => s0.rd DIESTAT.state [n] != 2) = true then .next s0
    else
      let s := s0.upTo j.startPs
      let s1 := (j.dies.foldl (fun z n => z.startDie n j.startPs) s).armAtJob j.startPs
      let s2 := s1.wr DETSTAT.start [] 0
      let s3 := if s2.flag DETSTAT.strict [] then s2 else s2.wr DETSTAT.nonstrict_seen [] 1
      let s4 := j.dies.foldl (fun z n => ((z.injectSeeds n 0 true).injectSeeds n (z.die n).bulkEpoch false).startGoats n) s3
      .next ((s4.setJob id (fun k => { k with strict := s4.flag DETSTAT.strict [] })).resumeJob j)

/-! ### Stop (R179) -/

/-- The switch of a job is called off, and the operation that armed it ends without one (R179). -/
def State.dropSwitch (s : State) (id : Nat) : State :=
  let s1 := (s.switches.filter (fun w => w.job == id)).foldl (fun z w => if w.cmd = 0 then z else z.endCmd (w.cmd - 1) { status := 0x0208 }) s
  { s1 with switches := s1.switches.filter (fun w => w.job != id) }

/-- A die's gates are disabled and it is idle (R179). -/
def State.idleDie (s : State) (n : Nat) : State :=
  let s1 := (List.range 64).foldl (fun z g =>
    if z.flag GCFG.enable [n, g] then z.writeGcfg n g (BitVec.ofNat 32 (setBits (z.raw GCFG [n, g]) 0 1 0)) else z) s
  let d := s1.die n
  let s2 := (s1.setDie n { bulkEpoch := d.bulkEpoch, holdUntil := d.holdUntil }).wr DIESTAT.state [n] 1
  { s2 with flt := { s2.flt with stopped := s2.flt.stopped.filter (fun m => m != n) } }

/-- A job's stream is over: nothing is frozen, what waited for it ends (R251). -/
def State.dropFreeze (s : State) : State :=
  match s.frozen with
  | none => s
  | some f => (({ s with frozen := none } : State).wr DETSTAT.stream [] 0).endCmd f.cmd { status := 0x0208 }

/-- A job is stopped on some of its dies: its bulk job ends, its prompt epoch closes forced, the dies go idle (R179, R259). -/
def State.stopJob (s : State) (id : Nat) (ns : List Nat) : State :=
  match s.jobs.find? (fun j => j.id == id) with
  | none => s
  | some j =>
    let mine := j.dies.filter (fun n => ns.contains n)
    let running := mine.any (fun n => s.rd DIESTAT.state [n] == 3)
    let old := s.rd GEPOCH.epoch [mine.headD 0]
    let s1 := ((s.endJob id 0x030B false).dropSwitch id).dropFreeze
    let s2 := (s1.rollChains mine s1.now).forceDies mine (s1.nextEpoch mine)
    let s3 := if running then s2.closeEpoch id old true else s2
    let s4 := mine.foldl (fun z n => z.idleDie n) s3
    { s4 with jobs := (s4.jobs.map (fun k => if k.id = id then { k with dies := k.dies.filter (fun n => !mine.contains n) } else k)).filter
                (fun k => !k.dies.isEmpty) }

/-- Dies are stopped, whatever runs on them (R179). -/
def State.stopDies (s : State) (ns : List Nat) : State :=
  (s.jobs.filter (fun j => j.dies.any (fun n => ns.contains n))).foldl (fun z j => z.stopJob j.id ns) s

/-! ### Start of a job of several modules (R260, R261, R288) -/

/-- A start is refused with a code of R261: the module stops the job's dies and reports it (R261, R333). -/
def State.startRefused (s : State) (id code : Nat) : State :=
  match s.jobs.find? (fun j => j.id == id) with
  | none => s
  | some j =>
    let s1 := (s.setJob id (fun k => { k with bulk := false })).stopJob id j.dies
    (s1.wr DETSTAT.start [] code).jobEvent j (0x0400 + code)

/-- The code of R261 that the ready frames give, 0 where they agree. -/
def readyCode (j : Job) (rs : List ReadyRec) : Nat :=
  let differ := fun (f : ReadyRec → Nat) => rs.any (fun a => rs.any (fun b => f a != f b))
  if differ (·.identity) && rs.any (fun a => !a.anyId) then 2
  else if differ (·.modules) || rs.any (fun a => a.modules != j.modules) || rs.any (fun a => rs.any (fun b => a.graph != b.graph)) then 3
  else if rs.any (fun a => decide (j.modules ≤ a.rank)) || (rs.map (·.rank)).eraseDups.length != rs.length then 4
  else if differ (·.stretch) then 5
  else 0

/-- START_TICK is converted from T0 on this module's time base (R169, R260). -/
def State.goJob (s : State) (id : Nat) : State :=
  match s.jobs.find? (fun j => j.id == id) with
  | none => s
  | some j =>
    let p := ticksTo s.timeSeg j.t0 * tickPs
    let s1 := s.setJob id (fun k => { k with go := true, startPs := p })
    j.dies.foldl (fun z n => z.setDie n { z.die n with startPs := p }) s1

/-- The master holds a ready frame of every module: it sends GO, or refuses the start (R260, R261). -/
def State.tryGo (s : State) (j : Job) : State :=
  let rs := s.vote.ready.filter (fun r => r.graph.isSome && r.jobTag == j.id % 256)
  if j.rank ≠ 0 ∨ j.go = true ∨ rs.length < j.modules then s
  else
    let late := decide (j.t0 < s.domNow + nsDom (s.rd VFIRE.bound []) + nsDom 100000)
    let code := if readyCode j rs = 0 ∧ late = true then 6 else readyCode j rs
    let s1 : State := { s with vote := { s.vote with ready := s.vote.ready.filter (fun r => r.jobTag != j.id % 256) } }
    if code = 0 then (s1.ringSend 0x24 0 s1.domNow (leBytes 4 j.id ++ List.replicate 7 0 ++ leBytes 1 j.id)).goJob j.id
    else (s1.ringSend 0x25 0 s1.domNow (jobEndBody (0x0400 + code) (j.id % 256))).startRefused j.id code

/-- A loaded job of several modules sends its ready frames, and waits for the ranks (R260). -/
def State.sendReady (s : State) (id : Nat) : State :=
  match s.jobs.find? (fun j => j.id == id) with
  | none => s
  | some j =>
    let s1 := s.ringSend 0x22 0 s.domNow (leBytes 1 j.rank ++ leBytes 1 j.modules ++ leBytes 2 (b2n j.anyId) ++ leBytes 4 j.identity
      ++ leBytes 4 j.stretch)
    let s2 := (s1.ringSend 0x23 0 s1.domNow (leBytes 8 j.graph.toNat ++ List.replicate 3 0 ++ leBytes 1 j.id)).wr DETSTAT.start [] 1
    let own : ReadyRec := { node := s2.node, rank := j.rank, modules := j.modules, anyId := j.anyId, identity := j.identity
                            stretch := j.stretch, graph := some j.graph, jobTag := j.id % 256 }
    ({ s2 with vote := { s2.vote with ready := own :: s2.vote.ready.filter (fun r => !(r.node == own.node && r.jobTag == own.jobTag)) } }).tryGo j

/-- A READY frame comes in: it is held for its READY_B (R260, R288). -/
def execReady (f : RingFrame) (t : Nat) (s0 : State) : Host.Outcome State Fault Refusal :=
  let (act, s) := s0.ringIn f t
  if act = false then .next s
  else
    let r : ReadyRec := { node := f.origin, rank := rfld f 0 1, modules := rfld f 1 1, anyId := bitOf (rfld f 2 1) 0, identity := rfld f 4 4
                          stretch := rfld f 8 4 }
    .next { s with vote := { s.vote with ready := r :: s.vote.ready.filter (fun x => !(x.node == f.origin && x.graph.isNone)) } }

/-- A READY_B frame comes in: the ready frame of its module is whole (R260, R288). -/
def execReadyB (f : RingFrame) (t : Nat) (s0 : State) : Host.Outcome State Fault Refusal :=
  let (act, s) := s0.ringIn f t
  let tag := rfld f 11 1
  match s.jobOfTag tag with
  | none => .next s
  | some j =>
    if act = false then .next s
    else
      let rs := (s.vote.ready.filter (fun x => !(x.node == f.origin && x.graph.isSome && x.jobTag == tag))).map (fun x =>
        if x.node = f.origin ∧ x.graph = none then { x with graph := some (BitVec.ofNat 64 (rfld f 0 8)), jobTag := tag } else x)
      .next (({ s with vote := { s.vote with ready := rs } }).tryGo j)

/-- A GO frame comes in: the module converts T0 and the job may start (R260, R288). -/
def execGo (f : RingFrame) (t : Nat) (s0 : State) : Host.Outcome State Fault Refusal :=
  let (act, s) := s0.ringIn f t
  match s.jobOfTag (rfld f 11 1) with
  | none => .next s
  | some j => if act = false ∨ rfld f 0 4 ≠ j.id % 2 ^ 32 then .next s else .next (s.goJob j.id)

/-- A JOBEND frame comes in: the job ends on this module, or its start is refused (R261, R288). -/
def execJobend (f : RingFrame) (t : Nat) (s0 : State) : Host.Outcome State Fault Refusal :=
  let (act, s) := s0.ringIn f t
  let st := rfld f 0 2
  match s.jobOfTag (rfld f 11 1) with
  | none => .next s
  | some j =>
    if act = false then .next s
    else if 0x0402 ≤ st ∧ st ≤ 0x0406 then .next (s.startRefused j.id (st - 0x0400))
    else .next (s.endJob j.id 0x030C true)

/-! ### Checkpoints (R234, R287) -/

/-- A checkpoint is over: the barrier it held goes on, by way of the master for a job of several modules (R234, R287). -/
def State.ckptOver (s : State) (j : Job) (b : Nat) : State :=
  let s1 : State := { s with ckpts := s.ckpts.filter (fun k => !(k.job == j.id && k.barrier == some b)) }
  if 1 < j.modules then s1.sendArrive j b true else s1.agreeRelease b s1.domNow

/-- The held job is quiescent: the hub writes the checkpoint, issues its digest and lets the barrier go (R234, R235, R259). -/
def execCheckpointQuiescent (id t : Nat) (s0 : State) : Host.Outcome State Fault Refusal :=
  let s := s0.upTo t
  match s.jobs.find? (fun j => j.id == id), s.ckpts.find? (fun k => k.job == id && k.barrier.isSome) with
  | some j, some k =>
    if s.quiescent j = false then .next s
    else
      let b := k.barrier.getD 0
      let bs := s.checkpointFile j b
      let seq := j.prov.ckpts
      if listBytes k.list < bs.length then .next ((s.endCmd k.tag { status := 0x000E }).ckptOver j b)
      else
        let s1 := (s.writeList bs k.list).endCmd k.tag { status := 0, details := [bs.length % 2 ^ 32, bs.length / 2 ^ 32, seq % 2 ^ 32, seq / 2 ^ 32] }
        let s2 := (s1.bulkDigest id).setJob id (fun x => { x with prov := { x.prov with ckpts := x.prov.ckpts + 1 } })
        .next (s2.ckptOver j b)
  | _, _ => .next s

/-- The drain limit of a held checkpoint passes: it is abandoned and the job goes on (R234). -/
def execCheckpointDrainLimit (id : Nat) (s0 : State) : Host.Outcome State Fault Refusal :=
  match s0.jobs.find? (fun j => j.id == id), s0.ckpts.find? (fun k => k.job == id && k.barrier.isSome) with
  | some j, some k =>
    let s := s0.upTo (k.since + k.limit)
    .next ((s.endCmd k.tag { status := 0x0204 }).ckptOver j (k.barrier.getD 0))
  | _, _ => .next s0

/-! ### Freeze and thaw (R251 to R253) -/

/-- Beat number of the next beat of a job's first prompt port block (R199, R252). -/
def State.nextBeatOf (s : State) (dies : List Nat) : Nat :=
  ((dies.flatMap (fun n => ((List.range 16).filter (fun i => s.portPrompt n i && s.rd PCFG.mode [n, i] != 0)).map
    (fun i => (s.port n i).nextBeat.toNat))).head?).getD 0

/-- The freeze time comes: the ports send their markers and emit no more field tokens (R251). -/
def execFreezeTime (s0 : State) : Host.Outcome State Fault Refusal :=
  match s0.frozen, s0.switches.find? (fun w => w.cause == 2) with
  | some f, some w =>
    if f.begun = true ∨ f.thaw = true then .next s0
    else
      let s := (s0.upTo f.tPs).wr DETSTAT.stream [] 1
      let s1 : State := { s with frozen := some { f with begun := true, kT := s.nextBeatOf w.dies } }
      let s2 := w.dies.foldl (fun z n => (List.range 16).foldl (fun y i => if y.portPrompt n i then y.portSwitch n i else y) (z.beginSwitch n)) s1
      .next s2.switchDone
  | _, _ => .next s0

/-- The resume time comes: the switch to the new epoch runs, and the saved tokens follow the units (R253). -/
def execThawTime (s0 : State) : Host.Outcome State Fault Refusal :=
  match s0.frozen, s0.switches.find? (fun w => w.cause == 3) with
  | some f, some w =>
    if f.begun = true ∨ f.thaw = false then .next s0
    else
      let s := (s0.upTo f.tPs).wr DETSTAT.stream [] 3
      let kR := s.nextBeatOf w.dies
      let moved := f.carry.map (fun l => l.map (fun p =>
        (p.1, p.2.1, { p.2.2 with tag := p.2.2.tag + BitVec.ofNat 16 kR - BitVec.ofNat 16 f.kSave })))
      let s1 : State := { s with frozen := some { f with begun := true, kT := kR, carry := moved } }
      .next ((w.dies.foldl (fun z n => z.beginSwitch n) s1).switchDone)
  | _, _ => .next s0

/-! ### Install (R237, R238) -/

/-- An entry of an install list (R237): array, logical set, store set, scale bank, tier-1 address. -/
structure InstallEntry where
  arr : Nat
  logical : Nat
  store : Nat
  bank : Option Nat
  at_ : Nat
deriving DecidableEq, Repr

/-- The entries of the install list at a tier-1 address (R237). -/
def installList (m : Sparse Byte) (a : Nat) : List InstallEntry :=
  (List.range (min 64 (bitsOf (leNat (Sparse.getBytes m (a + 8) 8)) 32 8))).map (fun i =>
    let w := leNat (Sparse.getBytes m (a + 16 + 16 * i) 8)
    { arr := bitsOf w 0 2, logical := bitsOf w 2 6, store := bitsOf w 8 6, bank := if bitOf w 14 then some (bitsOf w 15 3) else none
      at_ := leNat (Sparse.getBytes m (a + 24 + 16 * i) 8) })

/-- A running quantiser stream that feeds the array names the scale bank in its header template (R174, R238). -/
def State.bankInUse (s : State) (n a bank : Nat) : Bool :=
  let c := s.physClu n (s.rd AFEED.cluster [n, a])
  s.flag AFEED.enable [n, a] && (List.range 16).any (fun q =>
    (s.stream n c q).started && s.rd QDESC0.dst [n, c, q] == 0 && bitsOf (s.rd QDESC3.header [n, c, q]) 39 3 == bank)

/-- The reason an install list is refused with, 0 where it is not (R238). -/
def State.installCode (s : State) (n tPs : Nat) (l : List InstallEntry) : Nat :=
  if l.any (fun e => s.setMapped n e.arr e.store) then 1
  else if l.any (fun e => match e.bank with | some b => s.bankInUse n e.arr b | none => false) then 2
  else if tPs < s.now + 100000000 then 3
  else if (s.die n).reconf.isSome || s.switches.any (fun w => w.dies.contains n) then 4
  else 0

/-- One entry's sets and bank are copied, and the new epoch's map names them (R238). -/
def State.installCopy (s : State) (n ep : Nat) (e : InstallEntry) : State :=
  let m := s.tier1 n
  let s1 := (s.storeBytes n e.arr 0 (65536 * e.store) (Sparse.getBytes m e.at_ 65536)).storeBytes n e.arr 1 (8192 * e.store)
    (Sparse.getBytes m (e.at_ + 65536) 8192)
  let s2 := match e.bank with
    | some b => s1.storeBytes n e.arr 2 (4096 * b) (Sparse.getBytes m (e.at_ + 73728) 4096)
    | none => s1
  s2.setRaw ASETMAP [n, e.arr, ep, e.logical / 4] (setBits (s2.raw ASETMAP [n, e.arr, ep, e.logical / 4]) (8 * (e.logical % 4)) 6 e.store)

/-- The hub takes up an install whose start token has come (R237, R238). -/
def execInstall (n c g d t : Nat) (s0 : State) : Host.Outcome State Fault Refusal :=
  let s := s0.upTo t
  let x := s.goat n c g
  match (x.stream d).run, s.jobOfDie n with
  | some r, some j =>
    if (x.desc d).kind ≠ 4 ∨ (x.desc d).func ≠ 1 ∨ s.installs.any (fun i => i.die == n && i.clu == c && i.goat == g && i.desc == d) = true then .next s
    else
      let a := r.tok.data.toNat
      let l := installList (s.tier1 n) a
      let tPs := leNat (Sparse.getBytes (s.tier1 n) a 8) * tickPs
      let rec_ : InstallRec := { die := n, clu := c, goat := g, desc := d, tok := r.tok }
      let code := s.installCode n tPs l
      if code ≠ 0 then .next (s.installEnd rec_ (BitVec.ofNat 64 code) true)
      else
        let ep := s.nextEpoch j.dies
        let old := s.rd GEPOCH.epoch [n]
        let s1 := l.foldl (fun z e => z.installCopy n ep e) (s.copyMaps j.dies old ep)
        let s2 : State := { s1 with installs := s1.installs ++ [rec_] }
        let w : SwitchRec := { job := j.id, dies := j.dies, old, target := ep, tPs, cause := 1, sets := l.map (fun e => (n, e.arr, e.store)) }
        .next (s2.armSwitch w 100000000 [])
  | _, _ => .next s

end Sys2Proof.Machine
end

