-- ==== Sys2Proof/Machine/Oxs.lean ====
section
/-!
DEFINITION. Ox pairs at work (R181, R182).
-/
namespace Sys2Proof.Machine

/-- A gallery token reaches an input port of an ox pair (R181). -/
def State.oxInput (s0 : State) (n p : Nat) (f0 : Flit) (t : Nat) : State :=
  let s := (s0.upTo t).arrive (.ox n p) f0
  let x := s.ox n p
  let f := s.relabel n x.epoch f0
  if f.tok.kind = 3 then s
  else if f.tok.epoch ≠ x.epoch ∨ s.fit.ox = false then s.owe f.edge
  else (s.setOx n p { x with inputs := Sparse.set [] x.inputs f.tok.index (Sparse.get [] x.inputs f.tok.index ++ [f.tok]) }).owe f.edge

/-- A gallery token reaches an ox pair (R181). -/
def execOxInput (n p : Nat) (f : Flit) (t : Nat) (s : State) : Host.Outcome State Fault Refusal := .next (s.oxInput n p f t)

/-- Words a cycle takes leave their ports. -/
def Ox.take (x : Ox) : List (Nat × Nat) → Ox
  | [] => x
  | (i, k) :: r =>
    let q := Sparse.get [] x.inputs i
    ({ x with inputs := Sparse.set [] x.inputs i (q.drop k), used := x.used ++ q.take k } : Ox).take r

/-- An output word as a token of a route (R57, R81): its status joins those of the words it comes from (R52); tag, operand, beat and copy
are not given and free (log 33). -/
def State.oxToken (s : State) (x : Ox) (o : Nat × W64 × List Nat) : Token × State :=
  let (v, s1) := s.draw
  let w := x.routes.getD o.1 0
  ({ data := o.2.1, addr := BitVec.ofNat 28 (w / 16), index := w % 16, operand := bitsOf v 0 3, tag := BitVec.ofNat 16 (bitsOf v 3 16)
     prompt := x.prompt, epoch := x.epoch, beat := BitVec.ofNat 16 (bitsOf v 19 16), copy := bitsOf v 35 2
     status := o.2.2.foldl (fun a i => a ||| (match x.used[i]? with | some t => t.status | none => 0)) 0 }, s1)

/-- Output tokens of a pair leave in order while their edges hold credits (R92); an unused port sends nothing. -/
def State.oxSend (s : State) (n p : Nat) : List (Nat × Token) → State
  | [] => s
  | (k, t) :: r =>
    let e : Edge := .ox n p k
    if (s.ox n p).routes.getD k 0 = 0 then s.oxSend n p r
    else if 0 < s.creditOf e ∧ s.markBlocked e = false ∧ (s.ox n p).outs.any (fun o => o.1 == k) = false then (s.sendOut e t).oxSend n p r
    else (s.setOx n p { s.ox n p with outs := (s.ox n p).outs ++ [(k, t)] }).oxSend n p r

/-- An ox pair advances its S1 program by one cycle, its vector stages and memory unit together (R182). -/
def execOxCycle (n p : Nat) (s : State) : Host.Outcome State Fault Refusal :=
  let x := s.ox n p
  if x.code.isEmpty = true ∨ s.rd DIESTAT.state [n] ≠ 3 then .next s
  else
    let o := Config.s1Step x.code x.data x.mach x.cycles (x.inputs.map (fun q => (q.1, q.2.map (·.data))))
    let y := ({ x with data := o.data, mach := o.mach, cycles := x.cycles + 1 } : Ox).take o.taken
    let (ts, s1) := o.outs.foldl (fun acc w => let (t, z) := acc.2.oxToken y w; (acc.1 ++ [(w.1, t)], z)) (([] : List (Nat × Token)), s)
    .next ((s1.setOx n p y).oxSend n p ts)

end Sys2Proof.Machine
end

