-- ==== Sys2Proof/Machine/Routers.lean ====
section
/-!
DEFINITION. The mesh routers and their slot frames (R83, R84, R95 to R99). A token held in a router is out of `inFlight`; when its
position comes it sets out again.
-/
namespace Sys2Proof.Machine

/-- Router of the bridge on side `b` (0 W, 1 N, 2 S, 3 E) (R83). -/
def bridgeRouter : Nat → Nat
  | 0 => 24 | 1 => 26 | 2 => 29 | _ => 31

/-- Side of the bridge at a router. -/
def bridgeSide : Nat → Option Nat
  | 24 => some 0 | 26 => some 1 | 29 => some 2 | 31 => some 3 | _ => none

/-- Die beyond the bridge on side `b` (R13). -/
def beyond (n b : Nat) : Option Nat :=
  match b with
  | 0 => if n % 4 = 0 then none else some (n - 1)
  | 1 => if n / 4 = 0 then none else some (n - 4)
  | 2 => if n / 4 = 3 then none else some (n + 4)
  | _ => if n % 4 = 3 then none else some (n + 1)

/-- Router of the unit an address names (R83). -/
def homeRouter (a : BitVec 28) : Nat :=
  match adUnit a with
  | 4 => if adPlace a % 16 < 8 then adPlace a % 16 else adPlace a % 16 + 48
  | 6 => 8 + adPlace a % 8
  | _ => adPlace a

/-- Sides that lead closer to the destination die: the column first, then the row (R98). -/
def sides (n d : Nat) : List Nat :=
  (if d % 4 < n % 4 then [0] else if n % 4 < d % 4 then [3] else []) ++
  (if d / 4 < n / 4 then [1] else if n / 4 < d / 4 then [2] else [])

/-- Outputs (0 N, 1 E, 2 S, 3 W) that lead closer to a router, the row of travel first (R98). -/
def towards (r t : Nat) : List Nat :=
  (if r % 8 < t % 8 then [1] else if t % 8 < r % 8 then [3] else []) ++
  (if r / 8 < t / 8 then [2] else if t / 8 < r / 8 then [0] else [])

/-- Every output that brings a token closer, the dimension-order one first; 4 is the bridge, none at its home router (R98). -/
def outputs (n r : Nat) (a : BitVec 28) : List Nat :=
  if adDie a = n then towards r (homeRouter a)
  else ((sides n (adDie a)).flatMap (fun b => if r = bridgeRouter b then [4] else towards r (bridgeRouter b))).eraseDups

/-- The dimension-order output (R98); none at the home router. -/
def firstOutput (n r : Nat) (a : BitVec 28) : Option Nat :=
  if adDie a = n then (towards r (homeRouter a)).head?
  else match sides n (adDie a) with
    | [] => none
    | b :: _ => if r = bridgeRouter b then some 4 else (towards r (bridgeRouter b)).head?

/-- Bulk tokens route adaptively (R98, R247). -/
def State.adaptive (s : State) (n : Nat) : Bool := s.flag GALCFG.adaptive [n] && !s.flag DETSTAT.strict []

/-- Owner code of position `p` of output `o`; a reserved code acts as 0 (R96). -/
def State.slotOwner (s : State) (n r o p : Nat) : Nat :=
  let c := bitsOf (s.raw SLOTTAB [n, r, o, p / 8]) (4 * (p % 8)) 4
  if c = 1 ∨ (8 ≤ c ∧ c ≤ 13) then c else 0

/-- The image owns a position of the output: the link runs (R95). -/
def State.linkRuns (s : State) (n r o : Nat) : Bool := (List.range 64).any (fun p => s.slotOwner n r o p != 0)

/-- Output `o` owns a position for prompt tokens from input `i` (R96). -/
def State.ownsFor (s : State) (n r o i : Nat) : Bool := (List.range 64).any (fun p => s.slotOwner n r o p == 8 + i)

/-- The router and output that feed framed input `i` of a router: die, router, output. -/
def feeder (n r i : Nat) : Option (Nat × Nat × Nat) :=
  match i with
  | 0 => if r / 8 = 0 then none else some (n, r - 8, 2)
  | 1 => if r % 8 = 7 then none else some (n, r + 1, 3)
  | 2 => if r / 8 = 7 then none else some (n, r + 8, 0)
  | 3 => if r % 8 = 0 then none else some (n, r - 1, 1)
  | 5 => match bridgeSide r with
    | some b => (beyond n b).map (fun m => (m, bridgeRouter (3 - b), 4))
    | none => none
  | _ => none

/-- The hop credit of a bulk hold register at input `i` returns to the link that feeds it (R97). -/
def State.hopBack (s : State) (n r i : Nat) : State :=
  match feeder n r i with
  | none => s
  | some (m, q, o) =>
    let x := s.router m q
    s.setRouter m q { x with hopUsed := Sparse.set 0 x.hopUsed o (Sparse.get 0 x.hopUsed o - 1) }

/-- The cluster at a router has failed and its substitution runs: its C port is stopped (R101). -/
def State.portStopped (s : State) (n : Nat) (t : Token) : Bool :=
  (adUnit t.addr = 0 || adUnit t.addr = 1 || adUnit t.addr = 2 || adUnit t.addr = 5) &&
    s.flt.clusFailing.contains (n, s.physClu n (adPlace t.addr))

/-- A prompt token is dropped at a router, counted and reported (R96, R97); its credit does not return. -/
def State.routerDrop (s : State) (n r : Nat) (prompt : Bool) : State :=
  (s.bump RCNT.pdrop [n, r]).fltNote 0x01 n r 5 (!prompt)

/-- Holds of an input, by partition. -/
def Router.used (x : Router) (i : Nat) (prompt : Bool) : Nat := countIf (fun h => h.input == i && h.flit.tok.prompt == prompt) x.holds

/-- A token takes a hold register toward an output, or is dropped or waits where none is free (R96, R97). -/
def State.takeHold (s : State) (n r i : Nat) (f : Flit) (o : Option Nat) (stopped : Bool) : State :=
  let x := s.router n r
  let free := if f.tok.prompt then decide (x.used i true < 4) else decide (x.used i false < 2)
  let gone := { s with inFlight := eraseFirst f s.inFlight }
  if f.tok.prompt && !stopped && !(match o with | some p => s.ownsFor n r p i | none => false) then gone.routerDrop n r true
  else if free then gone.setRouter n r { x with holds := x.holds ++ [{ input := i, flit := f, output := o }] }
  else if f.tok.prompt || stopped then gone.routerDrop n r f.tok.prompt
  else s

/-- A token arrives at input `i` of a router (R84, R97, R98, R101): to a unit of this router it goes straight on, to a framed
output it takes a hold register. -/
def State.routerToken (s0 : State) (n r i : Nat) (f : Flit) (t : Nat) : State :=
  let s1 := s0.upTo t
  let s : State := { s1 with lastTok := (.router n r i, f.tok) :: s1.lastTok.filter (fun p => p.1 ≠ UnitId.router n r i) }
  if f.tok.kind = 3 then { s with inFlight := eraseFirst f s.inFlight }
  else
    match firstOutput n r f.tok.addr with
    | none =>
      if s.portStopped n f.tok then (s.takeHold n r i f (some 6) true)
      else (if f.tok.prompt then s else s.hopBack n r i)
    | some o => (s.takeHold n r i f (if !f.tok.prompt && s.adaptive n then none else some o) false)

/-- A token arrives at a router input (R97, R98). -/
def execRouterToken (n r i : Nat) (f : Flit) (t : Nat) (s0 : State) : Host.Outcome State Fault Refusal := .next (s0.routerToken n r i f t)

/-- A hold may leave by output `o` (R98). -/
def Hold.mayLeave (h : Hold) (n r o : Nat) : Bool :=
  match h.output with
  | some p => p == o
  | none => (outputs n r h.flit.tok.addr).contains o

/-- Takes the first hold a test accepts. -/
def takeFirst {α : Type} (p : α → Bool) : List α → Option (α × List α)
  | [] => none
  | x :: r => if p x then some (x, r) else (takeFirst p r).map (fun q => (q.1, x :: q.2))

/-- The next slot position of a running framed output carries its owner's token, or an empty token (R95 to R97). -/
def execSlotPosition (n r o : Nat) (s : State) : Host.Outcome State Fault Refusal :=
  if s.linkRuns n r o = false then .next s
  else
    let x := s.router n r
    let p := Sparse.get 0 x.pos o % 64
    let c := s.slotOwner n r o p
    let x1 := { x with pos := Sparse.set 0 x.pos o ((p + 1) % 64) }
    let empty := fun (a : State) => (a.setRouter n r x1).emit (.slot n r o p { tok := Token.empty })
    if c = 0 then .next (empty s)
    else if c = 1 then
      match takeFirst (fun h => !h.flit.tok.prompt && h.mayLeave n r o) x.holds with
      | none => .next (empty s)
      | some (h, rest) =>
        let used := Sparse.get 0 x.hopUsed o
        if 2 ≤ used then .next ((empty s).bump RCNT.bulk_empty [n, r])
        else
          let s1 := s.setRouter n r { x1 with holds := rest, hopUsed := Sparse.set 0 x1.hopUsed o (used + 1) }
          .next (((s1.hopBack n r h.input).send h.flit).emit (.slot n r o p h.flit))
    else
      match takeFirst (fun h => h.flit.tok.prompt && h.input == c - 8 && h.mayLeave n r o) x.holds with
      | none => .next (empty s)
      | some (h, rest) => .next (((s.setRouter n r { x1 with holds := rest }).send h.flit).emit (.slot n r o p h.flit))

/-- Tokens a stopped C port held go on to the cluster that stands in (R101). -/
def State.reopenPort (s : State) (n r : Nat) : State :=
  let x := s.router n r
  let out := x.holds.filter (fun h => h.output == some 6)
  (s.setRouter n r { x with holds := x.holds.filter (fun h => h.output != some 6) }).sendAll (out.map (·.flit))

end Sys2Proof.Machine
end

