-- ==== Sys2Proof/Machine/Faults.lean ====
section
/-!
DEFINITION. The code checker and the stall watchdog, failures of units, substitutions and hub failover (R36 to R38, R100 to R103, R125,
R126, R376 to R381).
-/
namespace Sys2Proof.Machine

/-! ### Units (R38, R41) -/

/-- Latency-table class of a unit, its die and its number within the class; a goat has no class of its own. -/
def unitClass : UnitId → Option Nat × Nat × Nat
  | .hen h => (some 0x05, h.die, henUnit h)
  | .steer n c => (some 0x03, n, c)
  | .chan n c _ => (some 0x03, n, c)
  | .router n r _ => (some 0x01, n, r)
  | .bridge n b => (some 0x02, n, b)
  | .quant n c _ => (some 0x07, n, c)
  | .array n a => (some 0x06, n, a)
  | .gate n g => (some 0x08, n, g)
  | .port n i => (some 0x0A, n, i)
  | .goat n c g _ => (none, n, 2 * c + g)
  | .ox n p => (some 0x0C, n, p)

/-- The output that feeds framed input `i` of a router owns a position for prompt tokens (R96). -/
def State.feedsPrompt (s : State) (n r i : Nat) : Bool :=
  match feeder n r i with
  | some (m, q, o) => (List.range 64).any (fun p => decide (8 ≤ s.slotOwner m q o p))
  | none => false

/-- The channel into a unit carries prompt slots or prompt traffic (R37). -/
def State.chanPrompt (s : State) : UnitId → Bool
  | .hen h => s.cluPrompt h.die h.clu
  | .steer n c => s.cluPrompt n c
  | .chan n c _ => s.cluPrompt n c
  | .router n r i => if i = 4 then s.cluPrompt n (s.physClu n r) else s.feedsPrompt n r i
  | .bridge n b => (List.range 64).any (fun p => decide (8 ≤ s.slotOwner n (bridgeRouter b) 4 p))
  | .quant n c _ => s.cluPrompt n c
  | .array n a => s.arrPrompt n a
  | .gate _ _ => true
  | .port n i => s.portPrompt n i
  | .goat n c _ _ => s.cluPrompt n c
  | .ox n p => (s.ox n p).prompt

/-- A report of the checker or the watchdog (R37, R38): `HSMON_LAST` while it is free, and a counter; a class that the table does not give
is free. -/
def State.hsmon (s0 : State) (u : UnitId) (kind : Nat) : State :=
  let (c, n, k) := unitClass u
  let (v, s) : Nat × State := match c with | some x => (x, s0) | none => let (y, s1) := s0.draw; (y % 256, s1)
  let s1 := s.bump (if kind = 5 then HSMON_CNT.codes else HSMON_CNT.stalls) [n]
  if s1.flag HSMON_LAST.valid [n] then s1
  else s1.setRaw HSMON_LAST [n] (v + k % 65536 * 2 ^ 8 + kind * 2 ^ 24 + b2n (s1.chanPrompt u) * 2 ^ 27 + 2 ^ 31 + s1.rawTicks % 2 ^ 32 * 2 ^ 32)

/-! ### Failures (R103, R125, R126, R376, R377, R379) -/

/-- The hub reaches a die over the management path: its IO die has not failed (R378). -/
def State.managed (s : State) (n : Nat) : Bool := !s.flt.lost.any (fun p => p.1 == 0xF5 && p.2.2 == n / 4)

/-- A substitution on a die can read its image store (R378). -/
def State.canRebuild (s : State) (n : Nat) : Bool := s.managed n && !s.flt.storeLost.contains n

/-- A report from a bulk unit, which ends its job (R226, R376). -/
def State.bulkNote (s : State) (u : UnitId) : State :=
  let (c, n, k) := unitClass u
  if s.chanPrompt u then s else s.fltNote (c.getD 0x04) n k 11 true

/-- A compute die is to be marked failed (R377). -/
def State.dieDying (s : State) (n kind : Nat) : State :=
  if s.flt.dying.any (fun p => p.1 == n) || bitOf (s.rd FLTDIE.failed []) n then s
  else { s with flt := { s.flt with dying := s.flt.dying ++ [(n, kind)] } }

/-- What a failed cluster held is lost; the credits of its tokens return (R102). -/
def State.loseCluster (s : State) (n c : Nat) : State :=
  let x := s.clu n c
  let s1 := (s.putSlots n c { x with slots := [], bankQ := [], henSubst := none, repair := [] } 0).oweAll (x.slots.map (·.flit.edge))
  let s2 := allClusters.foldl (fun z h => z.putHen ⟨n, c, h⟩ { z.hen ⟨n, c, h⟩ with ctxs := [], sendQ := [] }) s1
  ((s2.stopGoats n c).setQuant n c {})

/-- A physical cluster is marked failed (R101, R103, R379). -/
def State.failCluster (s : State) (n c kind : Nat) : State :=
  if s.flag CLUSTAT.failed [n, c] then s
  else if c = 64 ∧ s.flag CLUSTAT.standing_in [n, 64] = false then
    (({ s with flt := { s.flt with spareCluFailed := s.flt.spareCluFailed ++ [n] } } : State).wr CLUSTAT.failed [n, c] 1).fltFailed 0x03 n kind 2 c
  else
    let s1 := ((s.bulkNote (.steer n c)).wr CLUSTAT.failed [n, c] 1).loseCluster n c
    if s.flag DIESTAT.spare_cluster_used [n] || s.flt.spareCluFailed.contains n || s.flt.clusFailing.any (fun p => p.1 == n) || !s.canRebuild n then
      (s1.fltFailed 0x03 n kind 3 c).dieDying n kind
    else ({ s1 with flt := { s1.flt with clusFailing := s1.flt.clusFailing ++ [(n, c)] } } : State).fltFailed 0x03 n kind 0 c

/-- A physical hen is marked failed (R100, R103). -/
def State.failHen (s : State) (h : HenRef) (kind : Nat) : State :=
  let i := [h.die, h.clu, h.hen]
  let n := h.die
  let x := s.clu n h.clu
  if s.flag HSTAT.failed i then s
  else if h.hen = 64 ∧ s.flag CLUSTAT.spare_hen_used [n, h.clu] = false then
    ((s.setClu n h.clu { x with spareHenFailed := true }).wr HSTAT.failed i 1).fltFailed 0x05 n kind 2 (henUnit h)
  else
    let y := s.hen h
    let s1 := ((s.bulkNote (.hen h)).wr HSTAT.failed i 1).putHen h { y with ctxs := [], sendQ := [] }
    let mine := fun (a : Access) => match a.who with | .ctx q => decide (q.hen = h) | _ => false
    let s2 := s1.setClu n h.clu { x with bankQ := x.bankQ.filter (fun a => !mine a) }
    if s.flag CLUSTAT.spare_hen_used [n, h.clu] || x.spareHenFailed || x.henSubst.isSome || !s.canRebuild n then
      (s2.fltFailed 0x05 n kind 3 (henUnit h)).failCluster n h.clu kind
    else
      let s3 := s2.setClu n h.clu { s2.clu n h.clu with henSubst := some (s.logHen h) }
      ({ s3 with flt := { s3.flt with hensFailing := s3.flt.hensFailing ++ [h] } } : State).fltFailed 0x05 n kind 0 (henUnit h)

/-- Spares left in an array: columns 512 to 515, rows 128 and 129 (R125). -/
def State.freeCol (s : State) (n a : Nat) : Option Nat :=
  ([ASPARE.col0, ASPARE.col1, ASPARE.col2, ASPARE.col3].zipIdx.find? (fun p => !bitOf (s.rd p.1 [n, a]) 9)).map (·.2)
def State.freeRow (s : State) (n a : Nat) : Option Nat :=
  ([ASPARE.row0_used, ASPARE.row1_used].zipIdx.find? (fun p => !s.flag p.1 [n, a])).map (·.2)

/-- The spare a fault inside an array takes: column (true) or row, and which (R125). -/
def State.arraySpare (s : State) (n a part_ : Nat) : Option (Bool × Nat) :=
  match part_ with
  | 0 => match s.freeCol n a with
    | some k => some (true, k)
    | none => (s.freeRow n a).map (fun k => (false, k))
  | 1 => (s.freeRow n a).map (fun k => (false, k))
  | 2 => (s.freeCol n a).map (fun k => (true, k))
  | _ => none

/-- An array is failed: it discards what waits and all that comes (R126). -/
def State.arrayLost (s : State) (n a : Nat) : State :=
  let x := s.arr n a
  ((s.putArr n a { x with acc := none, held := false, waiting := [], fills := [] }).wr ASTAT.failed [n, a] 1).add ACNT_ERR.discard [n, a] x.waiting.length

/-- A part of an array is marked failed (R125, R126): part 3 its feed, output stage or store port. -/
def State.failArray (s : State) (n a part_ row col kind : Nat) : State :=
  if s.flag ASTAT.failed [n, a] then s
  else
    let s1 := s.bulkNote (.array n a)
    let x := s1.arr n a
    match s1.arraySpare n a part_ with
    | none => (s1.arrayLost n a).fltFailed 0x06 n kind 2 a
    | some _ =>
      let s2 := s1.putArr n a { x with acc := none, held := true }
      let fault : ArrFault := { die := n, arr := a, part_, row, col }
      ({ s2 with flt := { s2.flt with arrsFailing := s2.flt.arrsFailing ++ [fault] } } : State).fltFailed 0x06 n kind 0 a

/-- A unit that has no spare and is no part of a larger one fails: it is lost (log 34). -/
def State.failLone (s : State) (cls n k kind : Nat) (u : UnitId) : State :=
  if s.flt.lost.contains (cls, n, k) then s
  else
    let s1 := s.bulkNote u
    ({ s1 with flt := { s1.flt with lost := s1.flt.lost ++ [(cls, n, k)] } } : State).fltFailed cls n kind 2 k

/-- The unit at the receiving end of a channel is marked failed (R38, R376); in a drain, a prompt unit's failure forces the switch (R179). -/
def State.failUnit (s : State) (u : UnitId) (part_ row col kind : Nat) : State :=
  let n := unitDie u
  let larger := fun (z : State) => let (c, m, k) := unitClass u; ((z.bulkNote u).fltFailed (c.getD 0) m kind 3 k).dieDying m kind
  let s1 := match u with
    | .hen h => s.failHen h kind
    | .steer _ c => s.failCluster n c kind
    | .chan _ c _ => s.failCluster n c kind
    | .quant _ c _ => s.failCluster n c kind
    | .goat _ c _ _ => s.failCluster n c kind
    | .router _ r i => if i = 4 then s.failCluster n (s.physClu n r) kind else larger s
    | .bridge _ _ => larger s
    | .gate _ _ => larger s
    | .array _ a => s.failArray n a part_ row col kind
    | .port _ i => s.failLone 0x0A n i kind u
    | .ox _ p => s.failLone 0x0C n p kind u
  match (s.die n).reconf with
  | some r => if r.tPs ≤ s.now ∧ s.chanPrompt u = true then s1.forceSwitch n else s1
  | none => s1

/-! ### The two monitors (R36, R37) -/

/-- What the receiver delivers in place of a faulty token (R36). -/
def substituteTok : Option Token → Token
  | some t => { t with data := 0, status := stFault }
  | none => { Token.empty with status := stFault }

/-- A token reaches a unit over a channel, by what the unit does with tokens. -/
def State.tokenTo (s : State) (u : UnitId) (f : Flit) (t : Nat) : State :=
  if f.tok.kind = 2 then (s.arrive (normUnit u) f).markerIn (normUnit u) f
  else
    match u with
    | .hen h => s.henToken h f t
    | .steer n c => s.steerToken n c f t
    | .chan n c _ => s.steerToken n c f t
    | .router n r i => s.routerToken n r i f t
    | .quant n c _ => s.quantWord n c f t
    | .gate n g => s.gateToken n g f t
    | .port n i => s.transmitToken n i f t
    | .goat n c g _ => (s.goatStart n c g f t).tryFinish n
    | .ox n p => s.oxInput n p f t
    | .array _ _ => s
    | .bridge _ _ => s

/-- The vector an array takes in place of a faulty one (R36): without one before it, none that acts. -/
def State.vectorSubst (s : State) (n a t : Nat) : State :=
  match Sparse.find s.lastVec (key2 n a) with
  | some v => s.arrayVector n a { v with data := v.data.map (fun _ => 0), status := stFault } t
  | none => s.upTo t

/-- The code checker of the channel into unit `u` sees an invalid code while token `f` comes (R36): the receiver takes a substitute, the
channel is reported and the unit is marked failed. Inside an array `part_`, `row` and `col` say where (R125). -/
def execInvalidCode (u : UnitId) (f : Flit) (part_ row col t : Nat) (s0 : State) : Host.Outcome State Fault Refusal :=
  let s := s0.upTo t
  let g : Flit := { f with tok := substituteTok ((s.lastTok.find? (fun p => p.1 = u)).map (·.2)) }
  let s1 := match u with
    | .array n a => if part_ = 3 then s.vectorSubst n a t else s
    | _ =>
      let z : State := { s with inFlight := eraseFirst f s.inFlight }
      if g.tok.kind = 3 then z else ({ z with inFlight := g :: z.inFlight } : State).tokenTo u g t
  .next ((s1.hsmon u 5).failUnit u part_ row col 1)

/-- A handshake condition of R37 lasts longer than the channel's limit (R37, R38). -/
def execHandshakeStall (u : UnitId) (code part_ row col t : Nat) (s0 : State) : Host.Outcome State Fault Refusal :=
  let s := s0.upTo t
  .next (if code = 0 ∨ 4 < code then s else (s.hsmon u code).failUnit u part_ row col 1)

/-! ### Renaming (R100, R101) -/

/-- Edges and units under a change of the physical hen or cluster behind a logical one. -/
def renameEdge (fh : HenRef → HenRef) (fc : Nat → Nat → Nat) : Edge → Edge
  | .hen n c h r => let x := fh ⟨n, c, h⟩; .hen x.die x.clu x.hen r
  | .quant n c q => .quant n (fc n c) q
  | .goat n c g d => .goat n (fc n c) g d
  | .feed n c a => .feed n (fc n c) a
  | .chan n c k h e => let x := fh ⟨n, c, h⟩; .chan n x.clu k x.hen e
  | e => e
def renameUnit (fh : HenRef → HenRef) (fc : Nat → Nat → Nat) : UnitId → UnitId
  | .hen h => .hen (fh h)
  | .steer n c => .steer n (fc n c)
  | .chan n c k => .chan n (fc n c) k
  | .quant n c q => .quant n (fc n c) q
  | .goat n c g d => .goat n (fc n c) g d
  | u => u

/-- A reconfiguration renamed. -/
def Reconf.rename (fe : Edge → Edge) (fu : UnitId → UnitId) (r : Reconf) : Reconf :=
  { r with held := r.held.map (fun h => { h with unit := fu h.unit }), switched := r.switched.map fu, holding := r.holding.map fu
           arrived := r.arrived.map (fun p => (fu p.1, fe p.2)) }

/-- What is loaded on a die, renamed. -/
def Die.rename (fe : Edge → Edge) (fu : UnitId → UnitId) (d : Die) : Die :=
  { d with edges := d.edges.map (fun i => { i with src := fe i.src, dst := fu i.dst })
           cycles := d.cycles.map (fun c => { c with edges := c.edges.map fe, backEdge := fe c.backEdge, units := c.units.map fu })
           reconf := d.reconf.map (fun r => r.rename fe fu), markOut := d.markOut.map fe, markWant := d.markWant.map fe }

/-- The whole module under a change of physical units (R100, R101): credits and tokens under way keep their edges. -/
def State.rename (s : State) (fh : HenRef → HenRef) (fc : Nat → Nat → Nat) : State :=
  let fe := renameEdge fh fc
  let fu := renameUnit fh fc
  { s with dies := s.dies.map (fun p => (p.1, p.2.rename fe fu)), credits := s.credits.map (fun p => (fe p.1, p.2))
           switches := s.switches.map (fun w => { w with
             edges := w.edges.map (fun p => (p.1, p.2.map (fun i => { i with src := fe i.src, dst := fu i.dst })))
             credits := w.credits.map (fun p => (fe p.1, p.2)) })
           creditsDue := s.creditsDue.map fe, inFlight := s.inFlight.map (fun f => { f with edge := fe f.edge })
           clus := s.clus.map (fun p => (p.1, { p.2 with slots := p.2.slots.map (fun z => { z with flit := { z.flit with edge := fe z.flit.edge } }) }))
           routers := s.routers.map (fun p => (p.1, { p.2 with holds := p.2.holds.map (fun h => { h with flit := { h.flit with edge := fe h.flit.edge } }) })) }

/-! ### Substitutions (R100 to R102, R125) -/

/-- Seeds of the cycles through a unit go in again with SUBST, with the tag of their entry's base (R102). -/
def State.reinject (s : State) (n : Nat) (hit : UnitId → Bool) : State :=
  let ep := s.rd GEPOCH.epoch [n]
  let cs := (List.range (s.die n).cycles.length).filter (fun c => match (s.die n).cycles[c]? with | some x => x.units.any hit | none => false)
  let tagged := fun (f : Flit) =>
    if adUnit f.tok.addr = 0 then
      let m := adDie f.tok.addr
      let c := s.physClu m (adPlace f.tok.addr)
      { f with tok := { f.tok with tag := (s.hen ⟨m, c, s.physHen m c (adSub f.tok.addr)⟩).baseTag f.tok.index } }
    else f
  s.sendAll (((cs.flatMap (fun c => s.seedFlits n c ep stSubst)).filter (·.tok.prompt)).map tagged)

/-- The hub writes the spare hen of a cluster from the image store and steering maps the logical hen to it (R100, R102). -/
def State.henRebuild (s : State) (h : HenRef) : State :=
  let n := h.die
  let c := h.clu
  let l := s.logHen h
  let spare : HenRef := ⟨n, c, 64⟩
  let idx := 64 * s.logClu n c + l
  let st := (s.die n).store
  let s1 := s.putHen spare { imem := Sparse.get [] st.imem idx, consts := Sparse.get [] st.consts idx, base := (s.hen h).base }
  let s2 := (((s1.wr HSTAT.logical [n, c, 64] l).wr HSTAT.standing_in [n, c, 64] 1).wr HSTAT.epoch [n, c, 64] (s.rd HSTAT.epoch [n, c, h.hen]))
  let s3 := ((s2.wr CLUSTAT.spare_hen_used [n, c] 1).wr CLUSTAT.spare_hen_logical [n, c] l).setRaw HCREDIT_LO [n, c, 64] (s.raw HCREDIT_LO [n, c, h.hen])
  let s4 := (s3.setRaw HCREDIT_HI [n, c, 64] (s.raw HCREDIT_HI [n, c, h.hen])).rename (fun x => if x = h then spare else x) (fun _ k => k)
  let s5 := s4.setClu n c { s4.clu n c with henSubst := none }
  ((s5.steerRelease n c l true).reinject n (fun u => u = .hen spare)).fltMasked 0x05 n 1 (henUnit h) 64

/-- A hen's substitution ends (R100): written and read back, or its spare found failed, which fails the cluster (R103). -/
def execHenSubstitution (h : HenRef) (ok : Bool) (t : Nat) (s0 : State) : Host.Outcome State Fault Refusal :=
  let s := s0.upTo t
  if s.flt.hensFailing.contains h = false ∨ (s.clu h.die h.clu).henSubst ≠ some (s.logHen h) then .next s
  else
    let s1 : State := { s with flt := { s.flt with hensFailing := s.flt.hensFailing.filter (fun x => x ≠ h) } }
    if ok then .next (s1.henRebuild h)
    else .next (((s1.failHen ⟨h.die, h.clu, 64⟩ 1).fltQueue 0x05 h.die 1 3 (henUnit h)).failCluster h.die h.clu 1)

/-- CLU registers of a logical cluster are written to the spare from the image store (R101). -/
def State.writeCluRegs (s : State) (n : Nat) : List (Nat × W32) → State
  | [] => s
  | (o, v) :: r =>
    let a := 0x01000000 + n * 0x100000 + 0x30000 + 64 * 0x2000 + o
    let s1 := match findReg a with
      | some (x, idx, b) => if b = 0 ∧ x.width = 32 then s.setRaw x idx v.toNat else s.setRaw x idx (setBits (s.raw x idx) (8 * b) 32 v.toNat)
      | none => s
    s1.writeCluRegs n r

/-- The hub writes the spare cluster and router `c` switches to the spur (R101, R102). -/
def State.cluRebuild (s : State) (n c : Nat) : State :=
  let l := s.logClu n c
  let st := (s.die n).store
  let ep := if s.cluPrompt n c then s.rd GEPOCH.epoch [n] else (s.die n).bulkEpoch
  let s1 := (List.range 64).foldl (fun z h =>
    let old := s.hen ⟨n, c, s.physHen n c h⟩
    ((z.putHen ⟨n, 64, h⟩ { imem := Sparse.get [] st.imem (64 * l + h), consts := Sparse.get [] st.consts (64 * l + h), base := old.base }).wr
      HSTAT.epoch [n, 64, h] ep)) s
  let chans := (List.range 16).foldl (fun m k => Sparse.set 0 m k ep) ([] : Sparse Nat)
  let s2 := s1.setClu n 64 { sram := if s.cluPrompt n c then Sparse.get [] st.sram l else [], chanEpoch := chans, substituted := true }
  let s3 := s2.writeCluRegs n (Sparse.get [] st.cluRegs l)
  let s4 := (((s3.wr CLUSTAT.logical [n, 64] l).wr CLUSTAT.standing_in [n, 64] 1).wr CLUSTAT.prompt [n, 64] (b2n (s.cluPrompt n c))).wr
    DIESTAT.spare_cluster_used [n] 1
  let s5 := s4.setRaw FLTCMAP [n, l / 4] (setBits (s4.raw FLTCMAP [n, l / 4]) (8 * (l % 4)) 7 64)
  let fh := fun (x : HenRef) => if x.die = n ∧ x.clu = c then (⟨n, 64, if x.hen = 64 then s.rd CLUSTAT.spare_hen_logical [n, c] else x.hen⟩ : HenRef) else x
  let s6 := s5.rename fh (fun m k => if m = n ∧ k = c then 64 else k)
  let s7 := ((s6.startStreams n 64).wr QSTAT.epoch [n, 64] ep).reopenPort n c
  let mine := fun (u : UnitId) => match u with | .hen h => decide (h.die = n ∧ h.clu = 64) | .quant m k _ => decide (m = n ∧ k = 64) | _ => false
  (s7.reinject n mine).fltMasked 0x03 n 1 c 64

/-- A cluster's substitution ends (R101): the spare stands in, or is found failed itself, which fails the die (R103, R379). -/
def execClusterSubstitution (n c : Nat) (ok : Bool) (t : Nat) (s0 : State) : Host.Outcome State Fault Refusal :=
  let s := s0.upTo t
  if s.flt.clusFailing.contains (n, c) = false then .next s
  else
    let s1 : State := { s with flt := { s.flt with clusFailing := s.flt.clusFailing.filter (fun x => x ≠ (n, c)) } }
    if ok then .next (s1.cluRebuild n c)
    else .next (((s1.failCluster n 64 1).fltQueue 0x03 n 1 3 c).dieDying n 1)

/-- The logical row or column behind a physical one, which may itself be a spare (R125). -/
def State.logicalCol (s : State) (n a col : Nat) : Nat :=
  match col with
  | 512 => s.rd ASPARE.col0 [n, a] % 512
  | 513 => s.rd ASPARE.col1 [n, a] % 512
  | 514 => s.rd ASPARE.col2 [n, a] % 512
  | 515 => s.rd ASPARE.col3 [n, a] % 512
  | c => c
def State.logicalRow (s : State) (n a row : Nat) : Nat :=
  match row with
  | 128 => s.rd ASPARE.row0 [n, a]
  | 129 => s.rd ASPARE.row1 [n, a]
  | r => r

/-- The firmware maps a spare row or column into an array and its feed resumes (R125); without one left the array is failed (R126). -/
def execArraySubstitution (n a t : Nat) (s0 : State) : Host.Outcome State Fault Refusal :=
  let s := s0.upTo t
  match s.flt.arrsFailing.find? (fun f => f.die == n && f.arr == a) with
  | none => .next s
  | some f =>
    let rest := eraseFirst f s.flt.arrsFailing
    let s1 : State := { s with flt := { s.flt with arrsFailing := rest } }
    let more := rest.any (fun g => g.die == n && g.arr == a)
    match s1.arraySpare n a f.part_ with
    | none => .next ((s1.arrayLost n a).fltFailed 0x06 n 1 2 a)
    | some (true, k) =>
      let fld := [ASPARE.col0, ASPARE.col1, ASPARE.col2, ASPARE.col3].getD k ASPARE.col0
      let s2 := s1.wr fld [n, a] (s1.logicalCol n a f.col % 512 + 512)
      let s3 := s2.setArr n a { s2.arr n a with held := more }
      .next ((s3.drainVectors n a (s3.arr n a).waiting.length).fltMasked 0x06 n 1 a (512 + k))
    | some (false, k) =>
      let s2 := (s1.wr (if k = 0 then ASPARE.row0 else ASPARE.row1) [n, a] (s1.logicalRow n a f.row)).wr
        (if k = 0 then ASPARE.row0_used else ASPARE.row1_used) [n, a] 1
      let s3 := s2.setArr n a { s2.arr n a with held := more }
      .next ((s3.drainVectors n a (s3.arr n a).waiting.length).fltMasked 0x06 n 1 a (128 + k))

/-! ### Larger failures (R377, R378) -/

/-- A compute die is marked failed (R377): its bulk job is to end, its prompt job goes over to a standby or stops. -/
def execDieFailed (n t : Nat) (s0 : State) : Host.Outcome State Fault Refusal :=
  let s := s0.upTo t
  match s.flt.dying.find? (fun p => p.1 == n) with
  | none => .next s
  | some (_, kind) =>
    let s1 : State := { s with flt := { s.flt with dying := s.flt.dying.filter (fun p => p.1 != n) } }
    let s2 := (s1.wr FLTDIE.failed [] (setBits (s1.rd FLTDIE.failed []) n 1 1)).fltFailed 0xF6 n kind 2 n
    let s3 := match s2.jobOfDie n with | some j => if j.bulk then s2.fltNote 0xF6 n n 11 true else s2 | none => s2
    let m := (s3.die n).standby
    if m ≠ 0 ∧ bitOf (s3.rd FLTDIE.failed []) (m - 1) = false then
      .next ((s3.setDie (m - 1) { s3.die (m - 1) with muted := false }).setDie n { s3.die n with muted := true })
    else .next { s3 with flt := { s3.flt with stopped := s3.flt.stopped ++ [n] } }

/-- Every job ends and every die is idle: no gate fires and no port runs until reset (R378, R379). -/
def State.moduleStop (s : State) : State :=
  let s1 := s.jobs.foldl (fun z j => z.endJob j.id 0x030A false) s
  let s2 := s1.stopDies (List.range 16)
  (List.range 16).foldl (fun z n => (List.range 16).foldl (fun y i => y.wr PCFG.mode [n, i] 0) z) s2

/-- A bulk job that uses tier 2 is reported once, on its first die (R378). -/
def State.tier2Jobs (s : State) (p : Nat) : State :=
  (s.jobs.filter (fun j => j.bulk && j.dies.any (fun n => (s.die n).regions.any (fun r => r.tier == 2)))).foldl
    (fun z j => z.fltNote 0xF1 (j.dies.headD 0) p 11 true) s

/-- An LPDDR6 package is lost (R378). -/
def State.loseLost (s : State) (cls n k kind : Nat) : State :=
  if s.flt.lost.contains (cls, n, k) then s
  else ({ s with flt := { s.flt with lost := s.flt.lost ++ [(cls, n, k)] } } : State).fltFailed cls n kind 2 k
def State.losePackage (s : State) (p : Nat) : State :=
  if s.flt.lost.contains (0xF1, 0, p) then s else (s.loseLost 0xF1 0 p 2).tier2Jobs p

/-- A unit without a spare fails (R300, R378). -/
def State.loseUnit (s : State) : LostUnit → State
  | .dram n b =>
    if s.flt.lost.contains (0xF0, n, 2 * n + b) ∨ bitOf s.fit.dram (2 * n + b) = false then s
    else
      let s1 := s.loseLost 0xF0 n (2 * n + b) 2
      let s2 := match s1.jobOfDie n with | some j => if j.bulk then s1.fltNote 0xF0 n (2 * n + b) 11 true else s1 | none => s1
      if b = 1 then { s2 with flt := { s2.flt with storeLost := s2.flt.storeLost ++ [n] } } else s2
  | .package p => if bitOf s.fit.lpddr p then s.losePackage p else s
  | .ioDie x =>
    let s1 := s.loseLost 0xF5 0 x 1
    let s2 := ((List.range 5).map (fun k => 5 * x + k)).foldl (fun z p => if bitOf z.fit.lpddr p then z.losePackage p else z) s1
    if x = 0 then s2.linkDown else s2
  | .glowworm e => if bitOf s.fit.glow e then s.glowLost e else s
  | .lasers => (s.laserLost 0).laserLost 1
  | .acquisition => s.acqLoss 2 s.now

/-- A unit without a spare fails and costs what R378 states. -/
def execUnitLost (u : LostUnit) (t : Nat) (s : State) : Host.Outcome State Fault Refusal := .next ((s.upTo t).loseUnit u)

/-- The time-base oscillator fails: every job ends and every port stops (R378). -/
def execOscillatorFailure (t : Nat) (s0 : State) : Host.Outcome State Fault Refusal :=
  let s := s0.upTo t
  if s.flt.oscFailed then .next s
  else .next ((({ s with flt := { s.flt with oscFailed := true } } : State).fltFailed 0xF8 0 7 2 0).moduleStop)

/-- A compute rail phase fails (R376): the redundant phase masks the first of a die, a second fails the die. -/
def execRailPhaseFailure (n t : Nat) (s0 : State) : Host.Outcome State Fault Refusal :=
  let s := s0.upTo t
  if s.hasDie n = false then .next s
  else if s.flt.phases.contains n then .next ((s.fltFailed 0xF7 n 4 3 n).dieDying n 4)
  else
    let s1 : State := { s with flt := { s.flt with phases := s.flt.phases ++ [n] } }
    .next ((s1.fltQueue 0xF7 n 4 1 n).bump FLTCNT.masked [])

/-! ### The hubs (R380) -/

/-- Hub `h` is retired (R380). -/
def State.retireHub (s : State) (h outcome : Nat) : State :=
  (({ s with flt := { s.flt with retired := s.flt.retired ++ [h] } } : State).wr FLTSTAT.standby_lost [] 1).fltFailed 0xF4 0 5 outcome h

/-- The hubs disagree or H0 stalls; each has run its self-check (R380): a hub that fails it is retired, H1 if neither does. With one hub
left a further fault stops the module (R379). -/
def execLockstepMismatch (h0 h1 : Bool) (t : Nat) (s0 : State) : Host.Outcome State Fault Refusal :=
  let s := s0.upTo t
  match s.flt.retired with
  | [] =>
    if h0 = false ∧ h1 = false then .next (((s.retireHub 0 2).retireHub 1 2).moduleStop)
    else if h0 then .next (s.retireHub 1 2) else .next (s.retireHub 0 0)
  | [0] => .next ((s.retireHub 1 2).moduleStop)
  | [1] => .next ((s.retireHub 0 2).moduleStop)
  | _ => .next s

/-- H1 takes over from a retired H0 (R300, R380); `gap` the time without a hub, at most 20 us. -/
def execHubFailover (gap t : Nat) (s0 : State) : Host.Outcome State Fault Refusal :=
  let s := s0.upTo t
  if s.flt.retired ≠ [0] ∨ s.flag FLTSTAT.active_hub [] = true then .next s
  else
    let s1 := ((s.wr FLTSTAT.active_hub [] 1).wr FLTSTAT.failover [] 1).fltMasked 0xF4 0 5 0 1
    .next (s1.acqLoss 1 (s1.now - min gap 20000000))

/-! ### Reports (R381) -/

/-- `FLTREP_HI` as a read finds it: the oldest report, popped by the read. -/
def FltRep.hi (r : FltRep) : Nat :=
  r.cls % 256 + r.die % 16 * 2 ^ 8 + r.kind % 8 * 2 ^ 12 + r.outcome % 4 * 2 ^ 15 + r.unit % 2 ^ 14 * 2 ^ 17 + 2 ^ 31
def State.fltrepHi (s : State) : Nat := match s.flt.queue with | r :: _ => r.hi | [] => 0
def State.fltrepLo (s : State) : Nat := match s.flt.queue with | r :: _ => r.whenRaw | [] => 0

/-- The oldest report leaves the queue; MOD_FAULT_N rises with the last (R381, R390). -/
def State.fltPop (s : State) : State :=
  match s.flt.queue with
  | [] => s
  | _ :: q =>
    let s1 := ({ s with flt := { s.flt with queue := q } } : State).wr FLTSTAT.count [] q.length
    if q.isEmpty then s1.pinOut 1 true else s1

/-- A read of `FLTREP_HI` pops one report (R8, R381). -/
def execFltrepHiRead (s : State) : Host.Outcome State Fault Refusal := .next ((s.emit (.readValue (FLTREP_HI.addr []) 32 s.fltrepHi)).fltPop)

end Sys2Proof.Machine
end

