-- ==== Sys2Proof/Machine/Access.lean ====
section
/-!
DEFINITION. BAR0 accesses to registers (R6 to R9, R20, R21, R104): which writes are ignored, which values are refused, what a write
does beside storing, what a read returns, and what a read clears.
-/
namespace Sys2Proof.Machine

/-! ### Absent units (R4, R21, R31) -/

/-- An instance of a register belongs to an absent unit, whose writes are ignored and whose reads are 0. -/
def State.regAbsent (s : State) (r : Reg) (idx : List Nat) : Bool :=
  let n := idx.headD 0
  let k := idx.getD 1 0
  match r.blk with
  | .die => !s.hasDie n || !s.managed n || (decide (0x10000 ≤ r.off) && decide (r.off < 0x30000) && (s.ringPort n k).isSome)
      || (decide (0xF0000 ≤ r.off) && bitsOf s.fit.dram (2 * n) 2 == 0)
  | .hub => ((r.is PWRDIE || r.is PWRDCNT || r.is FLTCMAP) && !s.hasDie n) || (decide (0x40000 ≤ r.off) && decide (r.off < 0x50000) && !s.fit.acq)
      || (r.is TPTP && !s.fit.ethMac && !s.fit.t1s)
  | .gw => !bitOf s.fit.glow n
  | .io => s.flt.lost.any (fun p => p.1 == 0xF5 && p.2.2 == n)
      || (decide (r.off < 0x4000) && (!s.fit.tier2 || !bitOf s.fit.lpddr (5 * n + k))) || (decide (0x4000 ≤ r.off) && !s.fit.ethMac)
  | .io0 => s.flt.lost.any (fun p => p.1 == 0xF5 && p.2.2 == 0) || (decide (r.off < 0xC000) && !s.fit.t1s)
  | .win => false

/-! ### Writes that are ignored (R54, R104, R289) -/

/-- Registers that accept writes only while their die is idle (R104 and the rules that name it). -/
def idleOnly : List Reg := [CLUCFG, SCRUBCFG, STEERCFG, HCREDIT_LO, HCREDIT_HI, AFEED, AODESC, ASETDESC, QDESC0, QDESC1, QDESC2, QDESC3,
  QDESC4, QDESC5, QDESC6, PCFG, PLINK_BASE, PLINK_CFG, PCREDIT, GTCFG, MCFG, MWM, MFILT, MRQ, MTQ, SLOTTAB, PTXSEQ]

/-- A write is ignored whatever its value. -/
def State.writeShut (s : State) (r : Reg) (idx : List Nat) (v : Nat) : Bool :=
  let n := idx.headD 0
  let k := idx.getD 1 0
  let idle := s.rd DIESTAT.state [n] == 1
  (idleOnly.any (fun x => r.is x) && !idle)
  || (r.is ASETMAP && !idle && idx.getD 2 0 == s.rd ASTAT.epoch [n, k])
  || (r.is HSMON_CFG && s.flag HSMON_CFG.lock [n]) || (r.is HENCFG && s.flag HENCFG.lock [n, k])
  || (r.is SLOTTAB && idx.getD 2 0 == 4 && (bridgeSide k).isNone)
  || ([GDEADLINE, GSCHED_BASE, GSCHED_PERIOD, GACCEPT, GREJECT].any (fun x => r.is x) && s.flag GCFG.enable [n, k])
  || ((r.is TEBASE || r.is TEPER) && s.flag TECFG.enable [n])
  || (r.is TIOCFG && s.rd TIOCFG.mode [n] != 0 && v % 8 != 0)

/-! ### Values that are refused (R9) -/

/-- Every range a field states holds, of the fields the write touches (R9). -/
def rangesOk (mask v : Nat) (fs : List FDesc) : Bool :=
  fs.all (fun f => match f.range with
    | none => true
    | some (a, b) => bitsOf mask f.lo f.w == 0 || (f.acc != .rw && f.acc != .wo) || (decide (a ≤ bitsOf v f.lo f.w) && decide (bitsOf v f.lo f.w ≤ b)))

/-- A stream format code that R148 lists. -/
def streamFmt (c : Nat) : Bool := decide (c ≤ 12) || (decide (16 ≤ c) && decide (c ≤ 21)) || (decide (24 ≤ c) && decide (c ≤ 26))

/-- Lane `k` of glowworm `e` may run a pattern (R310): its port block is off, or the ring is. -/
def State.patternFree (s : State) (e k : Nat) : Bool :=
  let n := 2 * e + k / 16
  if (s.ringPort n (k % 16)).isSome then !s.flag VCFG.enable [] else s.rd PCFG.mode [n, k % 16] == 0

/-- Units of a class on a die, by `HSMON_LAST` (R38, R41, R396). -/
def unitsOf (cls : Nat) : Nat :=
  match cls with
  | 0x01 => 64 | 0x02 => 4 | 0x03 => 65 | 0x04 => 65 | 0x05 => 65 * 65 | 0x06 => 4 | 0x07 => 65 | 0x08 => 64 | 0x0A => 16 | 0x0C => 8
  | _ => 0

/-- `TPSEL` names what is present (R396). -/
def State.probeOk (s : State) (v : Nat) : Bool :=
  let src := v % 16
  let n := bitsOf v 4 4
  let cls := bitsOf v 8 8
  let u := bitsOf v 16 16
  match src with
  | 1 => s.hasDie n && decide (u < unitsOf cls) && (cls != 0x02 || (match beyond n u with | some m => s.hasDie m | none => false))
      && (cls != 0x0C || s.fit.ox)
  | 2 => s.hasDie n && decide (u < unitsOf cls) && (cls != 0x02 || (match beyond n u with | some m => s.hasDie m | none => false))
      && (cls != 0x0C || s.fit.ox)
  | 3 => s.hasDie n && decide (u < 64)
  | 4 => s.hasDie n
  | 7 => s.hasDie n
  | _ => decide (src < 8)

/-- The value a register would hold is one it stores (R9): `mask` the bits written, `v` the whole value after the write. -/
def State.valueOk (s : State) (r : Reg) (idx : List Nat) (mask v : Nat) : Bool :=
  rangesOk mask v r.fields &&
  (if r.is QDESC0 then streamFmt (bitsOf v 6 5) && streamFmt (bitsOf v 11 5) && bitsOf v 11 5 != 3 && decide (bitsOf v 26 8 ≤ bitsOf v 34 8)
   else if r.is ASETDESC then pairOk (bitsOf v 0 2) (bitsOf v 2 4) (bitsOf v 6 4)
   else if r.is AODESC then bitsOf v 0 2 == 0 || bitsOf v 15 10 != 0
   else if r.is MWM then decide (bitsOf v 16 16 < bitsOf v 0 16) && decide (bitsOf v 0 16 ≤ 256 * s.portLanes (idx.headD 0) (idx.getD 1 0))
   else if r.is TCFG then v % 4 != 1 || s.fit.ethMac || s.fit.t1s
   else if r.is PWRTHERM then decide (bitsOf v 0 8 < bitsOf v 8 8)
   else if r.is LCFG then (bitsOf v 5 3 == 0 && bitsOf v 8 3 == 0) || s.patternFree (idx.headD 0) (idx.getD 1 0)
   else if r.is TPSEL then s.probeOk v
   else true)

/-! ### The split (R15, R20) -/

/-- A split is valid on a die (R15). -/
def State.splitOk (s : State) (n v : Nat) : Bool :=
  let pc := bitsOf v 0 7
  let pa := bitsOf v 7 3
  let ox := bitsOf v 16 8
  let ports := bitsOf v 32 16
  pc % 4 == 0 && decide (pc ≤ 64) && decide (pa ≤ 4) && (pa == 0 || decide (4 ≤ pc)) && (pc != 0 || (pa == 0 && ports == 0 && ox == 0))
  && (List.range 16).all (fun i => !bitOf ports i || s.hasLane n i)
  && (List.range 16).all (fun i => s.rd PCFG.mode [n, i] == 0 ||
      (List.range (s.portLanes n i)).all (fun k => 16 ≤ i + k || bitOf ports (i + k) == bitOf ports i))

/-- A valid split takes effect: `PARTCFG` and the partition bits that show it (R15, R16). -/
def State.setSplit (s : State) (n v : Nat) : State :=
  let keep := bitsOf v 0 10 + (if s.fit.ox then bitsOf v 16 8 else 0) * 2 ^ 16 + bitsOf v 32 16 * 2 ^ 32
  let s1 := s.setRaw PARTCFG [n] keep
  let s2 := allClusters.foldl (fun z c => if c = 64 ∧ z.flag CLUSTAT.standing_in [n, 64] = false then z else z.wr CLUSTAT.prompt [n, c] (b2n (z.cluPrompt n c))) s1
  let s3 := (List.range 4).foldl (fun z a => z.wr ASTAT.prompt [n, a] (b2n (z.arrPrompt n a))) s2
  (List.range 16).foldl (fun z i => z.wr PSTAT.prompt [n, i] (b2n (z.portPrompt n i))) s3

/-- A write to `PARTCFG` of the bits in `mask` (R20): refused, with the flag set, unless the die is idle and the split valid. -/
def State.writePart (s : State) (n mask v : Nat) : State :=
  if s.hasDie n = false ∨ s.managed n = false then s
  else
    let w := (s.raw PARTCFG [n] &&& (2 ^ 64 - 1 - mask)) ||| (v &&& mask)
    if s.rd DIESTAT.state [n] = 1 ∧ s.splitOk n w = true then s.setSplit n w else s.wr DIESTAT.part_write_refused [n] 1

/-! ### Storing -/

/-- The value a write would leave in the fields it may set, for the tests of R9. -/
def merged (r : Reg) (mask v old : Nat) : Nat :=
  r.fields.foldl (fun o f => if f.acc = .rw ∨ f.acc = .wo then
    setBits o f.lo f.w ((bitsOf old f.lo f.w &&& (2 ^ f.w - 1 - bitsOf mask f.lo f.w)) ||| (bitsOf v f.lo f.w &&& bitsOf mask f.lo f.w)) else o) old

/-- Bits that a part without training support keeps at 0 (R147). -/
def State.trainMask (s : State) (r : Reg) (mask : Nat) : Nat :=
  if r.is QDESC0 ∧ s.fit.train = false then mask &&& (2 ^ 64 - 1 - (2 ^ 22 + 255 * 2 ^ 54)) else mask

/-- Port block `i` is enabled: the patterns of its lanes stop (R310). -/
def State.clearPatterns (s : State) (n i : Nat) : State :=
  if s.rd PCFG.mode [n, i] = 0 then s
  else (List.range (s.portLanes n i)).foldl (fun z k =>
    let l := [n / 2, n % 2 * 16 + (i + k) % 16]
    (z.wr LCFG.prbs_tx l 0).wr LCFG.prbs_rx l 0) s

/-- What follows the storing of a register. -/
def State.afterWrite (s : State) (r : Reg) (idx : List Nat) (mask v : Nat) : State :=
  let n := idx.headD 0
  let k := idx.getD 1 0
  if r.is HSMON_LAST ∧ bitOf mask 31 = true ∧ bitOf v 31 = true then s.setRaw HSMON_LAST idx 0
  else if (r.is T1ERRADDR ∨ r.is T2ERRADDR) ∧ bitOf mask 63 = true ∧ bitOf v 63 = true then s.setRaw r idx 0
  else if r.is BSTRAG ∧ bitOf mask 63 = true ∧ bitOf v 63 = true then (s.setRaw BSTRAG [] 0).setRaw BSTRAG_T [] 0
  else if r.is PCFG then s.clearPatterns n k
  else s

/-- A write of the bits in `mask` to a register that no operation of its own takes (R6, R9, R104). -/
def State.writeReg (s : State) (r : Reg) (idx : List Nat) (mask0 v : Nat) : State :=
  let mask := s.trainMask r mask0
  let old := s.raw r idx
  if s.regAbsent r idx ∨ s.writeShut r idx v ∨ s.valueOk r idx mask (merged r mask v old) = false then s
  else (s.setRaw r idx (stored r mask v old)).afterWrite r idx mask v

/-- A write to a stream descriptor (R104, R156): its statistics slot is zeroed. -/
def State.writeQdesc (s : State) (r : Reg) (idx : List Nat) (mask v : Nat) : State :=
  if s.regAbsent r idx ∨ s.writeShut r idx v then s
  else (s.writeReg r idx mask v).setSlot (idx.headD 0) (idx.getD 1 0) (idx.getD 2 0) {}

/-- Stream descriptor words. -/
def qdescs : List Reg := [QDESC0, QDESC1, QDESC2, QDESC3, QDESC4, QDESC5, QDESC6]

/-- A write to `QSNAP`: the slot is selected, and taken or cleared where the bits ask (R156). -/
def State.writeQsnap (s : State) (idx : List Nat) (v : Nat) : State :=
  let n := idx.headD 0
  let c := idx.getD 1 0
  let s1 := s.wr QSNAP.slot idx (v % 16)
  if bitOf v 4 = false then s1
  else if bitOf v 5 then (s1.snapshot n c (v % 16)).setSlot n c (v % 16) {} else s1.snapshot n c (v % 16)

/-- A write to `ACQCTL` (R301): stop after commit where both bits are set. -/
def State.writeAcqctl (s : State) (v : Nat) : State :=
  let s1 := if bitOf v 0 then s.acqCommit else s
  if bitOf v 1 then s1.acqStopAll else s1

/-- A write of one register: `half` the half of a 64-bit register that a 32-bit access takes, none for the whole. -/
def State.writeOne (s : State) (r : Reg) (idx : List Nat) (half : Option Nat) (v : Nat) : State :=
  let sh := match half with | some h => 32 * h | none => 0
  let mask := match half with | some h => (2 ^ 32 - 1) * 2 ^ (32 * h) | none => 2 ^ r.width - 1
  let x := v * 2 ^ sh % 2 ^ 64
  let n := idx.headD 0
  let k := idx.getD 1 0
  let low : W32 := BitVec.ofNat 32 x
  if s.regAbsent r idx then s
  else if r.is PARTCFG then s.writePart n mask x
  else if r.is GCFG then s.writeGcfg n k low
  else if r.is GSLACK_MIN then s.wr GSLACK_MIN.slack idx 0xFFFF
  else if r.is STEERSTAT then s.wr STEERSTAT.peak idx 0
  else if r.is HISTQ then s.wr HISTQ.peak idx 0
  else if r.is QSNAP then s.writeQsnap idx x
  else if qdescs.any (fun q => r.is q) then s.writeQdesc r idx mask x
  else if r.is TINC then s.hostRate (BitVec.ofNat 64 ((s.raw TINC [] &&& (2 ^ 64 - 1 - mask)) ||| (x &&& mask)))
  else if r.is TADJ then (if half.isNone then s.hostStep (BitVec.ofNat 64 x) else s)
  else if r.is TSET_LO then s.setRaw TSET_LO [] ((s.raw TSET_LO [] &&& (2 ^ 64 - 1 - mask)) ||| (x &&& mask))
  else if r.is TSET_HI then s.hostSet low
  else if r.is TCFG then (let s1 := s.writeReg r idx mask x
                          if bitOf x 2 then s1.snapTime else s1)
  else if r.is TECFG then s.writeTecfg n low
  else if r.is VARM then s.writeVarm (BitVec.ofNat 64 x)
  else if r.is VNODE then s.clearVnode n (BitVec.ofNat 64 x)
  else if r.is ACQCTL then s.writeAcqctl x
  else if r.is LINJ then s.writeLinj n k (BitVec.ofNat 64 ((s.raw LINJ idx &&& (2 ^ 64 - 1 - mask)) ||| (x &&& mask)))
  else if r.is IPEND then s.writeIpend n low
  else if r.is ICOMPLETE then s.complete n low
  else if r.is OLMSEL then s.selectOlm ((s.raw OLMSEL [] &&& (2 ^ 64 - 1 - mask)) ||| (x &&& mask))
  else if r.is MSIXCTL then (let s1 := s.writeReg r idx mask x
                             if bitOf x 0 then s1 else s1.unmask n)
  else s.writeReg r idx mask x

/-- A 32-bit write at an aligned address (R7). -/
def State.write32 (s : State) (a v : Nat) : State :=
  match findReg a with
  | some (r, idx, b) => if r.width = 32 then s.writeOne r idx none v else s.writeOne r idx (some (b / 4)) v
  | none => s

/-- A BAR0 write of `bytes` bytes (R7): only aligned 32-bit and 64-bit accesses act; one to two 32-bit registers takes the lower first. -/
def State.busWrite (s : State) (a bytes v : Nat) : State :=
  if (bytes ≠ 4 ∧ bytes ≠ 8) ∨ a % bytes ≠ 0 ∨ 0x4000000 ≤ a then s
  else if bytes = 4 then s.write32 a (v % 2 ^ 32)
  else
    match findReg a with
    | some (r, idx, b) =>
      if r.width = 64 ∧ b = 0 then s.writeOne r idx none (v % 2 ^ 64)
      else (s.write32 a (v % 2 ^ 32)).write32 (a + 4) (v / 2 ^ 32 % 2 ^ 32)
    | none => (s.write32 a (v % 2 ^ 32)).write32 (a + 4) (v / 2 ^ 32 % 2 ^ 32)

/-- A BAR0 write (R6 to R9): the register's access types and rules, whatever register it is. -/
def execRegisterWrite (a bytes v t : Nat) (s : State) : Host.Outcome State Fault Refusal := .next ((s.upTo t).busWrite a bytes v)

/-- A 64-bit write to `PARTCFG`, or a 32-bit write to one half of it (R20). -/
def execPartcfgWrite (n : Nat) (half : Option Nat) (v t : Nat) (s : State) : Host.Outcome State Fault Refusal :=
  .next (if 16 ≤ n then s.upTo t else (s.upTo t).writeOne PARTCFG [n] (half.map (fun h => h % 2)) v)

/-- A 64-bit write to word `w` of stream descriptor `q`, or a 32-bit write to one half of it (R104, R156). -/
def execQdescWrite (n c q w : Nat) (half : Option Nat) (v t : Nat) (s : State) : Host.Outcome State Fault Refusal :=
  match qdescs[w]? with
  | some r => .next (if 16 ≤ n ∨ 65 ≤ c ∨ 16 ≤ q then s.upTo t else (s.upTo t).writeOne r [n, c, q] (half.map (fun h => h % 2)) v)
  | none => .next (if 16 ≤ n ∨ 65 ≤ c ∨ 16 ≤ q ∨ (s.upTo t).writeShut QDESC0 [n, c, q] v = true then s.upTo t else (s.upTo t).setSlot n c q {})

/-- A write to `TPSEL` (R396). -/
def execTpselWrite (p : Nat) (half : Option Nat) (v t : Nat) (s : State) : Host.Outcome State Fault Refusal :=
  .next (if 4 ≤ p then s.upTo t else (s.upTo t).writeOne TPSEL [p] (half.map (fun h => h % 2)) v)

/-! ### Reads (R6 to R8) -/

/-- What a read of a register returns; registers that show a running value are read from it (R6, R262, R269, R272, R360, R381). -/
def State.shown (s : State) (r : Reg) (idx : List Nat) : Nat :=
  let n := idx.headD 0
  if s.regAbsent r idx then 0
  else if r.is TRAW then s.rawTicks
  else if r.is OLMCLOCK then setBits (setBits (s.raw r idx) 0 40 (s.olmHours % 2 ^ 40)) 40 24 (s.olm.cycles % 2 ^ 24)
  else if r.is TIOCAP then s.tiocapValue n
  else if r.is VVOTE then setBits (s.raw r idx) 32 32 s.voteCheck.toNat
  else if r.is ICLAIM then (match s.lowest n with | some x => x | none => 0x3FF) + s.rd ICLAIM.notified [n] * 2 ^ 10
  else if r.is FLTREP_LO then s.fltrepLo
  else if r.is FLTREP_HI then s.fltrepHi
  else if r.is OLMWIN then leNat ((s.olmWindow.drop (4 * n)).take 4)
  else if r.is GTCFG then setBits (s.raw r idx) 2 1 (b2n (s.mayReorder n (idx.getD 1 0) (idx.getD 2 0)))
  else if r.is T1STAT then setBits (s.raw r idx) 0 2 (bitsOf s.part.dram (2 * n) 2)
  else if r.is T2STAT then setBits (s.raw r idx) 0 1 1
  else if r.is GWSTAT then setBits (setBits (s.raw r idx) 0 1 1) 2 1 (b2n (topGlow s.part.glow == n))
  else r.fields.foldl (fun o f => if f.acc = .wo then setBits o f.lo f.w 0 else o) (s.raw r idx)

/-- What a read of exactly the word `[lo, lo + w)` of a register claims or clears (R8). -/
def State.claimRead (s : State) (r : Reg) (idx : List Nat) (lo w : Nat) : State :=
  let n := idx.headD 0
  let k := idx.getD 1 0
  if r.is ICLAIM then
    match s.lowest n with
    | some x => { (((s.setPending x false).setActive x true).wr ICLAIM.notified [n] 0) with
                  irq := { s.irq with claimedBy := Sparse.set 0 s.irq.claimedBy x (n + 1) } }
    | none => s.wr ICLAIM.notified [n] 0
  else if r.is TIOCAP then (if w = 64 then s.setTpin n { s.tpin n with edges := (s.tpin n).edges.drop 1 } else s)
  else if r.is TXTS_HI then (if w = 64 then s.putTxts (key2 n k) ((Sparse.get [] s.txts (key2 n k)).drop 1) else s)
  else if r.is T1S_TXTS_HI then (if w = 64 then s.putTxts t1sTxKey ((Sparse.get [] s.txts t1sTxKey).drop 1) else s)
  else if r.is VACT then (if w = 64 then { s with vote := { s.vote with vact := s.vote.vact.drop 1 } } else s)
  else if r.is FLTREP_HI then s.fltPop
  else if r.width = w then
    s.setRaw r idx (r.fields.foldl (fun o f => if f.acc = .rc ∧ lo ≤ f.lo ∧ f.lo < lo + w then setBits o f.lo f.w 0 else o) (s.raw r idx))
  else s

/-- Word of 32 bits at an aligned address that no register family holds: the capability block, 0 elsewhere (R21, R24). -/
def State.blockWord (s : State) (a : Nat) : Nat := if a < 0x10000 then s.capWord (a / 4) else 0

/-- A 32-bit read: its value, and the state after it (R7, R8). -/
def State.read32 (s : State) (a : Nat) : Nat × State :=
  match findReg a with
  | some (r, idx, b) =>
    let v := bitsOf (s.shown r idx) (8 * (b / 4 * 4)) 32
    (v, if s.regAbsent r idx then s else if r.width = 32 then s.claimRead r idx 0 32 else s)
  | none => (s.blockWord a, s)

/-- A BAR0 read of `bytes` bytes: its value, and the state after it (R7, R8). -/
def State.busRead (s : State) (a bytes : Nat) : Nat × State :=
  if (bytes ≠ 4 ∧ bytes ≠ 8) ∨ a % bytes ≠ 0 ∨ 0x4000000 ≤ a then (2 ^ (8 * bytes) - 1, s)
  else if bytes = 4 then s.read32 a
  else
    match findReg a with
    | some (r, idx, b) =>
      if r.width = 64 ∧ b = 0 then (s.shown r idx, if s.regAbsent r idx then s else s.claimRead r idx 0 64)
      else
        let (x, s1) := s.read32 a
        let (y, s2) := s1.read32 (a + 4)
        (x + y * 2 ^ 32, s2)
    | none =>
      let (x, s1) := s.read32 a
      let (y, s2) := s1.read32 (a + 4)
      (x + y * 2 ^ 32, s2)

/-- A BAR0 read (R6 to R8): a counter of access type RC is returned and cleared by a read of exactly its word. -/
def execRcRead (a bytes t : Nat) (s0 : State) : Host.Outcome State Fault Refusal :=
  let (v, s) := (s0.upTo t).busRead a bytes
  .next (s.emit (.readValue a (8 * bytes) v))

/-! ### CXL.mem (R23) -/

/-- First device address of the acquisition ring. -/
def ringBase : Nat := 0x020000000000

/-- Bytes of the device ring (R23, R298). -/
def State.ringBytes (s : State) : Nat := if s.fit.acq then 64 * 2 ^ 20 else 0

/-- A package of tier 2 is lost (R378). -/
def State.tier2Lost (s : State) : Bool := s.flt.lost.any (fun p => p.1 == 0xF1)

/-- A host CXL.mem read of 64 bytes (R23, R378). -/
def execCxlMemRead (a t : Nat) (s0 : State) : Host.Outcome State Fault Refusal :=
  let s := s0.upTo t
  if a + 64 ≤ s.tier2Bytes then
    if s.tier2Lost then .next ((s.emit (.memValue a none)).bump HOSTCNT.poison [])
    else .next (s.emit (.memValue a (some (Sparse.getBytes s.tier2 a 64))))
  else if ringBase ≤ a ∧ a + 64 ≤ ringBase + s.ringBytes then .next (s.emit (.memValue a (some (Sparse.getBytes s.acq.ring (a - ringBase) 64))))
  else .next ((s.emit (.memValue a none)).bump HOSTCNT.oor_read [])

/-- A host CXL.mem write of up to 64 bytes (R23). -/
def execCxlMemWrite (a t : Nat) (bs : List Byte) (s0 : State) : Host.Outcome State Fault Refusal :=
  let s := s0.upTo t
  if a + bs.length ≤ s.tier2Bytes then .next { s with tier2 := Sparse.setBytes s.tier2 a bs }
  else if ringBase ≤ a ∧ a + bs.length ≤ ringBase + s.ringBytes then
    .next { s with acq := { s.acq with ring := Sparse.setBytes s.acq.ring (a - ringBase) bs } }
  else .next (s.bump HOSTCNT.oor_write [])

end Sys2Proof.Machine
end

