-- ==== Sys2Proof/Machine/Image.lean ====
section
/-!
DEFINITION. The Garmos image: its header, sections and records, and the loader's checks that read no relocated field, from FORMAT
to BUSY (R157 to R166, R170).
-/
namespace Sys2Proof.Machine

/-- Where the loader refuses an image (R170): status, section type, record index, detail word. -/
structure Fail where
  status : Nat
  sect : Nat := 0
  idx : Nat := 0
  detail : Nat := 0
deriving DecidableEq, Repr

/-- The first refusal of a list of tests, in order. -/
def firstFail (l : List (Option Fail)) : Option Fail := l.findSome? (fun x => x)

/-- A refusal where a test fails. -/
def failIf (b : Bool) (f : Fail) : Option Fail := if b then some f else none

/-- A record with its section type, its index in the section and the section offset it begins at. -/
structure ImgRec where
  sect : Nat
  idx : Nat
  at_ : Nat
  r : Rec
deriving DecidableEq, Repr

/-- Records of a section from an offset, and whether they end exactly at its end (R160). -/
def imgRecsIn (sect : Nat) : Nat → Nat → Nat → List Byte → List ImgRec × Bool
  | 0, _, _, bs => ([], bs.isEmpty)
  | fuel + 1, i, at_, bs =>
    if bs.isEmpty then ([], true)
    else
      let n := pnum bs 4 4
      let w := pnum bs 0 2
      if n < 8 ∨ n % 8 ≠ 0 ∨ bs.length < n ∨ 4096 ≤ w then ([], false)
      else
        let (l, ok) := imgRecsIn sect fuel (i + 1) (at_ + n) (bs.drop n)
        ({ sect, idx := i, at_, r := { kind := w % 256, die := w / 256, unit := pnum bs 2 2, body := (bs.take n).drop 8 } } :: l, ok)

/-- A REGION record's fields (R160). -/
structure ImgRegion where
  die : Nat
  id : Nat
  tier : Nat
  align : Nat
  size : Nat
deriving DecidableEq, Repr

/-- An image in hand: its bytes, as compiled or relocated, its digest (R159), and the regions its addresses lie in with their bases
(R167): an update's are those of the image it is applied to. -/
structure Img where
  bytes : List Byte
  digest : List Byte := []
  places : List (ImgRegion × Nat) := []
deriving DecidableEq, Repr

/-- A number of the header. -/
def Img.num (m : Img) (a k : Nat) : Nat := pnum m.bytes a k
def Img.sections (m : Img) : Nat := m.num 0x0C 1
def Img.fitted (m : Img) : Bool := bitOf (m.num 0x18 4) 0
def Img.relaxed (m : Img) : Bool := bitOf (m.num 0x18 4) 1
def Img.update (m : Img) : Bool := bitOf (m.num 0x18 4) 2
def Img.anyId (m : Img) : Bool := bitOf (m.num 0x18 4) 3
def Img.dies (m : Img) : Nat := m.num 0x28 1 % 32
def Img.modules (m : Img) : Nat := m.num 0x29 1
def Img.rank (m : Img) : Nat := m.num 0x2A 1
def Img.jobId (m : Img) : Nat := m.num 0x38 8

/-- Offset and length of the section of a type (R158). -/
def Img.secAt (m : Img) (t : Nat) : Nat × Nat :=
  if t = 0 ∨ m.sections < t then (0, 0) else (m.num (0x80 + 32 * (t - 1) + 8) 8, m.num (0x80 + 32 * (t - 1) + 16) 8)
def Img.sec (m : Img) (t : Nat) : List Byte := (m.bytes.drop (m.secAt t).1).take (m.secAt t).2

/-- The image as read: cut at its stated length, with the digest of what stands before SIG (R159). -/
def readImage (bs : List Byte) : Img :=
  let m : Img := { bytes := bs.take (pnum bs 0x10 8) }
  let n := if m.sections = 7 then (m.secAt 7).1 else m.bytes.length
  { m with digest := fitTo 32 (Config.shake256 (m.bytes.take n) 32) }

/-- Records of PLACE (2) or SCHED (4), and of both in order. -/
def Img.recs (m : Img) (t : Nat) : List ImgRec × Bool := imgRecsIn t ((m.sec t).length / 8) 0 0 (m.sec t)
def Img.all (m : Img) : List ImgRec := (m.recs 2).1 ++ (m.recs 4).1
def Img.kind (m : Img) (k : Nat) : List ImgRec := m.all.filter (fun x => x.r.kind == k)

/-- A number of a record's body; the refusal of a record. -/
def ImgRec.f (x : ImgRec) (a k : Nat) : Nat := pnum x.r.body a k
def ImgRec.fail (x : ImgRec) (status detail : Nat) : Fail := { status, sect := x.sect, idx := x.idx, detail }

/-! ### FORMAT (R157, R158, R160, R163, R164) -/

/-- Header fields are as R157 gives them. -/
def Img.headerOk (m : Img) (given : Nat) : Bool :=
  let w := m.num 0x18 4
  decide (128 ≤ given) && m.num 0 4 == 0x4D524147 && m.num 4 2 == 1 && m.num 8 4 == 128
    && (m.sections == 6 || m.sections == 7) && m.num 0x0D 3 == 0 && decide (m.num 0x10 8 ≤ given) && decide (w < 16)
    && decide (m.num 0x1C 4 < 128) && decide (1 ≤ m.dies) && decide (m.dies ≤ 16) && decide (m.num 0x28 1 < 32)
    && decide (1 ≤ m.modules) && decide (m.modules ≤ 64) && decide (m.rank < m.modules) && m.num 0x2B 1 == 0 && m.num 0x2E 2 == 0
    && (!m.fitted || m.num 0x2C 2 == 0) && (m.update || (m.num 0x34 4 == 0 && m.num 0x40 32 == 0)) && m.num 0x60 32 == 0

/-- What stands after `n` bytes of 0; none where they are not. -/
def skipZeros : Nat → List Byte → Option (List Byte)
  | 0, l => some l
  | _ + 1, [] => some []
  | n + 1, b :: l => if b = 0 then skipZeros n l else none

/-- The bytes before each of some sections, and between them, are 0: `at_` is the offset `bs` begins at. -/
def gapsOk : Nat → List (Nat × Nat) → List Byte → Bool
  | _, [], _ => true
  | at_, (o, l) :: r, bs => match skipZeros (o - at_) bs with
    | some z => gapsOk (o + l) r (z.drop l)
    | none => false

/-- The section table is as R158 gives it. -/
def Img.tableOk (m : Img) : Bool :=
  let n := m.sections
  decide (0x80 + 32 * n ≤ m.bytes.length) &&
  (List.range n).all (fun i =>
    let e := 0x80 + 32 * i
    let (o, l) := m.secAt (i + 1)
    let prev := if i = 0 then 0x80 + 32 * n else (m.secAt i).1 + (m.secAt i).2
    m.num e 2 == i + 1 && m.num (e + 2) 6 == 0 && m.num (e + 24) 8 == 0 && o % 4096 == 0 && decide (prev ≤ o)
      && (i == 0 || decide ((m.secAt i).1 < o)) && decide (o + l ≤ m.bytes.length)) &&
  (n != 7 || ((m.secAt 7).1 + (m.secAt 7).2 == m.bytes.length)) &&
  gapsOk (0x80 + 32 * n) ((List.range n).map (fun i => m.secAt (i + 1))) (m.bytes.drop (0x80 + 32 * n))

/-- SIG is as R159 gives it. -/
def Img.sigOk (m : Img) : Bool :=
  m.sections != 7 || (let s := m.sec 7
                      decide (1 ≤ pnum s 4 2) && decide (pnum s 4 2 ≤ 1462) && decide (8 + pnum s 4 2 ≤ s.length))

/-- A blob that a record names lies in DATA and begins on a 128-byte boundary (R158). -/
def Img.blobOk (m : Img) (at_ len : Nat) : Bool := at_ % 128 == 0 && decide (at_ + len ≤ (m.secAt 3).2)
def Img.blob (m : Img) (at_ len : Nat) : List Byte := ((m.sec 3).drop at_).take len

/-- One record's lengths, fields of 0 and alignments (R160, R163, R164, R181). -/
def Img.recOk (m : Img) (x : ImgRec) : Bool :=
  let n := x.r.body.length
  let u := x.r.unit
  decide (x.r.die < m.dies) &&
  (if x.sect = 2 then
    match x.r.kind with
    | 0x01 => u == 0 && n == 8
    | 0x02 => let c := bitsOf (x.f 0 8) 20 32
      u == 0 && x.f 0 8 / 2 ^ 52 == 0 && x.f 0 8 % 4 == 0 && n == 8 + (4 * c + 7) / 8 * 8 && x.f (8 + 4 * c) (n - 8 - 4 * c) == 0
    | 0x03 => n == 32 && decide (x.f 0 8 < 16) && m.blobOk (x.f 16 8) (x.f 24 8)
    | 0x04 => let w := x.f 0 8
      decide (u < 256) && n == 32 && decide (w < 256) && (w % 4 == 1 || w % 4 == 2) && decide (12 ≤ w / 4) && decide (w / 4 ≤ 40)
        && m.blobOk (x.f 16 8) (x.f 24 8) && decide (x.f 24 8 ≤ x.f 8 8)
    | 0x05 => decide (8 ≤ n) && n == 8 + 8 * bitsOf (x.f 0 8) 48 16
        && (List.range (bitsOf (x.f 0 8) 48 16)).all (fun i => bitsOf (x.f (8 + 8 * i) 8) 26 6 == 0 && decide (bitsOf (x.f (8 + 8 * i) 8) 0 3 ≤ 4))
    | 0x06 => n % 16 == 0 && (List.range (n / 16)).all (fun i => bitsOf (x.f (16 * i + 8) 8) 35 13 == 0)
    | 0x07 => u == 0 && n == 8 && decide (x.f 0 8 < 256) && decide (x.f 0 8 % 16 < m.dies) && decide (x.f 0 8 / 16 < m.dies)
    | 0x08 => decide (u < 64) && n == 24 && decide (x.f 0 8 < 4) && decide (x.f 16 8 < 4096)
    | 0x09 => decide (u < 8) && n == 56 && bitsOf (x.f 0 8) 1 15 == 0 && x.f 4 4 == 0
        && m.blobOk (x.f 8 8) (x.f 16 8) && m.blobOk (x.f 24 8) (x.f 32 8)
    | 0x0A => let c := bitsOf (x.f 0 8) 16 16
      decide (u < 64) && n == 8 + (2 * c + 7) / 8 * 8 && bitsOf (x.f 0 8) 4 12 == 0 && x.f 4 4 == 0 && x.f (8 + 2 * c) (n - 8 - 2 * c) == 0
        && (List.range c).all (fun i => decide (x.f (8 + 2 * i) 2 < 1024))
    | _ => false
  else
    match x.r.kind with
    | 0x20 => decide (u < 64) && n == 40 && bitsOf (x.f 0 4) 19 13 == 0 && bitsOf (x.f 0 4) 4 2 != 3 && bitsOf (x.f 4 4) 27 5 == 0
        && (!bitOf (x.f 0 4) 1 || decide (20 ≤ x.f 8 4))
    | 0x21 => decide (u < 64) && n == 8 + 8 * x.f 2 2 && bitsOf (x.f 0 8) 34 30 == 0
        && (List.range (x.f 2 2)).all (fun i => bitsOf (x.f (8 + 8 * i) 4) 17 15 == 0)
    | 0x22 => u == 0 && n % 16 == 0 && (List.range (n / 16)).all (fun i => bitsOf (x.f (16 * i) 4) 17 15 == 0 && x.f (16 * i + 12) 4 == 0)
    | _ => false)

/-- The place a record writes: a kind of place, its die and unit, and a range within it; none for records that write no one place. -/
def Img.placeOf (x : ImgRec) : List (Nat × Nat × Nat × Nat × Nat) :=
  let d := x.r.die
  let u := x.r.unit
  match x.r.kind with
  | 0x02 => [(2, d, 0, x.f 0 8 % 2 ^ 20, x.f 0 8 % 2 ^ 20 + 4 * bitsOf (x.f 0 8) 20 32)]
  | 0x03 => [(64 + x.f 0 8, d, u, x.f 8 8, x.f 8 8 + x.f 24 8)]
  | 0x04 => [(4, d, u, 0, 1), (64 + 9, d, u, 0, x.f 24 8)]
  | 0x06 => []
  | 0x07 => [(7, x.f 0 8 % 16, 0, 0, 1)]
  | 0x08 => [(8, d, 4 * u + x.f 0 8, 0, 1)]
  | 0x09 => [(9, d, u, 0, 1), (64 + 8, d, u, 0, x.f 32 8)]
  | 0x0A => [(10, d, 16 * u + x.f 0 8 % 16, 0, 1)]
  | 0x21 => []
  | 0x22 => [(0x22, 0, 0, 0, 1)]
  | k => [(k, d, u, 0, 1)]

/-- Two places overlap. -/
def placeMeets (a b : Nat × Nat × Nat × Nat × Nat) : Bool :=
  a.1 == b.1 && a.2.1 == b.2.1 && a.2.2.1 == b.2.2.1 && decide (a.2.2.2.1 < b.2.2.2.2) && decide (b.2.2.2.1 < a.2.2.2.2)

/-- The first record that writes a place an earlier one writes (R160). -/
def writtenTwice : List (Nat × Nat × Nat × Nat × Nat) → List ImgRec → Option ImgRec
  | _, [] => none
  | seen, x :: xs =>
    let p := Img.placeOf x
    if p.any (fun a => seen.any (placeMeets a)) then some x else writtenTwice (p ++ seen) xs

/-- Entries of the TABLE record (R164). -/
def Img.table (m : Img) : List LatEntry :=
  match m.kind 0x22 with
  | [] => []
  | x :: _ => (List.range (x.r.body.length / 16)).map (fun i =>
      { cls := x.f (16 * i) 1, op := x.f (16 * i + 1) 1, fixed := bitOf (x.f (16 * i + 2) 1) 0, worst := x.f (16 * i + 4) 4
        typ := x.f (16 * i + 8) 4 })

/-- A table's entries are sorted, none appears twice, fixed ones have equal latencies (R40). -/
def tableSorted : List LatEntry → Bool
  | a :: b :: r => decide (a.cls * 256 + a.op < b.cls * 256 + b.op) && tableSorted (b :: r)
  | _ => true

/-- A term of a PATH record: class, op, out, count (R164). -/
structure Term where
  cls : Nat
  op : Nat
  out : Bool
  count : Nat
deriving DecidableEq, Repr

def ImgRec.terms (x : ImgRec) : List Term :=
  (List.range (x.f 2 2)).map (fun i =>
    { cls := x.f (8 + 8 * i) 1, op := x.f (9 + 8 * i) 1, out := bitOf (x.f (10 + 8 * i) 1) 0, count := x.f (12 + 8 * i) 4 })

/-- Fields of GATE and PATH records. -/
def ImgRec.redundancy (x : ImgRec) : Nat := bitsOf (x.f 0 4) 4 2
def ImgRec.copy (x : ImgRec) : Nat := bitsOf (x.f 0 8) 32 2

/-- PATH and TABLE records are as R164 asks. -/
def Img.pathFail (m : Img) : Option Fail :=
  let tab := m.table
  let gates := m.kind 0x20
  let paths := m.kind 0x21
  let named := paths.flatMap (fun p => p.terms.map (fun t => (t.cls, t.op)))
  match m.kind 0x22 with
  | [tr] =>
    (failIf (!tableSorted tab || tab.any (fun e => e.fixed && e.worst != e.typ) || tab.any (fun e => !named.contains (e.cls, e.op))) (tr.fail 0x0101 0))
    <|> paths.findSome? (fun p =>
      let ok := match gates.find? (fun g => g.r.die == p.r.die && g.r.unit == p.r.unit) with
        | none => false
        | some g => decide (p.copy ≤ g.redundancy) && p.terms.all (fun t => t.cls != 0x08 &&
            (match tab.find? (fun e => e.cls == t.cls && e.op == t.op) with | some e => !t.out || e.fixed | none => false))
      failIf (!ok) (p.fail 0x0101 p.r.unit))
    <|> gates.findSome? (fun g =>
      failIf (!(List.range (g.redundancy + 1)).all (fun c => paths.any (fun p => p.r.die == g.r.die && p.r.unit == g.r.unit && p.copy == c)))
        (g.fail 0x0101 g.r.unit))
  | _ => some { status := 0x0101, sect := 4 }

/-- FORMAT: `given` bytes were read. An update image names only what it changes: its SPLIT and TABLE are those of the image it is
applied to (R174). -/
def Img.formatFail (m : Img) (given : Nat) : Option Fail :=
  if m.headerOk given = false ∨ m.tableOk = false then some { status := 0x0101 }
  else if m.sigOk = false then some { status := 0x0101, sect := 7 }
  else
    let p := m.recs 2
    let q := m.recs 4
    let rel := fun (t : Nat) => failIf ((m.secAt t).2 % 16 != 0) { status := 0x0101, sect := t }
    (failIf (!p.2) { status := 0x0101, sect := 2, idx := p.1.length })
    <|> (p.1.find? (fun x => !m.recOk x)).map (fun x => x.fail 0x0101 0)
    <|> (failIf (!q.2) { status := 0x0101, sect := 4, idx := q.1.length })
    <|> (q.1.find? (fun x => !m.recOk x)).map (fun x => x.fail 0x0101 0)
    <|> (writtenTwice [] m.all).map (fun x => x.fail 0x0101 0)
    <|> rel 5 <|> rel 6
    <|> (if m.update then none else
      ((List.range m.dies).find? (fun d => countIf (fun x => x.r.die == d) (m.kind 0x01) != 1)).map
        (fun d => ({ status := 0x0101, sect := 2, detail := d } : Fail))
      <|> m.pathFail)

/-! ### SIG_MISSING to REDUCE_MODE (R159, R165, R347) -/

/-- Id of a public key (R346). -/
def keyId (pub : List Byte) : Nat := leNat ((Config.shake256 pub 32).take 4) % 2 ^ 32

/-- Key slot of an id, with its number, where one holds it (R346). -/
def State.keyOfId (s : State) (id : Nat) : Option (Nat × KeySlot) :=
  (List.range 16).findSome? (fun k =>
    let x := Sparse.get {} s.vault.keys k
    if !x.pub.isEmpty && keyId x.pub == id then some (k, x) else none)

/-- SIG_MISSING and SIG_BAD (R347). -/
def State.sigFail (s : State) (m : Img) (maint : Bool) : Option Fail :=
  let need := s.rd SECPOLICY.img_sig []
  if m.sections = 7 then
    let g := m.sec 7
    match s.keyOfId (pnum g 0 4) with
    | some (_, k) => failIf (!(bitOf k.roles 1 && Config.falconVerify k.pub m.digest ((g.drop 8).take (pnum g 4 2)))) { status := 0x0103, sect := 7 }
    | none => some { status := 0x0103, sect := 7 }
  else failIf (decide (need = 2 ∨ (need = 1 ∧ maint = false))) { status := 0x0102, sect := 7 }

/-- Capability 0x0020 + i is present (R30). -/
def State.hasCap (s : State) (i : Nat) : Bool :=
  match i with
  | 0 => s.fit.tier2 | 1 => s.fit.train | 2 => s.fit.acq | 3 => s.fit.ethMac | 4 => s.fit.t1s | 5 => s.fit.triplex | 6 => s.fit.ox
  | _ => false

/-- Words of a REGS record: offset in the die block and value (R160). -/
def ImgRec.words (x : ImgRec) : List (Nat × Nat) :=
  if x.r.kind = 0x02 then
    (List.range (bitsOf (x.f 0 8) 20 32)).map (fun i => (x.f 0 8 % 2 ^ 20 + 4 * i, x.f (8 + 4 * i) 4))
  else []

/-- Logical cluster and offset of a word of a CLU sub-block, where it is one of a logical cluster's. -/
def cluWord (o : Nat) : Option (Nat × Nat) :=
  if 0x30000 ≤ o ∧ o < 0x30000 + 64 * 0x2000 then some ((o - 0x30000) / 0x2000, (o - 0x30000) % 0x2000) else none

/-- A word sets `QDESC.rnd` or a non-zero `QDESC.gexp` (R147). -/
def wordTrains (w : Nat × Nat) : Bool :=
  match cluWord w.1 with
  | some (_, i) => decide (0x1900 ≤ i) && decide (i < 0x1D00) &&
      ((i % 0x40 == 0 && bitOf w.2 QDESC0.rnd.lo) || (i % 0x40 == 4 && bitsOf w.2 (QDESC0.gexp.lo - 32) 8 != 0))
  | none => false

/-- CAP_ABSENT (R170). -/
def State.capFail (s : State) (m : Img) : Option Fail :=
  ((List.range 7).find? (fun i => bitOf (m.num 0x1C 4) i && !s.hasCap i)).map (fun i => ({ status := 0x0104, detail := 0x0020 + i } : Fail))
  <|> m.all.findSome? (fun x =>
    let need := match x.r.kind with
      | 0x04 => if x.f 0 8 % 4 = 2 then some 0 else none
      | 0x02 => if x.words.any wordTrains then some 1 else none
      | 0x09 => some 6
      | 0x20 => if x.redundancy = 2 then some 5 else none
      | _ => none
    match need with
    | some i => failIf (!s.hasCap i) (x.fail 0x0104 (0x0020 + i))
    | none => none)

/-- Standby logical dies of the image (R173). -/
def Img.standbys (m : Img) : List Nat := ((m.kind 0x07).map (fun x => x.f 0 8 / 16)).eraseDups

/-- REDUCE_MODE (R165). -/
def Img.reduceFail (m : Img) : Option Fail :=
  let n := (m.dies - m.standbys.length) * m.modules
  failIf (!m.fitted && (m.num 0x2C 2 != 4096 || n == 0 || 4096 % n != 0)) { status := 0x0106 }

/-! ### DIE_MAP and BUSY (R166) -/

/-- The die map of a command: byte n the physical die of logical die n; all 0xFF gives the default (R166, R338). -/
def dieMapOf (p : List Byte) : List Nat :=
  let l := (List.range 16).map (fun i => pnum p i 1)
  if l.all (fun v => v == 255) then List.range 16 else l

/-- Words of a router's framed output in the image's SLOTTAB (R22, R96). -/
def slotOffset (r o : Nat) : Nat := 0x1000 + 0x100 * r + 0x20 * o

/-- DIE_MAP (R166): a die that has failed, that has lost a DRAM die or its management path is no die to load onto (R377, R378). -/
def State.mapFail (s : State) (m : Img) (map : List Nat) : Option Fail :=
  let able := fun (n : Nat) => s.managed n && !bitOf (s.rd FLTDIE.failed []) n && !s.flt.lost.any (fun p => p.1 == 0xF0 && p.2.1 == n)
  let present := (List.range 16).filter (fun n => bitOf s.fit.dies n && able n)
  let bad := fun (d : Nat) => ({ status := 0x0107, detail := d } : Fail)
  (failIf (decide (present.length < m.dies)) (bad 0))
  <|> (List.range m.dies).findSome? (fun d =>
    failIf (!present.contains (map.getD d 255) || (List.range d).any (fun e => map.getD e 255 == map.getD d 255)) (bad d))
  <|> (m.kind 0x02).findSome? (fun x =>
    let d := x.r.die
    let used := fun (b : Nat) => x.words.any (fun w =>
      let o := slotOffset (bridgeRouter b) 4
      decide (o ≤ w.1) && decide (w.1 < o + 32) && w.2 != 0)
    failIf ((List.range 4).any (fun b => used b && (match beyond d b, beyond (map.getD d 255) b with
        | some e, some q => !(decide (e < m.dies) && map.getD e 255 == q)
        | _, _ => true))) (x.fail 0x0107 d))
  <|> (m.kind 0x01).findSome? (fun x =>
    let d := x.r.die
    failIf ((List.range 16).any (fun i => bitOf (x.f 0 8) (32 + i) && !s.hasLane (map.getD d 255) i)) (x.fail 0x0107 d))

/-- BUSY: a mapped die is not idle (R166). -/
def State.busyFail (s : State) (m : Img) (map : List Nat) : Option Fail :=
  (List.range m.dies).findSome? (fun d => failIf (s.rd DIESTAT.state [map.getD d 255] != 1) { status := 0x0108, detail := d })

end Sys2Proof.Machine
end

