-- ==== Sys2Proof/Machine/Reloc.lean ====
section
/-!
DEFINITION. Regions, relocation and patching of an image, and its application to a module (R161, R167 to R169, R170 step 3).
-/
namespace Sys2Proof.Machine

/-! ### Regions (R167) -/

/-- A REGION record read (R160). -/
def regionRec (x : ImgRec) : ImgRegion :=
  { die := x.r.die, id := x.r.unit, tier := x.f 0 8 % 4, align := 2 ^ (x.f 0 8 / 4 % 64), size := x.f 8 8 }

/-- Inserts by ascending id. -/
def insertRegion (a : ImgRegion) : List ImgRegion → List ImgRegion
  | [] => [a]
  | b :: r => if a.id ≤ b.id then a :: b :: r else b :: insertRegion a r

/-- Bases of regions one above another, each aligned (R167). -/
def placeRegions (from_ : Nat) : List ImgRegion → List (ImgRegion × Nat)
  | [] => []
  | a :: r =>
    let base := (from_ + a.align - 1) / a.align * a.align
    (a, base) :: placeRegions (base + a.size) r

/-- Every region that an image's records give, with its base (R167). -/
def Img.allocate (m : Img) : List (ImgRegion × Nat) :=
  let all := (m.kind 0x04).map regionRec
  let sorted := fun (p : ImgRegion → Bool) => (all.filter p).foldl (fun l a => insertRegion a l) []
  (List.range 16).flatMap (fun d => placeRegions 0 (sorted (fun a => a.tier == 1 && a.die == d))) ++ placeRegions 0 (sorted (fun a => a.tier == 2))

/-- Base and size of a region by die and id. -/
def Img.regionAt (m : Img) (die id tier : Nat) : Option (Nat × Nat) :=
  ((m.places.find? (fun p => p.1.die == die && p.1.id == id && p.1.tier == tier)).map (fun p => (p.2, p.1.size)))

/-- Sizes of the spaces of R161, 0 to 8, and the numbers of their indices. -/
def spaceSize : Nat → Nat × Nat
  | 0 => (4096, 4096) | 1 => (128, 4096) | 2 => (4194304, 64) | 3 => (4194304, 4) | 4 => (524288, 4) | 5 => (32768, 4)
  | 6 => (16384, 16) | 7 => (1024, 128) | 8 => (262144, 8) | _ => (0, 0)

/-- MEM_SPACE (R167, R227): regions that do not fit, and MEM records outside their space. -/
def State.spaceFail (s : State) (m : Img) : Option Fail :=
  let lost := s.flt.lost.any (fun p => p.1 == 0xF1)
  (m.recs 2).1.findSome? (fun x =>
    match x.r.kind with
    | 0x03 =>
      let sp := x.f 0 8
      let stop := x.f 8 8 + x.f 24 8
      if sp = 9 then
        match m.places.find? (fun p => p.1.die == x.r.die && p.1.id == x.r.unit) with
        | some p => failIf (decide (p.1.size < stop)) (x.fail 0x010B x.r.unit)
        | none => some (x.fail 0x010B x.r.unit)
      else failIf (decide ((spaceSize sp).2 ≤ x.r.unit) || decide ((spaceSize sp).1 < stop)) (x.fail 0x010B x.r.unit)
    | 0x04 =>
      let a := regionRec x
      let base := ((m.regionAt a.die a.id a.tier).map (·.1)).getD 0
      let bad := if a.tier = 2 then a.die != 0 || lost || decide (s.tier2Bytes < base + a.size)
        else decide (tier1Goat < base + a.size) || (a.id == 255 && (a.size == 0 || a.size % 2 ^ 20 != 0))
      failIf bad (x.fail 0x010B a.id)
    | _ => none)

/-! ### Relocation and patching (R168, R169) -/

/-- An entry of RELOC or PATCH: its kind or symbol, section, field and argument. -/
structure Entry where
  kind : Nat
  sect : Nat
  lsb : Nat
  width : Nat
  arg : Nat
  off : Nat
  /-- fields of 0 are 0 -/
  ok : Bool
deriving DecidableEq, Repr

/-- Entries of section 5 or 6. -/
def Img.entries (m : Img) (t : Nat) : List Entry :=
  let b := m.sec t
  (List.range (b.length / 16)).map (fun i =>
    let w := pnum b (16 * i) 4
    { kind := w % 256, sect := bitsOf w 8 4, lsb := bitsOf w 16 6, width := bitsOf w 22 7, arg := pnum b (16 * i + 4) 4
      off := pnum b (16 * i + 8) 8, ok := bitsOf w 12 4 == 0 && bitsOf w 29 3 == 0 })

/-- Bits an entry names: section, first and one past the last. -/
def Entry.span (e : Entry) : Nat × Nat × Nat := (e.sect, 8 * e.off + e.lsb, 8 * e.off + e.lsb + e.width)

/-- Two spans share a bit. -/
def spansMeet (a b : Nat × Nat × Nat) : Bool := a.1 == b.1 && decide (a.2.1 < b.2.2) && decide (b.2.1 < a.2.2)

/-- A byte range of a section as a span. -/
def byteSpan (sect a b : Nat) : Nat × Nat × Nat := (sect, 8 * a, 8 * b)

/-- Bits of a record that no entry may name: its header, and the fields that checks before RELOC read (R168). -/
def ImgRec.fixedSpans (x : ImgRec) : List (Nat × Nat × Nat) :=
  let b := x.at_ + 8
  let stop := b + x.r.body.length
  byteSpan x.sect x.at_ b ::
  (match x.r.kind with
    | 0x01 => [byteSpan x.sect b stop]
    | 0x02 => byteSpan x.sect b (b + 8) :: (x.words.zipIdx.filter (fun p =>
        (decide (0x1000 ≤ p.1.1) && decide (p.1.1 < 0x5000)) ||
        (match cluWord p.1.1 with | some (_, i) => decide (0x1900 ≤ i) && decide (i < 0x1D00) && decide (i % 0x40 < 8) | none => false))).map
          (fun p => byteSpan x.sect (b + 8 + 4 * p.2) (b + 12 + 4 * p.2))
    | 0x03 => [byteSpan x.sect b stop]
    | 0x04 => [byteSpan x.sect b stop]
    | 0x07 => [byteSpan x.sect b stop]
    | 0x08 => [byteSpan x.sect b stop]
    | 0x09 => [byteSpan x.sect b (b + 40)]
    | 0x20 => [byteSpan x.sect b (b + 4)]
    | 0x21 => [byteSpan x.sect b stop]
    | 0x22 => [byteSpan x.sect b stop]
    | _ => [])

/-- Whether an entry keeps the rules of its place (R168). -/
def Img.entryOk (m : Img) (fixed : List (Nat × Nat × Nat)) (e : Entry) : Bool :=
  e.ok && (e.sect == 2 || e.sect == 3 || e.sect == 4) && decide (1 ≤ e.width) && decide (e.width ≤ 64) && decide (e.lsb + e.width ≤ 64)
    && e.off % 8 == 0 && decide (e.off + 8 ≤ (m.secAt e.sect).2) && !fixed.any (spansMeet e.span)

/-- The field an entry names, and the image with the field replaced. -/
def Img.field (m : Img) (e : Entry) : Nat := bitsOf (m.num ((m.secAt e.sect).1 + e.off) 8) e.lsb e.width
def Img.setField (m : Img) (e : Entry) (v : Nat) : Img :=
  let a := (m.secAt e.sect).1 + e.off
  { m with bytes := overlay m.bytes a (leBytes 8 (setBits (m.num a 8) e.lsb e.width v)) }

/-- Applies entries in order: `value` gives an entry's new field from its old one, none where it is refused. Relocations may not
overlap (`once`, R168); patches may (R169). -/
def Img.applyEntries (once : Bool) (value : Entry → Nat → Option Nat) (ok : Entry → Bool) :
    Nat → List (Nat × Nat × Nat) → List Entry → Img → Sum Nat Img
  | _, _, [], m => .inr m
  | i, seen, e :: es, m =>
    if ok e = false ∨ (once && seen.any (spansMeet e.span)) = true then .inl i
    else
      match value e (m.field e) with
      | some v => Img.applyEntries once value ok (i + 1) (e.span :: seen) es (m.setField e v)
      | none => .inl i

/-- Die fields of the notify addresses of a port block's queues among a REGS record's words (R168, R315, R318). -/
def queueDie (sect b : Nat) (p : (Nat × Nat) × Nat) : List (Nat × Nat × Nat) :=
  let o := p.1.1
  let i := (o - 0x10000) % 0x2000
  let at_ := 8 * (b + 8 + 4 * p.2)
  if o < 0x10000 ∨ 0x30000 ≤ o ∨ p.1.2 = 0 then []
  else if 0x500 ≤ i ∧ i < 0x580 ∧ i % 8 = 4 then [(sect, at_ + 15, at_ + 19)]
  else if 0x580 ≤ i ∧ i < 0x5C0 ∧ i % 8 = 0 then [(sect, at_ + 24, at_ + 28)]
  else []

/-- Offsets in a MEM record's space of the addresses it holds, with the place of each one's die field: routes of hens, field rules
of port blocks, notify words of goats (R57, R168, R193, R218). -/
def memDies (space : Nat) (bs : List Byte) (off : Nat) : List (Nat × Nat) :=
  let has := fun (a n : Nat) => decide (off ≤ a) && decide (a + n ≤ off + bs.length)
  let num := fun (a n : Nat) => pnum bs (a - off) n
  match space with
  | 0 => ((List.range 16).filter (fun q => has (128 + 4 * q) 4 && num (128 + 4 * q) 4 != 0)).map (fun q => (128 + 4 * q, 28))
  | 6 => ((List.range 64).filter (fun q => has (16 * q) 16 && (num (16 * q) 1 % 4 == 1 || num (16 * q) 1 % 4 == 3))).map (fun q => (16 * q + 8, 24))
  | 7 => ((List.range 16).filter (fun d => has (64 * d) 64 && num (64 * d) 1 % 8 != 0 && num (64 * d + 56) 8 != 0)).map (fun d => (64 * d + 56, 24))
  | _ => []

/-- Nibbles of gallery addresses that must have a DIE entry (R168): the record that holds each, and its span. -/
def Img.dieFields (m : Img) : List (ImgRec × Nat × Nat × Nat) :=
  (m.recs 2).1.flatMap (fun x =>
    let b := x.at_ + 8
    match x.r.kind with
    | 0x06 => (List.range (x.r.body.length / 16)).map (fun i => (x, 2, 8 * (b + 16 * i + 11), 8 * (b + 16 * i + 11) + 4))
    | 0x02 => (x.words.zipIdx.filter (fun p => match cluWord p.1.1 with
        | some (_, i) => decide (0x1900 ≤ i) && decide (i < 0x1D00) && i % 0x40 == 8 && p.1.2 != 0
        | none => false)).map (fun p => (x, 2, 8 * (b + 8 + 4 * p.2 + 3), 8 * (b + 8 + 4 * p.2 + 3) + 4))
      ++ (x.words.zipIdx.flatMap (queueDie 2 b)).map (fun p => (x, p))
    | 0x09 => ((List.range 4).filter (fun k => x.f (40 + 4 * k) 4 != 0)).map (fun k => (x, 2, 8 * (b + 40 + 4 * k + 3) + 4, 8 * (b + 40 + 4 * k + 3) + 8))
    | 0x03 => (memDies (x.f 0 8) (m.blob (x.f 16 8) (x.f 24 8)) (x.f 8 8)).map (fun p =>
        let at_ := 8 * (x.f 16 8 + (p.1 - x.f 8 8)) + p.2
        (x, 3, at_, at_ + 4))
    | _ => [])

/-- RELOC: the image relocated, or where it is refused (R168). `phys` is the physical die of a logical one. -/
def Img.relocate (m : Img) (map : List Nat) : Sum Fail Img :=
  let fixed := m.all.flatMap ImgRec.fixedSpans
  let es := m.entries 5
  let ok := fun (e : Entry) => m.entryOk fixed e && (e.kind == 1 || e.kind == 2 || e.kind == 3) &&
    (if e.kind = 1 then e.arg == 0 else decide (e.arg < 4096) && (e.kind == 2 || e.arg / 256 == 0))
  let value := fun (e : Entry) (f : Nat) =>
    if e.kind = 1 then
      let p := map.getD f 255
      if f < m.dies ∧ p < 2 ^ e.width then some p else none
    else
      match m.regionAt (if e.kind = 2 then e.arg / 256 % 16 else 0) (e.arg % 256) (e.kind - 1) with
      | some (base, size) => if f < size ∧ base + f < 2 ^ e.width then some (base + f) else none
      | none => none
  let covers := fun (sp : Nat × Nat × Nat) => es.any (fun e => e.kind == 1 && e.sect == sp.1 && decide (e.span.2.1 ≤ sp.2.1) && decide (sp.2.2 ≤ e.span.2.2))
  match Img.applyEntries true value ok 0 [] es m with
  | .inl i => .inl { status := 0x010C, sect := 5, idx := i, detail := i }
  | .inr m1 =>
    match m.dieFields.find? (fun p => !covers p.2) with
    | some p => .inl (p.1.fail 0x010C 0)
    | none => .inr m1

/-- What the symbols of R169 stand for. -/
structure Symbols where
  start : Nat
  node : Nat
  seed : Nat
deriving DecidableEq, Repr

/-- The value of a symbol with its argument (R169). -/
def Img.symbol (m : Img) (y : Symbols) (map : List Nat) (e : Entry) : Option Nat :=
  let plain := fun (v : Nat) => if e.arg = 0 then some v else none
  match e.kind with
  | 1 => plain y.start
  | 2 => plain y.node
  | 3 => plain m.rank
  | 4 => plain m.modules
  | 5 => if e.arg < m.dies then some (map.getD e.arg 0) else none
  | 6 => (m.regionAt e.arg 255 1).map (·.1)
  | 7 => plain y.seed
  | 8 => plain (leNat (m.digest.take 8))
  | _ => none

/-- PATCH: the image patched, or where it is refused (R169). -/
def Img.patch (m : Img) (y : Symbols) (map : List Nat) : Sum Fail Img :=
  let fixed := m.all.flatMap ImgRec.fixedSpans
  let value := fun (e : Entry) (f : Nat) =>
    match m.symbol y map e with
    | some v => if v + f < 2 ^ e.width then some (v + f) else none
    | none => none
  match Img.applyEntries false value (m.entryOk fixed) 0 [] (m.entries 6) m with
  | .inl i => .inl { status := 0x010D, sect := 6, idx := i, detail := i }
  | .inr m1 => .inr m1

/-! ### Application (R161, R170) -/

/-- The address of a register word of logical die block offset `o`, on physical die `p`: a CLU sub-block is that of the cluster
that serves the logical one (R161, R162). -/
def State.imgAddr (s : State) (p o : Nat) : Nat :=
  0x01000000 + p * 0x100000 + (match cluWord o with | some (l, i) => 0x30000 + s.physClu p l * 0x2000 + i | none => o)

/-- The writes of one record on its die (R160, R161); tier memory and ox pairs are written by `applyBlob`. -/
def State.recWrites (s : State) (m : Img) (map : List Nat) (x : ImgRec) : List ImgWrite :=
  let p := map.getD x.r.die 0
  match x.r.kind with
  | 0x02 => x.words.map (fun w => .reg (s.imgAddr p w.1) (BitVec.ofNat 32 w.2))
  | 0x03 => if x.f 0 8 = 9 then [] else [.mem p (x.f 0 8) x.r.unit (x.f 8 8) (m.blob (x.f 16 8) (x.f 24 8))]
  | _ => []

/-- Bytes written in a tier. -/
def State.writeTier (s : State) (p tier a : Nat) (bs : List Byte) : State :=
  if tier = 1 then s.setTier1 p (Sparse.setBytes (s.tier1 p) a bs) else { s with tier2 := Sparse.setBytes s.tier2 a bs }

/-- Bytes `[a, a + n)` of a memory read as 0. -/
def clearRange (a n : Nat) (l : Sparse Byte) : Sparse Byte := l.filter (fun p => decide (p.1 < a) || decide (a + n ≤ p.1))

/-- A region is filled: its contents, zeros after them (R160). -/
def State.fillRegion (s : State) (m : Img) (map : List Nat) (x : ImgRec) : State :=
  let a := regionRec x
  let p := map.getD a.die 0
  match m.regionAt a.die a.id a.tier with
  | none => s
  | some (base, _) =>
    let s1 := if a.tier = 1 then s.setTier1 p (clearRange base a.size (s.tier1 p)) else { s with tier2 := clearRange base a.size s.tier2 }
    s1.writeTier p a.tier base (m.blob (x.f 16 8) (x.f 24 8))

/-- An OX record loads its pair (R181). -/
def State.loadOx (s : State) (m : Img) (p : Nat) (x : ImgRec) : State :=
  s.setOx p x.r.unit { prompt := bitOf (x.f 0 8) 0, cyclesMax := x.f 2 2, code := m.blob (x.f 8 8) (x.f 16 8)
                       data := fitTo 262144 (m.blob (x.f 24 8) (x.f 32 8)), routes := (List.range 4).map (fun k => x.f (40 + 4 * k) 4) }

/-- One PLACE record is applied; a SPLIT has been applied before the others (R170). -/
def State.applyRec (s : State) (m : Img) (map : List Nat) (x : ImgRec) : State :=
  let p := map.getD x.r.die 0
  match x.r.kind with
  | 0x03 =>
    if x.f 0 8 = 9 then
      match m.places.find? (fun q => q.1.die == x.r.die && q.1.id == x.r.unit) with
      | some q => s.writeTier (map.getD q.1.die 0) q.1.tier (q.2 + x.f 8 8) (m.blob (x.f 16 8) (x.f 24 8))
      | none => s
    else s.imgWrites p (s.recWrites m map x)
  | 0x02 => s.imgWrites p (s.recWrites m map x)
  | 0x04 => s.fillRegion m map x
  | 0x09 => s.loadOx m p x
  | 0x0A =>
    let d := s.die p
    s.setDie p { d with steer := Sparse.set [] d.steer (x.r.unit * 16 + x.f 0 8 % 16) ((List.range (bitsOf (x.f 0 8) 16 16)).map (fun i =>
      (x.f (8 + 2 * i) 2 % 64, x.f (8 + 2 * i) 2 / 64 % 16))) }
  | _ => s

/-- A GATE record's registers (R164): the image's words, with the deadline and offset given. -/
def State.applyGate (s : State) (p d o : Nat) (x : ImgRec) : State :=
  let i := [p, x.r.unit]
  let s1 := (((s.setRaw GCFG i (x.f 0 4 % 2 ^ 19 - x.f 0 4 % 2)).setRaw GDEADLINE i (d % 2 ^ 16 + o % 2 ^ 11 * 2 ^ 16)).setRaw GSCHED_PERIOD i (x.f 8 4)).setRaw
    GSCHED_BASE i (x.f 16 8)
  (s1.setRaw GACCEPT i (x.f 24 8)).setRaw GREJECT i (x.f 32 8)

/-- The split of every logical die, then every other PLACE record in order (R170 step 3). -/
def State.applyPlace (s : State) (m : Img) (map : List Nat) : State :=
  let s1 := (m.kind 0x01).foldl (fun z x => z.setSplit (map.getD x.r.die 0) (x.f 0 8)) s
  (m.recs 2).1.foldl (fun z x => z.applyRec m map x) s1

/-- A module with nothing loaded, for the loader's checks: what it decides depends on the image and the part alone (R167, R170). -/
def State.blank (s : State) : State :=
  { part := s.part, straps := s.straps, fit := s.fit, now := s.now
    regs := (({} : State).wr DETSTAT.strict [] (s.rd DETSTAT.strict [])).regs }

/-- The module of the checks, with images applied in order (R170, R174). -/
def State.virtual (s : State) (ms : List Img) (map : List Nat) : State := ms.foldl (fun z m => z.applyPlace m map) s.blank

end Sys2Proof.Machine
end

