-- ==== Sys2Proof/Machine/Graph.lean ====
section
/-!
DEFINITION. The edges, cycles and gallery routes of an image, as its registers and memories name them (R82, R92 to R94, R96, R163).
Numbers of clusters and hens are logical here; dies are physical.
-/
namespace Sys2Proof.Machine

/-- The images a load or an update applies in order, relocated and patched, with the die map and the module they give (R170, R174). -/
structure Loading where
  ms : List Img
  map : List Nat
  v : State
deriving DecidableEq, Repr

def Loading.base (L : Loading) : Img := L.ms.headD { bytes := [], digest := [] }
def Loading.all (L : Loading) : List ImgRec := L.ms.flatMap Img.all
def Loading.kind (L : Loading) (k : Nat) : List ImgRec := L.all.filter (fun x => x.r.kind == k)
def Loading.dies (L : Loading) : Nat := L.base.dies
def Loading.phys (L : Loading) (d : Nat) : Nat := L.map.getD d 0
def Loading.physDies (L : Loading) : List Nat := (List.range L.dies).map L.phys

/-! ### Hen code (R68, R73) -/

/-- Routes, operands and tag sources of the `SEND`s among some words of a hen: route, operand, tsrc. -/
def Hen.sends (x : Hen) (pcs : List Nat) : List (Nat × Nat × Nat) :=
  pcs.filterMap (fun i => let w := x.word i; if iOp w = 0x20 then some (iRoute w, iK w, iTsrc w) else none)

/-- Every code word. -/
def codeWords : List Nat := (List.range 976).map (· + 48)

/-- Words that may follow word `pc`. -/
def Hen.follow (x : Hen) (pc : Nat) : List Nat :=
  let w := x.word pc
  let op := iOp w
  let on := if pc < 1023 then [pc + 1] else []
  if op = 0x30 then (branchTarget w pc).toList
  else if 0x31 ≤ op ∧ op ≤ 0x38 then on ++ (branchTarget w pc).toList
  else if op = 0x3E ∨ w = 0 then []
  else on

/-- Words reachable from some words, given those already reached. -/
def Hen.reach (x : Hen) : Nat → List Nat → List Nat → List Nat
  | 0, _, seen => seen
  | _, [], seen => seen
  | fuel + 1, pc :: r, seen =>
    if seen.contains pc then x.reach fuel r seen else x.reach fuel (x.follow pc ++ r) (pc :: seen)

/-- `SEND`s that a context of entry `e` can reach. -/
def Hen.entrySends (x : Hen) (e : Nat) : List (Nat × Nat × Nat) :=
  if x.entryPc e = 0 then [] else x.sends (x.reach 4096 [x.entryPc e] [])

/-- Route word `r`; a word of 0 is no route, and a `SEND` may not name it. -/
def Hen.route (x : Hen) (r : Nat) : Nat := (x.word (32 + r)).toNat
def Hen.usesRoute (x : Hen) (r : Nat) : Bool := x.route r != 0
def Hen.sendsNowhere (x : Hen) : Bool := (x.sends codeWords).any (fun p => x.route p.1 == 0)

/-! ### Edges (R92, R163, R175) -/

/-- The unit an address and index name, and the entry or input (R57, R82). -/
def consumerOf (a : BitVec 28) (i : Nat) : UnitId × Nat :=
  match adUnit a with
  | 0 => (.hen ⟨adDie a, adPlace a, adSub a⟩, i)
  | 1 => (.chan (adDie a) (adPlace a) (adSub a % 16), 0)
  | 2 => (.quant (adDie a) (adPlace a) i, i)
  | 3 => (.gate (adDie a) (adPlace a), i)
  | 4 => (.port (adDie a) (adPlace a % 16), i)
  | 5 => (.goat (adDie a) (adPlace a) (adSub a % 2) i, i)
  | _ => (.ox (adDie a) (adPlace a % 8), i)

/-- An edge to an address. -/
def edgeTo (src : Edge) (a i : Nat) (prompt : Bool) : EdgeInfo :=
  let c := consumerOf (BitVec.ofNat 28 a) i
  { src, dst := c.1, input := c.2, prompt }

/-- Hens with instruction memory on a die. -/
def State.loadedHens (s : State) (n : Nat) : List (HenRef × Hen) :=
  s.hens.filterMap (fun p => if p.1 / 2 ^ 20 = n ∧ p.2.imem ≠ [] then some (⟨n, p.1 / 1024 % 1024, p.1 % 1024⟩, p.2) else none)

/-- Edges of a die's hens. -/
def State.henEdges (s : State) (n : Nat) : List EdgeInfo :=
  (s.loadedHens n).flatMap (fun (h, x) => ((List.range 16).filter x.usesRoute).map (fun r =>
    edgeTo (.hen n h.clu h.hen r) (x.route r / 16) (x.route r % 16) (s.cluPrompt n h.clu)))

/-- Edges of a die's extractors: one for each field rule of a port that is on. -/
def State.portEdges (s : State) (n : Nat) : List EdgeInfo :=
  ((List.range 16).filter (fun i => s.rd PCFG.mode [n, i] != 0)).flatMap (fun i =>
    ((rulesOf (s.port n i).mem).filter (fun r => r.kind != 2)).map (fun r => edgeTo (.port n i r.num) r.address r.index (s.portPrompt n i)))

/-- Edges of a die's quantisers: notify edges, and the channels that feed arrays. -/
def State.quantEdges (s : State) (n : Nat) : List EdgeInfo :=
  (List.range 64).flatMap (fun c => (List.range 16).flatMap (fun q =>
    let op := s.rd QDESC0.op [n, c, q]
    let pr := s.cluPrompt n c
    (if op ≠ 0 ∧ (s.rd QDESC0.dst [n, c, q] = 2 ∨ s.rd QDESC0.src [n, c, q] = 2) then
      [edgeTo (.quant n c q) (s.rd QDESC1.notify [n, c, q]) (s.rd QDESC1.notify_index [n, c, q]) pr] else []) ++
    (if op = 1 ∧ s.rd QDESC0.dst [n, c, q] = 0 then
      (s.fedArrays n c).map (fun a => ({ src := .feed n c a, dst := .array n a, prompt := pr } : EdgeInfo)) else [])))

/-- The stream of a cluster whose source is the array return (R153). -/
def State.returnTo (s : State) (n c : Nat) : Option Nat :=
  (List.range 16).find? (fun q => s.rd QDESC0.op [n, c, q] != 0 && s.rd QDESC0.src [n, c, q] == 1)

/-- Edges of a die's arrays (R121): they hold no credits. -/
def State.arrEdges (s : State) (n : Nat) : List EdgeInfo :=
  (List.range 4).flatMap (fun a => (List.range 16).filterMap (fun o =>
    let pl := s.rd AODESC.place [n, a, o]
    match s.rd AODESC.kind [n, a, o] with
    | 1 => some { src := .array n a o, dst := .gate n pl, input := s.rd AODESC.pos [n, a, o], prompt := s.arrPrompt n a }
    | 2 => (s.returnTo n pl).map (fun q => { src := .array n a o, dst := .quant n pl q, input := q, prompt := s.arrPrompt n a })
    | _ => none))

/-- Edges of a die's goats. -/
def State.goatEdges (s : State) (n : Nat) : List EdgeInfo :=
  s.goats.flatMap (fun p =>
    let c := p.1 / 2 % 1024
    if p.1 / 2048 = n then ((List.range 16).filter (fun d => (p.2.desc d).kind != 0)).map (fun d =>
      edgeTo (.goat n c (p.1 % 2) d) (p.2.desc d).notify (p.2.desc d).index false)
    else [])

/-- Edges of a die's ox pairs. -/
def State.oxEdges (s : State) (n : Nat) : List EdgeInfo :=
  (List.range 8).flatMap (fun p =>
    let x := s.ox n p
    ((List.range 4).filter (fun k => x.routes.getD k 0 != 0)).map (fun k => edgeTo (.ox n p k) (x.routes.getD k 0 / 16) (x.routes.getD k 0 % 16) x.prompt))

/-- Edges of a die's bulk ports. -/
def State.macEdges (s : State) (n : Nat) : List EdgeInfo :=
  (List.range 16).flatMap (fun i =>
    ((List.range 16).filter (fun q => s.flag MRQ.enable [n, i, q])).map (fun q =>
      edgeTo (.mac n i q false) (s.rd MRQ.notify [n, i, q]) (s.rd MRQ.index [n, i, q]) false) ++
    ((List.range 8).filter (fun q => s.flag MTQ.enable [n, i, q])).map (fun q =>
      edgeTo (.mac n i q true) (s.rd MTQ.notify [n, i, q]) (s.rd MTQ.index [n, i, q]) false))

/-- Hen entries a steering channel can deliver to, by its STEER record (R160). -/
def State.steerList (s : State) (n c k : Nat) : List (Nat × Nat) := Sparse.get [] (s.die n).steer (c * 16 + k)

/-- Edges of a die's steering channels, markers' way alone. -/
def State.chanEdges (s : State) (n : Nat) : List EdgeInfo :=
  (s.die n).steer.flatMap (fun p => p.2.map (fun he =>
    ({ src := .chan n (p.1 / 16) (p.1 % 16) he.1 he.2, dst := .hen ⟨n, p.1 / 16, he.1⟩, input := he.2, prompt := s.cluPrompt n (p.1 / 16) } : EdgeInfo)))

/-- Every edge that a die produces, with its back edges not yet marked. -/
def State.edgesFrom (s : State) (n : Nat) : List EdgeInfo :=
  s.henEdges n ++ s.portEdges n ++ s.quantEdges n ++ s.arrEdges n ++ s.goatEdges n ++ s.oxEdges n ++ s.macEdges n ++ s.chanEdges n

/-- The credit the image gives an edge (R92); none is stated for an ox pair's (log 33). -/
def State.imageCredit (s : State) : Edge → Nat
  | .hen n c h r => bitsOf (s.raw (if r < 8 then HCREDIT_LO else HCREDIT_HI) [n, c, h]) (8 * (r % 8)) 7
  | .port n i j => bitsOf (s.raw PCREDIT [n, i, j / 8]) (8 * (j % 8)) 7
  | .quant n c q => s.rd QDESC1.credit [n, c, q]
  | .goat n c g d => ((s.goat n c g).desc d).credit
  | .mac n i q tx => if tx then s.rd MTQ.credit [n, i, q] else s.rd MRQ.credit [n, i, q]
  | _ => 0

/-! ### Cycles (R94, R163) -/

/-- A place a token comes to on a cycle: a unit and its entry, input or stream. -/
abbrev Node := UnitId × Nat

/-- The places an edge leads to: through a steering channel to the hen entries it lists, through an array to the streams its return
outputs reach. -/
def State.nodesOf (s : State) (i : EdgeInfo) : List Node :=
  match i.dst with
  | .chan n c k => (s.steerList n c k).map (fun p => (.hen ⟨n, c, p.1⟩, p.2))
  | .array n a => ((s.arrEdges n).filterMap (fun e => match e.src, e.dst with
      | .array m b _, .quant x y q => if m = n ∧ b = a then some (UnitId.quant x y q, q) else none
      | _, _ => none)).eraseDups
  | u => [(u, i.input)]

/-- The edge leaves a place: a hen's route leaves the entries whose code reaches a `SEND` on it. -/
def State.leaves (s : State) (nd : Node) (e : Edge) : Bool :=
  match nd.1, e with
  | .hen h, .hen n c k r => h == ⟨n, c, k⟩ && ((s.hen h).entrySends nd.2).any (fun p => p.1 == r)
  | .quant n c q, .quant m d p => n == m && c == d && q == p
  | .quant n c q, .feed m d _ => n == m && c == d && s.rd QDESC0.dst [n, c, q] == 0
  | .goat n c g d, .goat m x y z => n == m && c == x && g == y && d == z
  | .ox n p, .ox m q _ => n == m && p == q
  | .port n i, .port m k _ => n == m && i == k
  | .port n i, .mac m k _ _ => n == m && i == k
  | _, _ => false

/-- Elementary cycles through a start place and places still allowed: each the edges in path order. -/
def State.cyclesFrom (s : State) (es : List EdgeInfo) (start : Node) : Nat → List Node → List Edge → Node → List (List Edge)
  | 0, _, _, _ => []
  | fuel + 1, allowed, path, cur =>
    (es.filter (fun i => s.leaves cur i.src)).flatMap (fun i => (s.nodesOf i).flatMap (fun m =>
      if m = start then [path ++ [i.src]]
      else if allowed.contains m then s.cyclesFrom es start fuel (allowed.filter (fun x => x ≠ m)) (path ++ [i.src]) m
      else []))

/-- Every elementary cycle of a graph, from each place over the places after it. -/
def State.cyclesOf (s : State) (es : List EdgeInfo) : List Node → List (List Edge)
  | [] => []
  | a :: r => s.cyclesFrom es a (r.length + 1) r [] a ++ s.cyclesOf es r

/-- The graph's edges and cycles, less the channels that only markers take. -/
def State.graphCycles (s : State) (es : List EdgeInfo) : List (List Edge) :=
  let flow := es.filter (fun i => match i.src with | .chan _ _ _ _ _ => false | .array _ _ _ => false | _ => true)
  (s.cyclesOf flow (flow.flatMap s.nodesOf).eraseDups).eraseDups

/-- One entry of a CYCLE record (R163). -/
structure CycEdge where
  kind : Nat
  die : Nat
  place : Nat
  sub : Nat
  route : Nat
  tsrc : Nat
  back : Bool
  carry : Bool
  delta : Int
  step : Nat
deriving DecidableEq, Repr

def ImgRec.cycEdges (x : ImgRec) : List CycEdge :=
  (List.range (bitsOf (x.f 0 8) 48 16)).map (fun i =>
    let w := x.f (8 + 8 * i) 8
    { kind := bitsOf w 0 3, die := bitsOf w 3 4, place := bitsOf w 7 6, sub := bitsOf w 13 6, route := bitsOf w 19 4, tsrc := bitsOf w 23 1
      back := bitOf w 24, carry := bitOf w 25, delta := intOf 8 (bitsOf w 32 8), step := bitsOf w 40 16 })

/-- The entry names an edge of the image. For an array feed the quantiser stream is the name of the channel; the number of a goat's
descriptor is not among the fields, so any of the goat's edges may answer. -/
def Loading.names (L : Loading) (c : CycEdge) (e : Edge) : Bool :=
  let n := L.phys c.die
  match c.kind, e with
  | 0, .hen m p h r => m == n && p == c.place && h == c.sub && r == c.route
  | 1, .port m i j => m == n && i == c.place && j == c.sub
  | 2, .quant m p q => m == n && p == c.place && q == c.sub
  | 2, .feed m p _ => m == n && p == c.place && L.v.rd QDESC0.dst [n, p, c.sub] == 0
  | 3, .goat m p g _ => m == n && p == c.place && g == c.sub
  | 4, .ox m p k => m == n && p == c.place && k == c.sub
  | _, _ => false

/-- The cycle of the graph that a CYCLE record names, its edges turned to the record's order. -/
def Loading.cycleFor (L : Loading) (graph : List (List Edge)) (cs : List CycEdge) : Option (List Edge) :=
  graph.findSome? (fun es => (List.range es.length).findSome? (fun k =>
    let t := es.drop k ++ es.take k
    if cs.length = t.length ∧ cs ≠ [] ∧ (cs.zip t).all (fun p => L.names p.1 p.2) = true then some t else none))

/-- The places a cycle's edges lead to, in order: of those an edge can lead to, the one the next edge leaves. -/
def State.cycleNodes (s : State) (es : List EdgeInfo) (t : List Edge) : List Node :=
  (t.zip (t.drop 1 ++ t.take 1)).filterMap (fun p =>
    (es.find? (fun i => decide (i.src = p.1))).bind (fun i => (s.nodesOf i).find? (fun m => s.leaves m p.2)))

/-- Seeds of a cycle: the tokens of the SEED records that name it (R160, R163). -/
def Loading.seedsOf (L : Loading) (die idx : Nat) : List Token :=
  ((L.kind 0x06).filter (fun x => x.r.die == die && x.r.unit == idx)).flatMap (fun x => (List.range (x.r.body.length / 16)).map (fun i =>
    let w := x.f (16 * i + 8) 8
    { data := BitVec.ofNat 64 (x.f (16 * i) 8), addr := BitVec.ofNat 28 w, index := bitsOf w 28 4, operand := bitsOf w 32 3
      tag := BitVec.ofNat 16 (bitsOf w 48 16) }))

end Sys2Proof.Machine
end

