-- ==== Sys2Proof/Machine/LoadHens.lean ====
section
/-!
DEFINITION. The loader's checks from IDENTITY to CYCLE_DEAD (R170), but for those of an update: the split, the registers an image may
write, hen code, slot tables, credits and cycles.
-/
namespace Sys2Proof.Machine

/-- IDENTITY (R170). -/
def State.identityFail (s : State) (m : Img) : Option Fail :=
  failIf (!m.anyId && m.num 0x24 4 != s.part.identityCode) { status := 0x0105 }

/-- PART_SPLIT (R15, R170). -/
def Loading.splitFail (L : Loading) : Option Fail :=
  (L.kind 0x01).findSome? (fun x => failIf (!L.v.splitOk (L.phys x.r.die) (x.f 0 8)) (x.fail 0x010E x.r.die))

/-! ### REG_SCOPE (R162) -/

/-- Registers a REGS record may write; `HISTCFG` is image-writable by its own table. -/
def imageRegs : List Reg := [HENCFG, CLUCFG, SCRUBCFG, STEERCFG, HCREDIT_LO, HCREDIT_HI, QDESC0, QDESC1, QDESC2, QDESC3, QDESC4, QDESC5, QDESC6,
  GALCFG, SLOTTAB, AFEED, ASCRUB, ABALLAST, AODESC, ASETDESC, ASETMAP, PCFG, PLINK_BASE, PLINK_CFG, PCREDIT, GTCFG, MCFG, MWM, MFILT, MRQ, MTQ,
  HISTCFG]

/-- A word of a REGS record is one an image may write, at a value the register stores. -/
def Loading.wordOk (L : Loading) (d : Nat) (w : Nat × Nat) : Bool :=
  match findReg (0x01000000 + L.phys d * 0x100000 + w.1) with
  | none => false
  | some (r, idx, b) =>
    let mask := 0xFFFFFFFF * 2 ^ (8 * b) % 2 ^ r.width
    let v := merged r mask (w.2 * 2 ^ (8 * b)) (L.v.raw r idx)
    imageRegs.any (fun x => x.is r) && b % 4 == 0 && L.v.valueOk r idx mask v
      && (idx.getD 1 0 != 64 || !(0x30000 ≤ w.1 && w.1 < 0x30000 + 65 * 0x2000))
      && (!r.is SLOTTAB || idx.getD 2 0 != 4 || (bridgeSide (idx.getD 1 0)).isSome)

/-- REG_SCOPE. -/
def Loading.scopeFail (L : Loading) : Option Fail :=
  (L.kind 0x02).findSome? (fun x => x.words.findSome? (fun w => failIf (!L.wordOk x.r.die w) (x.fail 0x010F w.1)))

/-! ### Hens (R56, R59, R68, R75, R82) -/

/-- An entry descriptor is as R56 asks. -/
def Hen.entryOk (x : Hen) (e : Nat) : Bool :=
  let w := (x.word (2 * e)).toNat
  if bitsOf w 0 10 = 0 then w == 0 && x.word (2 * e + 1) == 0
  else decide (48 ≤ bitsOf w 0 10) && bitsOf w 10 6 == 0 && bitsOf w 30 2 == 0 && bitsOf w 16 8 != 0
    && decide (1 ≤ bitsOf w 24 6) && decide (bitsOf w 24 6 ≤ 32)

/-- An address names a place that exists, on a die of the image (R82). -/
def Loading.addressOk (L : Loading) (a : Nat) : Bool :=
  let b : BitVec 28 := BitVec.ofNat 28 a
  let sub := bitsOf a 9 6
  L.physDies.contains (adDie b) && bitsOf a 0 9 == 0 &&
  (match adUnit b with
    | 0 => true
    | 1 => decide (sub < 16)
    | 2 => sub == 0
    | 3 => sub == 0
    | 4 => decide (adPlace b < 16) && sub == 0
    | 5 => decide (sub < 2)
    | 6 => decide (adPlace b < 8) && sub == 0 && L.v.fit.ox
    | _ => false)

/-- A code word is 0, or legal with its branch inside the code words. -/
def codeOk (w : W32) (pc : Nat) : Bool :=
  w == 0 || (henLegal w && (!(decide (0x30 ≤ iOp w) && decide (iOp w ≤ 0x38)) || (branchTarget w pc).isSome))

/-- Hens whose instruction memory the image writes, with the record. -/
def Loading.hensOf (L : Loading) : List (ImgRec × HenRef) :=
  ((L.kind 0x03).filter (fun x => x.f 0 8 == 0)).map (fun x => (x, ⟨L.phys x.r.die, x.r.unit / 64, x.r.unit % 64⟩))

/-- A test of every hen the image writes. -/
def Loading.henTest (L : Loading) (status : Nat) (ok : HenRef → Hen → Bool) : Option Fail :=
  L.hensOf.findSome? (fun p => failIf (!ok p.2 (L.v.hen p.2)) (p.1.fail status p.1.r.unit))

/-- HEN_CODE. -/
def Loading.codeFail (L : Loading) : Option Fail :=
  L.henTest 0x0110 (fun _ x =>
    (List.range 16).all x.entryOk && codeWords.all (fun pc => codeOk (x.word pc) pc)
      && !x.sendsNowhere && (List.range 16).all (fun r => !x.usesRoute r || L.addressOk (x.route r / 16)))
  <|> (L.kind 0x09).findSome? (fun x => failIf ((List.range 4).any (fun k => x.f (40 + 4 * k) 4 != 0 && !L.addressOk (x.f (40 + 4 * k) 4 / 16)))
    (x.fail 0x0110 x.r.unit))

/-- HEN_WINDOW (R59). -/
def Loading.windowFail (L : Loading) : Option Fail :=
  L.henTest 0x0111 (fun _ x => decide (((List.range 16).map (fun e => if x.entryPc e = 0 then 0 else x.window e)).sum ≤ 32))

/-- Entries of a cluster to which queue `q` is bound (R75). -/
def State.boundTo (s : State) (n c q : Nat) : Nat :=
  (((s.loadedHens n).filter (fun p => p.1.clu == c)).map (fun p =>
    countIf (fun e => p.2.entryPc e != 0 && bitOf (p.2.qmask e) q) (List.range 16))).sum

/-- HEN_QUEUE (R75). -/
def Loading.queueFail (L : Loading) : Option Fail :=
  L.henTest 0x0112 (fun h x =>
    !(L.v.cluPrompt h.die h.clu && codeWords.any (fun pc => let op := iOp (x.word pc); decide (0x24 ≤ op) && decide (op ≤ 0x26)))
      && (List.range 16).all (fun q => decide (L.v.boundTo h.die h.clu q ≤ 1)))

/-! ### Slot tables (R96) -/

/-- One step of a prompt token: the input it takes at the next router after leaving by an output. -/
def nextRouter (n r o : Nat) : Option (Nat × Nat × Nat) :=
  match o with
  | 0 => some (n, r - 8, 2)
  | 1 => some (n, r + 1, 3)
  | 2 => some (n, r + 8, 0)
  | 3 => some (n, r - 1, 1)
  | _ => (bridgeSide r).bind (fun b => (beyond n b).map (fun m => (m, bridgeRouter (3 - b), 5)))

/-- Router passages of a token to an address: die, router, input, output (R98). -/
def passages (a : BitVec 28) : Nat → Nat × Nat × Nat → List (Nat × Nat × Nat × Nat)
  | 0, _ => []
  | fuel + 1, (n, r, i) =>
    match firstOutput n r a with
    | none => []
    | some o => (n, r, i, o) :: (match nextRouter n r o with | some p => passages a fuel p | none => [])

/-- Router and input by which an edge's tokens enter the gallery, and the address they carry; none for a dedicated channel. -/
def State.entersAt (s : State) : Edge → Option ((Nat × Nat × Nat) × Nat)
  | .hen n c h r => some ((n, c, 4), (s.hen ⟨n, c, h⟩).route r / 16)
  | .port n i j => some ((n, if i < 8 then i else i + 48, 5), bitsOf (memWord (s.port n i).mem (16 * j + 8)) 0 28)
  | .quant n c q => some ((n, c, 4), s.rd QDESC1.notify [n, c, q])
  | .ox n p k => some ((n, p + 8, 5), (s.ox n p).routes.getD k 0 / 16)
  | _ => none

/-- Every passage of the image's prompt edges. -/
def State.promptPassages (s : State) (es : List EdgeInfo) : List (Nat × Nat × Nat × Nat) :=
  ((es.filter (·.prompt)).flatMap (fun i => match s.entersAt i.src with
    | some (p, a) => passages (BitVec.ofNat 28 a) 256 p
    | none => [])).eraseDups

/-- Owner code of a position as the image writes it. -/
def State.slotCode (s : State) (n r o p : Nat) : Nat := bitsOf (s.raw SLOTTAB [n, r, o, p / 8]) (4 * (p % 8)) 4

/-- Positions of a link with a code of a range. -/
def State.positions (s : State) (n r o a b : Nat) : Nat :=
  countIf (fun p => decide (a ≤ s.slotCode n r o p) && decide (s.slotCode n r o p ≤ b)) (List.range 64)

/-- A die's slot words use no reserved code, and give no position to a partition without a cluster. -/
def State.slotCodesOk (s : State) (n : Nat) : Bool :=
  let pc := s.rd PARTCFG.prompt_clusters [n]
  (List.range 64).all (fun r => (List.range 5).all (fun o => (List.range 8).all (fun w =>
    let x := s.raw SLOTTAB [n, r, o, w]
    x == 0 || (List.range 8).all (fun p =>
      let c := bitsOf x (4 * p) 4
      c == 0 || (c == 1 && decide (pc < 64)) || (decide (8 ≤ c) && decide (c ≤ 13) && decide (0 < pc))))))

/-- A passage has the positions R96 asks. -/
def State.passageOk (s : State) (p : Nat × Nat × Nat × Nat) : Bool :=
  let (n, r, i, o) := p
  let own := s.positions n r o (8 + i) (8 + i)
  match feeder n r i with
  | some (m, q, u) => decide (s.positions m q u 8 13 ≤ own)
  | none => decide (1 ≤ own)

/-- SLOT_TABLE (R96); the detail is a router. -/
def Loading.slotFail (L : Loading) (es : List EdgeInfo) : Option Fail :=
  L.physDies.findSome? (fun n => failIf (!L.v.slotCodesOk n) { status := 0x0113, sect := 2 })
  <|> (L.v.promptPassages es).findSome? (fun p => failIf (!L.v.passageOk p) { status := 0x0113, sect := 2, detail := p.2.1 })

/-! ### Credits (R93) -/

/-- Cluster whose steering unit an edge's tokens wait at. -/
def steersAt : UnitId → Option (Nat × Nat)
  | .hen h => some (h.die, h.clu)
  | .chan n c _ => some (n, c)
  | _ => none

/-- Copy of a gate that a producer delivers as, by the gate's COPY records; copy 0 where none lists it (R172). -/
def Loading.copyOf (L : Loading) (n g : Nat) (e : Edge) : Nat :=
  ((L.kind 0x08).findSome? (fun x =>
    let hit := match e with
      | .hen m c _ _ => m == n && bitOf (x.f 8 8) c
      | .quant m c _ => m == n && bitOf (x.f 8 8) c
      | .array m a _ => m == n && bitOf (x.f 16 8) a
      | .ox m p _ => m == n && bitOf (x.f 16 8) (4 + p)
      | _ => false
    if L.phys x.r.die = n ∧ x.r.unit = g ∧ hit = true then some (x.f 0 8 % 4) else none)).getD 0

/-- Token positions and copies at which an edge delivers to a gate. -/
def Loading.positionsOf (L : Loading) (n g : Nat) (i : EdgeInfo) : List (Nat × Nat) :=
  let c := L.copyOf n g i.src
  match i.src with
  | .hen m k h r => ((((L.v.hen ⟨m, k, h⟩).sends codeWords).filter (fun p => p.1 == r)).map (fun p => (p.2.1, c))).eraseDups
  | .port m k j => match (rulesOf (L.v.port m k).mem).find? (fun r => r.num == j) with
    | some r => (List.range r.ntok).map (fun t => (r.operand + t, r.copy))
    | none => []
  | .quant _ _ _ => (List.range 8).map (fun p => (p, c))
  | .array m a o =>
    let k := 64 / outBits (L.v.rd AODESC.fmt [m, a, o])
    (List.range ((L.v.rd AODESC.count [m, a, o] + k - 1) / k)).map (fun t => (i.input + t, c))
  | _ => []

/-- CREDIT_DEPTH (R93): 64 credits into a steering unit; at a gate 64 an edge, and one edge for each position and copy. -/
def Loading.depthFail (L : Loading) (es : List EdgeInfo) : Option Fail :=
  let clus := (es.filterMap (fun i => steersAt i.dst)).eraseDups
  let real := es.filter (fun i => edgeCredited i.src)
  let gates := (es.filterMap (fun i => match i.dst with | .gate n g => some (n, g) | _ => none)).eraseDups
  (clus.findSome? (fun p => failIf (decide (64 < ((real.filter (fun i => steersAt i.dst == some p)).map (fun i => L.v.imageCredit i.src)).sum))
    { status := 0x0114, sect := 2, detail := p.2 }))
  <|> gates.findSome? (fun p =>
    let into := es.filter (fun i => decide (i.dst = .gate p.1 p.2))
    let at_ := into.flatMap (L.positionsOf p.1 p.2)
    failIf (into.any (fun i => decide (64 < L.v.imageCredit i.src)) || at_.eraseDups.length != at_.length) { status := 0x0114, sect := 2, detail := p.2 })

/-! ### Cycles (R94, R163) -/

/-- A CYCLE record with the cycle of the graph it names. -/
structure CycleRec where
  src : ImgRec
  entries : List CycEdge
  path : List Edge
  nodes : List Node
  seeds : List Token
deriving DecidableEq, Repr

/-- CYCLE records that name a cycle of the graph. -/
def Loading.cycleRecs (L : Loading) (es : List EdgeInfo) (graph : List (List Edge)) : List (ImgRec × Option CycleRec) :=
  (L.kind 0x05).map (fun x =>
    (x, (L.cycleFor graph x.cycEdges).map (fun t =>
      { src := x, entries := x.cycEdges, path := t, nodes := L.v.cycleNodes es t, seeds := L.seedsOf x.r.die x.r.unit })))

/-- Tokens a cycle can admit: its edges' credits and its entries' windows (R94). -/
def Loading.admits (L : Loading) (c : CycleRec) : Nat :=
  (c.path.map L.v.imageCredit).sum + (c.nodes.map (fun p => match p.1 with | .hen h => (L.v.hen h).window p.2 | _ => 0)).sum

/-- The largest tag step of its edges, at least 1 (R94). -/
def cycleSpan (es : List CycEdge) : Nat := es.foldl (fun m e => max m (if e.tsrc = 1 then e.step else e.delta.natAbs)) 1

/-- A hen route's `SEND`s all have the tag source its entry states. -/
def Loading.tsrcOk (L : Loading) (c : CycleRec) : Bool :=
  (c.entries.zip c.path).all (fun p => match p.2 with
    | .hen n k h r => ((L.v.hen ⟨n, k, h⟩).sends codeWords).all (fun x => x.1 != r || x.2.2 == p.1.tsrc)
    | _ => true)

/-- Every edge of the cycle is in its consumer's need mask (R94); a consumer that is no hen needs every token. -/
def Loading.allNeeded (L : Loading) (c : CycleRec) : Bool :=
  (c.path.zip c.nodes).all (fun p => match p.1, p.2.1 with
    | .hen n k h r, .hen x => ((L.v.hen ⟨n, k, h⟩).sends codeWords).all (fun s => s.1 != r || bitOf ((L.v.hen x).need p.2.2) s.2.1)
    | .port n i j, .hen x => (rulesOf (L.v.port n i).mem).all (fun r => r.num != j ||
        (List.range r.ntok).all (fun t => bitOf ((L.v.hen x).need p.2.2) (r.operand + t)))
    | _, _ => true)

/-- CREDIT_BOUND; the detail is a cycle index. -/
def Loading.boundFail (L : Loading) (graph : List (List Edge)) (cs : List (ImgRec × Option CycleRec)) : Option Fail :=
  cs.findSome? (fun p =>
    let bad := match p.2 with
      | none => true
      | some c => countIf (fun e => e.back) c.entries != 1 || bitsOf (p.1.f 0 8) 32 16 != c.seeds.length || !L.tsrcOk c
          || decide (L.admits c < c.seeds.length) || decide (p.1.f 0 4 < L.admits c)
    failIf bad (p.1.fail 0x0115 p.1.r.unit))
  <|> (L.kind 0x06).findSome? (fun x => failIf (!cs.any (fun p => p.1.r.die == x.r.die && p.1.r.unit == x.r.unit)) (x.fail 0x0115 x.r.unit))
  <|> graph.findSome? (fun g => failIf (!cs.any (fun p => match p.2 with
      | some c => c.path.length == g.length && c.path.all g.contains
      | none => false)) { status := 0x0115, sect := 2 })

/-- TAG_SPAN and CYCLE_DEAD. -/
def Loading.spanFail (_L : Loading) (cs : List (ImgRec × Option CycleRec)) : Option Fail :=
  cs.findSome? (fun p => failIf (decide (32735 < p.1.f 0 4 * cycleSpan p.1.cycEdges)) (p.1.fail 0x0116 p.1.r.unit))
def Loading.deadFail (L : Loading) (cs : List (ImgRec × Option CycleRec)) : Option Fail :=
  cs.findSome? (fun p => match p.2 with
    | some c => failIf (c.seeds.isEmpty && L.allNeeded c) (p.1.fail 0x0117 p.1.r.unit)
    | none => none)

/-- The checks from PART_SPLIT to CYCLE_DEAD, in order (R170). -/
def Loading.henFails (L : Loading) : Option Fail :=
  let es := L.physDies.flatMap L.v.edgesFrom
  let graph := L.v.graphCycles es
  let cs := L.cycleRecs es graph
  L.splitFail <|> L.scopeFail <|> L.codeFail <|> L.windowFail <|> L.queueFail <|> L.slotFail es <|> L.depthFail es
    <|> L.boundFail graph cs <|> L.spanFail cs <|> L.deadFail cs

end Sys2Proof.Machine
end

