-- ==== Sys2Proof/Machine/LoadArrays.lean ====
section
/-!
DEFINITION. The loader's checks ARRAY_CFG, ACC_RANGE and QUANT_CFG (R113, R116, R121, R126, R153, R170).
-/
namespace Sys2Proof.Machine

/-- Streams that feed an array: cluster and stream. -/
def State.feeders (s : State) (n a : Nat) : List (Nat × Nat) :=
  if s.flag AFEED.enable [n, a] then
    let c := s.rd AFEED.cluster [n, a]
    ((List.range 16).filter (fun q => s.rd QDESC0.op [n, c, q] == 1 && s.rd QDESC0.dst [n, c, q] == 0)).map (fun q => (c, q))
  else []

/-- Classes and formats of the sets whose accumulations end through an output descriptor: class, and whether it is floating. -/
def State.descClasses (s : State) (n a o : Nat) : List (Nat × Bool) :=
  ((s.feeders n a).filter (fun p => bitOf (s.rd QDESC3.header [n, p.1, p.2]) (11 + o))).flatMap (fun p =>
    (s.streamSets n p.1 a p.2).map (fun l =>
      let cls := s.rd ASETDESC.cls [n, a, l]
      (cls, cls == 2 && s.rd ASETDESC.xfmt [n, a, l] != 0)))

/-- An output descriptor is as R113 and R121 ask: its place in the array's partition (gates are the prompt one's, R16), its columns and
token positions within reach, RAW from no floating class. -/
def State.descOk (s : State) (n a o : Nat) : Bool :=
  let i := [n, a, o]
  let kind := s.rd AODESC.kind i
  let pl := s.rd AODESC.place i
  let fmt := s.rd AODESC.fmt i
  let lanes := 64 / outBits fmt
  kind == 0 ||
  ((if kind = 1 then s.arrPrompt n a && decide (pl < 64) && decide (s.rd AODESC.pos i + (s.rd AODESC.count i + lanes - 1) / lanes ≤ 8)
    else decide (pl < 64) && s.cluPrompt n pl == s.arrPrompt n a)
  && decide (s.rd AODESC.first i + s.rd AODESC.count i ≤ 512)
  && (s.descClasses n a o).all (fun k => decide (s.rd AODESC.first i + s.rd AODESC.count i ≤ classCols k.1) && !(k.2 && fmt == 3)))

/-- ARRAY_CFG: `s` is the part, whose failed arrays no image may use (R126). The detail is an array. -/
def Loading.arrayFail (L : Loading) (s : State) : Option Fail :=
  L.physDies.findSome? (fun n => (List.range 4).findSome? (fun a =>
    let c := L.v.rd AFEED.cluster [n, a]
    let on := L.v.flag AFEED.enable [n, a]
    let ok := (!on || (L.v.cluPrompt n c == L.v.arrPrompt n a && !s.flag ASTAT.failed [n, a])) && (List.range 16).all (L.v.descOk n a)
    failIf (!ok) { status := 0x0118, sect := 2, detail := a }))

/-- Twice the greatest magnitude of an element (R114). -/
def topTwice (f : SetFmt) : Nat :=
  match f.elem with
  | .int w => 2 ^ w / 2 ^ (-f.eOff).toNat
  | .flt g => if g = e4m3 then 896 else if g = e5m2 then 114688 else if g = e3m2 then 56 else if g = e2m3 then 15 else 12

/-- The greatest shared exponent in a set's sidecar (R109). -/
def State.sidecarTop (s : State) (n a l cls : Nat) : Nat :=
  let st := s.setMap n a 0 l
  (List.range (classCols cls)).foldl (fun m c => (List.range (classRows cls / 32)).foldl (fun k b =>
    max k (Sparse.get 0 (s.arr n a).sidecar (8192 * st + 16 * c + b)).toNat) m) 0

/-- The largest accumulation length declared for a set, in vectors. -/
def State.accLength (s : State) (n a l : Nat) : Nat :=
  ((s.feeders n a).filter (fun p => (s.streamSets n p.1 a p.2).contains l)).foldl (fun m p => max m (s.rd QDESC3.n_acc [n, p.1, p.2] + 1)) 1

/-- The condition of R116, both sides taken four times. -/
def accFits (n R ta tw : Nat) (Xa Xw L : Int) : Bool :=
  let e := Xa + Xw - 254 - L
  if 0 ≤ e then decide (n * R * ta * tw * 2 ^ e.toNat < 2 ^ 65) else decide (n * R * ta * tw < 2 ^ 65 * 2 ^ (-e).toNat)

/-- A valid set of a narrow class or i16 meets R116. -/
def State.accOk (s : State) (n a l : Nat) : Bool :=
  let i := [n, a, l]
  let cls := s.rd ASETDESC.cls i
  match setFmt cls (s.rd ASETDESC.wfmt i), setFmt cls (s.rd ASETDESC.xfmt i) with
  | some w, some x =>
    s.flag ASETDESC.valid i = false || (cls == 2 && s.rd ASETDESC.xfmt i != 0) ||
      accFits (s.accLength n a l) (classRows cls) (topTwice x) (topTwice w)
        (if x.blk = 0 then 127 else (s.rd ASETDESC.xwin_lo i + s.rd ASETDESC.xwin_span i : Nat))
        (if w.blk = 0 then 127 else (s.sidecarTop n a l cls : Nat)) (intOf 9 (s.rd ASETDESC.L i))
  | _, _ => true

/-- ACC_RANGE; the detail is an array. -/
def Loading.accFail (L : Loading) : Option Fail :=
  L.physDies.findSome? (fun n => (List.range 4).findSome? (fun a =>
    failIf (!(List.range 64).all (L.v.accOk n a)) { status := 0x0119, sect := 2, detail := a }))

/-- QUANT_CFG; the detail is a logical cluster. -/
def Loading.quantFail (L : Loading) : Option Fail :=
  L.physDies.findSome? (fun n => (List.range 64).findSome? (fun c =>
    failIf ((List.range 16).any (fun q => L.v.rd QDESC0.op [n, c, q] != 0 && !L.v.streamOk n c q)) { status := 0x011A, sect := 2, detail := c }))

end Sys2Proof.Machine
end

