-- ==== Sys2Proof/Machine/LoadPorts.lean ====
section
/-!
DEFINITION. The loader's checks PORT_CFG, GOAT_CFG and OX_CFG (R170, R181, R184, R192 to R203, R208, R212, R214, R218, R222, R225, R315).
-/
namespace Sys2Proof.Machine

/-! ### Regions of the module of the checks (R167, R227) -/

/-- The regions a load allocates on a die: its own of tier 1 and every one of tier 2; the history ring is region 255. -/
def State.setRegions (s : State) (m : Img) (map : List Nat) : State :=
  (List.range m.dies).foldl (fun z d =>
    let p := map.getD d 0
    let mine := m.places.filter (fun q => q.1.tier == 2 || q.1.die == d)
    let ring := mine.find? (fun q => q.1.tier == 1 && q.1.id == 255)
    let h := Sparse.get {} z.hists p
    let z1 : State := { z with hists := Sparse.set {} z.hists p { h with size := match ring with | some q => q.1.size | none => 0 } }
    z1.setDie p { z1.die p with regions := mine.map (fun q => { id := q.1.id, tier := q.1.tier, base := q.2, size := q.1.size })
                                history := match ring with | some q => q.2 | none => 0 }) s

/-! ### Gates as the image gives them -/

/-- A GATE record read (R164): deadline, offset, period and spacing in units of 100 ps. -/
structure GateSpec where
  src : ImgRec
  die : Nat
  gate : Nat
  cfg : Nat
deriving DecidableEq, Repr

def Loading.gateSpecs (L : Loading) : List GateSpec :=
  (L.kind 0x20).map (fun x => { src := x, die := L.phys x.r.die, gate := x.r.unit, cfg := x.f 0 4 })
def GateSpec.schedule (g : GateSpec) : Bool := bitOf g.cfg 1
def GateSpec.redundancy (g : GateSpec) : Nat := bitsOf g.cfg 4 2
def GateSpec.port (g : GateSpec) : Nat := bitsOf g.cfg 9 4
def GateSpec.trigger (g : GateSpec) : Bool := bitOf g.cfg 13
def GateSpec.dest (g : GateSpec) : Nat := bitsOf g.cfg 14 4
def GateSpec.D (g : GateSpec) : Nat := bitsOf (g.src.f 4 4) 0 16
def GateSpec.O (g : GateSpec) : Nat := bitsOf (g.src.f 4 4) 16 11
/-- Least anchor spacing: the period in SCHEDULE mode, else the declared one (R45). -/
def GateSpec.pmin (g : GateSpec) : Nat := if g.schedule then g.src.f 8 4 else g.src.f 12 4

/-! ### PORT_CFG -/

/-- Port block `i` serves lanes of a port of a lower block (R184). -/
def State.portMember (s : State) (n i : Nat) : Bool :=
  (List.range i).any (fun b => s.rd PCFG.mode [n, b] != 0 && decide (i < b + s.portLanes n b))

/-- A port is made as R184 asks. -/
def State.portShapeOk (s : State) (n i : Nat) : Bool :=
  let w := s.portLanes n i
  s.rd PCFG.mode [n, i] == 0 ||
  (i % w == 0 && (s.rd PCFG.mode [n, i] != 1 || w == 1) && !s.portMember n i
    && (List.range w).all (fun k => s.hasLane n (i + k) && (k == 0 || s.rd PCFG.mode [n, i + k] == 0)))

/-- Bytes of PORTMEM outside its areas are 0 (R192). -/
def portMemOk (m : Sparse Byte) : Bool := m.all (fun p => !(decide (0x704 ≤ p.1) && decide (p.1 < 0x800)) || p.2 == 0)

/-- A rule's fields are ones R193 gives its kind, and it lies within reach (R214). -/
def Rule.ok (r : Rule) : Bool :=
  let fixed := r.kind != 3
  !bitOf r.w0 31 && r.w1 / 2 ^ 45 == 0
    && (!fixed || (bitsOf r.w0 22 3 == 0 && r.level == 0 && !r.lenbyte && decide (r.offset + r.width ≤ portBuffer)))
    && (if r.kind = 2 then decide (r.width ≤ 4) && !r.anchor && bitsOf r.w1 32 13 == 0 else r.value == 0)
    && (!r.lenbyte || decide (r.width ≤ 7))

/-- A walk's chain is as R197 asks. -/
def walkOk (m : Sparse Byte) (level : Nat) : Bool :=
  let c := levelChain m 8 level
  (match c with | (i, l) :: _ => l.parent == i | [] => false) && (c.map (·.1)).eraseDups.length == c.length
    && c.all (fun p =>
      let v := memWord m (0x400 + 8 * p.1)
      (bitsOf v 20 2 == 1 || bitsOf v 20 2 == 2) && bitsOf v 22 2 != 3 && bitsOf v 46 8 != 0 && bitsOf v 54 10 == 0)

/-- First byte that a field rule reads: its offset, or the start of its top-level walk. -/
def Rule.first (r : Rule) (m : Sparse Byte) : Nat :=
  if r.kind = 3 then (match levelChain m 8 r.level with | (_, l) :: _ => l.start | [] => 0) else r.offset

/-- Compares end before anything else begins (R194). -/
def comparesOk (m : Sparse Byte) (rs : List Rule) : Bool :=
  (rs.filter (fun r => r.kind == 2)).all (fun c => (rs.filter (fun r => r.kind != 2)).all (fun r => decide (c.offset + c.width ≤ r.first m)))

/-- A directory entry's template, if the entry is valid (R201). -/
def templateEntry (m : Sparse Byte) (a : Nat) : Option Nat :=
  let v := leNat (Sparse.getBytes m a 4)
  if bitOf v 14 then some (bitsOf v 0 14) else none

/-- Patch words of a template (R201). -/
def patchWords (m : Sparse Byte) (a : Nat) : List Nat := (List.range (templateAt m a).npatch).map (fun k => memWord m (a + 8 + 8 * k))

/-- A template is as R201 and R202 ask; `cancel` for the cancel template. -/
def templateOk (m : Sparse Byte) (mode a : Nat) (cancel : Bool) : Bool :=
  let t := templateAt m a
  let h := memWord m a
  a % 8 == 0 && decide (0x800 ≤ a) && decide (a + 8 + 8 * t.npatch + t.flen ≤ 16384) && decide (t.npatch ≤ 64)
    && bitsOf h 12 4 == 0 && h / 2 ^ 23 == 0 && decide ((if mode = 2 then 60 else 8) ≤ t.flen) && decide (t.flen ≤ 2044)
    && (patchWords m a).all (fun w =>
      bitsOf w 12 4 == 0 && w / 2 ^ 36 == 0 && bitsOf w 16 3 != 7 && (cancel || bitsOf w 16 3 != 6)
        && decide (bitsOf w 0 12 + bitsOf w 20 4 + 1 ≤ t.flen))

/-- Every template of a port block (R201). -/
def templatesOk (m : Sparse Byte) (mode : Nat) : Bool :=
  (List.range 65).all (fun g =>
    let a := 0x600 + 4 * g
    let v := leNat (Sparse.getBytes m a 4)
    v / 2 ^ 15 == 0 && (match templateEntry m a with | some t => templateOk m mode t (g == 64) | none => true))

/-- The credit R200 asks of a rule: `gs` the gates that name the port. -/
def creditsEnough (ntok credit : Nat) (gs : List GateSpec) : Bool :=
  let dmax := gs.foldl (fun m g => max m g.D) 0
  match gs.map GateSpec.pmin with
  | [] => true
  | p :: ps =>
    let pmin := ps.foldl min p
    pmin != 0 && decide (ntok * ((dmax + pmin - 1) / pmin + 1) ≤ credit)

/-- The rules, walks, templates and credits of a port block (R192 to R203). -/
def Loading.portOk (L : Loading) (n i : Nat) : Bool :=
  let m := (L.v.port n i).mem
  let rs := rulesOf m
  let fields := rs.filter (fun r => r.kind != 2)
  let link := L.v.flag PCFG.link [n, i]
  let gs := L.gateSpecs.filter (fun g => g.die == n && g.port == i && g.schedule == link)
  L.v.portShapeOk n i && portMemOk m && rs.all Rule.ok && (fields.filter (fun r => r.kind == 3)).all (fun r => walkOk m r.level)
    && comparesOk m rs && decide (countIf Rule.anchor fields ≤ 1) && templatesOk m (L.v.rd PCFG.mode [n, i])
    && (L.v.rd PCFG.mode [n, i] == 0 || fields.all (fun r => creditsEnough r.ntok (L.v.imageCredit (.port n i r.num)) gs))

/-- End of what a source-1 patch may read of a port's frames: its anchor's last byte, or the first byte of its top-level walk, is the
last it may reach (R203; DEDUCED that the start itself may be reached). -/
def State.inboundEnd (s : State) (n i : Nat) : Nat :=
  let m := (s.port n i).mem
  match (rulesOf m).find? (fun r => r.kind != 2 && r.anchor) with
  | some r => if r.kind = 3 then r.first m + 1 else r.offset + r.width
  | none => 0

/-- Fixed time after the composer, ps, and of `hold_tail` bytes on a port (R208, R211). -/
def State.afterComposer (s : State) (n i : Nat) : Nat := 2000 + (if s.rd PCFG.mode [n, i] = 2 then 34000 else 2000)
def State.holdTail (s : State) (n i h : Nat) : Nat :=
  if s.rd PCFG.mode [n, i] = 2 then (h * 40 + s.portLanes n i - 1) / s.portLanes n i else ((h + 30) / 31 + 1) * 1280

/-- A gate meets what its ports ask of it (R203, R205, R208, R212, R214). -/
def Loading.gatePortOk (L : Loading) (g : GateSpec) : Bool :=
  let n := g.die
  let v := L.v
  let named := (rulesOf (v.port n g.port).mem).any (fun r => r.kind != 2 && r.anchor)
  (g.schedule || (named && !v.flag PCFG.link [n, g.port])) &&
  (g.trigger ||
    (let m := (v.port n g.dest).mem
     v.rd PCFG.mode [n, g.dest] != 0 && v.hasLane n g.dest && !v.portMember n g.dest &&
     (match templateEntry m (0x600 + 4 * g.gate) with
       | none => false
       | some t => (patchWords m t).all (fun w => bitsOf w 16 3 != 1 ||
           (!g.schedule && decide (bitsOf w 24 12 + bitsOf w 20 4 + 1 ≤ v.inboundEnd n g.port)))) &&
     (g.schedule || v.flag PCFG.policy [n, g.dest] == false ||
       decide (v.rxDelay n g.port + v.holdTail n g.port (v.rd PCFG.hold_tail [n, g.dest]) + v.afterComposer n g.dest ≤ 100 * g.D))))

/-- A receive queue's region is a ring of its die or of tier 2 (R315). -/
def Loading.ringOk (L : Loading) (d i q : Nat) : Bool :=
  let n := L.phys d
  let id := L.v.rd MRQ.region [n, i, q]
  let size := match L.base.regionAt d id 1 with
    | some p => p.2
    | none => match L.base.regionAt 0 id 2 with | some p => p.2 | none => 0
  L.v.flag MRQ.enable [n, i, q] == false || (decide (65536 ≤ size) && size == 2 ^ Nat.log2 size)

/-- PORT_CFG; the detail is a port block or a gate. -/
def Loading.portFail (L : Loading) : Option Fail :=
  (List.range L.dies).findSome? (fun d => (List.range 16).findSome? (fun i =>
    failIf (!(L.portOk (L.phys d) i && (List.range 16).all (L.ringOk d i))) { status := 0x011B, sect := 2, detail := i }))
  <|> L.gateSpecs.findSome? (fun g => failIf (!L.gatePortOk g) (g.src.fail 0x011B g.gate))

/-! ### GOAT_CFG -/

/-- An address lies in the bulk partition (R225). -/
def Loading.bulkAddress (L : Loading) (a : Nat) : Bool :=
  let b : BitVec 28 := BitVec.ofNat 28 a
  let n := adDie b
  L.addressOk a && (match adUnit b with
    | 3 => false
    | 4 => !L.v.portPrompt n (adPlace b)
    | 6 => !(L.v.ox n (adPlace b)).prompt
    | _ => !L.v.cluPrompt n (adPlace b))

/-- A descriptor's fields are as R218 asks. -/
def descFieldsOk (x : Goat) (d : Nat) : Bool :=
  let w := x.word d 0
  let k := x.desc d
  decide (k.kind ≤ 4) && bitsOf w 12 20 == 0 && w / 2 ^ 41 == 0 && bitsOf (x.word d 6) 44 20 == 0 && bitsOf (x.word d 7) 44 20 == 0
    && (k.kind != 4 || decide (k.func ≤ 2)) && (k.kind == 4 || decide (k.granule ≤ 16) || k.granule == 31) && decide (k.credit ≤ 64)
    && (k.kind == 4 || (k.base % 128 == 0 && k.s1 % 128 == 0 && k.s2 % 128 == 0 && k.s3 % 128 == 0
      && (k.space != 2 || k.kind == 1) && (k.space != 3 || (k.kind == 3 && k.dir))))
    && (k.kind != 3 || (k.sramBase % 128 == 0 && k.sramLen % 128 == 0))

/-- A descriptor meets R222 and R225. -/
def Loading.descGood (L : Loading) (n : Nat) (x : Goat) (d : Nat) : Bool :=
  let k := x.desc d
  k.kind == 0 ||
  (descFieldsOk x d && L.bulkAddress k.notify
    && (k.kind == 4 || k.space != 2 || (Sparse.get {} L.v.hists n).size != 0)
    && (k.kind == 4 || k.space != 3 || (k.base / 2 ^ 25 == 0 && decide (bitsOf k.base 0 17 < 73728) && !L.v.arrPrompt n (bitsOf k.base 23 2)))
    && (k.kind == 4 || k.trig || (List.range k.lines).all (fun i => match L.v.linePlace n k 0 i with | .nowhere => false | _ => true)))

/-- Every descriptor of a goat, and its queues (R225). -/
def Loading.goatOk (L : Loading) (n c g : Nat) : Bool :=
  let x := L.v.goat n c g
  let queued := (List.range 16).filter (fun d => (x.desc d).kind == 1 || (x.desc d).kind == 2)
  (!L.v.cluPrompt n c || (List.range 16).all (fun d => (x.desc d).kind == 0))
    && (List.range 16).all (L.descGood n x)
    && (queued.map (fun d => (x.desc d).queue)).eraseDups.length == queued.length
    && (List.range 8).all (fun q => L.v.boundTo n c (8 * g + q) == 0 || queued.any (fun d => (x.desc d).queue == q))

/-- GOAT_CFG; the detail is 2 × cluster + goat. -/
def Loading.goatFail (L : Loading) : Option Fail :=
  L.physDies.findSome? (fun n => (List.range 64).findSome? (fun c => (List.range 2).findSome? (fun g =>
    failIf (!L.goatOk n c g) { status := 0x011C, sect := 2, detail := 2 * c + g })))

/-! ### OX_CFG (R181) -/

def Loading.oxFail (L : Loading) : Option Fail :=
  (L.kind 0x09).findSome? (fun x =>
    let n := L.phys x.r.die
    let pr := bitOf (x.f 0 8) 0
    let p := L.v.ox n x.r.unit
    let bad := decide (32768 < x.f 16 8) || decide (262144 < x.f 32 8) || pr != bitOf (L.v.rd PARTCFG.ox_prompt [n]) x.r.unit
      || (pr && (x.f 2 2 == 0 || !(p.routes.any (fun w => w != 0 && adUnit (BitVec.ofNat 28 (w / 16)) == 3)))) || Config.s1External p.code
    failIf bad (x.fail 0x011D x.r.unit))

end Sys2Proof.Machine
end

