-- ==== Sys2Proof/Machine/LoadTiming.lean ====
section
/-!
DEFINITION. The loader's checks REDUNDANCY to GATE_DEPTH (R42, R43, R45, R164, R171 to R173), and all checks in order (R170).
-/
namespace Sys2Proof.Machine

/-! ### REDUNDANCY -/

/-- Places that tokens come to from some places, by the edges that leave them. -/
def State.reachPlaces (s : State) (es : List EdgeInfo) : Nat → List Node → List Node → List Node
  | 0, _, seen => seen
  | _, [], seen => seen
  | fuel + 1, a :: r, seen =>
    if seen.contains a then s.reachPlaces es fuel r seen
    else s.reachPlaces es fuel ((es.filter (fun i => s.leaves a i.src)).flatMap s.nodesOf ++ r) (a :: seen)

/-- Places that tokens of a copy come to on a die: from the extractor rules that name the copy (R172). -/
def State.copyPlaces (s : State) (es : List EdgeInfo) (c : Nat) : List Node :=
  let start := es.filter (fun i => match i.src with
    | .port n k j => (rulesOf (s.port n k).mem).any (fun r => r.num == j && r.copy == c)
    | _ => false)
  s.reachPlaces es 65536 (start.flatMap s.nodesOf) []

/-- An edge carries tokens of places reached. -/
def State.carries (s : State) (es : List EdgeInfo) (ps : List Node) (e : Edge) : Bool :=
  match e with
  | .array n a _ => es.any (fun i => match i.src with | .feed m _ b => m == n && b == a && ps.any (fun p => s.leaves p i.src) | _ => false)
  | e => ps.any (fun p => s.leaves p e)

/-- A COPY record of a gate's copy lists the producer (R172). -/
def Loading.listed (L : Loading) (g : GateSpec) (c : Nat) (e : Edge) : Bool :=
  (L.kind 0x08).any (fun x => L.phys x.r.die == g.die && x.r.unit == g.gate && x.f 0 8 % 4 == c &&
    (match e with
      | .hen m k _ _ => m == g.die && bitOf (x.f 8 8) k
      | .quant m k _ => m == g.die && bitOf (x.f 8 8) k
      | .array m a _ => m == g.die && bitOf (x.f 16 8) a
      | .ox m p _ => m == g.die && bitOf (x.f 16 8) (4 + p)
      | _ => true))

/-- A gate's copies are disjoint, and each producer lies in the copy it delivers as (R172). -/
def Loading.gateCopiesOk (L : Loading) (es : List EdgeInfo) (g : GateSpec) : Bool :=
  let cs := (L.kind 0x08).filter (fun x => L.phys x.r.die == g.die && x.r.unit == g.gate)
  let copies := List.range (g.redundancy + 1)
  let into := es.filter (fun i => decide (i.dst = .gate g.die g.gate))
  (g.redundancy == 0 && cs.isEmpty) ||
  (copies.all (fun c => cs.any (fun x => x.f 0 8 % 4 == c))
    && cs.all (fun a => cs.all (fun b => a.f 0 8 % 4 == b.f 0 8 % 4 || ((a.f 8 8 &&& b.f 8 8) == 0 && (a.f 16 8 &&& b.f 16 8) == 0)))
    && into.all (fun i => (match i.src with | .port _ _ _ => true | _ => copies.any (fun c => L.listed g c i.src))
      && copies.all (fun c => !L.v.carries es (L.v.copyPlaces es c) i.src || L.listed g c i.src)))

/-- A route word, or a notify address, of one die as another would hold it: its own die's number changed. -/
def turnDie (n m w : Nat) : Nat := if w / 2 ^ 28 = n ∧ w ≠ 0 then w % 2 ^ 28 + m * 2 ^ 28 else w

/-- Two hens of an active and a standby die hold the same code and constants (R173). -/
def henCopyOk (n m : Nat) (x y : Hen) : Bool :=
  (List.range 1024).all (fun i => if 32 ≤ i ∧ i < 48 then turnDie n m (x.word i).toNat == (y.word i).toNat else x.word i == y.word i)
    && x.consts == y.consts

/-- CLU registers that a copy repeats. -/
def copyRegs : List (Reg × List Nat) :=
  [(HENCFG, []), (CLUCFG, []), (STEERCFG, [])] ++ (List.range 64).flatMap (fun h => [(HCREDIT_LO, [h]), (HCREDIT_HI, [h])])
    ++ (List.range 16).flatMap (fun q => [QDESC0, QDESC2, QDESC3, QDESC4, QDESC5, QDESC6].map (fun r => (r, [q])))

/-- The placement of die `m` is a copy of the prompt placement of die `n` (R173). -/
def State.dieCopyOk (s : State) (n m : Nat) : Bool :=
  let pc := s.rd PARTCFG.prompt_clusters [n]
  let pa := s.rd PARTCFG.prompt_arrays [n]
  pc == s.rd PARTCFG.prompt_clusters [m] && pa == s.rd PARTCFG.prompt_arrays [m] && s.rd PARTCFG.ox_prompt [n] == s.rd PARTCFG.ox_prompt [m]
    && (List.range pc).all (fun c =>
      (List.range 64).all (fun h => henCopyOk n m (s.hen ⟨n, c, h⟩) (s.hen ⟨m, c, h⟩)) && (s.clu n c).sram == (s.clu m c).sram
        && copyRegs.all (fun r => s.raw r.1 ([n, c] ++ r.2) == s.raw r.1 ([m, c] ++ r.2))
        && (List.range 16).all (fun q => turnDie n m (s.raw QDESC1 [n, c, q] % 2 ^ 28 * 16) == s.raw QDESC1 [m, c, q] % 2 ^ 28 * 16
          && s.raw QDESC1 [n, c, q] / 2 ^ 28 == s.raw QDESC1 [m, c, q] / 2 ^ 28))
    && (List.range pa).all (fun a =>
      (s.arr n a).store == (s.arr m a).store && (s.arr n a).sidecar == (s.arr m a).sidecar && (s.arr n a).scale == (s.arr m a).scale
        && s.raw AFEED [n, a] == s.raw AFEED [m, a] && (List.range 16).all (fun o => s.raw AODESC [n, a, o] == s.raw AODESC [m, a, o])
        && (List.range 64).all (fun l => s.raw ASETDESC [n, a, l] == s.raw ASETDESC [m, a, l])
        && (List.range 64).all (fun w => s.raw ASETMAP [n, a, w / 16, w % 16] == s.raw ASETMAP [m, a, w / 16, w % 16]))
    && (List.range 8).all (fun p => !(s.ox n p).prompt || ((s.ox n p).code == (s.ox m p).code && (s.ox n p).data == (s.ox m p).data))

/-- REDUNDANCY; the detail is a gate, or a standby die. -/
def Loading.redundancyFail (L : Loading) (es : List EdgeInfo) : Option Fail :=
  (L.kind 0x07).findSome? (fun x =>
    let a := x.f 0 8 % 16
    let b := x.f 0 8 / 16
    failIf (a == b || !L.v.dieCopyOk (L.phys a) (L.phys b)) (x.fail 0x011E b))
  <|> L.gateSpecs.findSome? (fun g => failIf (!L.gateCopiesOk es g) (g.src.fail 0x011E g.gate))

/-! ### Steppings, deadlines, depth -/

/-- Least multiple of 100 not below a number. -/
def ceil100 (x : Nat) : Nat := (x + 99) / 100 * 100

/-- Worst-case latency of a term under a table. -/
def worstIn (t : List LatEntry) (cls op : Nat) : Nat := ((t.find? (fun e => e.cls == cls && e.op == op)).map (·.worst)).getD 0

/-- Sum of the terms of a PATH record that a test takes, under a table. -/
def sumTerms (t : List LatEntry) (ts : List Term) (p : Term → Bool) : Nat := ((ts.filter p).map (fun e => e.count * worstIn t e.cls e.op)).sum

/-- Dc of one PATH record under the part's table (R42, R164). -/
def pathDc (t : List LatEntry) (x : ImgRec) : Nat :=
  let fixed := fun (e : Term) => (t.find? (fun l => l.cls == e.cls && l.op == e.op)).any (·.fixed)
  let f := sumTerms t x.terms fixed
  let v := sumTerms t x.terms (fun e => !fixed e) + worstIn t 0x08 0
  let s := x.f 0 1 * worstIn t 0x09 0 + x.f 1 1 * worstIn t 0x09 1
  let g := max 800 (ceil100 ((v + s + 15) / 16))
  ceil100 (f + v + s + g)

/-- PATH records of a gate. -/
def Loading.pathsOf (L : Loading) (g : GateSpec) : List ImgRec := (L.kind 0x21).filter (fun x => x.r.die == g.src.r.die && x.r.unit == g.gate)

/-- Dc of a gate, at least 38.0 ns (R42, R43), ps. -/
def Loading.dc (L : Loading) (g : GateSpec) : Nat := (L.pathsOf g).foldl (fun m x => max m (pathDc latEntries x)) 38000

/-- The stretch of R171 in ps, or the refusal. -/
def Loading.stretch (L : Loading) (least : Nat) : Sum Fail Nat :=
  let m := L.base
  let tab := m.table
  let fail : Fail := { status := 0x011F, sect := 4, idx := match L.kind 0x22 with | x :: _ => x.idx | [] => 0 }
  let lacks := tab.zipIdx.find? (fun p => (worstPs p.1.cls p.1.op).isNone)
  let slower := tab.any (fun e => match worstPs e.cls e.op with | some w => decide (e.worst < w) | none => false) && m.num 0x20 4 != latTableId
  match lacks with
  | some p => .inl { fail with detail := p.2 }
  | none =>
    if slower = false then .inr 0
    else if m.relaxed = false then .inl fail
    else
      let d := L.gateSpecs.foldl (fun a g => max a (ceil100 (L.dc g - 100 * g.D))) (ceil100 least)
      if m.num 0x30 4 < d then .inl { fail with detail := d } else .inr d

/-- The offset the loader writes, in ps: the sum of the out terms under the part's table (R164). -/
def Loading.offset (L : Loading) (g : GateSpec) : Nat := (L.pathsOf g).foldl (fun m x => max m (sumTerms latEntries x.terms (·.out))) 0

/-- DEADLINE_SHORT: `d` the stretch. -/
def Loading.deadlineFail (L : Loading) (d : Nat) : Option Fail :=
  L.gateSpecs.findSome? (fun g =>
    let D := 100 * g.D + d
    let bad := decide (D < L.dc g) || decide (4000000 < D) || decide (204700 < L.offset g)
      || (L.pathsOf g).any (fun x => sumTerms L.base.table x.terms (·.out) != 100 * g.O)
    failIf bad (g.src.fail 0x0120 g.gate))

/-- GATE_DEPTH (R45); a declared spacing of 0 gives no bound. -/
def Loading.gateDepthFail (L : Loading) (d : Nat) : Option Fail :=
  L.gateSpecs.findSome? (fun g =>
    let p := 100 * g.pmin
    failIf (p == 0 || decide (64 < (100 * g.D + d + p - 1) / p + 1)) (g.src.fail 0x0121 g.gate))

/-- The checks from PART_SPLIT on, in order (R170); `s` is the part. Answers the stretch. -/
def Loading.laterChecks (L : Loading) (s : State) (least : Nat) : Sum Fail Nat :=
  let es := L.physDies.flatMap L.v.edgesFrom
  match L.henFails <|> L.arrayFail s <|> L.accFail <|> L.quantFail <|> L.portFail <|> L.goatFail <|> L.oxFail <|> L.redundancyFail es with
  | some f => .inl f
  | none =>
    match L.stretch least with
    | .inl f => .inl f
    | .inr d =>
      match L.deadlineFail d <|> L.gateDepthFail d with
      | some f => .inl f
      | none => .inr d

end Sys2Proof.Machine
end

