-- ==== Sys2Proof/Machine/Loader.lean ====
section
/-!
DEFINITION. The LOAD and RESUME commands: the checks in order, and what a load writes (R166 to R173, R177, R236, R260, R303, R338).
-/
namespace Sys2Proof.Machine

/-! ### Parameters (R338, R339) -/

/-- What LOAD and RESUME are given. `next` is the offset after these parameters. -/
structure LoadArgs where
  list : List (Nat × Nat)
  map : List Nat
  t0 : Nat
  least : Nat
  seed : Nat
  next : Nat
deriving DecidableEq, Repr

/-- The parameters of LOAD, which RESUME's begin with (R338). -/
def loadArgs (p : List Byte) : Option LoadArgs :=
  (hostList p 0 false).map (fun x =>
    { list := x.1, map := dieMapOf (p.drop x.2), t0 := stampNat p (x.2 + 16), least := pnum p (x.2 + 28) 4, seed := pnum p (x.2 + 32) 8
      next := x.2 + 40 })

/-- The bytes of a list as the hub reads them over CXL.io: none where a host access fails (R339). -/
def State.hostRead (s : State) (l : List (Nat × Nat)) (mem : Option (List Byte)) : Option (List Byte) :=
  if s.flag HOSTSTAT.up [] then mem.map (fitTo (listBytes l)) else none

/-- START_TICK as an instant, ps: the domain start time converted, 1 ms from now where it is 0 (R169, R170). -/
def State.startAt (s : State) (t0 : Nat) : Nat := ticksTo s.timeSeg (if t0 = 0 then s.domNow + nsDom 1000000 else t0) * tickPs

/-! ### The checks in order (R170) -/

/-- FORMAT to BUSY. -/
def State.earlyFail (s : State) (m : Img) (given : Nat) (maint : Bool) (map : List Nat) : Option Fail :=
  m.formatFail given <|> s.sigFail m maint <|> s.capFail m <|> s.identityFail m <|> m.reduceFail <|> s.mapFail m map <|> s.busyFail m map

/-- Every check of a load; the image as it is to be written, with its stretch. -/
def State.judge (s : State) (m : Img) (given : Nat) (maint : Bool) (a : LoadArgs) (startTick : Nat) : Sum Fail (Loading × Nat) :=
  match s.earlyFail m given maint a.map with
  | some f => .inl f
  | none =>
    if m.update then .inl { status := 0x0109 }
    else
      let m1 := { m with places := m.allocate }
      match s.spaceFail m1 with
      | some f => .inl f
      | none =>
        match m1.relocate a.map with
        | .inl f => .inl f
        | .inr m2 =>
          match m2.patch { start := startTick, node := s.node, seed := a.seed } a.map with
          | .inl f => .inl f
          | .inr m3 =>
            let L : Loading := { ms := [m3], map := a.map, v := (s.virtual [m3] a.map).setRegions m3 a.map }
            match L.laterChecks s a.least with
            | .inl f => .inl f
            | .inr d => .inr (L, d)

/-! ### What a load writes (R170 step 3) -/

/-- The die of an edge's producer. -/
def edgeHome : Edge → Option Nat
  | .none => none
  | .hen n _ _ _ => some n
  | .port n _ _ => some n
  | .quant n _ _ => some n
  | .goat n _ _ _ => some n
  | .ox n _ _ => some n
  | .mac n _ _ _ => some n
  | .seed n _ => some n
  | .array n _ _ => some n
  | .feed n _ _ => some n
  | .chan n _ _ _ _ => some n

/-- What an earlier image left in a die's units that no record writes: streams, runs, credits. -/
def State.clearDie (s : State) (n : Nat) : State :=
  let s1 := s.setDie n { holdUntil := (s.die n).holdUntil }
  let s2 := allClusters.foldl (fun z c =>
    let z1 := (z.setQuant n c { z.quant n c with streams := [] }).setRaw QSTAT [n, c] 0
    let z2 := z1.setClu n c { z1.clu n c with substituted := false }
    (List.range 2).foldl (fun y g => y.putGoat n c g { mem := (y.goat n c g).mem }) z2) s1
  let away := fun (e : Edge) => decide (edgeHome e ≠ some n)
  { s2 with credits := s2.credits.filter (fun p => away p.1), creditsDue := s2.creditsDue.filter away }

/-- Every entry of a die's hens begins at its first tag; every unit is in epoch 0 (R56, R58, R170). -/
def State.freshUnits (s : State) (n : Nat) : State :=
  let s1 := (((s.setPrompt n 0).setBulk n 0).wr GEPOCH.epoch [n] 0)
  let fresh := fun (x : Hen) =>
    { x with done := [], badWords := [], base := (List.range 16).foldl (fun m e =>
        Sparse.set 0 m e (BitVec.ofNat 16 (x.word (2 * e + 1)).toNat)) [] }
  let s2 : State := { s1 with hens := s1.hens.map (fun p => if p.1 / 2 ^ 20 = n then (p.1, fresh p.2) else p) }
  if s2.now < (s2.die n).holdUntil then s2 else s2.wr RCFGSTAT.q_valid [n] 0

/-- Registers A and B of an array take logical sets 0 and 1 of epoch 0's map, where these are valid (R177). -/
def State.loadFills (s : State) (n a : Nat) : State :=
  let x := s.arr n a
  let s1 := s.putArr n a { x with regA := {}, regB := {}, acc := none, waiting := [], fills := [], held := false }
  (List.range 2).foldl (fun z r => if z.flag ASETDESC.valid [n, a, r] then z.fillReg n a r r false else z) s1

/-- The history ring of a die begins anew (R227, R229). -/
def State.loadHistory (s : State) (n : Nat) : State :=
  let h := Sparse.get {} s.hists n
  ((((s.wr HISTCFG.active [n] (b2n (h.size != 0))).wr HISTPTR.value [n] 0).wr HISTSEQ.value [n] 0).wr HISTQ.in_use [n] 0)

/-- A port block after a load: patterns on an enabled port stop (R310); the next correlation id is one the manual does not give: free
(R204). -/
def State.loadPort (s : State) (n i : Nat) : State :=
  let (v, s1) := (s.clearPatterns n i).draw
  s1.wr PTXSEQ.seq [n, i] (v % 2 ^ 48)

/-- A GATE record is written and its gate enabled: deadline and offset in units of 100 ps (R164, R170, R171). -/
def State.loadGate (s : State) (L : Loading) (stretch : Nat) (g : GateSpec) : State :=
  let s1 := s.applyGate g.die (g.D + stretch / 100) (L.offset g / 100) g.src
  s1.writeGcfg g.die g.gate (BitVec.ofNat 32 (s1.raw GCFG [g.die, g.gate] + 1))

/-- Edges of an image with their back edges marked, by logical numbers (R163). -/
def Loading.markedEdges (es : List EdgeInfo) (cs : List CycleRec) : List EdgeInfo :=
  es.map (fun i =>
    let b := cs.flatMap (fun c => (c.entries.zip c.path).filter (fun p => p.1.back && decide (p.2 = i.src)))
    { i with back := !b.isEmpty, carry := !b.isEmpty && b.all (·.1.carry) })

/-- The hen that serves a logical one; the names of the physical units that serve an image's. -/
def State.servHen (s : State) (h : HenRef) : HenRef := s.henAt h.die (64 * h.clu + h.hen)
def State.servEdge (s : State) : Edge → Edge := renameEdge s.servHen s.physClu
def State.servUnit (s : State) : UnitId → UnitId := renameUnit s.servHen s.physClu
def State.servInfo (s : State) (i : EdgeInfo) : EdgeInfo := { i with src := s.servEdge i.src, dst := s.servUnit i.dst }

/-- Edges that concern a die: those of its producers and of its consumers. -/
def State.dieEdges (s : State) (es : List EdgeInfo) (n : Nat) : List EdgeInfo :=
  (es.map s.servInfo).filter (fun i => decide (edgeHome i.src = some n) || unitDie i.dst == n)

/-- Cycles of a logical die, by cycle index (R163). -/
def State.dieCycles (s : State) (cs : List CycleRec) (d : Nat) : List CycleInfo :=
  let mine := cs.filter (fun c => c.src.r.die == d)
  (List.range (mine.foldl (fun m c => max m (c.src.r.unit + 1)) 0)).map (fun k =>
    match mine.find? (fun c => c.src.r.unit == k) with
    | some c =>
      let back := (c.entries.zip c.path).find? (fun p => p.1.back)
      { edges := c.path.map s.servEdge, backEdge := match back with | some p => s.servEdge p.2 | none => .none
        carry := match back with | some p => p.1.carry | none => false, units := c.nodes.map (fun p => s.servUnit p.1), seeds := c.seeds }
    | none => { edges := [], backEdge := .none, carry := false, units := [], seeds := [] })

/-- An edge's counter takes the image's credit (R92); an ox pair's first credit is not given: free (log 33). -/
def State.loadCredit (s : State) (v : State) (i : EdgeInfo) : State :=
  match i.src with
  | .ox _ _ _ => let (k, s1) := s.draw; s1.setCredit i.src (k % 65)
  | e => if edgeCredited e then s.setCredit (s.servEdge e) (v.imageCredit e) else s

/-- Standby pairs: the standby runs muted (R173). -/
def State.loadStandby (s : State) (L : Loading) : State :=
  (L.kind 0x07).foldl (fun z x =>
    let a := L.phys (x.f 0 8 % 16)
    let b := L.phys (x.f 0 8 / 16)
    let z1 := z.setDie a { z.die a with standby := b + 1 }
    z1.setDie b { z1.die b with muted := true }) s

/-- Members of barrier `b` on this module (R231). -/
def State.members (s : State) (b : Nat) : List Arrival :=
  ((List.range 16).filter (fun n => (s.die n).logical != 0)).flatMap (fun n => allClusters.flatMap (fun c => (List.range 2).flatMap (fun g =>
    ((List.range 16).filter (fun d => let x := (s.goat n c g).desc d; x.kind == 4 && x.func == 0 && x.barrier == b)).map (fun d =>
      { die := n, clu := c, goat := g, desc := d, at_ := s.domNow, tok := {} }))))

/-- The image places work in the bulk partition. -/
def Loading.hasBulk (L : Loading) : Bool :=
  L.physDies.any (fun n => (L.v.loadedHens n).any (fun p => !L.v.cluPrompt n p.1.clu) || !(L.v.goatEdges n).isEmpty
    || (List.range 4).any (fun a => !L.v.arrPrompt n a && L.v.flag AFEED.enable [n, a])
    || (List.range 8).any (fun p => !(L.v.ox n p).prompt && !(L.v.ox n p).code.isEmpty))

/-- The units of a loaded image: placement, regions, epochs, arrays, gates, credits; the dies become state 2 (R170 step 3). -/
def State.writeImage (s : State) (L : Loading) (stretch job startPs : Nat) : State :=
  let ns := L.physDies
  let m := L.base
  let logical := L.physDies.flatMap L.v.edgesFrom
  let cs := (L.cycleRecs logical (L.v.graphCycles logical)).filterMap (·.2)
  let es := Loading.markedEdges logical cs
  let s1 := ((ns.foldl State.clearDie s).applyPlace m L.map).setRegions m L.map
  let s2 := ns.foldl (fun z n => ((List.range 4).foldl (fun y a => y.loadFills n a) (z.freshUnits n)).loadHistory n) s1
  let s3 := L.gateSpecs.foldl (fun z g => z.loadGate L stretch g) s2
  let s4 := es.foldl (fun z i => z.loadCredit L.v i) s3
  let s5 := ns.zipIdx.foldl (fun z (n, d) =>
    let x : Die := { z.die n with logical := d + 1, job, startPs, edges := z.dieEdges es n, cycles := z.dieCycles cs d }
    let z1 := (z.setDie n x).acqWidthStop n
    ((List.range 16).foldl (fun y i => y.loadPort n i) z1).wr DIESTAT.state [n] 2) s4
  let s6 := s5.loadStandby L
  (List.range 16).foldl (fun z b => z.wr BARSTAT.expected [b] (z.members b).length) s6

/-- The job record of a loaded image (R157, R170, R258, R260). -/
def Loading.job (L : Loading) (c : Cmd) (a : LoadArgs) (stretch startPs t0 identity : Nat) : Job :=
  let m := L.base
  let graph := fitTo 32 (Config.shake256 (m.sec 1) 32)
  { id := m.jobId, dies := L.physDies, map := L.physDies, digest := m.digest, modules := m.modules, rank := m.rank, seed := a.seed
    fitted := m.fitted, startPs, stretch, t0, graph := BitVec.ofNat 64 (leNat (graph.take 8)), identity, anyId := m.anyId
    go := m.modules == 1, window := c.window, tag := c.pkt.tag, session := c.pkt.session, images := [m.bytes], bulk := L.hasBulk
    prov := { image := m.digest, graph, fitted := m.fitted } }

/-- A load whose checks have passed (R170 step 3, R260). -/
def State.loadImage (s : State) (L : Loading) (c : Cmd) (a : LoadArgs) (stretch startPs : Nat) : State :=
  let t0 := if a.t0 = 0 then s.domNow + nsDom 1000000 else a.t0
  let j := L.job c a stretch startPs t0 s.part.identityCode
  let s1 := s.writeImage L stretch j.id startPs
  (({ s1 with jobs := s1.jobs ++ [j] } : State).wr DETSTAT.nonstrict_seen [] 0).wr DETSTAT.start [] 0

/-- How a refused load ends (R338). -/
def Fail.ending (f : Fail) : Ending := { status := f.status, details := [f.status, f.sect, f.idx, f.detail], word8 := some 0 }

/-- A session is a maintenance session. -/
def State.isMaint (s : State) (id : Nat) : Bool := match s.sessSlot id with | some (_, x) => x.maint | none => false

/-- A job of several modules sends its ready frames once loaded (R260). -/
def State.announce (s : State) (j : Nat) (modules : Nat) : State := if 1 < modules then s.sendReady j else s

/-- LOAD (R170): the checks, and the image written where all pass. -/
def State.runLoad (s : State) (c : Cmd) (mem : Option (List Byte)) : State :=
  match loadArgs c.pkt.params with
  | none => s.endCmd c.id ({ status := 0x000B } : Fail).ending
  | some a =>
    match s.hostRead a.list mem with
    | none => s.endCmd c.id ({ status := 0x000F } : Fail).ending
    | some bs =>
      let p := s.startAt a.t0
      if p < s.now then s.endCmd c.id ({ status := 0x000B } : Fail).ending
      else
        match s.judge (readImage bs) bs.length (s.isMaint c.pkt.session) a (p / tickPs) with
        | .inl f => s.endCmd c.id f.ending
        | .inr (L, d) =>
          ((s.loadImage L c a d p).endCmd c.id { status := 0, details := [0, 0, 0, 0], word8 := some (d % 2 ^ 32) }).announce L.base.jobId
            L.base.modules

/-- The loader has read, judged and written the image of a LOAD (R170). -/
def execLoad (id : Nat) (mem : Option (List Byte)) (t : Nat) (s0 : State) : Host.Outcome State Fault Refusal :=
  match s0.cmdOf id 0x0101 with
  | none => .next s0
  | some c => .next ((s0.upTo t).runLoad c mem)

/-! ### RESUME (R236) -/

/-- A checkpoint record names a unit of the bulk partition of the image (R236). -/
def Loading.bulkRec (L : Loading) (r : Rec) : Bool :=
  let n := L.phys r.die
  let clu := fun (l : Nat) => decide (l < 64) && !L.v.cluPrompt n l
  decide (r.die < L.dies) &&
  (match r.kind with
    | 0x40 => clu r.unit && r.body.length == 4194304
    | 0x41 => (L.v.die n).regions.any (fun g => g.id == r.unit && g.id != 255 && pnum r.body 0 8 == g.tier && r.body.length == 8 + (g.size + 7) / 8 * 8)
    | 0x42 => clu (r.unit / 64) && r.body.length == 128
    | 0x43 => decide (r.unit < 4) && !L.v.arrPrompt n r.unit && decide (16 ≤ r.body.length)
    | 0x44 => decide (r.unit < 4) && !L.v.arrPrompt n r.unit && r.body.length == 4194304 + 524288 + 32768
    | 0x45 => clu (r.unit / 16) && r.body.length == 144
    | 0x46 => clu (r.unit / 2) && r.body.length == 128
    | 0x47 => decide (r.unit < 16) && r.body.length == 8
    | _ => false)

/-- The open accumulation a checkpoint saves (R235): its status, its beat and copy and its poisoned columns are not in it: free. -/
def State.savedAcc (s : State) (n a : Nat) (b : List Byte) : Accum × State :=
  let w := pnum b 0 8
  let h : W64 := BitVec.ofNat 64 (pnum b 8 8)
  let (st, s1) := s.draw
  let (bt, s2) := s1.draw
  let (cp, s3) := s2.draw
  let (ps, s4) := s3.draw
  let (cls, _, xf, L) := s.setOf n a (if bitOf h.toNat 0 then bitsOf w 7 6 else bitsOf w 0 6)
  let float := decide (cls = 2 ∧ xf ≠ 0)
  let at_ := fun (k n : Nat) => pnum b (16 + k) n
  let sums := if float then [] else (List.range 512).foldl (fun m c => Sparse.set 0 m c (intOf 64 (at_ (8 * c) 8))) []
  let piles := if float then (List.range 256).foldl (fun m c =>
      Sparse.set [] m c (((List.range 13).filter (fun l => bitOf (at_ (56 * c + 52) 4) l)).map (fun l => (l, at_ (56 * c + 4 * l) 4)))) [] else []
  ({ cls, grid := L, float, chunk := bitsOf w 15 12, status := BitVec.ofNat 4 st, beat := BitVec.ofNat 16 bt, copy := cp % 4, header := h, sums
     piles, poison := if float then [] else (List.range 512).filter (fun c => bitOf ps c) }, s4)

/-- A record of the first pass is written: memories, windows, statistics, runs and generations (R235, R236). -/
def State.restoreRec (s : State) (L : Loading) (job : Nat) (r : Rec) : State :=
  let n := L.phys r.die
  let b := r.body
  match r.kind with
  | 0x40 => let c := s.physClu n r.unit
    s.setClu n c { s.clu n c with sram := sramSetBytes (s.clu n c).sram 0 b }
  | 0x41 => match (s.die n).regions.find? (fun g => g.id == r.unit && g.tier == pnum b 0 8) with
    | some g => s.writeTier n g.tier g.base ((b.drop 8).take g.size)
    | none => s
  | 0x42 => let h := s.henAt n r.unit
    let word := fun (e : Nat) => pnum b (8 * e) 8
    s.setHen h { s.hen h with
      base := (List.range 16).foldl (fun m e => Sparse.set 0 m e (BitVec.ofNat 16 (word e))) []
      done := (List.range 16).foldl (fun m e => Sparse.set 0 m e (BitVec.ofNat 32 (word e / 2 ^ 16))) [] }
  | 0x44 => ((s.writeSpace n 3 r.unit 0 (b.take 4194304)).writeSpace n 4 r.unit 0 ((b.drop 4194304).take 524288)).writeSpace n 5 r.unit 0
      ((b.drop (4194304 + 524288)).take 32768)
  | 0x45 => let c := s.physClu n (r.unit / 16)
    let q := r.unit % 16
    let slot : StatSlot := { s.slot n c q with
      sse := pnum b 16 80, count := pnum b 96 8, maxErr := pnum b 104 4, sat := pnum b 108 4, degen := pnum b 112 4, nan := pnum b 116 4
      minv := pnum b 120 4, maxv := pnum b 124 4, seen := decide (pnum b 96 8 ≠ 0) }
    (s.setSlot n c q slot).setJob job (fun j => { j with streams := j.streams ++ [(n, c, q, pnum b 0 8, pnum b 8 8)] })
  | 0x46 => let c := s.physClu n (r.unit / 2)
    let g := r.unit % 2
    s.putGoat n c g ((List.range 16).foldl (fun x d => x.setStream d { x.stream d with runs := pnum b (8 * d) 4 }) (s.goat n c g))
  | 0x47 => s.wr BARSTAT.generation [r.unit] (pnum b 0 2 % 4096)
  | _ => s

/-- The registers and open accumulation of a bulk array are restored, once its store is (R235, R236). -/
def State.restoreArray (s : State) (L : Loading) (r : Rec) : State :=
  if r.kind ≠ 0x43 then s
  else
    let n := L.phys r.die
    let a := r.unit
    let w := pnum r.body 0 8
    let x := s.arr n a
    let s1 := s.putArr n a { x with regA := {}, regB := {}, fills := [], acc := none }
    let s2 := if bitOf w 6 then s1.fillReg n a 0 (bitsOf w 0 6) false else s1
    let s3 := if bitOf w 13 then s2.fillReg n a 1 (bitsOf w 7 6) false else s2
    if bitOf w 14 then (let (k, s4) := s3.savedAcc n a r.body; s4.putArr n a { s4.arr n a with acc := some k }) else s3

/-- The saved barrier is held with every member on this module arrived; their tokens' tags are not saved: free (R236). -/
def State.holdSaved (s : State) (job b : Nat) : State :=
  let ms := s.members b
  let (v, s1) := s.draw
  let (k, s2) := s1.draw
  let x : Barrier := { arrivals := ms.map (fun a => { a with tok := { tag := BitVec.ofNat 16 v, status := BitVec.ofNat 4 k } }) }
  (((s2.setBarrier b x).wr BARSTAT.arrived [b] ms.length).wr BARSTAT.held [b] 1).setJob job (fun j => { j with resume := some b })

/-- RESUME (R236): a LOAD, then the checkpoint's records over it. -/
def State.runResume (s : State) (c : Cmd) (mem ck : Option (List Byte)) : State :=
  let stop := fun (f : Fail) => s.endCmd c.id f.ending
  match loadArgs c.pkt.params with
  | none => stop { status := 0x000B }
  | some a =>
    match hostList c.pkt.params a.next false with
    | none => stop { status := 0x000B }
    | some (l2, _) =>
      match s.hostRead a.list mem, s.hostRead l2 ck with
      | some bs, some cb =>
        let p := s.startAt a.t0
        if p < s.now then stop { status := 0x000B }
        else
          match s.judge (readImage bs) bs.length (s.isMaint c.pkt.session) a (p / tickPs) with
          | .inl f => stop f
          | .inr (L, d) =>
            let j := L.job c a d p 0 s.part.identityCode
            match s.ckMatches j 0x544B4347 true cb, ckRecords cb with
            | true, some rs =>
              if rs.all L.bulkRec then
                let s1 := rs.foldl (fun z r => z.restoreRec L j.id r) (s.loadImage L c a d p)
                let s2 := (rs.foldl (fun z r => z.restoreArray L r) s1).holdSaved j.id (pnum cb 58 1 % 16)
                (s2.endCmd c.id { status := 0, details := [0, 0, 0, 0], word8 := some (d % 2 ^ 32) }).announce j.id j.modules
              else stop { status := 0x0205 }
            | _, _ => stop { status := 0x0205 }
      | _, _ => stop { status := 0x000F }

/-- The loader has read, judged and written the image and checkpoint of a RESUME (R236). -/
def execResume (id : Nat) (mem ck : Option (List Byte)) (t : Nat) (s0 : State) : Host.Outcome State Fault Refusal :=
  match s0.cmdOf id 0x0104 with
  | none => .next s0
  | some c => .next ((s0.upTo t).runResume c mem ck)

end Sys2Proof.Machine
end

