-- ==== Sys2Proof/Machine/Update.lean ====
section
/-!
DEFINITION. The UPDATE command: what an update image may write, and the drained switch it arms (R174, R178, R180).
-/
namespace Sys2Proof.Machine

/-! ### The kinds of write (R174) -/

/-- What an update may do with a write. -/
inductive Kind where
  /-- at once, before T -/
  | free
  /-- while the unit is held at its switch -/
  | held (u : UnitId)
  /-- only while no bulk job runs -/
  | bulk
  /-- refused with UPDATE_SCOPE -/
  | outside
deriving DecidableEq, Repr

/-- The job an update is to be applied to, and what it is checked against: the module of its images, the new epoch. -/
structure UpdateBase where
  job : Job
  v : State
  target : Nat
deriving DecidableEq, Repr

/-- Kind of a write to a register of physical die `n`, by logical numbers (R162, R174): GTCFG and port registers are named by no kind that
a prompt unit has. -/
def State.wordKind (s : State) (b : UpdateBase) (n o : Nat) : Kind :=
  match findReg (0x01000000 + n * 0x100000 + o) with
  | none => .outside
  | some (r, idx, _) =>
    let k := idx.getD 1 0
    if [HENCFG, CLUCFG, SCRUBCFG, STEERCFG, QDESC0, QDESC1, QDESC2, QDESC3, QDESC4, QDESC5, QDESC6].any (fun x => x.is r) then
      (if b.v.cluPrompt n k then .held (.quant n k 0) else .bulk)
    else if r.is HCREDIT_LO || r.is HCREDIT_HI then (if b.v.cluPrompt n k then .held (.hen ⟨n, k, idx.getD 2 0⟩) else .bulk)
    else if r.is GTCFG then (if b.v.cluPrompt n k then .outside else .bulk)
    else if r.is AFEED || r.is AODESC || r.is ASETDESC then (if s.arrPrompt n k then .held (.array n k) else .bulk)
    else if r.is ASETMAP then (if s.arrPrompt n k = false then .bulk else if idx.getD 2 0 = b.target then .free else .outside)
    else if r.is ASCRUB || r.is ABALLAST then (if s.arrPrompt n k then .outside else .bulk)
    else .outside

/-- Numbers of the pieces of `w` bytes that `[off, off + len)` touches. -/
def pieces (w off len : Nat) : List Nat := if len = 0 then [] else (List.range ((off + len - 1) / w - off / w + 1)).map (· + off / w)

/-- Kind of a write to a space of R161. -/
def State.memKind (s : State) (b : UpdateBase) (n space idx off len : Nat) : Kind :=
  let clu := fun (l : Nat) (k : Kind) => if b.v.cluPrompt n l then k else .bulk
  let sets := fun (w : Nat) => if s.arrPrompt n idx = false then .bulk
    else if (pieces w off len).any (fun i => s.setMapped n idx i) then .outside else Kind.free
  match space with
  | 0 => clu (idx / 64) (.held (.hen ⟨n, idx / 64, idx % 64⟩))
  | 1 => clu (idx / 64) (.held (.hen ⟨n, idx / 64, idx % 64⟩))
  | 2 => clu idx .outside
  | 3 => sets 65536
  | 4 => sets 8192
  | 5 => if s.arrPrompt n idx = false then .bulk
    else if (pieces 4096 off len).any (fun i => s.bankInUse n idx i) then .outside else .free
  | 7 => clu (idx / 2) .outside
  | 8 => if (s.ox n idx).prompt then .outside else .bulk
  | 9 => .bulk
  | _ => .outside

/-- Kinds of the writes of a record. -/
def State.recKinds (s : State) (b : UpdateBase) (x : ImgRec) : List Kind :=
  let n := b.job.map.getD x.r.die 0
  match x.r.kind with
  | 0x02 => x.words.map (fun w => s.wordKind b n w.1)
  | 0x03 => [s.memKind b n (x.f 0 8) x.r.unit (x.f 8 8) (x.f 24 8)]
  | 0x09 => [if bitOf (x.f 0 8) 0 || (s.ox n x.r.unit).prompt then .outside else .bulk]
  | 0x0A => [if b.v.cluPrompt n x.r.unit then .outside else .bulk]
  | 0x22 => []
  | _ => [.outside]

/-- BUSY: a die of the image does not run, is already to switch, or holds a running bulk job the update writes under (R166, R174). -/
def State.updateBusy (s : State) (b : UpdateBase) (m : Img) : Option Fail :=
  let ns := b.job.dies
  (failIf (ns.any (fun n => s.rd DIESTAT.state [n] != 3 || (s.die n).reconf.isSome) || s.switches.any (fun w => w.job == b.job.id)
      || s.frozen.isSome) { status := 0x0108 })
  <|> m.all.findSome? (fun x => failIf (b.job.bulk && (s.recKinds b x).any (fun k => decide (k = .bulk))) (x.fail 0x0108 x.r.die))

/-- UPDATE_SCOPE (R174). -/
def State.updateScope (s : State) (b : UpdateBase) (m : Img) : Option Fail :=
  m.all.findSome? (fun x => failIf ((s.recKinds b x).any (fun k => decide (k = .outside))) (x.fail 0x010A 0))

/-! ### The checks in order (R170, R174) -/

/-- Images of a job with the regions they were placed in. -/
def Job.imgs (j : Job) : List Img :=
  let places := match j.images with | [] => [] | b :: _ => ({ bytes := b } : Img).allocate
  j.images.map (fun b => { bytes := b, places })

/-- The job whose running image an update names. -/
def State.updateJob (s : State) (m : Img) : Option Job := s.jobs.find? (fun j => m.dies == j.map.length && (m.bytes.drop 0x40).take 32 == j.digest)

/-- Every check of an update; the images with it applied. -/
def State.judgeUpdate (s : State) (m : Img) (given : Nat) (maint : Bool) : Sum Fail (UpdateBase × Loading) :=
  match m.formatFail given <|> s.sigFail m maint <|> s.capFail m <|> s.identityFail m <|> m.reduceFail with
  | some f => .inl f
  | none =>
    match s.updateJob m with
    | none => .inl { status := 0x0109 }
    | some j =>
      let olds := j.imgs
      let base := olds.headD { bytes := [] }
      let b : UpdateBase := { job := j, v := (s.virtual olds j.map).setRegions base j.map, target := s.nextEpoch j.dies }
      let m1 := { m with places := base.places }
      match s.updateBusy b m1 <|> (failIf (!m.update) { status := 0x0109 }) <|> s.updateScope b m1 <|> s.spaceFail m1 with
      | some f => .inl f
      | none =>
        match m1.relocate j.map with
        | .inl f => .inl f
        | .inr m2 =>
          match m2.patch { start := j.startPs / tickPs, node := s.node, seed := j.seed } j.map with
          | .inl f => .inl f
          | .inr m3 =>
            let L : Loading := { ms := olds ++ [m3], map := j.map, v := (s.virtual (olds ++ [m3]) j.map).setRegions base j.map }
            match L.laterChecks s j.stretch with
            | .inl f => .inl f
            | .inr _ => .inr (b, L)

/-! ### Application (R174) -/

/-- Writes of a record with their kinds, the held units by physical place. -/
def State.kindedWrites (s : State) (b : UpdateBase) (m : Img) (x : ImgRec) : List (Kind × ImgWrite) := (s.recKinds b x).zip (s.recWrites m b.job.map x)

/-- The held writes of an update on a die: those of units that take part in the switch. -/
def State.heldWrites (s : State) (b : UpdateBase) (m : Img) : List (Nat × HeldWrite) :=
  m.all.flatMap (fun x =>
    let n := b.job.map.getD x.r.die 0
    (s.kindedWrites b m x).filterMap (fun p => match p.1 with
      | .held u => if (s.promptUnits n).contains (s.servUnit u) then some (n, { unit := s.servUnit u, writes := [p.2] }) else none
      | _ => none))

/-- Writes of a record that are made at once. -/
def State.writeNow (s : State) (b : UpdateBase) (m : Img) (x : ImgRec) : State :=
  let n := b.job.map.getD x.r.die 0
  if x.r.kind = 0x02 ∨ (x.r.kind = 0x03 ∧ x.f 0 8 ≠ 9) then
    s.imgWrites n ((s.kindedWrites b m x).filterMap (fun p => match p.1 with
      | .held u => if (s.promptUnits n).contains (s.servUnit u) then none else some p.2
      | _ => some p.2))
  else s.applyRec m b.job.map x

/-- Store sets that the new epoch's map names and the current one does not (R178). -/
def State.newSets (s : State) (j : Job) (old new : Nat) : List (Nat × Nat × Nat) :=
  j.dies.flatMap (fun n => (s.arraysOf n true).flatMap (fun a =>
    (((List.range 64).map (fun l => s.setMap n a new l)).filter (fun x => !(List.range 64).any (fun l => s.setMap n a old l == x))).eraseDups.map
      (fun x => (n, a, x))))

/-- What an update makes of the credits: edges whose credit it changes. -/
def State.creditChanges (s : State) (v w : State) (es : List EdgeInfo) : List (Edge × Nat × Nat) :=
  (es.filter (fun i => edgeCredited i.src && v.imageCredit i.src != w.imageCredit i.src)).map (fun i =>
    (s.servEdge i.src, v.imageCredit i.src, w.imageCredit i.src))

/-- An update whose checks have passed: free and bulk writes at once, the switch armed for T (R174). -/
def State.applyUpdate (s : State) (c : Cmd) (b : UpdateBase) (L : Loading) (tPs limitPs : Nat) (digest : List Byte) : State :=
  let j := b.job
  let old := s.rd GEPOCH.epoch [j.dies.headD 0]
  let m := L.ms.getLastD { bytes := [] }
  let held := s.heldWrites b m
  let s1 := s.copyMaps j.dies old b.target
  let s2 := m.all.foldl (fun z x => if x.sect = 2 then z.writeNow b m x else z) s1
  let s3 := if j.bulk then s2 else j.dies.foldl (fun z n => z.setBulk n b.target) s2
  let logical := L.physDies.flatMap L.v.edgesFrom
  let cs := (L.cycleRecs logical (L.v.graphCycles logical)).filterMap (·.2)
  let es := Loading.markedEdges logical cs
  let w : SwitchRec := { job := j.id, dies := j.dies, old, target := b.target, tPs, cause := 0, cmd := c.id + 1, sets := s3.newSets j old b.target
                         image := digest, edges := j.dies.map (fun n => (n, s.dieEdges es n)), credits := s.creditChanges b.v L.v logical }
  (s3.setJob j.id (fun k => { k with images := k.images ++ [m.bytes] })).armSwitch w limitPs held

/-- UPDATE (R174): list, switch time, drain limit. -/
def State.runUpdate (s : State) (c : Cmd) (mem : Option (List Byte)) : State :=
  let stop := fun (f : Fail) => s.endCmd c.id f.ending
  match hostList c.pkt.params 0 false with
  | none => stop { status := 0x000B }
  | some (l, a) =>
    match s.hostRead l mem with
    | none => stop { status := 0x000F }
    | some bs =>
      let tPs := ticksTo s.timeSeg (stampNat c.pkt.params a) * tickPs
      let us := pnum c.pkt.params (a + 12) 4
      if tPs < s.now then stop { status := 0x000B }
      else
        let m := readImage bs
        match s.judgeUpdate m bs.length (s.isMaint c.pkt.session) with
        | .inl f => stop f
        | .inr (b, L) => s.applyUpdate c b L tPs ((if us = 0 then 100 else us) * 1000000) m.digest

/-- The loader has read and judged the image of an UPDATE, made its early writes and armed its switch (R174). -/
def execUpdate (id : Nat) (mem : Option (List Byte)) (t : Nat) (s0 : State) : Host.Outcome State Fault Refusal :=
  match s0.cmdOf id 0x0102 with
  | none => .next s0
  | some c => if s0.switches.any (fun w => w.cmd == id + 1) then .next s0 else .next ((s0.upTo t).runUpdate c mem)

end Sys2Proof.Machine
end

