-- ==== Sys2Proof/Machine/Control.lean ====
section
/-!
DEFINITION. The commands that act on running jobs: STOP, CHECKPOINT, FREEZE, THAW, STRICT, JOBCTL, INPUTS and PROV (R179, R234, R246 to
R248, R251 to R253, R256 to R259, R338).
-/
namespace Sys2Proof.Machine

/-- A job's dies run. -/
def State.runs (s : State) (j : Job) : Bool := j.dies.any (fun n => s.rd DIESTAT.state [n] == 3)

/-- The job a stream command acts on: the first that runs and has a prompt partition (R251). -/
def State.streamJob (s : State) : Option Job := s.jobs.find? (fun j => s.runs j && j.dies.any (fun n => s.rd PARTCFG.prompt_clusters [n] != 0))

/-- STOP (R179). -/
def execStop (id t : Nat) (s0 : State) : Host.Outcome State Fault Refusal :=
  match s0.cmdOf id 0x0103 with
  | none => .next s0
  | some c =>
    let s := s0.upTo t
    let ns := (List.range 16).filter (fun n => bitOf (pnum c.pkt.params 0 4) n)
    if s.jobs.any (fun j => j.dies.any ns.contains) then .next ((s.stopDies ns).endCmd id { status := 0 })
    else .next (s.endCmd id { status := 0x0208 })

/-- CHECKPOINT (R234): armed on the first bulk job that runs; it waits while one is armed already. -/
def execCheckpoint (id t : Nat) (s0 : State) : Host.Outcome State Fault Refusal :=
  match s0.cmdOf id 0x0201 with
  | none => .next s0
  | some c =>
    let s := s0.upTo t
    match s.jobs.find? (fun j => j.bulk && s.runs j), hostList c.pkt.params 0 false with
    | some j, some (l, a) =>
      if s.ckpts.any (fun k => k.job == j.id) then .next s
      else
        let k : Ckpt := { job := j.id, window := c.window, tag := id, list := l, limit := pnum c.pkt.params a 4 * 1000000 }
        .next { s with ckpts := s.ckpts ++ [k] }
    | none, _ => .next (s.endCmd id { status := 0x0208 })
    | _, none => .next (s.endCmd id { status := 0x000B })

/-- A switch of a stream's job is armed for a freeze or thaw (R251, R253). -/
def State.armStream (s : State) (j : Job) (f : Frozen) (cause : Nat) : State :=
  let w : SwitchRec := { job := j.id, dies := j.dies, old := s.rd GEPOCH.epoch [j.dies.headD 0], target := s.nextEpoch j.dies, tPs := f.tPs
                         cause, cmd := if cause = 3 then f.cmd + 1 else 0 }
  let s1 := (s.copyMaps j.dies w.old w.target).armSwitch w f.limit []
  { s1 with frozen := some f }

/-- A domain time of a packet as an instant, ps. -/
def State.timeParam (s : State) (p : List Byte) (a : Nat) : Nat := ticksTo s.timeSeg (stampNat p a) * tickPs

/-- FREEZE (R251): T at least 100 µs ahead. -/
def execFreeze (id t : Nat) (s0 : State) : Host.Outcome State Fault Refusal :=
  match s0.cmdOf id 0x0202 with
  | none => .next s0
  | some c =>
    let s := s0.upTo t
    let p := c.pkt.params
    let tPs := s.timeParam p 0
    let us := pnum p 12 4
    match s.streamJob, hostList p 16 false with
    | some j, some (l, _) =>
      if s.frozen.isSome then .next (s.endCmd id { status := 0x0208 })
      else if s.switches.any (fun w => w.job == j.id) then .next (s.endCmd id { status := 0x0108 })
      else if tPs < s.now + 100000000 then .next (s.endCmd id { status := 0x000B })
      else
        let f : Frozen := { job := j.id, cmd := id, tPs, limit := (if us = 0 then 100 else us) * 1000000, list := l }
        .next (s.armStream j f 2)
    | none, _ => .next (s.endCmd id { status := 0x0208 })
    | _, none => .next (s.endCmd id { status := 0x000B })

/-- The SRAM records of a freeze save are written (R253). -/
def State.thawSram (s : State) (j : Job) (rs : List Rec) : State :=
  rs.foldl (fun z r =>
    let n := j.map.getD r.die 0
    let c := z.physClu n r.unit
    if r.kind = 0x40 then z.setClu n c { z.clu n c with sram := sramSetBytes (z.clu n c).sram 0 r.body } else z) s

/-- The FZ_CARRY tokens of a save, by die and cycle (R252). -/
def carryOf (j : Job) (rs : List Rec) : List (Nat × Nat × Token) :=
  (rs.filter (fun r => r.kind == 0x48)).flatMap (fun r =>
    (List.range (r.body.length / 24)).map (fun i => (j.map.getD r.die 0, r.unit, carryToken ((r.body.drop (24 * i)).take 24))))

/-- THAW (R253): T′ at least 100 µs ahead; without a save the cycles' seeds go in. -/
def execThaw (id : Nat) (mem : Option (List Byte)) (t : Nat) (s0 : State) : Host.Outcome State Fault Refusal :=
  match s0.cmdOf id 0x0203 with
  | none => .next s0
  | some c =>
    let s := s0.upTo t
    let p := c.pkt.params
    let tPs := s.timeParam p 0
    let stop := fun (st : Nat) => Host.Outcome.next (s.endCmd id { status := st })
    match s.frozen with
    | none => stop 0x0208
    | some g =>
      match s.jobs.find? (fun j => j.id == g.job), hostList p 12 true with
      | some j, some (l, _) =>
        if s.rd DETSTAT.stream [] ≠ 2 ∨ g.thaw = true then stop 0x0208
        else if tPs < s.now + 100000000 then stop 0x000B
        else
          let f : Frozen := { job := j.id, cmd := id, tPs, limit := 100000000, thaw := true }
          if l.isEmpty then .next (s.armStream j f 3)
          else
            match s.hostRead l mem with
            | none => stop 0x000F
            | some bs =>
              match s.ckMatches j 0x5A524647 false bs, ckRecords bs with
              | true, some rs => .next ((s.thawSram j rs).armStream j { f with kSave := pnum bs 58 2, carry := some (carryOf j rs) } 3)
              | _, _ => stop 0x0206
      | _, _ => stop 0x0208

/-! ### STRICT, JOBCTL, INPUTS, PROV -/

/-- STRICT takes a value (R246): setting it disarms an early exit; clearing it is seen by every job that runs. -/
def State.setStrict (s : State) (v : Bool) (lock : Bool) : State :=
  let s1 := (s.wr DETSTAT.strict [] (b2n v)).wr DETSTAT.source [] 1
  let s2 := if lock then s1.wr DETSTAT.locked [] 1 else s1
  if v then s2.wr DETSTAT.exit_armed [] 0
  else if s2.jobs.any (fun j => s2.runs j) then s2.wr DETSTAT.nonstrict_seen [] 1
  else s2

/-- STRICT (R246), in window `w`. -/
def execStrict (w t : Nat) (s0 : State) : Host.Outcome State Fault Refusal :=
  match s0.takenOp w 0x0204 with
  | none => .next s0
  | some p =>
    let s := s0.upTo t
    let v := bitOf (pnum p.params 0 4) 0
    if v = false ∧ s.flag DETSTAT.locked [] = true then .next (s.answer w p 0x0201 [] [])
    else if v = false ∧ s.jobs.any (fun j => j.bulk && j.strict && s.runs j) = true then .next (s.answer w p 0x0202 [] [])
    else
      let s1 := s.setStrict v (bitOf (pnum p.params 0 4) 1)
      .next (s1.answer w p 0 [] (leBytes 4 (s1.raw DETSTAT [])))

/-- JOBCTL (R248): arms or disarms early exit; armed only while STRICT is 0. -/
def execJobctl (w t : Nat) (s0 : State) : Host.Outcome State Fault Refusal :=
  match s0.takenOp w 0x0205 with
  | none => .next s0
  | some p =>
    let s := s0.upTo t
    let arm := bitOf (pnum p.params 0 4) 0
    let disarm := bitOf (pnum p.params 0 4) 1
    if arm = true ∧ s.flag DETSTAT.strict [] = true then .next (s.answer w p 0x0203 [] [])
    else
      let s1 := if arm then s.wr DETSTAT.exit_armed [] 1 else s
      let s2 := if disarm then s1.wr DETSTAT.exit_armed [] 0 else s1
      .next (s2.answer w p 0 [] [])

/-- INPUTS (R258): the digest of a job's bulk inputs, as the host declares it. -/
def execInputs (w t : Nat) (s0 : State) : Host.Outcome State Fault Refusal :=
  match s0.takenOp w 0x0206 with
  | none => .next s0
  | some p =>
    let s := s0.upTo t
    let job := pnum p.params 0 8
    if s.jobs.any (fun j => j.id == job) then
      .next ((s.setJob job (fun j => { j with prov := { j.prov with inputs := some (job, (p.params.drop 8).take 32) } })).answer w p 0 [] [])
    else .next (s.answer w p 0x0208 [] [])

/-- A digest of a kind and sequence with its material, where `PROVLAST`, `PROVBULK` or the olm still holds it (R259). -/
def State.provFind (s : State) (kind seq : Nat) : Option (List Byte) :=
  match (s.issued.filter (fun e => e.1 == kind)).getLast? with
  | some (_, q, m, d) =>
    if q = seq then some (m ++ d)
    else ((s.olm.circ.reverse ++ s.olm.birth.reverse).find? (fun r => r.code == 0x0070 && pnum r.body 8 4 == kind && pnum r.body 0xD8 8 == seq)).map (·.body)
  | none => ((s.olm.circ.reverse ++ s.olm.birth.reverse).find? (fun r => r.code == 0x0070 && pnum r.body 8 4 == kind && pnum r.body 0xD8 8 == seq)).map (·.body)

/-- PROV (R259, R338). -/
def execProv (w t : Nat) (s0 : State) : Host.Outcome State Fault Refusal :=
  match s0.takenOp w 0x0207 with
  | none => .next s0
  | some p =>
    let s := s0.upTo t
    match s.provFind (pnum p.params 0 4) (pnum p.params 4 8) with
    | some d => .next (s.answer w p 0 [] d)
    | none => .next (s.answer w p 0x0010 [] [])

end Sys2Proof.Machine
end

