-- ==== Sys2Proof/Machine/Jtag.lean ====
section
/-!
DEFINITION. The TAP of the SIG connector (R389, R395). One command loads its instruction and makes one scan of its data register: `pins` are
the levels of the SIG slow pins at the capture, `scan` the bits shifted in on TDI, first first.
-/
namespace Sys2Proof.Machine

/-- SIG slow pins in the boundary register, in the order of the pin table: RESET_N, PWRALERT_N and the 14 straps (inputs), then MOD_READY
and MOD_FAULT_N, which can drive. The TAP's own pins are in no chain of IEEE 1149.1. -/
def sigInputs : Nat := 16

/-- Cells of the boundary register: one for each input, three for each pin that can drive. -/
def boundaryCells : Nat := sigInputs + 6

/-- The level the system logic gives a slow output pin: MOD_READY at stage 8, MOD_FAULT_N low while a report waits or start-up stopped. -/
def State.sysPin (s : State) (p : Nat) : Bool :=
  if p = 0 then s.rd BOOTSTAT.stage [] == 8 else s.flt.queue.isEmpty && s.boot.oscOk

/-- The system logic drives an open-drain pin: it pulls it low, and releases it otherwise (R390). -/
def State.sysDrive (s : State) (p : Nat) : Bool := !s.sysPin p

/-- What a capture loads: the level of each pin in its input cell, and what the system logic drives in the output and control cells. -/
def State.captured (s : State) (pins : List Bool) : List Bool :=
  (List.range sigInputs).map (fun i => pins.getD i false)
    ++ [pins.getD 16 false, s.sysPin 0, s.sysDrive 0, pins.getD 17 false, s.sysPin 1, s.sysDrive 1]

/-- A data register of `n` cells, the cell nearest TDI first, after a scan; and the bits that left on TDO. -/
def shiftReg (reg scan : List Bool) : List Bool × List Bool :=
  ((scan.reverse ++ reg).take reg.length, (reg.reverse ++ scan).take scan.length)

/-- Output cell `q` of the boundary register as it drives (R395): with its control cell 1, its level; else high impedance. -/
def State.drivePin (s : State) (p : Nat) : State :=
  if s.tap.boundary.getD (sigInputs + 3 * p + 2) false then s.emit (.slowPin p (s.tap.boundary.getD (sigInputs + 3 * p + 1) false)) else s.emit (.highZ p)

/-- An instruction is loaded; where the system logic gets the pins back, they show what it drives. -/
def State.loadIr (s : State) (ir : Nat) : State :=
  let held := fun k => k == 0 || k == 2 || k == 3
  let s1 : State := { s with tap := { s.tap with ir } }
  if held s.tap.ir && !held ir then (s1.emit (.slowPin 0 (s.sysPin 0))).emit (.slowPin 1 (s.sysPin 1)) else s1

/-- A scan of the boundary register: what it takes in drives from the update on where the instruction drives. -/
def State.scanBoundary (s : State) (pins scan : List Bool) : State :=
  let (r, o) := shiftReg (s.captured pins) scan
  ({ s with tap := { s.tap with boundary := r } } : State).emit (.tdo o)

/-- A scan of the bypass register, which a capture clears. -/
def State.scanBypass (s : State) (scan : List Bool) : State :=
  let (r, o) := shiftReg [false] scan
  ({ s with tap := { s.tap with bypass := r.headD false } } : State).emit (.tdo o)

/-- TRST_N, or five TCK cycles with TMS high: the TAP alone resets, to BYPASS (R389, R395). -/
def execTrstN (s : State) : Host.Outcome State Fault Refusal :=
  .next { s.loadIr 4 with tap := { s.tap with ir := 4, bypass := false } }

/-- EXTEST: the pins are driven from the boundary register, before and after the scan (R395). -/
def execExtest (pins scan : List Bool) (s : State) : Host.Outcome State Fault Refusal :=
  let s1 := ((s.loadIr 0).drivePin 0).drivePin 1
  .next (((s1.scanBoundary pins scan).drivePin 0).drivePin 1)

/-- SAMPLE/PRELOAD: the pins are sampled and the boundary register preloaded; the pins keep to the system logic (R395). -/
def execSamplePreload (pins scan : List Bool) (s : State) : Host.Outcome State Fault Refusal := .next ((s.loadIr 1).scanBoundary pins scan)

/-- CLAMP: the pins are driven from the boundary register while the bypass register is scanned (R395). -/
def execClamp (scan : List Bool) (s : State) : Host.Outcome State Fault Refusal :=
  .next ((((s.loadIr 2).drivePin 0).drivePin 1).scanBypass scan)

/-- HIGHZ: every driver of the boundary register is in high impedance; the bypass register is scanned (R395). -/
def execHighz (scan : List Bool) (s : State) : Host.Outcome State Fault Refusal :=
  .next ((((s.loadIr 3).emit (.highZ 0)).emit (.highZ 1)).scanBypass scan)

/-- BYPASS, which every code without an instruction selects (R395). -/
def execBypass (code : Nat) (scan : List Bool) (s : State) : Host.Outcome State Fault Refusal :=
  .next (if code ∈ [0, 1, 2, 3] then s else (s.loadIr 4).scanBypass scan)

end Sys2Proof.Machine
end

