-- ==== Sys2Proof/Machine/PtpClock.lean ====
section
/-!
DEFINITION. The hub's PTP ordinary clock (R267, R268, R281): the messages of IEEE 1588-2019 as it takes and sends them.
-/
namespace Sys2Proof.Machine

/-- The clock runs (R268). -/
def State.ptpOn (s : State) : Bool := s.flag TPTP.enable []

def State.setPtp (s : State) (x : Ptp) : State := { s with ptp := x }

/-- A message leaves on the clock's port. -/
def State.ptpSend (s : State) (m : PtpMsg) : State := s.emit (.ptp (s.rd TPTP.port []) m)

/-- A Sync is complete: the offset from its master corrects the time base where PTP is the source and this module is not
grandmaster (R267, R268, R281). -/
def State.ptpOffset (s : State) (forward : Int) : State :=
  let s1 := s.setPtp { s.ptp with forward, sync := none }
  if s1.rd TCFG.source [] = 1 ∧ s1.flag TSTAT.gm [] = false then s1.servo (s1.ptp.delay - forward) else s1

/-- The order of two data sets (IEEE 1588-2019, 9.3.4, the comparison part): the lesser is better. -/
def dataLess : List Nat → List Nat → Bool
  | [], [] => false
  | [], _ :: _ => true
  | _ :: _, [] => false
  | x :: xs, y :: ys => decide (x < y) || (x == y && dataLess xs ys)

/-- The best of the announced clocks. -/
def bestClock : List (Nat × List Nat) → Option (Nat × List Nat)
  | [] => none
  | c :: cs =>
    match bestClock cs with
    | none => some c
    | some d => if dataLess d.2 c.2 then some d else some c

/-- A PTP message reaches the clock; `t` is its receipt at the fibre face or the MDI, ps (R268). -/
def execPtpMessage (m : PtpMsg) (t : Nat) (s0 : State) : Host.Outcome State Fault Refusal :=
  let s := s0.upTo t
  let x := s.ptp
  let here := s.domainAt t
  if s.ptpOn = false then .next s
  else
    match m with
    | .announce src ds => .next (s.setPtp { x with heard := (src, ds) :: x.heard.filter (fun p => p.1 != src) })
    | .sync src seq two origin corr =>
      if x.parent ≠ some src then .next s
      else if two then .next (s.setPtp { x with sync := some (src, seq, here) })
      else .next (s.ptpOffset ((here : Int) - origin - corr))
    | .followUp src seq origin corr =>
      match x.sync with
      | some (u, q, t2) => .next (if u = src ∧ q = seq then s.ptpOffset ((t2 : Int) - origin - corr) else s)
      | none => .next s
    | .delayReq src seq =>
      .next (if s.flag TSTAT.gm [] then s.ptpSend (.delayResp src seq here 0) else s)
    | .delayResp src seq receipt corr =>
      match x.request with
      | some (t3, q) =>
        .next (if x.parent = some src ∧ q = seq ∧ s.flag TPTP.p2p [] = false then
            s.setPtp { x with request := none, delay := (x.forward + ((receipt : Int) - t3 - corr)) / 2 }
          else s)
      | none => .next s
    | .pdelayReq src seq =>
      .next ((s.ptpSend (.pdelayResp src seq here true 0)).ptpSend (.pdelayRespFollowUp src seq here 0))
    | .pdelayResp _ seq receipt two corr =>
      match x.request with
      | some (t1, q) =>
        if q ≠ seq ∨ s.flag TPTP.p2p [] = false then .next s
        else if two then .next (s.setPtp { x with peerT2 := some receipt, peerT4 := here })
        else .next (s.setPtp { x with request := none, delay := ((here : Int) - t1 - corr) / 2 })
      | none => .next s
    | .pdelayRespFollowUp _ seq origin corr =>
      match x.request, x.peerT2 with
      | some (t1, q), some t2 =>
        .next (if q = seq then
            s.setPtp { x with request := none, peerT2 := none
                              delay := (((x.peerT4 : Int) - t1) - ((origin : Int) - t2) - corr) / 2 }
          else s)
      | _, _ => .next s

/-- The best master clock algorithm runs (R268): a module strapped as a follower never becomes grandmaster. What its own data set
holds beside the priorities is free (log 3). -/
def State.ptpDecide (s : State) : State :=
  let own := [s.rd TPTP.priority1 [], Config.freeNat s.fresh, Config.freeNat (s.fresh + 1), Config.freeNat (s.fresh + 2),
    s.rd TPTP.priority2 [], s.part.serial]
  let s1 := { s with fresh := s.fresh + 3 }
  match bestClock s1.ptp.heard with
  | none => (s1.setPtp { s1.ptp with parent := none }).wr TSTAT.gm [] (b2n s1.straps.timeRole)
  | some (src, ds) =>
    if s1.straps.timeRole && dataLess own ds then (s1.setPtp { s1.ptp with parent := none }).wr TSTAT.gm [] 1
    else (s1.setPtp { s1.ptp with parent := some src }).wr TSTAT.gm [] 0

/-- An interval of the clock expires (R268): 0 Sync, 1 Announce, 2 a delay request, 3 the best master clock algorithm. -/
def execPtpTimer (kind t : Nat) (s0 : State) : Host.Outcome State Fault Refusal :=
  let s := s0.upTo t
  let q := (s.ptp.seq + 1) % 65536
  let s1 := s.setPtp { s.ptp with seq := q }
  if s.ptpOn = false then .next s
  else
    match kind with
    | 0 =>
      .next (if s.flag TSTAT.gm [] then
          (s1.ptpSend (.sync s.part.serial q true 0 0)).ptpSend (.followUp s.part.serial q s.domNow 0) else s)
    | 1 =>
      .next (if s.flag TSTAT.gm [] then
          s1.ptpSend (.announce s.part.serial [s.rd TPTP.priority1 [], s.rd TPTP.priority2 [], s.part.serial]) else s)
    | 2 =>
      let s2 := s1.setPtp { s1.ptp with request := some (s.domNow, q) }
      .next (if s.flag TPTP.p2p [] then s2.ptpSend (.pdelayReq s.part.serial q)
             else if s.flag TSTAT.gm [] then s else s2.ptpSend (.delayReq s.part.serial q))
    | _ => .next s.ptpDecide

end Sys2Proof.Machine
end

