-- ==== Sys2Proof/Machine/Security.lean ====
section
/-!
DEFINITION. Sessions opened and closed, keys, firmware, attestation, the capability answers, and the slow-control frames (R320, R338 to
R350).
-/
namespace Sys2Proof.Machine

/-! ### Opens (R340 to R345) -/

/-- NONCE (R341): the salt, and a device nonce drawn from the security engine and bound to the window. -/
def execNonce (w t : Nat) (s0 : State) : Host.Outcome State Fault Refusal :=
  match s0.takenOp w 0x0001 with
  | none => .next s0
  | some p =>
    let (nd, s) := (s0.upTo t).drawBytes 32
    let s1 := s.setWin w { s.win w with nonce := some (nd, s.now) }
    .next (s1.answer w p 0 [] (fitTo 16 s1.vault.salt ++ nd))

/-- The nonce of a window, where it is not ten seconds old; an open consumes it (R341). -/
def State.useNonce (s : State) (w : Nat) : Option (List Byte) × State :=
  let x := s.win w
  ((match x.nonce with | some (nd, at_) => if s.now ≤ at_ + 10000000000000 then some nd else none | none => none),
   s.setWin w { x with nonce := none })

/-- A failed open is counted and recorded (R345). -/
def State.openFailed (s : State) (w : Nat) : State := (s.addWrap SECCNT.auth_failed [] 1).secRecord 0 w

/-- A failed maintenance open: from the fifth in a row on, OPEN_MAINT is locked out, 60 s doubled for each further one, up to 3,600 s (R345). -/
def State.maintFailed (s : State) (w : Nat) : State :=
  let k := s.sec.fails + 1
  let s1 := (({ s with sec := { s.sec with fails := k } } : State)).openFailed w
  if k < 5 then s1
  else
    ({ s1 with sec := { s1.sec with lockUntil := some (s1.now + min 3600 (60 * 2 ^ (k - 5)) * 1000000000000) } } : State).wr SECSTAT.locked_out [] 1

/-- The lowest free slot a session of a kind may use: one maintenance session, seven operating ones (R340). -/
def State.freeSlot (s : State) (maint : Bool) : Option Nat :=
  let of := fun (m : Bool) => countIf (fun i => match Sparse.get none s.sec.sessions i with | some y => y.maint == m | none => false) (List.range 8)
  if (if maint then 1 else 7) ≤ of maint then none else (List.range 8).find? (fun k => (Sparse.get none s.sec.sessions k).isNone)

/-- Session ids go up from one to 65,535 and round again, those in use passed over (R340). -/
def State.sessionId (s : State) : Nat :=
  ((List.range 9).map (fun i => (s.sec.nextSession - 1 + i) % 65535 + 1)).find? (fun v => (s.sessSlot v).isNone) |>.getD 1

/-- The first session of firmware with a higher rollback index raises the fused one (R348). -/
def State.raiseRollback (s : State) : State :=
  if s.sec.opened then s
  else
    let r := max s.part.rollback s.sec.running.rollback
    ({ s with sec := { s.sec with opened := true }, part := { s.part with rollback := r } } : State).wr SECSTAT.rollback [] r

/-- A session opens under key K; its reply confirms K (R331, R340, R342). -/
def State.openSess (s : State) (w : Nat) (p : Pkt) (k : Nat) (maint : Bool) (slot : Nat) (key data : List Byte) : State :=
  let id := s.sessionId
  let s1 : State := { s with sec := { s.sec with nextSession := id % 65535 + 1, fails := if maint then 0 else s.sec.fails } }
  let s2 := (s1.putSess k (some { id, maint, slot, key, last := s1.now }) 1).raiseRollback
  s2.reply w p 0 [] (leBytes 4 id ++ data) (some key)

/-- OPEN_MAINT (R343): the packet's MAC under K proves the password. -/
def execOpenMaint (w t : Nat) (s0 : State) : Host.Outcome State Fault Refusal :=
  match s0.takenOp w 0x0002 with
  | none => .next s0
  | some p =>
    let s := s0.upTo t
    if s.flag SECSTAT.locked_out [] then .next ((s.openFailed w).reply w p 0x0012 [] [] none)
    else
      let (nd, s1) := s.useNonce w
      match nd with
      | none => .next ((s1.maintFailed w).reply w p 0x0011 [1] [] none)
      | some nd =>
        let key := fitTo 32 (Config.kmac256 "IADAR S2 MAINT" s1.vault.verifier (nd ++ p.params) 32)
        let len := (s1.win w).word 1 % 65536
        let bytes := (s1.win w).bytes 0 (4 * len)
        if p.seq ≠ 0 ∨ bytes.drop (4 * len - 16) ≠ mac16 "IADAR S2 CMD" key (bytes.take (4 * len - 16)) then
          .next ((s1.maintFailed w).reply w p 0x0011 [2] [] none)
        else
          match s1.freeSlot true with
          | none => .next (s1.reply w p 0x0013 [] [] none)
          | some k => .next (s1.openSess w p k true 0 key [])

/-- A signature with its length before it, filled to a word. -/
def sized (x : List Byte) : List Byte := leBytes 4 x.length ++ x ++ List.replicate ((4 - x.length % 4) % 4) 0

/-- OPEN_OP (R344). -/
def execOpenOp (w t : Nat) (s0 : State) : Host.Outcome State Fault Refusal :=
  match s0.takenOp w 0x0003 with
  | none => .next s0
  | some p =>
    let (nd, s) := (s0.upTo t).useNonce w
    match nd with
    | none => .next ((s.openFailed w).reply w p 0x0011 [1] [] none)
    | some nd =>
      let nh := (p.params.drop 4).take 32
      let ek := (p.params.drop 36).take 1568
      let sig := (p.params.drop 1608).take (pnum p.params 1604 4)
      let m := fitTo 64 (Config.shake256 (asciiBytes "IADAR S2 OPEN" ++ nd ++ nh ++ ek ++ leBytes 8 s.part.serial) 64)
      match s.keyOfId (pnum p.params 0 4) with
      | none => .next ((s.openFailed w).reply w p 0x0011 [3] [] none)
      | some (slot, x) =>
        if (bitOf x.roles 0 && Config.falconVerify x.pub m sig) = false then .next ((s.openFailed w).reply w p 0x0011 [3] [] none)
        else
          match s.freeSlot false with
          | none => .next (s.reply w p 0x0013 [] [] none)
          | some k =>
            let (v, s1) := s.draw
            let (ct0, ss) := Config.mlkemEncap ek v
            let ct := fitTo 1568 ct0
            let key := fitTo 32 (Config.kmac256 "IADAR S2 OPER" ss (nd ++ nh ++ fitTo 32 (Config.shake256 (ek ++ ct) 32)) 32)
            let accept := fitTo 64 (Config.shake256 (asciiBytes "IADAR S2 ACCEPT" ++ m ++ ct) 64)
            .next (s1.openSess w p k false slot key (ct ++ sized (Config.falconSign s1.part.serial accept)))

/-- CLOSE (R345): refused with a tag outstanding unless forced. -/
def execClose (w t : Nat) (s0 : State) : Host.Outcome State Fault Refusal :=
  match s0.takenOp w 0x0004 with
  | none => .next s0
  | some p =>
    let s := s0.upTo t
    match s.sessSlot p.session with
    | none => .next (s.answer w p 0x0004 [] [])
    | some (_, x) =>
      if x.tags.any (fun r => r.2.out) = true ∧ bitOf (pnum p.params 0 4) 0 = false then .next (s.answer w p 0x0014 [] [])
      else .next ((s.closeSess p.session).reply w p 0 [] [] (some x.key))

/-- A session idle for the policy's limit, with no tag outstanding, closes (R345). -/
def execSessionIdle (id : Nat) (s0 : State) : Host.Outcome State Fault Refusal :=
  match s0.sessSlot id with
  | none => .next s0
  | some (_, x) =>
    let limit := s0.rd SECPOLICY.idle []
    if limit = 0 ∨ x.tags.any (fun r => r.2.out) = true then .next s0
    else .next ((s0.upTo (x.last + limit * 1000000000000)).closeSess id)

/-- The lockout ends (R345). -/
def execLockoutExpiry (s0 : State) : Host.Outcome State Fault Refusal :=
  match s0.sec.lockUntil with
  | none => .next s0
  | some u =>
    let s := s0.upTo u
    .next (({ s with sec := { s.sec with lockUntil := none } } : State).wr SECSTAT.locked_out [] 0)

/-- Ten seconds after NONCE the device nonce is gone (R341). -/
def execNonceExpiry (w : Nat) (s0 : State) : Host.Outcome State Fault Refusal :=
  match (s0.win w).nonce with
  | none => .next s0
  | some (_, at_) => let s := s0.upTo (at_ + 10000000000000); .next (s.setWin w { s.win w with nonce := none })

/-! ### Keys and policy (R346, R347) -/

/-- A key slot takes a key, or is emptied; `SECKEY` follows it. -/
def State.putKey (s : State) (k : Nat) (x : KeySlot) : State :=
  let s1 : State := { s with vault := { s.vault with keys := Sparse.set {} s.vault.keys k x } }
  if x.pub.isEmpty then s1.setRaw SECKEY [k] 0
  else ((s1.wr SECKEY.id [k] (keyId x.pub)).wr SECKEY.roles [k] x.roles).wr SECKEY.valid [k] 1

/-- KEY_ENROLL (R346). -/
def execKeyEnroll (w t : Nat) (s0 : State) : Host.Outcome State Fault Refusal :=
  match s0.takenOp w 0x0601 with
  | none => .next s0
  | some p =>
    let s := s0.upTo t
    let k := pnum p.params 0 4
    let roles := pnum p.params 4 4
    let pub := (p.params.drop 8).take 1793
    if (Sparse.get {} s.vault.keys k).pub.isEmpty = false ∨ roles = 0 ∨ (s.keyOfId (keyId pub)).isSome = true then .next (s.answer w p 0x000B [] [])
    else
      let s1 := s.putKey k { pub, roles }
      .next (s1.answer w p 0 [] (leBytes 4 (keyId pub)))

/-- KEY_REVOKE (R346): the slot is emptied and every session opened with its key closes. -/
def execKeyRevoke (w t : Nat) (s0 : State) : Host.Outcome State Fault Refusal :=
  match s0.takenOp w 0x0602 with
  | none => .next s0
  | some p =>
    let s := s0.upTo t
    let k := pnum p.params 0 4
    let ids := (List.range 8).filterMap (fun i => match Sparse.get none s.sec.sessions i with
      | some x => if !x.maint && x.slot == k then some x.id else none
      | none => none)
    let s1 := ids.foldl (fun z i => z.closeSess i) (s.putKey k {})
    .next (s1.answer w p 0 [] [])

/-- PASSWORD (R343): a new salt and verifier. -/
def execPassword (w t : Nat) (s0 : State) : Host.Outcome State Fault Refusal :=
  match s0.takenOp w 0x0603 with
  | none => .next s0
  | some p =>
    let s := s0.upTo t
    let s1 : State := { s with vault := { s.vault with salt := p.params.take 16, verifier := (p.params.drop 16).take 32 } }
    .next (s1.answer w p 0 [] [])

/-- POLICY (R347, its table). -/
def execPolicy (w t : Nat) (s0 : State) : Host.Outcome State Fault Refusal :=
  match s0.takenOp w 0x0604 with
  | none => .next s0
  | some p =>
    let s := s0.upTo t
    let v := pnum p.params 0 4
    let s1 := ({ s with vault := { s.vault with policy := v + 1 } } : State).setRaw SECPOLICY [] v
    .next (s1.answer w p 0 [] [])

/-! ### Firmware (R348) -/

/-- A firmware image as read: kind, firmware; none where its header is wrong or its signature does not verify. -/
def State.firmwareOf (s : State) (bs : List Byte) : Option (Nat × Flash) :=
  let kind := pnum bs 4 4
  let n := pnum bs 0x10 8
  let at_ := (64 + n + 3) / 4 * 4
  let len := pnum bs 0x1C 4
  let digest := fitTo 32 (Config.shake256 (bs.take (64 + n)) 32)
  let sig := (bs.drop at_).take len
  let fuse := Config.firmwareKey s.part.serial
  let key := if pnum bs 0x18 4 = keyId fuse then some fuse
    else if kind = 2 then (s.keyOfId (pnum bs 0x18 4)).bind (fun x => if bitOf x.2.roles 2 then some x.2.pub else none)
    else none
  if pnum bs 0 4 ≠ 0x57464149 ∨ (kind ≠ 1 ∧ kind ≠ 2) ∨ 64 ≤ pnum bs 0x0C 4 ∨ len = 0 ∨ 1462 < len ∨ bs.length < at_ + len
      ∨ ((bs.drop 0x20).take 32).any (fun b => b != 0) = true then none
  else
    match key with
    | some k => if Config.falconVerify k digest sig then
        some (kind, { version := pnum bs 8 4, rollback := pnum bs 0x0C 4, digest, body := (bs.drop 64).take n }) else none
    | none => none

/-- At start-up the hub restores the policy and the key slots from the secure store, and derives the identity key (R346, R347, R349). -/
def State.secureUp (s : State) : State :=
  let v := s.vault
  let s1 := if v.policy = 0 then s else s.setRaw SECPOLICY [] (v.policy - 1)
  let s2 := v.keys.foldl (fun z p => z.putKey p.1 p.2) s1
  (s2.wr SECSTAT.identity_ready [] 1).wr SECSTAT.rollback [] s.part.rollback

/-- Verified firmware runs, and start-up goes on from the rails stage (R348, R382, R383). -/
def State.runFirmware (s : State) (f : Flash) : State :=
  let s1 : State := { s.secureUp with sec := { s.sec with running := f } }
  (((s1.wr SECSTAT.fw_verified [] 1).wr SECFW.version [] f.version).wr SECFW.digest [] (leNat (f.digest.take 4))).wr BOOTSTAT.stage [] 2

/-- The firmware stage waits for an image from the host (R383). -/
def State.hostLoads (s : State) : Bool := s.straps.boot == 2 && s.rd BOOTSTAT.stage [] == 1

/-- FW_UPDATE (R348, R383): base firmware goes to the flash device that did not boot; in a host load it runs from hub memory. -/
def execFwUpdate (id : Nat) (mem : Option (List Byte)) (t : Nat) (s0 : State) : Host.Outcome State Fault Refusal :=
  match s0.cmdOf id 0x0605 with
  | none => .next s0
  | some c =>
    let s := s0.upTo t
    match hostList c.pkt.params 0 false with
    | none => .next (s.endCmd id { status := 0x000B })
    | some (l, _) =>
      match (if s.flag HOSTSTAT.up [] then mem.map (fitTo (listBytes l)) else none) with
      | none => .next (s.endCmd id { status := 0x000F })
      | some bs =>
        match s.firmwareOf bs with
        | none => .next (s.endCmd id { status := 0x0015 })
        | some (kind, f) =>
          if f.rollback < s.part.rollback then .next (s.endCmd id { status := 0x0016 })
          else if s.hostLoads then
            if kind = 1 then .next (((s.endCmd id { status := 0, details := [f.version] }).runFirmware f).wr BOOTSTAT.host_loaded [] 1)
            else .next (s.endCmd id { status := 0x0015 })
          else
            let v := s.vault
            let v1 := if kind = 2 then { v with modules := v.modules ++ [f] }
              else if s.flag SECSTAT.boot_copy [] then { v with flash0 := f } else { v with flash1 := f }
            let s1 : State := { s with vault := v1 }
            .next (s1.endCmd id { status := 0, details := [f.version] })

/-! ### Answers about the module (R24, R40, R349, R350) -/

/-- CAPS. -/
def execCaps (w t : Nat) (s0 : State) : Host.Outcome State Fault Refusal :=
  match s0.takenOp w 0x0005 with
  | none => .next s0
  | some p => let s := s0.upTo t; .next (s.answerList w p 0 s.capBytes)

/-- LATTAB. -/
def execLattab (w t : Nat) (s0 : State) : Host.Outcome State Fault Refusal :=
  match s0.takenOp w 0x0006 with
  | none => .next s0
  | some p => let s := s0.upTo t; .next (s.answerList w p 0 s.latTable)

/-- The attestation report over a host nonce (R350). -/
def State.attestReport (s : State) (nonce : List Byte) : List Byte :=
  let images := (List.range 16).flatMap (fun n =>
    match s.jobOfDie n with | some j => fitTo 32 j.digest | none => List.replicate 32 0)
  let secrets := leBytes 4 (s.raw SECPOLICY []) ++ (List.range 16).flatMap (fun k => leBytes 8 (s.raw SECKEY [k]))
  leBytes 4 0x54414149 ++ leBytes 4 1 ++ leBytes 4 (s.identWords.headD 0) ++ leBytes 4 s.part.identityCode ++ leBytes 4 latTableId
    ++ leBytes 4 s.sec.running.version ++ leBytes 8 s.part.serial ++ leBytes 8 s.rawTicks ++ stampBytes s.domNow
    ++ leBytes 4 (s.raw DETSTAT []) ++ leBytes 4 s.olm.cycles ++ leBytes 4 s.part.rollback ++ fitTo 32 nonce ++ fitTo 32 s.sec.running.digest
    ++ fitTo 32 (Config.shake256 images 32) ++ fitTo 32 (Config.shake256 secrets 32)

/-- ATTEST (R350). -/
def execAttest (w t : Nat) (s0 : State) : Host.Outcome State Fault Refusal :=
  match s0.takenOp w 0x0007 with
  | none => .next s0
  | some p =>
    let s := s0.upTo t
    let r := s.attestReport (p.params.take 32)
    let sig := Config.falconSign s.part.serial (fitTo 64 (Config.shake256 r 64))
    let cert := Config.identityCert s.part.serial
    .next (s.answerList w p 32 (r ++ leBytes 4 sig.length ++ sig ++ Config.identityKey s.part.serial ++ leBytes 4 cert.length ++ cert))

/-! ### Frames of the slow-control port (R320) -/

/-- T1S_SEND: a frame joins the port's queue. -/
def execT1sSend (w t : Nat) (s0 : State) : Host.Outcome State Fault Refusal :=
  match s0.takenOp w 0x0501 with
  | none => .next s0
  | some p =>
    let s := s0.upTo t
    let h := pnum p.params 0 4
    let f : T1sTx := { bytes := (p.params.drop 4).take (h % 2048), stamp := bitOf h 16, id := bitsOf h 24 8, window := w + 1 }
    let s1 := s.setT1s { s.t1s with txq := s.t1s.txq ++ [f] }
    .next (s1.answer w p 0 [] [])

/-- T1S_RECV: the oldest received frame with its time. -/
def execT1sRecv (w t : Nat) (s0 : State) : Host.Outcome State Fault Refusal :=
  match s0.takenOp w 0x0502 with
  | none => .next s0
  | some p =>
    let s := s0.upTo t
    match s.t1s.rxq with
    | [] => .next (s.answer w p 0x0010 [] [])
    | (b, at_) :: r =>
      let s1 := s.setT1s { s.t1s with rxq := r }
      .next (s1.answer w p 0 [] (leBytes 4 b.length ++ stampBytes at_ ++ b))

end Sys2Proof.Machine
end

