-- ==== Sys2Proof/Machine/Startup.lean ====
section
/-!
DEFINITION. Input power lost and restored, the start-up sequence, the straps and the resets (R28, R365, R374, R382 to R394).
-/
namespace Sys2Proof.Machine

/-! ### What a reset leaves (R389) -/

/-- Registers whose reset value is in the fuses (R313, R320, R348). -/
def State.fuseRegs (s : State) : State :=
  let s1 := (List.range 256).foldl (fun z k => z.setRaw MACADDR [k / 64, k % 64] (z.part.macs.getD k 0)) s
  (s1.setRaw T1SADDR [] s.part.t1sMac).wr SECSTAT.rollback [] s.part.rollback

/-- The module after a power-on or module reset: fuses, secure store, olm and its clock are kept, all else is at reset (R389). -/
def State.restart (s : State) : State :=
  let o : Olm := { s.olm with before := s.olm.before + s.now, buckets := [] }
  let b : Boot := { resetN := s.boot.resetN, perstN := s.boot.perstN, off := none }
  let z : State := { State.reset with
    pending := s.pending, fresh := s.fresh, out := s.out, part := s.part, fit := s.part, vault := s.vault, olm := o, boot := b }
  ((z.setRaw OLMHEAD [] (s.raw OLMHEAD [])).setRaw OLMTAIL [] (s.raw OLMTAIL [])).fuseRegs

/-- Every rail is removed, for a cause of `RSTCAUSE`; a module that is off already keeps its first cause (R365, R374). -/
def State.railsOff (s : State) (cause : Nat) (trip : Option Nat) : State :=
  match s.boot.off with
  | some _ => s
  | none => let z := s.restart; { z with boot := { z.boot with off := some cause, trip } }

/-- A die reaches 120 °C: the housekeeping controller removes every rail; the module stays off until the input is cycled (R374). -/
def execThermalShutdown (n tj t : Nat) (s0 : State) : Host.Outcome State Fault Refusal :=
  let s := s0.upTo t
  if tj < 120 ∨ s.hasDie n = false then .next s else .next (s.railsOff 4 (some (s.rd PWRDIE.step [n])))

/-- The input has stayed below 40 V for 100 µs: every rail is removed (R365). -/
def execUndervoltageTrip (t : Nat) (s0 : State) : Host.Outcome State Fault Refusal := .next ((s0.upTo t).railsOff 2 none)

/-- The input exceeds 62 V: the converters shut down at once (R365). -/
def execOvervoltageShutdown (t : Nat) (s0 : State) : Host.Outcome State Fault Refusal := .next ((s0.upTo t).railsOff 3 none)

/-! ### Straps (R14, R387, R388) -/

/-- The straps from a word in the layout of IDENT word 8 (R29). -/
def strapsOf (w : Nat) : Straps :=
  { boot := bitsOf w 0 2, node := bitsOf w 2 6, split := bitsOf w 8 2, timeRole := bitOf w 10, hostX8 := bitOf w 11, t1s := bitOf w 12
    strict := bitOf w 13 }

/-- The reset split of a strap code, with the port blocks that have a lane (R12, R14, R388). -/
def splitWord (code : Nat) (lanes : Nat) : Nat :=
  let k := if code = 0 then 0 else 2 ^ (code - 1)
  16 * k + k * 2 ^ 7 + ((2 ^ (4 * k) - 1) &&& lanes) * 2 ^ 32

/-- Port blocks of a die that have a lane: not those in whose place the ring lanes lie (R12). -/
def State.laneMask (s : State) (n : Nat) : Nat := 65535 - (if (s.ringPort n 14).isSome then 3 * 2 ^ 14 else 0)

/-- The straps are sampled and set what they name (R387, R388). -/
def State.sampleStraps (s : State) (w : Nat) : State :=
  let k := strapsOf w
  let s1 : State := { s with straps := k }
  let s2 := (List.range 16).foldl (fun z n => if z.hasDie n then z.setSplit n (splitWord k.split (z.laneMask n)) else z) s1
  ((s2.wr VCFG.node [] k.node).wr T1SCFG.enable [] (b2n (k.t1s && s.fit.t1s))).wr DETSTAT.strict [] (b2n k.strict)

/-! ### Housekeeping (R360, R363, R382, R385, R386) -/

/-- The POWER_ON record (R363): boot source, firmware version, `SECSTAT`. No firmware runs yet, and the manual does not say which version is
meant: free. -/
def State.powerOnRecord (s : State) (boot : Nat) : State :=
  let (v, s1) := s.draw
  s1.olmWrite 0x0001 (item4 boot ++ item4 v ++ item4 (s1.raw SECSTAT []))

/-- The work of the housekeeping stage, done at `t`: `straps` the strap pins, `osc` whether the oscillator counts, `hub` a hub die that
fails its self-check. -/
def State.housekeep (s0 : State) (cause straps : Nat) (osc : Bool) (hub : Option Nat) (t : Nat) : State :=
  let b := s0.boot
  let s : State := { s0.upTo t with boot := { b with off := none, trip := none, oscOk := osc } }
  let cold := decide (cause ≠ 1)
  let s1 : State := if cold then { s with olm := { s.olm with cycles := s.olm.cycles + 1 } } else s
  let s2 := (s1.wr RSTCAUSE.cause [] cause).powerOnRecord (straps % 4)
  let s3 := match b.trip with | some v => s2.powerRecord 2 v 0 | none => s2
  let s4 := match hub with
    | some 0 => (s3.retireHub 0 0).wr FLTSTAT.active_hub [] 1
    | some 1 => s3.retireHub 1 2
    | _ => s3
  if osc then (s4.sampleStraps straps).wr BOOTSTAT.stage [] 1 else s4.pinOut 1 false

/-- 54 V is applied, or returns after an undervoltage or a thermal shutdown: a cold start (R365, R374, R382). -/
def execInputPresent (straps : Nat) (osc : Bool) (hub : Option Nat) (t : Nat) (s : State) : Host.Outcome State Fault Refusal :=
  match s.boot.off with
  | some c => .next (if c = 3 ∨ s.boot.resetN = false then s else s.housekeep c straps osc hub t)
  | none => .next s

/-- The input returns within range after a shutdown above 62 V, and the module resets (R365). -/
def execInputWithinRange (straps : Nat) (osc : Bool) (hub : Option Nat) (t : Nat) (s : State) : Host.Outcome State Fault Refusal :=
  .next (if s.boot.off = some 3 ∧ s.boot.resetN = true then s.housekeep 3 straps osc hub t else s)

/-- Start-up stands at stage `k` and may leave it: no alert input holds it, nor a reset (R386). -/
def State.atStage (s : State) (k : Nat) : Bool :=
  s.boot.resetN && s.boot.off.isNone && s.boot.oscOk && s.rd BOOTSTAT.stage [] == k && !s.flag PWRSTAT.alert_mod []
    && !s.flag PWRSTAT.alert_rack []

/-! ### Firmware (R348, R383, R384) -/

/-- The units recovery firmware leaves in use: none of those a capability entry names but the host link (R384). -/
def Part.recovery (p : Part) : Part :=
  { p with dies := 0, glow := 0, dram := 0, lpddr := 0, tier2 := false, train := false, acq := false, ethMac := false, t1s := false
           triplex := false, ox := false }

/-- Recovery firmware runs (R383, R384); the version it shows is not given: free. -/
def State.recover (s0 : State) (link : Option (Nat × Nat)) : State :=
  let (v, s) := s0.secureUp.draw
  let s1 : State := { s with sec := { s.sec with running := { version := v % 2 ^ 32 } }, fit := s.part.recovery }
  let s2 := (((s1.wr SECFW.version [] (v % 2 ^ 32)).wr BOOTSTAT.stage [] 9).wr BOOTSTAT.recovery [] 1)
  let s3 : State := { s2 with boot := { s2.boot with caps := s2.capList [s2.hostCap] } }
  match link with
  | some (w, r) => s3.linkUp w r
  | none => s3

/-- A flash copy may run: it verifies, and its rollback index is not below the fused one (R348). -/
def State.copyOk (s : State) (f : Flash) (sound : Bool) : Bool := sound && decide (s.part.rollback ≤ f.rollback)

/-- The hub ROM reads firmware from the strapped source (R383): `ok0` and `ok1` whether the primary and the secondary copy verify; `link`
the width and rate of the host link where the ROM trains it. -/
def execFirmwareStage (ok0 ok1 : Bool) (link : Option (Nat × Nat)) (t : Nat) (s0 : State) : Host.Outcome State Fault Refusal :=
  let s := s0.upTo t
  if s.atStage 1 = false then .next s
  else
    let v := s.vault
    let a := s.copyOk v.flash0 ok0
    let b := s.copyOk v.flash1 ok1
    let run := fun (second fallback : Bool) =>
      ((s.runFirmware (if second then v.flash1 else v.flash0)).wr SECSTAT.boot_copy [] (b2n second)).wr BOOTSTAT.fallback [] (b2n fallback)
    match s.straps.boot with
    | 2 => .next (match link with | some (w, r) => s.secureUp.linkUp w r | none => s.secureUp)
    | 3 => .next (s.recover link)
    | k =>
      let first := if k = 0 then a else b
      let other := if k = 0 then b else a
      if first then .next (run (k == 1) false)
      else if other then .next (run (k == 0) true)
      else .next ((s.recover link).wr BOOTSTAT.fallback [] 1)

/-! ### Rails to host (R367, R382, R385) -/

/-- The compute rails come to step 4 with pacer 0; a die that an alert has forced goes there as it recovers (R367, R372, R386). -/
def execRailsStage (t : Nat) (s0 : State) : Host.Outcome State Fault Refusal :=
  let s := s0.upTo t
  if s.atStage 2 = false then .next s
  else
    let one := fun (z : State) n =>
      if z.flag PWRDIE.forced [n] ∨ z.pwr.rising.contains n then
        ({ z with pwr := { z.pwr with before := Sparse.set 0 z.pwr.before n 5 } } : State).setPacer n 0
      else (z.setStep n 4).setPacer n 0
    .next ((s.liveDies.foldl one s).wr BOOTSTAT.stage [] 3)

/-- A unit left out of the capability list (R28, R385), and what cannot be reached without it. -/
def Part.without (p : Part) : LostUnit → Part
  | .dram n b => { p with dram := setBits p.dram (2 * n + b) 1 0 }
  | .package k => { p with lpddr := setBits p.lpddr k 1 0 }
  | .ioDie x => { p with dies := setBits p.dies (4 * x) 4 0, dram := setBits p.dram (8 * x) 8 0, lpddr := setBits p.lpddr (5 * x) 5 0 }
  | .glowworm e => { p with glow := setBits p.glow e 1 0 }
  | .lasers => { p with glow := 0 }
  | .acquisition => { p with acq := false }

/-- All DRAM dies and LPDDR6 packages are trained; those of `bad` do not train (R382, R385, R394). -/
def execMemoryStage (bad : List LostUnit) (t : Nat) (s0 : State) : Host.Outcome State Fault Refusal :=
  let s := s0.upTo t
  if s.atStage 3 = false then .next s
  else
    let drop := fun (z : State) (u : LostUnit) =>
      match u with
      | .dram n b => ({ z with fit := z.fit.without u } : State).olmWrite 0x0050 (item4 1 ++ item8 (2 * n + b) ++ item4 0)
      | .package k => ({ z with fit := z.fit.without u } : State).olmWrite 0x0050 (item4 2 ++ item8 k ++ item4 0)
      | _ => z
    let s1 := bad.foldl drop s
    let s2 := (List.range 16).foldl (fun z n => if bitsOf z.fit.dram (2 * n) 2 = 0 then z else z.wr T1STAT.ready [n] 1) s1
    let s3 := (List.range 20).foldl (fun z p => if bitOf z.fit.lpddr p then z.wr T2STAT.ready [p / 5, p % 5] 1 else z) s2
    let s4 : State := { s3 with boot := { s3.boot with ssc := s3.flag SSCCFG.lpddr_ssc [] } }
    .next (s4.wr BOOTSTAT.stage [] 4)

/-- The two laser dies lock, each with its power at the combiners in 0.1 % of nominal, or are marked failed; without either no glowworm is
usable (R306, R382, R385). -/
def execLasersStage (a b : Option Nat) (t : Nat) (s0 : State) : Host.Outcome State Fault Refusal :=
  let s := s0.upTo t
  if s.atStage 4 = false then .next s
  else
    let lock := fun (z : State) (l : Nat) (p : Option Nat) =>
      match p with
      | some w => z.glows.foldl (fun y e => y.wr (if l = 0 then GWLASER.power_a else GWLASER.power_b) [e] (min w 1023)) z
      | none => z.laserLost l
    let s1 := lock (lock s 0 a) 1 b
    let s2 : State := if a.isNone && b.isNone then { s1 with fit := { s1.fit with glow := 0 } } else s1
    .next (s2.wr BOOTSTAT.stage [] 5)

/-- The lit lanes train (glowworm, lane, best peaking, received power) and port blocks gain lock; a dark lane does not hold it up (R187,
R308, R382). -/
def execLanesStage (lanes : List (Nat × Nat × Nat × Nat)) (locks : List (Nat × Nat)) (t : Nat) (s0 : State) : Host.Outcome State Fault Refusal :=
  let s := s0.upTo t
  if s.atStage 5 = false then .next s
  else
    let s1 := lanes.foldl (fun z (e, k, best, oma) => if bitOf z.fit.glow e && !z.flag GWSTAT.failed [e] then z.laneLock e k best oma else z) s
    .next ((locks.foldl (fun z (n, i) => z.blockLock n i) s1).wr BOOTSTAT.stage [] 6)

/-- What self-test does is no report to the FLT block: its queue and counts, the olm and the pins stand as they stood in `s`. -/
def State.quietly (z s : State) : State :=
  let r : State := { z with flt := { z.flt with queue := s.flt.queue, notes := s.flt.notes }, olm := s.olm, out := s.out }
  [FLTSTAT, FLTCNT, OLMSTAT, OLMHEAD, OLMTAIL].foldl (fun y x => y.setRaw x [] (s.raw x [])) r

/-- Every spare that waits is put in place at once: no job runs. -/
def State.settleSpares (s : State) : State :=
  let s1 := s.flt.hensFailing.foldl (fun z h => z.henRebuild h) s
  let s2 := s1.flt.clusFailing.foldl (fun z p => z.cluRebuild p.1 p.2) s1
  let s3 := s2.flt.arrsFailing.foldl (fun z f => match execArraySubstitution f.die f.arr z.now z with | .next y => y | _ => z) s2
  { s3 with flt := { s3.flt with hensFailing := [], clusFailing := [], arrsFailing := [], dying := [] } }

/-- A unit fails self-test (R28): a spare replaces it where one is free; a compute die without is left out. The result code of its
SELFTEST record is not given: free. Inside an array `part_`, `row` and `col` say where. -/
def State.failSelfTest (s : State) (u : UnitId) (part_ row col : Nat) : State :=
  let s1 := s.failUnit u part_ row col 0
  let gone := s1.flt.dying.map (·.1)
  let s2 := s1.settleSpares.quietly s
  let s3 : State := { s2 with fit := gone.foldl (fun p n => { p with dies := setBits p.dies n 1 0, dram := setBits p.dram (2 * n) 2 0 }) s2.fit }
  let (c, m, k) := unitClass u
  let (v, s4) := s3.draw
  s4.olmWrite 0x0010 (item4 (unitWord (c.getD 0) m k 0 false) ++ item4 v)

/-- A unit without a spare fails self-test and is left out (R28). -/
def State.leaveOut (s : State) (u : LostUnit) : State :=
  let (c, m, k) := match u with
    | .dram n b => (0xF0, n, 2 * n + b)
    | .package p => (0xF1, 0, p)
    | .ioDie x => (0xF5, 0, x)
    | .glowworm e => (0xF2, 0, e)
    | .lasers => (0xF3, 0, 0)
    | .acquisition => (0xFF, 0, 0)
  let (v, s1) := ({ s with fit := s.fit.without u } : State).draw
  s1.olmWrite 0x0010 (item4 (unitWord c m k 0 false) ++ item4 v)

/-- Firmware tests every unit, assigns spares and builds the capability list (R28): `bad` the units that fail with their place in an array,
`lost` those without a spare. -/
def execSelfTestStage (bad : List (UnitId × Nat × Nat × Nat)) (lost : List LostUnit) (t : Nat) (s0 : State) : Host.Outcome State Fault Refusal :=
  let s := s0.upTo t
  if s.atStage 6 = false then .next s
  else
    let s1 := bad.foldl (fun z (u, p, row, col) => z.failSelfTest u p row col) s
    let s2 := lost.foldl (fun z u => z.leaveOut u) s1
    let s3 : State := { s2 with boot := { s2.boot with caps := s2.capList s2.capEntries } }
    .next (s3.wr BOOTSTAT.stage [] 7)

/-- The host link trains, or does not within its stage (R324, R382, R385); PERST_N low holds the stage (R386). -/
def execHostStage (link : Option (Nat × Nat)) (t : Nat) (s0 : State) : Host.Outcome State Fault Refusal :=
  let s := s0.upTo t
  if s.atStage 7 = false ∨ s.boot.perstN = false ∨ s.boot.hostDone = true then .next s
  else
    let s1 : State := { s with boot := { s.boot with hostDone := true } }
    .next (match link with | some (w, r) => s1.linkUp w r | none => s1.linkDown)

/-- Start-up ends: MOD_READY is released high (R382). The time from the input to the start of the raw counter is not fixed, within the
housekeeping limit: free. -/
def execModReady (t : Nat) (s0 : State) : Host.Outcome State Fault Refusal :=
  let s := s0.upTo t
  if s.atStage 7 = false ∨ s.boot.hostDone = false then .next s
  else
    let (v, s1) := s.draw
    .next ((((s1.wr BOOTSTAT.stage [] 8).wr BOOTSTAT.elapsed [] (min (s.now / 1000000000 + v % 201) (2 ^ 32 - 1)))).pinOut 0 true)

/-! ### Reset pins (R386, R389) -/

/-- RESET_N has been low for 100 ns: all but the housekeeping controller resets; the lanes are dark and the output pins off (R389). -/
def execResetN (t : Nat) (s0 : State) : Host.Outcome State Fault Refusal :=
  let s := s0.upTo t
  let s1 : State := { s with boot := { s.boot with resetN := false } }
  match s.boot.off with
  | some _ => .next s1
  | none =>
    let clear := decide (s.flt.queue ≠ []) || !s.boot.oscOk
    let s2 := s1.restart.emit .dark
    .next (if clear then s2.pinOut 1 true else s2)

/-- RESET_N is released after `held` ps: the sequence restarts at the housekeeping stage, the work on the input skipped (R386). -/
def execResetRelease (straps : Nat) (osc : Bool) (hub : Option Nat) (held t : Nat) (s : State) : Host.Outcome State Fault Refusal :=
  if s.boot.resetN then .next s
  else
    let s1 : State := { s with boot := { s.boot with resetN := true } }
    match s.boot.off with
    | some _ => .next s1
    | none => .next (({ s1 with olm := { s1.olm with before := s1.olm.before + held } } : State).housekeep 1 straps osc hub t)

/-- PERST_N goes low or high: low resets the CXL function state (R324, R389). -/
def execPerstN (low : Bool) (t : Nat) (s0 : State) : Host.Outcome State Fault Refusal :=
  let s := s0.upTo t
  let s1 : State := { s with boot := { s.boot with perstN := !low } }
  .next (if low then s1.resetFunction.linkDown else s1)

end Sys2Proof.Machine
end

