-- ==== Sys2Proof/Machine/Dispatch.lean ====
section
/-!
DEFINITION. One arm per command: what `step` runs for the command at the front of the queue.
-/
namespace Sys2Proof.Machine

def exec (i : Instr) (s : State) : Host.Outcome State Fault Refusal :=
  match i with
  | .registerWrite a bytes v t => Sys2Proof.Machine.execRegisterWrite a bytes v t s
  | .partcfgWrite n half v t => Sys2Proof.Machine.execPartcfgWrite n half v t s
  | .cxlMemRead a t => Sys2Proof.Machine.execCxlMemRead a t s
  | .cxlMemWrite a t bs => Sys2Proof.Machine.execCxlMemWrite a t bs s
  | .invalidCode u f part_ row col t => Sys2Proof.Machine.execInvalidCode u f part_ row col t s
  | .handshakeStall u code part_ row col t => Sys2Proof.Machine.execHandshakeStall u code part_ row col t s
  | .arrivalStamp n g beat anchor => Sys2Proof.Machine.execArrivalStamp n g beat anchor s
  | .scheduleAnchor n g => Sys2Proof.Machine.execScheduleAnchor n g s
  | .gateToken n g f t => Sys2Proof.Machine.execGateToken n g f t s
  | .gateFire n g => Sys2Proof.Machine.execGateFire n g s
  | .gcfgWrite n g v => Sys2Proof.Machine.execGcfgWrite n g v s
  | .gslackMinWrite n g v => Sys2Proof.Machine.execGslackMinWrite n g v s
  | .henToken h f t => Sys2Proof.Machine.execHenToken h f t s
  | .henAdd x => Sys2Proof.Machine.execHenAdd x s
  | .henSub x => Sys2Proof.Machine.execHenSub x s
  | .henAdds x => Sys2Proof.Machine.execHenAdds x s
  | .henSubs x => Sys2Proof.Machine.execHenSubs x s
  | .henAddus x => Sys2Proof.Machine.execHenAddus x s
  | .henSubus x => Sys2Proof.Machine.execHenSubus x s
  | .henAnd x => Sys2Proof.Machine.execHenAnd x s
  | .henOr x => Sys2Proof.Machine.execHenOr x s
  | .henXor x => Sys2Proof.Machine.execHenXor x s
  | .henAndn x => Sys2Proof.Machine.execHenAndn x s
  | .henShl x => Sys2Proof.Machine.execHenShl x s
  | .henShr x => Sys2Proof.Machine.execHenShr x s
  | .henSar x => Sys2Proof.Machine.execHenSar x s
  | .henRol x => Sys2Proof.Machine.execHenRol x s
  | .henMin x => Sys2Proof.Machine.execHenMin x s
  | .henMax x => Sys2Proof.Machine.execHenMax x s
  | .henMinu x => Sys2Proof.Machine.execHenMinu x s
  | .henMaxu x => Sys2Proof.Machine.execHenMaxu x s
  | .henCeq x => Sys2Proof.Machine.execHenCeq x s
  | .henClt x => Sys2Proof.Machine.execHenClt x s
  | .henCltu x => Sys2Proof.Machine.execHenCltu x s
  | .henPopc x => Sys2Proof.Machine.execHenPopc x s
  | .henClz x => Sys2Proof.Machine.execHenClz x s
  | .henCtz x => Sys2Proof.Machine.execHenCtz x s
  | .henMul x => Sys2Proof.Machine.execHenMul x s
  | .henMulh x => Sys2Proof.Machine.execHenMulh x s
  | .henMulhu x => Sys2Proof.Machine.execHenMulhu x s
  | .henDot x => Sys2Proof.Machine.execHenDot x s
  | .henDiv x => Sys2Proof.Machine.execHenDiv x s
  | .henDivu x => Sys2Proof.Machine.execHenDivu x s
  | .henRem x => Sys2Proof.Machine.execHenRem x s
  | .henRemu x => Sys2Proof.Machine.execHenRemu x s
  | .henAddi x => Sys2Proof.Machine.execHenAddi x s
  | .henAndi x => Sys2Proof.Machine.execHenAndi x s
  | .henOri x => Sys2Proof.Machine.execHenOri x s
  | .henXori x => Sys2Proof.Machine.execHenXori x s
  | .henMovz x => Sys2Proof.Machine.execHenMovz x s
  | .henMovk x => Sys2Proof.Machine.execHenMovk x s
  | .henSel x => Sys2Proof.Machine.execHenSel x s
  | .henBfx x => Sys2Proof.Machine.execHenBfx x s
  | .henBfi x => Sys2Proof.Machine.execHenBfi x s
  | .henMfs x => Sys2Proof.Machine.execHenMfs x s
  | .henSetst x => Sys2Proof.Machine.execHenSetst x s
  | .henShli x => Sys2Proof.Machine.execHenShli x s
  | .henShri x => Sys2Proof.Machine.execHenShri x s
  | .henSari x => Sys2Proof.Machine.execHenSari x s
  | .henFadd x => Sys2Proof.Machine.execHenFadd x s
  | .henFsub x => Sys2Proof.Machine.execHenFsub x s
  | .henFmul x => Sys2Proof.Machine.execHenFmul x s
  | .henFmin x => Sys2Proof.Machine.execHenFmin x s
  | .henFmax x => Sys2Proof.Machine.execHenFmax x s
  | .henFabs x => Sys2Proof.Machine.execHenFabs x s
  | .henFneg x => Sys2Proof.Machine.execHenFneg x s
  | .henFceq x => Sys2Proof.Machine.execHenFceq x s
  | .henFclt x => Sys2Proof.Machine.execHenFclt x s
  | .henFcle x => Sys2Proof.Machine.execHenFcle x s
  | .henFdiv x => Sys2Proof.Machine.execHenFdiv x s
  | .henFsqrt x => Sys2Proof.Machine.execHenFsqrt x s
  | .henFma x => Sys2Proof.Machine.execHenFma x s
  | .henCvt x => Sys2Proof.Machine.execHenCvt x s
  | .henLd64 x => Sys2Proof.Machine.execHenLd64 x s
  | .henLd32 x => Sys2Proof.Machine.execHenLd32 x s
  | .henLd16 x => Sys2Proof.Machine.execHenLd16 x s
  | .henLd8 x => Sys2Proof.Machine.execHenLd8 x s
  | .henSt64 x => Sys2Proof.Machine.execHenSt64 x s
  | .henSt32 x => Sys2Proof.Machine.execHenSt32 x s
  | .henSt16 x => Sys2Proof.Machine.execHenSt16 x s
  | .henSt8 x => Sys2Proof.Machine.execHenSt8 x s
  | .henSend x => Sys2Proof.Machine.execHenSend x s
  | .henQwait x => Sys2Proof.Machine.execHenQwait x s
  | .henQtake x => Sys2Proof.Machine.execHenQtake x s
  | .henQput x => Sys2Proof.Machine.execHenQput x s
  | .henTwait x => Sys2Proof.Machine.execHenTwait x s
  | .henBr x => Sys2Proof.Machine.execHenBr x s
  | .henBz x => Sys2Proof.Machine.execHenBz x s
  | .henBnz x => Sys2Proof.Machine.execHenBnz x s
  | .henBlt x => Sys2Proof.Machine.execHenBlt x s
  | .henBge x => Sys2Proof.Machine.execHenBge x s
  | .henBltu x => Sys2Proof.Machine.execHenBltu x s
  | .henBgeu x => Sys2Proof.Machine.execHenBgeu x s
  | .henBeq x => Sys2Proof.Machine.execHenBeq x s
  | .henBne x => Sys2Proof.Machine.execHenBne x s
  | .henEnd x => Sys2Proof.Machine.execHenEnd x s
  | .illegalInstruction x => Sys2Proof.Machine.execIllegalInstruction x s
  | .sramAccessComplete n c who e t => Sys2Proof.Machine.execSramAccessComplete n c who e t s
  | .queueConditionMet x => Sys2Proof.Machine.execQueueConditionMet x s
  | .twaitWake x t => Sys2Proof.Machine.execTwaitWake x t s
  | .ageDrop x t => Sys2Proof.Machine.execAgeDrop x t s
  | .steeringToken n c f t => Sys2Proof.Machine.execSteeringToken n c f t s
  | .steeringAged n c t => Sys2Proof.Machine.execSteeringAged n c t s
  | .steerstatWrite n c v => Sys2Proof.Machine.execSteerstatWrite n c v s
  | .creditReturn e t => Sys2Proof.Machine.execCreditReturn e t s
  | .slotPosition n r o => Sys2Proof.Machine.execSlotPosition n r o s
  | .routerToken n r i1 f t => Sys2Proof.Machine.execRouterToken n r i1 f t s
  | .sramScrub n c word e => Sys2Proof.Machine.execSramScrub n c word e s
  | .henSubstitution h ok t => Sys2Proof.Machine.execHenSubstitution h ok t s
  | .clusterSubstitution n c ok t => Sys2Proof.Machine.execClusterSubstitution n c ok t s
  | .arrayVector n a v t => Sys2Proof.Machine.execArrayVector n a v t s
  | .fillComplete n a corrected uncorrected t => Sys2Proof.Machine.execFillComplete n a corrected uncorrected t s
  | .arrayMarker n a f t => Sys2Proof.Machine.execArrayMarker n a f t s
  | .storeWrite n a space off bs goat => Sys2Proof.Machine.execStoreWrite n a space off bs goat s
  | .ballastSlot n a => Sys2Proof.Machine.execBallastSlot n a s
  | .ballastWindow n a => Sys2Proof.Machine.execBallastWindow n a s
  | .arraySubstitution n a t => Sys2Proof.Machine.execArraySubstitution n a t s
  | .storeScrub n a word ecc => Sys2Proof.Machine.execStoreScrub n a word ecc s
  | .quantWord n c f0 t => Sys2Proof.Machine.execQuantWord n c f0 t s
  | .quantReturn n c t => Sys2Proof.Machine.execQuantReturn n c t s
  | .sramPass n c f0 t => Sys2Proof.Machine.execSramPass n c f0 t s
  | .passComplete n c q t => Sys2Proof.Machine.execPassComplete n c q t s
  | .qsnapTake n c q => Sys2Proof.Machine.execQsnapTake n c q s
  | .qsnapTakeClear n c q => Sys2Proof.Machine.execQsnapTakeClear n c q s
  | .qdescWrite n c q w half v t => Sys2Proof.Machine.execQdescWrite n c q w half v t s
  | .jobStart id => Sys2Proof.Machine.execJobStart id s
  | .markerArrival u f t => Sys2Proof.Machine.execMarkerArrival u f t s
  | .unitRelease u t => Sys2Proof.Machine.execUnitRelease u t s
  | .drainLimit n => Sys2Proof.Machine.execDrainLimit n s
  | .epochHoldExpiry n => Sys2Proof.Machine.execEpochHoldExpiry n s
  | .oxInput n p f t => Sys2Proof.Machine.execOxInput n p f t s
  | .oxCycle n p => Sys2Proof.Machine.execOxCycle n p s
  | .blockLock n i1 => Sys2Proof.Machine.execBlockLock n i1 s
  | .lockLoss n i1 t => Sys2Proof.Machine.execLockLoss n i1 t s
  | .fieldLanded n i1 p t => Sys2Proof.Machine.execFieldLanded n i1 p t s
  | .frameVerdict n i1 t => Sys2Proof.Machine.execFrameVerdict n i1 t s
  | .replyStart n g => Sys2Proof.Machine.execReplyStart n g s
  | .cancelStart n i1 t => Sys2Proof.Machine.execCancelStart n i1 t s
  | .cancelDrop n i1 t => Sys2Proof.Machine.execCancelDrop n i1 t s
  | .linkFrame n i1 t => Sys2Proof.Machine.execLinkFrame n i1 t s
  | .linkSubstitute n i1 => Sys2Proof.Machine.execLinkSubstitute n i1 s
  | .goatStart n c g f t => Sys2Proof.Machine.execGoatStart n c g f t s
  | .lineIssue n c g d t => Sys2Proof.Machine.execLineIssue n c g d t s
  | .lineComplete n c g d k corrected bad t => Sys2Proof.Machine.execLineComplete n c g d k corrected bad t s
  | .writeAccepted n c g d k t => Sys2Proof.Machine.execWriteAccepted n c g d k t s
  | .bulkJobEnd t => Sys2Proof.Machine.execBulkJobEnd t s
  | .patrolScrub tier n a corrected bad => Sys2Proof.Machine.execPatrolScrub tier n a corrected bad s
  | .refresh tier n channel t => Sys2Proof.Machine.execRefresh tier n channel t s
  | .historyFrame n written t => Sys2Proof.Machine.execHistoryFrame n written t s
  | .histqWrite n v => Sys2Proof.Machine.execHistqWrite n v s
  | .pacerPhase n => Sys2Proof.Machine.execPacerPhase n s
  | .barrierTimeout b => Sys2Proof.Machine.execBarrierTimeout b s
  | .install n c g d t => Sys2Proof.Machine.execInstall n c g d t s
  | .checkpointQuiescent id t => Sys2Proof.Machine.execCheckpointQuiescent id t s
  | .freezeTime => Sys2Proof.Machine.execFreezeTime s
  | .thawTime => Sys2Proof.Machine.execThawTime s
  | .tincWrite v => Sys2Proof.Machine.execTincWrite v s
  | .tadjStep v => Sys2Proof.Machine.execTadjStep v s
  | .tsetCommit v => Sys2Proof.Machine.execTsetCommit v s
  | .timeSnap => Sys2Proof.Machine.execTimeSnap s
  | .tecfgWrite e v => Sys2Proof.Machine.execTecfgWrite e v s
  | .timeEventOccurrence e => Sys2Proof.Machine.execTimeEventOccurrence e s
  | .tioCapture p t => Sys2Proof.Machine.execTioCapture p t s
  | .tioTrigger p t => Sys2Proof.Machine.execTioTrigger p t s
  | .tiocapRead p => Sys2Proof.Machine.execTiocapRead p s
  | .txtsHiRead t1s n i1 => Sys2Proof.Machine.execTxtsHiRead t1s n i1 s
  | .sync f t => Sys2Proof.Machine.execSync f t s
  | .delayReq f t => Sys2Proof.Machine.execDelayReq f t s
  | .delayResp f t => Sys2Proof.Machine.execDelayResp f t s
  | .arm f t => Sys2Proof.Machine.execArm f t s
  | .fire f t => Sys2Proof.Machine.execFire f t s
  | .vote f t => Sys2Proof.Machine.execVote f t s
  | .retract f t => Sys2Proof.Machine.execRetract f t s
  | .arrive f t => Sys2Proof.Machine.execArrive f t s
  | .release f t => Sys2Proof.Machine.execRelease f t s
  | .ready f t => Sys2Proof.Machine.execReady f t s
  | .readyB f t => Sys2Proof.Machine.execReadyB f t s
  | .go f t => Sys2Proof.Machine.execGo f t s
  | .jobend f t => Sys2Proof.Machine.execJobend f t s
  | .status f t => Sys2Proof.Machine.execStatus f t s
  | .syncPeriod t => Sys2Proof.Machine.execSyncPeriod t s
  | .delayPeriod t => Sys2Proof.Machine.execDelayPeriod t s
  | .statusPeriod t => Sys2Proof.Machine.execStatusPeriod t s
  | .nodeMissing n t => Sys2Proof.Machine.execNodeMissing n t s
  | .varmWrite v => Sys2Proof.Machine.execVarmWrite v s
  | .armEffective => Sys2Proof.Machine.execArmEffective s
  | .triggerSend t => Sys2Proof.Machine.execTriggerSend t s
  | .act => Sys2Proof.Machine.execAct s
  | .voteEvaluation => Sys2Proof.Machine.execVoteEvaluation s
  | .vactRead => Sys2Proof.Machine.execVactRead s
  | .vnodeClear n => Sys2Proof.Machine.execVnodeClear n s
  | .ptpMessage m t => Sys2Proof.Machine.execPtpMessage m t s
  | .acqCommit => Sys2Proof.Machine.execAcqCommit s
  | .acqStop => Sys2Proof.Machine.execAcqStop s
  | .acqFrame => Sys2Proof.Machine.execAcqFrame s
  | .segmentCommit k => Sys2Proof.Machine.execSegmentCommit k s
  | .tailBlock d t => Sys2Proof.Machine.execTailBlock d t s
  | .datagramFlush d => Sys2Proof.Machine.execDatagramFlush d s
  | .laserFailure l t => Sys2Proof.Machine.execLaserFailure l t s
  | .glowwormFailure e t => Sys2Proof.Machine.execGlowwormFailure e t s
  | .cdrLockLoss e k t => Sys2Proof.Machine.execCdrLockLoss e k t s
  | .prbsLock e k t => Sys2Proof.Machine.execPrbsLock e k t s
  | .prbsLockLoss e k bits errs t => Sys2Proof.Machine.execPrbsLockLoss e k bits errs t s
  | .linjGo e k v => Sys2Proof.Machine.execLinjGo e k v s
  | .linjStop e k v => Sys2Proof.Machine.execLinjStop e k v s
  | .injection e k t => Sys2Proof.Machine.execInjection e k t s
  | .macReceive n i1 bytes err first t => Sys2Proof.Machine.execMacReceive n i1 bytes err first t s
  | .receiveRecord n i1 q t => Sys2Proof.Machine.execReceiveRecord n i1 q t s
  | .receiveRelease n i1 f t => Sys2Proof.Machine.execReceiveRelease n i1 f t s
  | .pauseRefresh n i1 t => Sys2Proof.Machine.execPauseRefresh n i1 t s
  | .pauseReceived n i1 plain quanta t => Sys2Proof.Machine.execPauseReceived n i1 plain quanta t s
  | .pauseExpiry n i1 q => Sys2Proof.Machine.execPauseExpiry n i1 q s
  | .transmitToken n i1 f t => Sys2Proof.Machine.execTransmitToken n i1 f t s
  | .frameSent n i1 first t => Sys2Proof.Machine.execFrameSent n i1 first t s
  | .t1sReceive bytes t => Sys2Proof.Machine.execT1sReceive bytes t s
  | .t1sCollision bits t => Sys2Proof.Machine.execT1sCollision bits t s
  | .t1sBackoff clear t => Sys2Proof.Machine.execT1sBackoff clear t s
  | .linkDown kind t => Sys2Proof.Machine.execLinkDown kind t s
  | .linkTrained width rate t => Sys2Proof.Machine.execLinkTrained width rate t s
  | .msixUnmask v => Sys2Proof.Machine.execMsixUnmask v s
  | .packetCommit w off ws t => Sys2Proof.Machine.execPacketCommit w off ws t s
  | .nonce w t => Sys2Proof.Machine.execNonce w t s
  | .openMaint w t => Sys2Proof.Machine.execOpenMaint w t s
  | .openOp w t => Sys2Proof.Machine.execOpenOp w t s
  | .close w t => Sys2Proof.Machine.execClose w t s
  | .caps w t => Sys2Proof.Machine.execCaps w t s
  | .lattab w t => Sys2Proof.Machine.execLattab w t s
  | .attest w t => Sys2Proof.Machine.execAttest w t s
  | .load id mem t => Sys2Proof.Machine.execLoad id mem t s
  | .update id mem t => Sys2Proof.Machine.execUpdate id mem t s
  | .stop id t => Sys2Proof.Machine.execStop id t s
  | .resume id mem ck t => Sys2Proof.Machine.execResume id mem ck t s
  | .checkpoint id t => Sys2Proof.Machine.execCheckpoint id t s
  | .freeze id t => Sys2Proof.Machine.execFreeze id t s
  | .thaw id mem t => Sys2Proof.Machine.execThaw id mem t s
  | .strict w t => Sys2Proof.Machine.execStrict w t s
  | .jobctl w t => Sys2Proof.Machine.execJobctl w t s
  | .inputs w t => Sys2Proof.Machine.execInputs w t s
  | .prov w t => Sys2Proof.Machine.execProv w t s
  | .t1sSend w t => Sys2Proof.Machine.execT1sSend w t s
  | .t1sRecv w t => Sys2Proof.Machine.execT1sRecv w t s
  | .keyEnroll w t => Sys2Proof.Machine.execKeyEnroll w t s
  | .keyRevoke w t => Sys2Proof.Machine.execKeyRevoke w t s
  | .password w t => Sys2Proof.Machine.execPassword w t s
  | .policy w t => Sys2Proof.Machine.execPolicy w t s
  | .fwUpdate id mem t => Sys2Proof.Machine.execFwUpdate id mem t s
  | .commandComplete id t => Sys2Proof.Machine.execCommandComplete id t s
  | .commandTimeout id => Sys2Proof.Machine.execCommandTimeout id s
  | .sessionIdle id => Sys2Proof.Machine.execSessionIdle id s
  | .lockoutExpiry => Sys2Proof.Machine.execLockoutExpiry s
  | .nonceExpiry w => Sys2Proof.Machine.execNonceExpiry w s
  | .pendingSet src t => Sys2Proof.Machine.execPendingSet src t s
  | .ipendWrite g v => Sys2Proof.Machine.execIpendWrite g v s
  | .targetSignal t u => Sys2Proof.Machine.execTargetSignal t u s
  | .holdoffExpiry g => Sys2Proof.Machine.execHoldoffExpiry g s
  | .iclaimRead t => Sys2Proof.Machine.execIclaimRead t s
  | .icompleteWrite t v => Sys2Proof.Machine.execIcompleteWrite t v s
  | .suppressed code t => Sys2Proof.Machine.execSuppressed code t s
  | .olmselWrite v => Sys2Proof.Machine.execOlmselWrite v s
  | .powerSample volts amps t => Sys2Proof.Machine.execPowerSample volts amps t s
  | .converterOverload t => Sys2Proof.Machine.execConverterOverload t s
  | .slopeInterval tj => Sys2Proof.Machine.execSlopeInterval tj s
  | .droop n t => Sys2Proof.Machine.execDroop n t s
  | .droopClear n t => Sys2Proof.Machine.execDroopClear n t s
  | .droopLong n t => Sys2Proof.Machine.execDroopLong n t s
  | .droopSettled n t => Sys2Proof.Machine.execDroopSettled n t s
  | .alert rack t => Sys2Proof.Machine.execAlert rack t s
  | .alertRecovery t => Sys2Proof.Machine.execAlertRecovery t s
  | .thermalAlert n tj t => Sys2Proof.Machine.execThermalAlert n tj t s
  | .thermalShutdown n tj t => Sys2Proof.Machine.execThermalShutdown n tj t s
  | .inputOutOfRange t => Sys2Proof.Machine.execInputOutOfRange t s
  | .undervoltageTrip t => Sys2Proof.Machine.execUndervoltageTrip t s
  | .overvoltageShutdown t => Sys2Proof.Machine.execOvervoltageShutdown t s
  | .dieFailed n t => Sys2Proof.Machine.execDieFailed n t s
  | .unitLost u t => Sys2Proof.Machine.execUnitLost u t s
  | .oscillatorFailure t => Sys2Proof.Machine.execOscillatorFailure t s
  | .lockstepMismatch h0 h1 t => Sys2Proof.Machine.execLockstepMismatch h0 h1 t s
  | .hubFailover gap t => Sys2Proof.Machine.execHubFailover gap t s
  | .fltrepHiRead => Sys2Proof.Machine.execFltrepHiRead s
  | .inputPresent straps osc hub t => Sys2Proof.Machine.execInputPresent straps osc hub t s
  | .firmwareStage ok0 ok1 link t => Sys2Proof.Machine.execFirmwareStage ok0 ok1 link t s
  | .railsStage t => Sys2Proof.Machine.execRailsStage t s
  | .memoryStage bad t => Sys2Proof.Machine.execMemoryStage bad t s
  | .lasersStage a b t => Sys2Proof.Machine.execLasersStage a b t s
  | .lanesStage lanes locks t => Sys2Proof.Machine.execLanesStage lanes locks t s
  | .selfTestStage bad lost t => Sys2Proof.Machine.execSelfTestStage bad lost t s
  | .hostStage link t => Sys2Proof.Machine.execHostStage link t s
  | .modReady t => Sys2Proof.Machine.execModReady t s
  | .resetN t => Sys2Proof.Machine.execResetN t s
  | .resetRelease straps osc hub held t => Sys2Proof.Machine.execResetRelease straps osc hub held t s
  | .perstN low t => Sys2Proof.Machine.execPerstN low t s
  | .trstN => Sys2Proof.Machine.execTrstN s
  | .extest pins scan => Sys2Proof.Machine.execExtest pins scan s
  | .samplePreload pins scan => Sys2Proof.Machine.execSamplePreload pins scan s
  | .clamp scan => Sys2Proof.Machine.execClamp scan s
  | .highz scan => Sys2Proof.Machine.execHighz scan s
  | .bypass code scan => Sys2Proof.Machine.execBypass code scan s
  | .tpselWrite p half v t => Sys2Proof.Machine.execTpselWrite p half v t s
  | .rcRead a bytes t => Sys2Proof.Machine.execRcRead a bytes t s
  | .requestAreaWrite w off ws t => Sys2Proof.Machine.execRequestAreaWrite w off ws t s
  | .switchTime n => Sys2Proof.Machine.execSwitchTime n s
  | .checkpointDrainLimit id => Sys2Proof.Machine.execCheckpointDrainLimit id s
  | .barrierRelease b => Sys2Proof.Machine.execBarrierRelease b s
  | .alertDeassert rack die t => Sys2Proof.Machine.execAlertDeassert rack die t s
  | .inputWithinRange straps osc hub t => Sys2Proof.Machine.execInputWithinRange straps osc hub t s
  | .cdrLock e k best oma t => Sys2Proof.Machine.execCdrLock e k best oma t s
  | .servoUnlock t => Sys2Proof.Machine.execServoUnlock t s
  | .ptpTimer kind t => Sys2Proof.Machine.execPtpTimer kind t s
  | .badRingFrame t => Sys2Proof.Machine.execBadRingFrame t s
  | .unknownFrameType f t => Sys2Proof.Machine.execUnknownFrameType f t s
  | .interframeGapEnd n i1 => Sys2Proof.Machine.execInterframeGapEnd n i1 s
  | .dramHot n b hot => Sys2Proof.Machine.execDramHot n b hot s
  | .railPhaseFailure n t => Sys2Proof.Machine.execRailPhaseFailure n t s
  | .pulseEnd p => Sys2Proof.Machine.execPulseEnd p s

end Sys2Proof.Machine
end

