-- ==== Sys2Proof/Safety.lean ====
section
/-!
DEFINITION. What counts as a safe state and a safe run, in the terms the claims use.
-/
namespace Sys2Proof.Machine

/-- The tables of a compute die's tier 1 lie in order, none of them empty, each in the canonical form of a memory. -/
def State.tier1Wf (s : State) : Bool := Sparse.wf [] s.dram && s.dram.all (fun p => Memory.wf p.2)

/-- The register file and both tiers of memory are in canonical form: equal contents are equal data. -/
def State.memWf (s : State) : Bool := Sparse.sorted s.regs && Memory.wf s.tier2 && s.tier1Wf

/-- A step neither faults nor refuses. -/
def State.safe (s : State) : Prop := ∃ t, step s = .next t

/-- Every one of the next `k` steps is safe. -/
def State.safeFor (s : State) : Nat → Prop
  | 0 => True
  | k + 1 => ∃ t, step s = .next t ∧ t.safeFor k

end Sys2Proof.Machine
end

