-- ==== Sys2Proof/Certificates/Slice0/Obligations.lean ====
section
/-!
DEFINITION. What is claimed of the model: the statements handed to the provers, and the words they are said in (`Sys2Proof.Claims`).
A statement of several parts names its parts, each a definition of its own. Where a part says that a command whose condition does not hold
changes nothing, that is the model's convention for an event that cannot happen then (log 9), no rule of the manual.
-/
open Sys2Proof Sys2Proof.Machine

namespace Sys2Proof.Claims

/-! ### What a hen's issue leaves alone -/

/-- All but hens and registers stands; of hen `x.hen` only context `x.ctx` may differ; of the registers only those at the addresses given. -/
def HenFrame (s t : State) (x : CtxRef) (addrs : List Nat) : Prop :=
  t = { s with hens := t.hens, regs := t.regs }
  ∧ t.hen x.hen = { s.hen x.hen with ctxs := (t.hen x.hen).ctxs }
  ∧ (∀ j, j ≠ x.ctx → Sparse.find (t.hen x.hen).ctxs j = Sparse.find (s.hen x.hen).ctxs j)
  ∧ (∀ g, henKey g ≠ henKey x.hen → t.hen g = s.hen g)
  ∧ (∀ a d, a ∉ addrs → Sparse.get d t.regs a = Sparse.get d s.regs a)

/-- Addresses of the issue counter and of the status word of a hen. -/
def issueRegs (x : CtxRef) : List Nat :=
  [HCNT_ISSUE.addr [x.hen.die, x.hen.clu, x.hen.hen], HSTAT.addr [x.hen.die, x.hen.clu, x.hen.hen]]

/-- Context `x` is ready, holds `c`, and its next word is a legal one that `want` accepts, not the last of the memory; its cluster may
issue (R63, R68, R230). -/
def Issues (s : State) (x : CtxRef) (c : Ctx) (want : W32 → Bool) : Prop :=
  s.readyCtx x = some c ∧ (s.hen x.hen).runnable c.pc = true ∧ want ((s.hen x.hen).word c.pc) = true ∧ s.mayIssue x.hen = true ∧ c.pc ≠ 1023

/-- The command completes: the context becomes `after`, its issue is counted (R80), and the frame holds. -/
def IssuesTo (cmd : Instr) (x : CtxRef) (s : State) (after : Ctx) : Prop :=
  ∃ t, exec cmd s = .next t ∧ Sparse.find (t.hen x.hen).ctxs x.ctx = some after ∧ HenFrame s t x (issueRegs x)
    ∧ (Sparse.sorted s.regs = true →
        t.rd HCNT_ISSUE.issued [x.hen.die, x.hen.clu, x.hen.hen] = (s.rd HCNT_ISSUE.issued [x.hen.die, x.hen.clu, x.hen.hen] + 1) % 2 ^ 64)

/-- The command writes a value that is `good` to rd, and the context goes on at the next word. -/
def WritesRd (cmd : CtxRef → Instr) (want : W32 → Bool) (good : Hen → Ctx → W32 → W64 → Prop) : Prop :=
  ∀ (x : CtxRef) (s : State) (c : Ctx), Issues s x c want →
    ∃ v, good (s.hen x.hen) c ((s.hen x.hen).word c.pc) v
      ∧ IssuesTo (cmd x) x s { c.setReg (iRd ((s.hen x.hen).word c.pc)) v with pc := c.pc + 1, wait := .ready }

/-- Lane by lane of the word's type: lane `j` of the value is `f` of the lane width and of lane `j` of ra and of rb (R67). -/
def LaneWise2 (f : Nat → Nat → Nat → Nat) (h : Hen) (c : Ctx) (w : W32) (v : W64) : Prop :=
  ∀ j, j < 64 / laneBits (iType w) →
    lane (laneBits (iType w)) j v.toNat
      = f (laneBits (iType w)) (lane (laneBits (iType w)) j (h.reg c (iRa w)).toNat) (lane (laneBits (iType w)) j (h.reg c (iRb w)).toNat)

/-- The same for an operation on ra alone. -/
def LaneWise1 (f : Nat → Nat → Nat) (h : Hen) (c : Ctx) (w : W32) (v : W64) : Prop :=
  ∀ j, j < 64 / laneBits (iType w) →
    lane (laneBits (iType w)) j v.toNat = f (laneBits (iType w)) (lane (laneBits (iType w)) j (h.reg c (iRa w)).toNat)

/-- A signed number of `b` bits held between the least and the greatest, as a code. -/
def saturated (b : Nat) (z : Int) : Nat := ((max (-(2 ^ (b - 1))) (min (2 ^ (b - 1) - 1) z)) % 2 ^ b : Int).toNat

/-- The code of `b` bits of a signed number, modulo 2^b. -/
def wrapped (b : Nat) (z : Int) : Nat := (z % 2 ^ b : Int).toNat

/-- The two-operand lane operations of the ALU: command, func, and what a lane becomes (R68, R69). -/
def laneRows2 : List ((CtxRef → Instr) × Nat × (Nat → Nat → Nat → Nat)) := [
  (.henAdd, 0x00, fun b x y => (x + y) % 2 ^ b),
  (.henSub, 0x01, fun b x y => wrapped b ((x : Int) - y)),
  (.henAdds, 0x02, fun b x y => saturated b (intOf b x + intOf b y)),
  (.henSubs, 0x03, fun b x y => saturated b (intOf b x - intOf b y)),
  (.henAddus, 0x04, fun b x y => min (x + y) (2 ^ b - 1)),
  (.henSubus, 0x05, fun _ x y => x - y),
  (.henShl, 0x10, fun b x y => x * 2 ^ (y % b) % 2 ^ b),
  (.henShr, 0x11, fun b x y => x / 2 ^ (y % b)),
  (.henSar, 0x12, fun b x y => wrapped b (intOf b x / 2 ^ (y % b))),
  (.henRol, 0x13, fun b x y => x * 2 ^ (y % b) % 2 ^ b + x / 2 ^ (b - y % b)),
  (.henMin, 0x18, fun b x y => if intOf b x ≤ intOf b y then x else y),
  (.henMax, 0x19, fun b x y => if intOf b x ≤ intOf b y then y else x),
  (.henMinu, 0x1A, fun _ x y => min x y),
  (.henMaxu, 0x1B, fun _ x y => max x y),
  (.henCeq, 0x20, fun b x y => if x = y then 2 ^ b - 1 else 0),
  (.henClt, 0x21, fun b x y => if intOf b x < intOf b y then 2 ^ b - 1 else 0),
  (.henCltu, 0x22, fun b x y => if x < y then 2 ^ b - 1 else 0),
  (.henMul, 0x30, fun b x y => x * y % 2 ^ b),
  (.henMulh, 0x31, fun b x y => wrapped b (intOf b x * intOf b y / 2 ^ b)),
  (.henMulhu, 0x32, fun b x y => x * y / 2 ^ b),
  (.henDiv, 0x38, fun b x y => if intOf b y = 0 then 0 else wrapped b ((intOf b x).tdiv (intOf b y))),
  (.henDivu, 0x39, fun _ x y => if y = 0 then 0 else x / y),
  (.henRem, 0x3A, fun b x y => if intOf b y = 0 then x else wrapped b ((intOf b x).tmod (intOf b y))),
  (.henRemu, 0x3B, fun _ x y => if y = 0 then x else x % y)]

/-- The one-operand lane operations of the ALU (R68). -/
def laneRows1 : List ((CtxRef → Instr) × Nat × (Nat → Nat → Nat)) := [
  (.henPopc, 0x28, fun b x => ((List.range b).filter (fun i => bitOf x i)).length),
  (.henClz, 0x29, fun b x => b - ((List.range b).filter (fun i => decide (2 ^ i ≤ x))).length),
  (.henCtz, 0x2A, fun b x => ((List.range b).filter (fun i => decide (x % 2 ^ (i + 1) = 0))).length)]

/-- The operations on whole registers ra and rb (R68). -/
def bitRows : List ((CtxRef → Instr) × Nat × (W64 → W64 → W64)) := [
  (.henAnd, 0x08, fun a b => a &&& b),
  (.henOr, 0x09, fun a b => a ||| b),
  (.henXor, 0x0A, fun a b => a ^^^ b),
  (.henAndn, 0x0B, fun a b => a &&& ~~~b)]

/-- The operations on ra and the 16-bit immediate (R68). -/
def immRows : List ((CtxRef → Instr) × Nat × (W64 → Nat → W64)) := [
  (.henAddi, 0x02, fun a i => a + (BitVec.ofNat 16 i).signExtend 64),
  (.henAndi, 0x03, fun a i => a &&& BitVec.ofNat 64 i),
  (.henOri, 0x04, fun a i => a ||| BitVec.ofNat 64 i),
  (.henXori, 0x05, fun a i => a ^^^ BitVec.ofNat 64 i),
  (.henBfx, 0x09, fun a i => BitVec.ofNat 64 (bitsOf a.toNat (i % 64) (i / 64 + 1))),
  (.henShli, 0x0D, fun a i => a <<< i),
  (.henShri, 0x0E, fun a i => a >>> i),
  (.henSari, 0x0F, fun a i => a.sshiftRight i)]

end Sys2Proof.Claims
open Sys2Proof.Claims

/-- R67 to R69: the lane operations of the ALU on two operands. -/
def Sys2Proof.Claims.HenLaneOperationsWriteEachLane : Prop :=
  (∀ p ∈ laneRows2, WritesRd p.1 (isAlu p.2.1) (LaneWise2 p.2.2)) ∧ (∀ p ∈ laneRows1, WritesRd p.1 (isAlu p.2.1) (LaneWise1 p.2.2))

/-- R68, R69: the operations on whole registers and immediates, the products of `dot`, the moves and the field operations. -/
def Sys2Proof.Claims.HenWordOperationsWriteRd : Prop :=
  (∀ p ∈ bitRows, WritesRd p.1 (isAlu p.2.1) (fun h c w v => v = p.2.2 (h.reg c (iRa w)) (h.reg c (iRb w))))
  ∧ (∀ p ∈ immRows, WritesRd p.1 (isOp p.2.1) (fun h c w v => v = p.2.2 (h.reg c (iRa w)) (iImm w)))
  ∧ WritesRd .henDot (isAlu 0x33) (fun h c w v =>
      v = BitVec.ofInt 64 (((List.range (64 / laneBits (iType w))).map (fun j =>
        intOf (laneBits (iType w)) (lane (laneBits (iType w)) j (h.reg c (iRa w)).toNat)
          * intOf (laneBits (iType w)) (lane (laneBits (iType w)) j (h.reg c (iRb w)).toNat))).sum))
  ∧ WritesRd .henMovz (isOp 0x06) (fun _ _ w v => v = BitVec.ofNat 64 (iImm w) <<< (16 * iRa w))
  ∧ WritesRd .henMovk (isOp 0x07) (fun h c w v =>
      ∀ i, i < 4 → bitsOf v.toNat (16 * i) 16 = if i = iRa w then iImm w else bitsOf (h.reg c (iRd w)).toNat (16 * i) 16)
  ∧ WritesRd .henSel (isOp 0x08) (fun h c w v =>
      ∀ j, j < 64 / laneBits (iType w) → lane (laneBits (iType w)) j v.toNat
        = if lane (laneBits (iType w)) j (h.reg c (iRd w)).toNat ≠ 0 then lane (laneBits (iType w)) j (h.reg c (iRa w)).toNat
          else lane (laneBits (iType w)) j (h.reg c (iRb w)).toNat)
  ∧ WritesRd .henBfi (isOp 0x0A) (fun h c w v =>
      ∀ i, i < 64 → bitOf v.toNat i
        = if iImm w % 64 ≤ i ∧ i ≤ iImm w % 64 + iImm w / 64 then bitOf (h.reg c (iRa w)).toNat (i - iImm w % 64)
          else bitOf (h.reg c (iRd w)).toNat i)

namespace Sys2Proof.Claims

/-- The floating operations on two operands: command, func, operation on the codes of a format (R70). -/
def floatRows2 : List ((CtxRef → Instr) × Nat × (FFmt → Nat → Nat → Nat)) := [
  (.henFadd, 0x00, FFmt.add), (.henFsub, 0x01, FFmt.sub), (.henFmul, 0x02, FFmt.mul), (.henFmin, 0x03, FFmt.minNum),
  (.henFmax, 0x04, FFmt.maxNum), (.henFdiv, 0x10, FFmt.div)]

/-- The floating comparisons (R68). -/
def floatCmps : List ((CtxRef → Instr) × Nat × (FFmt → Nat → Nat → Bool)) := [
  (.henFceq, 0x08, FFmt.ceq), (.henFclt, 0x09, FFmt.clt), (.henFcle, 0x0A, FFmt.cle)]

/-- The branches: command, opcode, and when the branch is taken (R68). -/
def branchRows : List ((CtxRef → Instr) × Nat × (W64 → W64 → Bool)) := [
  (.henBr, 0x30, fun _ _ => true),
  (.henBz, 0x31, fun a _ => decide (a.toNat = 0)),
  (.henBnz, 0x32, fun a _ => decide (a.toNat ≠ 0)),
  (.henBlt, 0x33, fun a b => decide (a.toInt < b.toInt)),
  (.henBge, 0x34, fun a b => decide (b.toInt ≤ a.toInt)),
  (.henBltu, 0x35, fun a b => decide (a.toNat < b.toNat)),
  (.henBgeu, 0x36, fun a b => decide (b.toNat ≤ a.toNat)),
  (.henBeq, 0x37, fun a b => decide (a.toNat = b.toNat)),
  (.henBne, 0x38, fun a b => decide (a.toNat ≠ b.toNat))]

/-- The loads: command, opcode, bytes (R68, R72). -/
def loadRows : List ((CtxRef → Instr) × Nat × Nat) :=
  [(.henLd64, 0x18, 8), (.henLd32, 0x19, 4), (.henLd16, 0x1A, 2), (.henLd8, 0x1B, 1)]

/-- The stores. -/
def storeRows : List ((CtxRef → Instr) × Nat × Nat) :=
  [(.henSt64, 0x1C, 8), (.henSt32, 0x1D, 4), (.henSt16, 0x1E, 2), (.henSt8, 0x1F, 1)]

/-- The state with one more issue counted for the hen of `x` (R80). -/
def counted (s : State) (x : CtxRef) : State := s.addWrap HCNT_ISSUE.issued [x.hen.die, x.hen.clu, x.hen.hen] 1

/-- The access goes to the end of its cluster's bank queue, and the context waits for it; all else but the issue count stands. -/
def WaitsAtBank (cmd : Instr) (x : CtxRef) (s : State) (c : Ctx) (a : Nat) (op : AccOp) : Prop :=
  ∃ t, exec cmd s = .next t
    ∧ t = { s with hens := t.hens, regs := t.regs, clus := t.clus }
    ∧ HenFrame s { t with clus := s.clus } x (issueRegs x)
    ∧ Sparse.find (t.hen x.hen).ctxs x.ctx = some { c with wait := .mem }
    ∧ t.clu x.hen.die x.hen.clu = { s.clu x.hen.die x.hen.clu with
        bankQ := (s.clu x.hen.die x.hen.clu).bankQ ++ [{ who := .ctx x, addr := a, op := op, arrived := s.now }] }
    ∧ ∀ n k, cluKey n k ≠ cluKey x.hen.die x.hen.clu → t.clu n k = s.clu n k

end Sys2Proof.Claims

/-- R68, R70, R71: floating lanes, sign operations, comparisons, `FMA` and `CVT`. -/
def Sys2Proof.Claims.HenFloatOperationsWriteRd : Prop :=
  (∀ p ∈ floatRows2, WritesRd p.1 (isFpu p.2.1) (fun h c w v => ∀ j, j < 64 / laneBits (iType w) →
    lane (laneBits (iType w)) j v.toNat = p.2.2 (laneFmt (iType w)) (lane (laneBits (iType w)) j (h.reg c (iRa w)).toNat)
      (lane (laneBits (iType w)) j (h.reg c (iRb w)).toNat)))
  ∧ (∀ p ∈ floatCmps, WritesRd p.1 (isFpu p.2.1) (fun h c w v => ∀ j, j < 64 / laneBits (iType w) →
    lane (laneBits (iType w)) j v.toNat
      = if p.2.2 (laneFmt (iType w)) (lane (laneBits (iType w)) j (h.reg c (iRa w)).toNat)
          (lane (laneBits (iType w)) j (h.reg c (iRb w)).toNat) = true then 2 ^ laneBits (iType w) - 1 else 0))
  ∧ WritesRd .henFabs (isFpu 0x05) (LaneWise1 (fun b x => x % 2 ^ (b - 1)))
  ∧ WritesRd .henFneg (isFpu 0x06) (LaneWise1 (fun b x => (x + 2 ^ (b - 1)) % 2 ^ b))
  ∧ WritesRd .henFsqrt (isFpu 0x11) (fun h c w v => ∀ j, j < 2 →
    lane 32 j v.toNat = fp32.sqrt (lane 32 j (h.reg c (iRa w)).toNat))
  ∧ WritesRd .henFma (isOp 0x11) (fun h c w v => ∀ j, j < 64 / laneBits (iType w) →
    lane (laneBits (iType w)) j v.toNat = (laneFmt (iType w)).fma (lane (laneBits (iType w)) j (h.reg c (iRd w)).toNat)
      (lane (laneBits (iType w)) j (h.reg c (iRa w)).toNat) (lane (laneBits (iType w)) j (h.reg c (iRb w)).toNat))
  ∧ WritesRd .henCvt (isOp 0x12) (fun h c w v => ∀ a b, eFmt (iFunc w / 16) = some a → eFmt (iFunc w % 16) = some b →
    (∀ i, i < min (64 / a.lane) (64 / b.lane) → bitsOf v.toNat (i * b.lane) b.lane
      = (b.convert false .rne (a.decode (bitsOf (h.reg c (iRa w)).toNat (i * a.lane) a.lane))).1)
    ∧ v.toNat < 2 ^ (min (64 / a.lane) (64 / b.lane) * b.lane))

/-- R70, R134: rounding a value that a format of the hen holds gives that value's own code. -/
def Sys2Proof.Claims.RoundingKeepsRepresentableValues : Prop :=
  ∀ f ∈ [fp32, bf16, fp16], ∀ code, code < 2 ^ f.width → ∀ neg m e, f.decode code = .fin neg m e → f.rnd (exactOf neg m e) = code

/-- R68, R78: `MFS` reads the ten special values, `SETST` joins bits into the status. -/
def Sys2Proof.Claims.HenSpecialValuesAndStatus : Prop :=
  (∀ (x : CtxRef) (s : State) (c : Ctx), Issues s x c (isOp 0x0B) →
    IssuesTo (.henMfs x) x s { c.setReg (iRd ((s.hen x.hen).word c.pc))
      (BitVec.ofNat 64 ([c.tag.toNat, c.beat.toNat, c.copy, c.status.toNat, c.epoch, c.entry,
        s.rd HSTAT.logical [x.hen.die, x.hen.clu, x.hen.hen], s.rd CLUSTAT.logical [x.hen.die, x.hen.clu],
        (s.die x.hen.die).logical - 1, c.twait.toNat].getD (iImm ((s.hen x.hen).word c.pc)) 0)) with pc := c.pc + 1, wait := .ready })
  ∧ (∀ (x : CtxRef) (s : State) (c : Ctx), Issues s x c (isOp 0x0C) →
    IssuesTo (.henSetst x) x s { c with
      status := c.status ||| BitVec.ofNat 4 (iImm ((s.hen x.hen).word c.pc)), pc := c.pc + 1, wait := .ready })

/-- R68, R74: where a branch goes; one taken out of the code words takes the illegal path. -/
def Sys2Proof.Claims.HenBranchesGoToTarget : Prop :=
  ∀ p ∈ branchRows, ∀ (x : CtxRef) (s : State) (c : Ctx), Issues s x c (isOp p.2.1) →
    ∀ h w, h = s.hen x.hen → w = h.word c.pc →
      (p.2.2 (h.reg c (iRd w)) (h.reg c (iRa w)) = false →
        IssuesTo (p.1 x) x s { c with pc := c.pc + 1, wait := .ready })
      ∧ (p.2.2 (h.reg c (iRd w)) (h.reg c (iRa w)) = true → ∀ t : Nat, (t : Int) = c.pc + intOf 16 (iImm w) → 48 ≤ t → t ≤ 1023 →
        IssuesTo (p.1 x) x s { c with pc := t, wait := .ready })
      ∧ (p.2.2 (h.reg c (iRd w)) (h.reg c (iRa w)) = true →
          (((c.pc : Int) + intOf 16 (iImm w) < 48 ∨ 1023 < (c.pc : Int) + intOf 16 (iImm w))) →
        exec (p.1 x) s = .next ((counted s x).illegalPath x c.pc))

/-- R72, R74, R86: loads and stores wait at their bank, and a misaligned or distant address takes the fault path. -/
def Sys2Proof.Claims.HenMemoryOperationsWaitAtBank : Prop :=
  (∀ p ∈ loadRows, ∀ (x : CtxRef) (s : State) (c : Ctx), Issues s x c (isOp p.2.1) →
    ∀ h w a, h = s.hen x.hen → w = h.word c.pc → a = (h.reg c (iRa w) + (BitVec.ofNat 16 (iImm w)).signExtend 64).toNat →
      (a % p.2.2 = 0 → a < 4194304 → WaitsAtBank (p.1 x) x s c a (.load p.2.2 (iRd w)))
      ∧ (a % p.2.2 ≠ 0 ∨ 4194304 ≤ a → exec (p.1 x) s = .next ((counted s x).faultPath x c (some (iRd w)))))
  ∧ (∀ p ∈ storeRows, ∀ (x : CtxRef) (s : State) (c : Ctx), Issues s x c (isOp p.2.1) →
    ∀ h w a, h = s.hen x.hen → w = h.word c.pc → a = (h.reg c (iRa w) + (BitVec.ofNat 16 (iImm w)).signExtend 64).toNat →
      (a % p.2.2 = 0 → a < 4194304 → WaitsAtBank (p.1 x) x s c a (.store p.2.2 (h.reg c (iRd w))))
      ∧ (a % p.2.2 ≠ 0 ∨ 4194304 ≤ a → exec (p.1 x) s = .next ((counted s x).faultPath x c none)))

/-- R74: the fault path writes 0, joins FAULT, counts, and goes on; the event is noted. -/
def Sys2Proof.Claims.HenFaultPathContinues : Prop :=
  ∀ (s : State) (x : CtxRef) (c : Ctx) (r : Option Nat), c.pc ≠ 1023 → Sparse.sorted s.regs = true →
    ∃ t, s.faultPath x c r = t
      ∧ t = { s with hens := t.hens, regs := t.regs, flt := t.flt }
      ∧ Sparse.find (t.hen x.hen).ctxs x.ctx
          = some { (match r with | some d => c.setReg d 0 | none => c) with
              status := c.status ||| stFault, pc := c.pc + 1, wait := .ready }
      ∧ t.rd HCNT_FAULT.access [x.hen.die, x.hen.clu, x.hen.hen]
          = min (s.rd HCNT_FAULT.access [x.hen.die, x.hen.clu, x.hen.hen] + 1) (2 ^ 16 - 1)
      ∧ t.rd HSTAT.fault_seen [x.hen.die, x.hen.clu, x.hen.hen] = 1
      ∧ t.flt = { s.flt with notes := s.flt.notes ++
          [{ cls := 5, die := x.hen.die, unit := 65 * x.hen.clu + x.hen.hen, cause := 1, bulk := !s.cluPrompt x.hen.die x.hen.clu }] }
      ∧ ∀ a d, a ∉ [HCNT_FAULT.addr [x.hen.die, x.hen.clu, x.hen.hen], HSTAT.addr [x.hen.die, x.hen.clu, x.hen.hen]] →
          Sparse.get d t.regs a = Sparse.get d s.regs a

namespace Sys2Proof.Claims

/-- The token a `SEND` of word `w` makes (R73): data of rd, the route's address and index, the operand, and the tag from ra or from the
context's tag and the signed step. -/
def sendToken (s : State) (x : CtxRef) (c : Ctx) (w : W32) : Token :=
  { data := (s.hen x.hen).reg c (iRd w)
    addr := BitVec.ofNat 28 (((s.hen x.hen).word (32 + iRoute w)).toNat / 16)
    index := ((s.hen x.hen).word (32 + iRoute w)).toNat % 16
    operand := iK w
    tag := if iTsrc w = 1 then ((s.hen x.hen).reg c (iRa w)).setWidth 16 else c.tag + (BitVec.ofNat 8 (iDelta w)).signExtend 16
    prompt := s.cluPrompt x.hen.die x.hen.clu
    epoch := c.epoch
    status := if (s.clu x.hen.die x.hen.clu).substituted && s.flag CLUCFG.state_subst [x.hen.die, x.hen.clu] then c.status ||| stSubst
              else c.status
    beat := c.beat
    copy := c.copy }

/-- The state after the first entry of queue `q` went to rd of the context (R75, R76). -/
def tookEntry (s : State) (x : CtxRef) (c : Ctx) (q d : Nat) (last : Bool) (v : W64) (r : List W64) : State :=
  (s.putGoat x.hen.die x.hen.clu (q / 8) ((s.goat x.hen.die x.hen.clu (q / 8)).setQueue (q % 8)
      { (s.goat x.hen.die x.hen.clu (q / 8)).queue (q % 8) with entries := r })).putCtx x
    { c with
      regs := Sparse.set 0 c.regs d v
      cleared := Sparse.set 0 c.cleared q (Sparse.get 0 c.cleared q - 1)
      passed := if last && !c.passed.contains q then c.passed ++ [q] else c.passed
      pc := c.pc + 1, wait := .ready }

/-- The state after `v` went to the end of queue `q` (R75, R76, R220). -/
def putEntry (s : State) (x : CtxRef) (c : Ctx) (q : Nat) (v : W64) (last : Bool) : State :=
  (s.queueAppend x.hen.die x.hen.clu q v).putCtx x
    { c with passed := if last && !c.passed.contains q then c.passed ++ [q] else c.passed, pc := c.pc + 1, wait := .ready }

/-- The tables of a hen are in order of their keys. -/
def HenSorted (h : Hen) : Prop := Sparse.sorted h.ctxs = true ∧ Sparse.sorted h.base = true ∧ Sparse.sorted h.done = true

/-- Context `x` has retired (R62): it is free, its tag is stale for its entry, and of the module only the hens, their cluster's
steering, the tokens and credits steering let go, and registers may differ; other hens and the hen's other contexts stand. -/
def Retired (s t : State) (x : CtxRef) (c : Ctx) : Prop :=
  Sparse.find (t.hen x.hen).ctxs x.ctx = none
  ∧ (t.hen x.hen).classify c.entry c.tag = .stale
  ∧ (∀ j, j ≠ x.ctx → Sparse.find (t.hen x.hen).ctxs j = Sparse.find (s.hen x.hen).ctxs j)
  ∧ (∀ g, henKey g ≠ henKey x.hen → t.hen g = s.hen g)
  ∧ (∀ n k, cluKey n k ≠ cluKey x.hen.die x.hen.clu → t.clu n k = s.clu n k)
  ∧ (∃ fs, t.inFlight = s.inFlight ++ fs) ∧ ∃ es, t.creditsDue = s.creditsDue ++ es

/-- What R62 asks of a context that retires: it is bound, its tag lies in its entry's window, and its hen has no switch to complete. -/
def CanRetire (s : State) (x : CtxRef) (c : Ctx) : Prop :=
  Sparse.find (s.hen x.hen).ctxs x.ctx = some c ∧ (s.hen x.hen).classify c.entry c.tag = .inWindow
  ∧ (s.hen x.hen).window c.entry ≤ 32 ∧ s.marksIn (.hen x.hen) = none ∧ HenSorted (s.hen x.hen)

/-- A context that waits at a bank for access `a`, the first of its own, nothing that arrived earlier waiting on the same banks; `rest`
is the queue without it. -/
def AtBank (s : State) (x : CtxRef) (c : Ctx) (a : Access) (rest : List Access) : Prop :=
  Sparse.find (s.hen x.hen).ctxs x.ctx = some c
  ∧ takeAccess (.ctx x) (s.clu x.hen.die x.hen.clu).bankQ = some (a, rest)
  ∧ (∀ b ∈ rest, b.meets a = true → a.arrived ≤ b.arrived) ∧ c.pc ≠ 1023 ∧ Sparse.sorted s.clus = true

/-- The cluster's bank served: the queue shortened, the waiting accesses of the same banks counted (R86). -/
def served (s : State) (x : CtxRef) (t : Nat) (a : Access) (rest : List Access) (sram : Sparse W64) : State :=
  let u := s.upTo t
  (u.setClu x.hen.die x.hen.clu { u.clu x.hen.die x.hen.clu with bankQ := rest, sram := sram }).addWrap SRAMWAIT.waits
    [x.hen.die, x.hen.clu] (countIf (fun b => b.meets a) rest)

end Sys2Proof.Claims

/-- R73, R92: a `SEND` with an open route puts out the token and takes a credit; otherwise the context waits in the order of issue. -/
def Sys2Proof.Claims.HenSendTakesCreditOrWaits : Prop :=
  ∀ (x : CtxRef) (s : State) (c : Ctx), Issues s x c (isOp 0x20) →
    ∀ w e, w = (s.hen x.hen).word c.pc → e = Edge.hen x.hen.die x.hen.clu x.hen.hen (iRoute w) →
      (s.sendOpen x (iRoute w) = true →
        s.creditOf e ≠ 0 ∧ s.markBlocked e = false ∧
        exec (.henSend x) s = .next ((((counted s x).setCredit e (s.creditOf e - 1)).send { tok := sendToken s x c w, edge := e }).putCtx x
          { c with pc := c.pc + 1, wait := .ready }))
      ∧ (s.sendOpen x (iRoute w) = false →
        ∃ t, exec (.henSend x) s = .next t ∧ t.inFlight = s.inFlight ∧ t.credits = s.credits
          ∧ Sparse.find (t.hen x.hen).ctxs x.ctx = some { c with wait := .send (iRoute w) (sendToken s x c w) }
          ∧ (t.hen x.hen).sendQ = (s.hen x.hen).sendQ ++ [x.ctx]
          ∧ t = { s with hens := t.hens, regs := t.regs })

/-- R75, R76: the queue instructions complete at once in their turn, wait otherwise, and take the fault path on a queue not theirs. -/
def Sys2Proof.Claims.HenQueueInstructions : Prop :=
  ∀ (x : CtxRef) (s : State) (c : Ctx) (w : W32), w = (s.hen x.hen).word c.pc →
    (Issues s x c (isOp 0x24) →
      (s.queueValid x c (iQ w) false = false → exec (.henQwait x) s = .next ((counted s x).faultPath x c none))
      ∧ (s.queueValid x c (iQ w) false = true → s.queueTurn x c (iQ w) = true →
          iN w ≤ ((s.goat x.hen.die x.hen.clu (iQ w / 8)).queue (iQ w % 8)).entries.length →
          IssuesTo (.henQwait x) x s { c with cleared := Sparse.set 0 c.cleared (iQ w) (iN w), pc := c.pc + 1, wait := .ready })
      ∧ (s.queueValid x c (iQ w) false = true →
          (s.queueTurn x c (iQ w) = false ∨ ((s.goat x.hen.die x.hen.clu (iQ w / 8)).queue (iQ w % 8)).entries.length < iN w) →
          IssuesTo (.henQwait x) x s { c with wait := .qwait (iQ w) (iN w) }))
    ∧ (Issues s x c (isOp 0x25) →
      (s.queueValid x c (iQ w) false = false → exec (.henQtake x) s = .next ((counted s x).faultPath x c (some (iRd w))))
      ∧ (∀ v r, s.queueValid x c (iQ w) false = true → s.queueTurn x c (iQ w) = true →
          ((s.goat x.hen.die x.hen.clu (iQ w / 8)).queue (iQ w % 8)).entries = v :: r →
          exec (.henQtake x) s = .next (tookEntry (counted s x) x c (iQ w) (iRd w) (iLast w) v r))
      ∧ (s.queueValid x c (iQ w) false = true →
          (s.queueTurn x c (iQ w) = false ∨ ((s.goat x.hen.die x.hen.clu (iQ w / 8)).queue (iQ w % 8)).entries = []) →
          IssuesTo (.henQtake x) x s { c with wait := .qtake (iQ w) (iRd w) (iLast w) }))
    ∧ (Issues s x c (isOp 0x26) →
      (s.queueValid x c (iQ w) true = false → exec (.henQput x) s = .next ((counted s x).faultPath x c none))
      ∧ (s.queueValid x c (iQ w) true = true → s.queueTurn x c (iQ w) = true →
          ((s.goat x.hen.die x.hen.clu (iQ w / 8)).queue (iQ w % 8)).entries.length
            + ((s.goat x.hen.die x.hen.clu (iQ w / 8)).queue (iQ w % 8)).leaving < 64 →
          exec (.henQput x) s = .next (putEntry (counted s x) x c (iQ w) ((s.hen x.hen).reg c (iRd w)) (iLast w)))
      ∧ (s.queueValid x c (iQ w) true = true →
          (s.queueTurn x c (iQ w) = false ∨ 64 ≤ ((s.goat x.hen.die x.hen.clu (iQ w / 8)).queue (iQ w % 8)).entries.length
            + ((s.goat x.hen.die x.hen.clu (iQ w / 8)).queue (iQ w % 8)).leaving) →
          IssuesTo (.henQput x) x s { c with wait := .qput (iQ w) ((s.hen x.hen).reg c (iRd w)) (iLast w) }))

/-- R76: a waiting queue instruction completes when its condition has come to hold, and not before. -/
def Sys2Proof.Claims.QueueConditionMetCompletes : Prop :=
  ∀ (x : CtxRef) (s : State) (c : Ctx), Sparse.find (s.hen x.hen).ctxs x.ctx = some c → c.pc ≠ 1023 →
    (∀ q n, c.wait = .qwait q n → s.queueTurn x c q = true → n ≤ ((s.goat x.hen.die x.hen.clu (q / 8)).queue (q % 8)).entries.length →
      exec (.queueConditionMet x) s
        = .next (s.putCtx x { c with cleared := Sparse.set 0 c.cleared q n, pc := c.pc + 1, wait := .ready }))
    ∧ (∀ q d last v r, c.wait = .qtake q d last → s.queueTurn x c q = true →
      ((s.goat x.hen.die x.hen.clu (q / 8)).queue (q % 8)).entries = v :: r →
      exec (.queueConditionMet x) s = .next (tookEntry s x c q d last v r))
    ∧ (∀ q v last, c.wait = .qput q v last → s.queueTurn x c q = true →
      ((s.goat x.hen.die x.hen.clu (q / 8)).queue (q % 8)).entries.length
        + ((s.goat x.hen.die x.hen.clu (q / 8)).queue (q % 8)).leaving < 64 →
      exec (.queueConditionMet x) s = .next (putEntry s x c q v last))
    ∧ (∀ q n, c.wait = .qwait q n → s.queueTurn x c q = false → exec (.queueConditionMet x) s = .next s)

/-- R77: `TWAIT` goes on at once, late, when its time has passed, waits otherwise, and its time's arrival ends the wait. -/
def Sys2Proof.Claims.TimeWaits : Prop :=
  (∀ (x : CtxRef) (s : State) (c : Ctx) (w : W32) (a : W64), Issues s x c (isOp 0x28) → w = (s.hen x.hen).word c.pc →
    a = (s.hen x.hen).reg c (iRa w) →
    (bitOf (iImm w) 0 = false → a.toNat * 800 ≤ s.now →
      exec (.henTwait x) s = .next (((counted s x).bump HCNT_AGE.tlate [x.hen.die, x.hen.clu, x.hen.hen]).putCtx x
        { c with twait := a, pc := c.pc + 1, wait := .ready }))
    ∧ (bitOf (iImm w) 0 = false → s.now < a.toNat * 800 →
      IssuesTo (.henTwait x) x s { c with wait := .time (a.toNat * 800) none, twait := a })
    ∧ (∀ p, bitOf (iImm w) 0 = true → (counted s x).occurredAt (bitsOf (iImm w) 1 4) a.toNat = some p →
      exec (.henTwait x) s = .next (((counted s x).bump HCNT_AGE.tlate [x.hen.die, x.hen.clu, x.hen.hen]).putCtx x
        { c with twait := BitVec.ofNat 64 (p / 800), pc := c.pc + 1, wait := .ready }))
    ∧ (bitOf (iImm w) 0 = true → (counted s x).occurredAt (bitsOf (iImm w) 1 4) a.toNat = none →
      IssuesTo (.henTwait x) x s { c with wait := .time a.toNat (some (bitsOf (iImm w) 1 4)) }))
  ∧ (∀ (x : CtxRef) (s : State) (c : Ctx) (t p : Nat), Sparse.find (s.hen x.hen).ctxs x.ctx = some c → c.pc ≠ 1023 →
    (c.wait = .time p none → p ≤ max s.now t →
      exec (.twaitWake x t) s = .next ((s.upTo t).putCtx x { c with pc := c.pc + 1, wait := .ready }))
    ∧ (c.wait = .time p none → max s.now t < p → exec (.twaitWake x t) s = .next (s.upTo t))
    ∧ (∀ e u, c.wait = .time p (some e) → (s.upTo t).occurredAt e p = some u →
      exec (.twaitWake x t) s
        = .next ((s.upTo t).putCtx x { c with twait := BitVec.ofNat 64 (u / 800), pc := c.pc + 1, wait := .ready })))

/-- R62, R79: `END` frees the context and makes its tag stale. -/
def Sys2Proof.Claims.EndRetiresContext : Prop :=
  ∀ (x : CtxRef) (s : State) (c : Ctx), s.readyCtx x = some c → (s.hen x.hen).runnable c.pc = true →
    isOp 0x3E ((s.hen x.hen).word c.pc) = true → s.mayIssue x.hen = true → CanRetire s x c →
    ∃ t, exec (.henEnd x) s = .next t ∧ Retired s t x c
      ∧ t = { s with hens := t.hens, regs := t.regs, clus := t.clus, inFlight := t.inFlight, creditsDue := t.creditsDue }

/-- R55, R68, R74, R80: an illegal word and an overdue context retire, flagged, counted and recorded. -/
def Sys2Proof.Claims.IllegalAndOverdueContextsRetire : Prop :=
  (∀ (x : CtxRef) (s : State) (c : Ctx), s.readyCtx x = some c → (s.hen x.hen).runnable c.pc = false → CanRetire s x c →
    ∃ t, exec (.illegalInstruction x) s = .next t ∧ Retired s t x c
      ∧ t = { s with hens := t.hens, regs := t.regs, clus := t.clus, inFlight := t.inFlight, creditsDue := t.creditsDue
                     flt := t.flt, olm := t.olm }
      ∧ t.flt.notes = s.flt.notes ++
          [{ cls := 5, die := x.hen.die, unit := 65 * x.hen.clu + x.hen.hen, cause := 2, bulk := !s.cluPrompt x.hen.die x.hen.clu }]
      ∧ (Sparse.sorted s.regs = true → t.rd HSTAT.illegal [x.hen.die, x.hen.clu, x.hen.hen] = 1
          ∧ t.rd HCNT_FAULT.illegal [x.hen.die, x.hen.clu, x.hen.hen]
              = min (s.rd HCNT_FAULT.illegal [x.hen.die, x.hen.clu, x.hen.hen] + 1) (2 ^ 16 - 1)))
  ∧ (∀ (x : CtxRef) (s : State) (c : Ctx) (t0 : Nat), Sparse.find (s.hen x.hen).ctxs x.ctx = some c →
    s.ageLimit x.hen.die x.hen.clu ≠ 0 → c.bound + s.ageLimit x.hen.die x.hen.clu < max s.now t0 → CanRetire (s.upTo t0) x c →
    ∃ t, exec (.ageDrop x t0) s = .next t ∧ Retired s t x c
      ∧ t = { s with now := max s.now t0, hens := t.hens, regs := t.regs, clus := t.clus, inFlight := t.inFlight
                     creditsDue := t.creditsDue, flt := t.flt, olm := t.olm }
      ∧ t.flt.notes = s.flt.notes ++
          [{ cls := 5, die := x.hen.die, unit := 65 * x.hen.clu + x.hen.hen, cause := 3, bulk := !s.cluPrompt x.hen.die x.hen.clu }]
      ∧ (Sparse.sorted s.regs = true → t.rd HSTAT.age_drop [x.hen.die, x.hen.clu, x.hen.hen] = 1
          ∧ t.rd HCNT_AGE.drops [x.hen.die, x.hen.clu, x.hen.hen]
              = min (s.rd HCNT_AGE.drops [x.hen.die, x.hen.clu, x.hen.hen] + 1) (2 ^ 16 - 1)))

/-- R72, R85 to R88: what a bank does for a context's load or store, by what its ECC shows. -/
def Sys2Proof.Claims.SramAccessesComplete : Prop :=
  ∀ (x : CtxRef) (s : State) (c : Ctx) (a : Access) (rest : List Access) (t : Nat), AtBank s x c a rest →
    ∀ old, old = Sparse.get 0 (s.clu x.hen.die x.hen.clu).sram (a.addr / 8) →
    (∀ size d, a.op = .load size d →
      exec (.sramAccessComplete x.hen.die x.hen.clu (.ctx x) .clean t) s
        = .next ((served s x t a rest (s.clu x.hen.die x.hen.clu).sram).putCtx x
          { c with regs := Sparse.set 0 c.regs d (BitVec.ofNat 64 (old.toNat / 2 ^ (8 * (a.addr % 8)) % 2 ^ (8 * size)))
                   pc := c.pc + 1, wait := .ready })
      ∧ exec (.sramAccessComplete x.hen.die x.hen.clu (.ctx x) .single t) s
        = .next (((served s x t a rest (s.clu x.hen.die x.hen.clu).sram).bump SRAMECC.corrected [x.hen.die, x.hen.clu]).putCtx x
          { c with regs := Sparse.set 0 c.regs d (BitVec.ofNat 64 (old.toNat / 2 ^ (8 * (a.addr % 8)) % 2 ^ (8 * size)))
                   pc := c.pc + 1, wait := .ready }))
    ∧ (∀ v e, a.op = .store 8 v →
      exec (.sramAccessComplete x.hen.die x.hen.clu (.ctx x) e t) s
        = .next ((served s x t a rest (Sparse.set 0 (s.clu x.hen.die x.hen.clu).sram (a.addr / 8) v)).putCtx x
          { c with pc := c.pc + 1, wait := .ready }))
    ∧ (∀ size v, size ≠ 8 → a.op = .store size v →
      exec (.sramAccessComplete x.hen.die x.hen.clu (.ctx x) .clean t) s
        = .next ((served s x t a rest (Sparse.set 0 (s.clu x.hen.die x.hen.clu).sram (a.addr / 8)
            (BitVec.ofNat 64 (setBits old.toNat (8 * (a.addr % 8)) (8 * size) v.toNat)))).putCtx x
          { c with pc := c.pc + 1, wait := .ready }))

/-- R58 to R61: an ahead token stays where it is, a token of no use is discarded and counted, one in the window binds and fires. -/
def Sys2Proof.Claims.HenTokens : Prop :=
  ∀ (h : HenRef) (f : Flit) (t : Nat) (s : State), f.tok.kind ≠ 3 → f.tok.epoch = s.rd HSTAT.epoch [h.die, h.clu, h.hen] →
    ((s.hen h).entryPc f.tok.index ≠ 0 → (s.hen h).classify f.tok.index f.tok.tag = .ahead →
      exec (.henToken h f t) s = .next (s.upTo t))
    ∧ (((s.hen h).entryPc f.tok.index = 0 ∨ (s.hen h).classify f.tok.index f.tok.tag = .stale
        ∨ ((s.hen h).classify f.tok.index f.tok.tag = .inWindow ∧ bitOf ((s.hen h).need f.tok.index) f.tok.operand = false)) →
      exec (.henToken h f t) s = .next (((s.upTo t).arrive (.hen h) f).bump HCNT_TOKEN.discard [h.die, h.clu, h.hen]))
    ∧ (∀ i, (s.hen h).entryPc f.tok.index ≠ 0 → (s.hen h).classify f.tok.index f.tok.tag = .inWindow →
      bitOf ((s.hen h).need f.tok.index) f.tok.operand = true →
      (s.hen h).ctxs.all (fun p => !(p.2.entry == f.tok.index && p.2.tag == f.tok.tag)) = true →
      (∀ j, j < i → (Sparse.find (s.hen h).ctxs j).isSome = true) → Sparse.find (s.hen h).ctxs i = none → i < 32 →
      ∃ c u, exec (.henToken h f t) s = .next u ∧ u = { (s.upTo t).arrive (.hen h) f with hens := u.hens, regs := u.regs }
        ∧ Sparse.find (u.hen h).ctxs i = some c
        ∧ (∀ g, henKey g ≠ henKey h → u.hen g = s.hen g)
        ∧ c.entry = f.tok.index ∧ c.tag = f.tok.tag ∧ c.epoch = f.tok.epoch ∧ c.bound = max s.now t
        ∧ (c.fired = true ↔ (s.hen h).need f.tok.index = 2 ^ f.tok.operand)
        ∧ (c.fired = true → c.pc = (s.hen h).entryPc f.tok.index ∧ c.wait = .ready ∧ c.status = f.tok.status ∧ c.beat = f.tok.beat
            ∧ c.copy = f.tok.copy ∧ ∀ r, Sparse.get 0 c.regs r = if r = f.tok.operand then f.tok.data else 0))

namespace Sys2Proof.Claims

/-- Registers other than those at the addresses given read alike. -/
def RegsBut (s t : State) (addrs : List Nat) : Prop := ∀ a d, a ∉ addrs → Sparse.get d t.regs a = Sparse.get d s.regs a

/-- Gate `g` of die `n` alone may differ among the gates. -/
def GatesBut (s t : State) (n g : Nat) : Prop := ∀ m k, key2 m k ≠ key2 n g → t.gate m k = s.gate m k

/-- One more entry at the end of a gate: its beat, the anchor it is timed from, and its firing time D − O later (R43 to R45). -/
def GateEntryAdded (s t : State) (n g : Nat) (beat : W16) (anchor : Nat) : Prop :=
  (t.gate n g).entries = (s.gate n g).entries ++ [{ beat, anchor, fire := anchor
    + (s.rd GDEADLINE.deadline [n, g] - s.rd GDEADLINE.offset [n, g]) * 100 }]
  ∧ GatesBut s t n g ∧ RegsBut s t [GSTAT.addr [n, g]]
  ∧ (Sparse.sorted s.regs = true → t.rd GSTAT.pending [n, g] = ((s.gate n g).entries.length + 1) % 2 ^ GSTAT.pending.w)

/-- The stamps but those of a beat of a gate. -/
def stampsBut (s : State) (n g : Nat) (beat : W16) : List Stamp :=
  s.stamps.filter (fun p => !(p.die == n && p.gate == g && p.beat == beat))

/-- The release a gate makes of entry `e` (R48), and what is common to every firing: the entry goes, each of its tokens' credits sets
out, the release is counted and its beat shown, and nothing moves to where the gate does not write. -/
def GateFired (s t : State) (n g : Nat) (e : GateEntry) (values : List W64) (status : BitVec 4) : Prop :=
  t.releases = s.releases ++ [{ die := n, gate := g, beat := e.beat, anchor := e.anchor, fire := e.fire, values, status }]
  ∧ (t.gate n g).entries = (s.gate n g).entries.filter (fun y => y.beat ≠ e.beat)
  ∧ (t.gate n g).lastGood = (if status &&& (stLate ||| stFault) = 0 then values else (s.gate n g).lastGood)
  ∧ GatesBut s t n g
  ∧ t.creditsDue = s.creditsDue ++ (e.toks.map (·.flit.edge)).filter edgeCredited
  ∧ t.now = max s.now e.fire
  ∧ t = { s with now := t.now, fresh := t.fresh, gates := t.gates, regs := t.regs, creditsDue := t.creditsDue, releases := t.releases
                 histTap := t.histTap, olm := t.olm, vote := t.vote }
  ∧ (Sparse.sorted s.regs = true →
      t.rd GCNT_RELEASED.count [n, g] = (s.rd GCNT_RELEASED.count [n, g] + 1) % 2 ^ 64
      ∧ t.rd GSTAT.last_beat [n, g] = e.beat.toNat)

end Sys2Proof.Claims

/-- R43 to R47: an anchor enters an enabled gate's entries with its firing time; a full gate counts an overrun; a disabled one keeps
nothing. -/
def Sys2Proof.Claims.GatesAdmitAnchors : Prop :=
  (∀ (n g : Nat) (beat : W16) (a : Nat) (s : State),
    (s.flag GCFG.enable [n, g] = true → s.flag GCFG.mode [n, g] = false → (s.gate n g).entries.length < 64 →
      ∃ t, exec (.arrivalStamp n g beat a) s = .next t ∧ GateEntryAdded s t n g beat (a / 100 * 100)
        ∧ t = { s with gates := t.gates, regs := t.regs, stamps := stampsBut s n g beat })
    ∧ (s.flag GCFG.enable [n, g] = true → s.flag GCFG.mode [n, g] = false → 64 ≤ (s.gate n g).entries.length →
      exec (.arrivalStamp n g beat a) s
        = .next ((({ s with stamps := stampsBut s n g beat } : State).bump GCNT_OVERRUN.count [n, g]).wr GSTAT.overrun [n, g] 1))
    ∧ (s.flag GCFG.enable [n, g] = false ∨ s.flag GCFG.mode [n, g] = true →
      exec (.arrivalStamp n g beat a) s = .next { s with stamps := stampsBut s n g beat }))
  ∧ (∀ (n g k a : Nat) (s : State), s.flag GCFG.enable [n, g] = true → s.flag GCFG.mode [n, g] = true → (s.gate n g).entries.length < 64 →
      (s.gate n g).schedNext = some k →
      a = s.rd GSCHED_BASE.tick [n, g] * 800 + s.rd GSCHED_BASE.vernier [n, g] * 100 + k * (s.rd GSCHED_PERIOD.period [n, g] * 100) →
      ∃ t, exec (.scheduleAnchor n g) s = .next t ∧ GateEntryAdded s t n g (BitVec.ofNat 16 k) a
        ∧ (t.gate n g).schedNext = some (k + 1) ∧ t = { s with gates := t.gates, regs := t.regs, now := max s.now a })

/-- R45, R49: a token joins the entry of its beat where it has a place there, and is discarded, counted, with its credit, otherwise. -/
def Sys2Proof.Claims.GateTokensJoinTheirBeat : Prop :=
  ∀ (n g : Nat) (f : Flit) (t : Nat) (s : State), f.tok.kind ≠ 3 →
    ((f.tok.epoch ≠ (s.gate n g).epoch ∨ (∀ e ∈ (s.gate n g).entries, e.beat ≠ f.tok.beat)
        ∨ s.rd GCFG.tokens [n, g] < f.tok.operand ∨ s.rd GCFG.redundancy [n, g] < f.tok.copy) →
      exec (.gateToken n g f t) s
        = .next ((((s.upTo t).arrive (.gate n g) f).bump GCNT_DISCARD.count [n, g]).owe f.edge))
    ∧ (∀ (es fs : List GateEntry) (e : GateEntry), f.tok.epoch = (s.gate n g).epoch → (s.gate n g).entries = es ++ e :: fs →
      (∀ x ∈ es, x.beat ≠ f.tok.beat) → e.beat = f.tok.beat → f.tok.operand ≤ s.rd GCFG.tokens [n, g] →
      f.tok.copy ≤ s.rd GCFG.redundancy [n, g] → e.has f = false →
      exec (.gateToken n g f t) s = .next (((s.upTo t).arrive (.gate n g) f).setGate n g
        { s.gate n g with entries := es ++ { e with toks := e.toks ++ [{ flit := f, at_ := max s.now t }] } :: fs }))

/-- R51: the outcome of a gate by its redundancy and the copies present in full. -/
def Sys2Proof.Claims.GateVerdictTable : Prop :=
  ∀ (m : Nat) (ts : List GateTok),
    (∀ v, copyValue ts 0 m = some v → gateVerdict 0 m ts = .value v (ofCopy ts 0) false)
    ∧ (copyValue ts 0 m = none → gateVerdict 0 m ts = .fallback stLate)
    ∧ (∀ v w, copyValue ts 0 m = some v → copyValue ts 1 m = some w →
        gateVerdict 1 m ts = if v = w then .value v (ofCopy ts 0 ++ ofCopy ts 1) false else .fallback stFault)
    ∧ (copyValue ts 0 m = none ∨ copyValue ts 1 m = none → gateVerdict 1 m ts = .fallback stLate)
    ∧ (∀ (c : Nat → List W64), (∀ k, k < 3 → copyValue ts k m = some (c k)) →
        (c 0 = c 1 → c 1 = c 2 → gateVerdict 2 m ts = .value (c 0) ts false)
        ∧ (∀ i j k, i < j → i < 3 → j < 3 → k < 3 → k ≠ i → k ≠ j → c i = c j → c k ≠ c i →
            gateVerdict 2 m ts = .value (c i) (ofCopy ts i ++ ofCopy ts j) true)
        ∧ (c 0 ≠ c 1 → c 0 ≠ c 2 → c 1 ≠ c 2 → gateVerdict 2 m ts = .fallback stFault))
    ∧ (∀ i j k v w, i < j → i < 3 → j < 3 → k < 3 → k ≠ i → k ≠ j → copyValue ts i m = some v → copyValue ts j m = some w →
        copyValue ts k m = none →
        gateVerdict 2 m ts = if v = w then .value v (ofCopy ts i ++ ofCopy ts j) true else .fallback stLate)
    ∧ (∀ i j, i ≠ j → i < 3 → j < 3 → copyValue ts i m = none → copyValue ts j m = none → gateVerdict 2 m ts = .fallback stLate)

/-- R48 to R53: at its firing time a gate toward a composer releases the value its tokens give, or its fallback with the bit set. -/
def Sys2Proof.Claims.GatesFire : Prop :=
  ∀ (n g : Nat) (s : State) (e : GateEntry), s.flt.oscFailed = false → n ∉ s.flt.stopped → Sparse.sorted s.gates = true → firstEntry (s.gate n g).entries = some e →
    s.flag GCFG.target [n, g] = false → (∀ x ∈ e.toks, x.at_ + 200 ≤ e.fire) →
    (∀ v c k, gateVerdict (s.rd GCFG.redundancy [n, g]) (s.rd GCFG.tokens [n, g] + 1) e.toks = .value v c k →
      ∃ t, exec (.gateFire n g) s = .next t ∧ GateFired s t n g e v (orStatus c))
    ∧ (∀ b, gateVerdict (s.rd GCFG.redundancy [n, g]) (s.rd GCFG.tokens [n, g] + 1) e.toks = .fallback b →
      ∃ t, exec (.gateFire n g) s = .next t ∧ GateFired s t n g e
        (match s.rd GCFG.fallback [n, g] with
          | 0 => (List.range (s.rd GCFG.tokens [n, g] + 1)).map (fun p => (s.gate n g).lastGood.getD p 0)
          | 1 => List.replicate (s.rd GCFG.tokens [n, g] + 1) 0
          | 2 => List.replicate (s.rd GCFG.tokens [n, g] + 1) (BitVec.ofNat 64 (s.raw GACCEPT [n, g]))
          | _ => List.replicate (s.rd GCFG.tokens [n, g] + 1) (BitVec.ofNat 64 (s.raw GREJECT [n, g])))
        (orStatus e.toks ||| b))

/-- R9, R54: redundancy 3 is refused; an enabled gate takes only a write that clears `enable`, which frees its entries; a write to
`GSLACK_MIN` sets all ones. -/
def Sys2Proof.Claims.GateConfigurationWrites : Prop :=
  (∀ (n g : Nat) (v : W32) (s : State),
    (bitsOf v.toNat 4 2 = 3 → exec (.gcfgWrite n g v) s = .next s)
    ∧ (s.flag GCFG.enable [n, g] = true → bitOf v.toNat 0 = true → exec (.gcfgWrite n g v) s = .next s)
    ∧ (bitsOf v.toNat 4 2 ≠ 3 → s.flag GCFG.enable [n, g] = true → bitOf v.toNat 0 = false → Sparse.sorted s.regs = true →
        Sparse.sorted s.gates = true →
      ∃ t, exec (.gcfgWrite n g v) s = .next t ∧ t = { s with regs := t.regs, gates := t.gates, creditsDue := t.creditsDue }
        ∧ t.gate n g = { s.gate n g with entries := [] } ∧ GatesBut s t n g ∧ t.raw GCFG [n, g] = v.toNat % 2 ^ 19
        ∧ t.creditsDue = s.creditsDue ++ ((s.gate n g).entries.flatMap (fun e => e.toks.map (·.flit.edge))).filter edgeCredited
        ∧ RegsBut s t [GCFG.addr [n, g], GCNT_OVERRUN.addr [n, g], GSTAT.addr [n, g], GATEPRES.addr [n]])
    ∧ (bitsOf v.toNat 4 2 ≠ 3 → s.flag GCFG.enable [n, g] = false → Sparse.sorted s.regs = true →
      ∃ t, exec (.gcfgWrite n g v) s = .next t ∧ t = { s with regs := t.regs, gates := t.gates }
        ∧ t.raw GCFG [n, g] = v.toNat % 2 ^ 19 ∧ RegsBut s t [GCFG.addr [n, g], GATEPRES.addr [n]]
        ∧ (bitOf v.toNat 0 = false → t.gates = s.gates)
        ∧ (bitOf v.toNat 0 = true → (Sparse.sorted s.gates = true → t.gate n g =
            { s.gate n g with entries := [], lastGood := [], schedNext := none, enabledAt := s.now }) ∧ GatesBut s t n g)))
  ∧ (∀ (n g : Nat) (v : W32) (s : State), exec (.gslackMinWrite n g v) s = .next (s.wr GSLACK_MIN.slack [n, g] 0xFFFF))

namespace Sys2Proof.Claims

/-- The state as a token has just reached the steering unit of a cluster. -/
def atSteering (s : State) (n c : Nat) (f : Flit) (t : Nat) : State := (s.upTo t).arrive (.steer n c) f

/-- A direct token of a known kind with the epoch its hen stands at (R89, R91). -/
def DirectToken (s : State) (n c : Nat) (f : Flit) : Prop :=
  f.tok.kind ≠ 2 ∧ f.tok.kind ≠ 3 ∧ adUnit f.tok.addr ≠ 1
  ∧ f.tok.epoch = s.rd HSTAT.epoch [n, c, s.physHen n c (adSub f.tok.addr)]

end Sys2Proof.Claims

/-- R58, R89, R91, R92: steering delivers a direct token that its hen can take and returns its credit, holds one that is ahead or whose hen
is being substituted, and discards one of another epoch. -/
def Sys2Proof.Claims.SteeringDirectTokens : Prop :=
  ∀ (n c : Nat) (f : Flit) (t : Nat) (s : State),
    (f.tok.kind ≠ 2 → f.tok.kind ≠ 3 → f.tok.epoch ≠ s.steerEpoch n c f.tok → s.carryEdge n f.edge = false →
      exec (.steeringToken n c f t) s = .next (((atSteering s n c f t).bump STEERCNT.discard [n, c]).owe f.edge))
    ∧ (∀ k, DirectToken s n c f → s.directHold n c (adSub f.tok.addr) f = some k →
      ∃ u, exec (.steeringToken n c f t) s = .next u ∧ u = { atSteering s n c f t with clus := u.clus, regs := u.regs }
        ∧ (u.clu n c).slots = (s.clu n c).slots ++ [{ flit := f, kind := k, taken := max s.now t }]
        ∧ RegsBut s u [STEERSTAT.addr [n, c]])
    ∧ (DirectToken s n c f → s.directHold n c (adSub f.tok.addr) f = none →
      ∃ u, exec (.steeringToken n c f t) s = .next u
        ∧ u = { atSteering s n c f t with clus := u.clus, regs := u.regs, inFlight := eraseFirst f s.inFlight ++ [f]
                                          creditsDue := s.creditsDue ++ (if edgeCredited f.edge then [f.edge] else []) }
        ∧ (Sparse.sorted s.clus = true → u.clu n c = s.clu n c) ∧ RegsBut s u [STEERSTAT.addr [n, c]])

/-- R58, R100: what steering holds is a token ahead of its entry's window, or one whose hen is being substituted. -/
def Sys2Proof.Claims.SteeringHoldsAheadTokens : Prop :=
  ∀ (s : State) (n c l : Nat) (f : Flit) (h : Hen), h = s.hen ⟨n, c, s.physHen n c l⟩ → (s.clu n c).henSubst ≠ some l →
    (s.directHold n c l f = some (.ahead l) ↔
      h.entryPc f.tok.index ≠ 0 ∧ h.window f.tok.index ≤ (f.tok.tag.toNat + 65536 - (h.baseTag f.tok.index).toNat) % 65536
        ∧ (f.tok.tag.toNat + 65536 - (h.baseTag f.tok.index).toNat) % 65536 < 32768)
    ∧ (s.directHold n c l f = none ∨ s.directHold n c l f = some (.ahead l))

/-- R91, and the table of `STEERSTAT`: an overdue token is discarded, counted, reported, its credit returned; a write sets the peak to 0. -/
def Sys2Proof.Claims.SteeringAgeAndPeak : Prop :=
  (∀ (n c t : Nat) (s : State) (z : Slot) (pre post : List Slot), (s.clu n c).slots = pre ++ z :: post →
    (∀ y ∈ pre, y.aged (s.ageLimit n c) (max s.now t) = false) → s.ageLimit n c ≠ 0 → z.taken + s.ageLimit n c < max s.now t →
    (∀ h, z.kind ≠ .subst h) →
    ∃ u, exec (.steeringAged n c t) s = .next u
      ∧ u = { s with now := max s.now t, clus := u.clus, regs := u.regs, flt := u.flt, creditsDue := u.creditsDue }
      ∧ (Sparse.sorted s.clus = true → u.clu n c = { s.clu n c with slots := pre ++ post })
      ∧ u.creditsDue = s.creditsDue ++ (if edgeCredited z.flit.edge then [z.flit.edge] else [])
      ∧ u.flt.notes = s.flt.notes ++ [{ cls := 3, die := n, unit := c, cause := 4, bulk := !s.cluPrompt n c }]
      ∧ (Sparse.sorted s.regs = true → u.rd STEERCNT.aged [n, c] = min (s.rd STEERCNT.aged [n, c] + 1) (2 ^ STEERCNT.aged.w - 1)))
  ∧ (∀ (n c : Nat) (v : W32) (s : State), exec (.steerstatWrite n c v) s = .next (s.wr STEERSTAT.peak [n, c] 0))

/-- R64, R92: a credit that comes back raises its producer's counter, and what waited for it goes on. -/
def Sys2Proof.Claims.CreditsReturn : Prop :=
  ∀ (e : Edge) (t : Nat) (s : State), Sparse.wf {} s.dies = true →
    (e ∈ s.creditsDue → (s.die (edgeDie e)).markWant = [] → (s.die (edgeDie e)).markOut = [] →
      exec (.creditReturn e t) s = .next
        ((({ s.upTo t with creditsDue := eraseFirst e s.creditsDue } : State).setCredit e (s.creditOf e + 1)).resumeEdge e))
    ∧ (e ∉ s.creditsDue → exec (.creditReturn e t) s = .next (s.upTo t))

/-- R83, R84, R97, R98: a token at its home router goes straight on; one with farther to go takes a hold register; a prompt token without
one is dropped and counted. -/
def Sys2Proof.Claims.RouterTokens : Prop :=
  ∀ (n r i : Nat) (f : Flit) (t : Nat) (s : State), f.tok.kind ≠ 3 →
    (firstOutput n r f.tok.addr = none → s.portStopped n f.tok = false → f.tok.prompt = true →
      ∃ u, exec (.routerToken n r i f t) s = .next u ∧ u = { s with now := max s.now t, lastTok := u.lastTok })
    ∧ (firstOutput n r f.tok.addr = none → s.portStopped n f.tok = false → f.tok.prompt = false →
      ∃ u, exec (.routerToken n r i f t) s = .next u ∧ u = { s with now := max s.now t, lastTok := u.lastTok, routers := u.routers }
        ∧ ∀ m q o, feeder n r i = some (m, q, o) → Sparse.sorted s.routers = true → u.router m q = { s.router m q with
            hopUsed := Sparse.set 0 (s.router m q).hopUsed o (Sparse.get 0 (s.router m q).hopUsed o - 1) })
    ∧ (∀ o, firstOutput n r f.tok.addr = some o → f.tok.prompt = true → s.ownsFor n r o i = true → (s.router n r).used i true < 4 →
      ∃ u, exec (.routerToken n r i f t) s = .next u
        ∧ u = { s with now := max s.now t, lastTok := u.lastTok, routers := u.routers, inFlight := eraseFirst f s.inFlight }
        ∧ u.router n r = { s.router n r with holds := (s.router n r).holds ++ [{ input := i, flit := f, output := some o }] })
    ∧ (∀ o, firstOutput n r f.tok.addr = some o → f.tok.prompt = true → (s.ownsFor n r o i = false ∨ 4 ≤ (s.router n r).used i true) →
      ∃ u, exec (.routerToken n r i f t) s = .next u
        ∧ u = { s with now := max s.now t, lastTok := u.lastTok, regs := u.regs, flt := u.flt, inFlight := eraseFirst f s.inFlight }
        ∧ u.flt.notes = s.flt.notes ++ [{ cls := 1, die := n, unit := r, cause := 5, bulk := false }]
        ∧ RegsBut s u [RCNT.addr [n, r]])
    ∧ (∀ o, firstOutput n r f.tok.addr = some o → f.tok.prompt = false → (s.router n r).used i false < 2 →
      ∃ u, exec (.routerToken n r i f t) s = .next u
        ∧ u = { s with now := max s.now t, lastTok := u.lastTok, routers := u.routers, inFlight := eraseFirst f s.inFlight }
        ∧ u.router n r = { s.router n r with holds := (s.router n r).holds
            ++ [{ input := i, flit := f, output := if s.adaptive n then none else some o }] })
    ∧ (∀ o, firstOutput n r f.tok.addr = some o → f.tok.prompt = false → 2 ≤ (s.router n r).used i false →
      ∃ u, exec (.routerToken n r i f t) s = .next u ∧ u = { s with now := max s.now t, lastTok := u.lastTok })

/-- R98: every hop that dimension order takes on a die brings a token one router nearer its home. -/
def Sys2Proof.Claims.DimensionOrderComesNearer : Prop :=
  ∀ (n r : Nat) (a : BitVec 28) (o : Nat), r < 64 → homeRouter a < 64 → adDie a = n → firstOutput n r a = some o →
    o < 4 ∧ ∃ r', r' = (match o with | 0 => r - 8 | 1 => r + 1 | 2 => r + 8 | _ => r - 1) ∧ r' < 64
      ∧ (r' % 8 - homeRouter a % 8) + (homeRouter a % 8 - r' % 8) + (r' / 8 - homeRouter a / 8) + (homeRouter a / 8 - r' / 8) + 1
        = (r % 8 - homeRouter a % 8) + (homeRouter a % 8 - r % 8) + (r / 8 - homeRouter a / 8) + (homeRouter a / 8 - r / 8)
      ∧ (o = 0 ∨ o = 2 → r % 8 = homeRouter a % 8)

/-- R95 to R97: a slot position of a running output carries the token its owner code names, or an empty token, and the frame moves on. -/
def Sys2Proof.Claims.SlotPositionsCarryTheirOwner : Prop :=
  ∀ (n r o p : Nat) (s : State), s.linkRuns n r o = true → p = Sparse.get 0 (s.router n r).pos o % 64 →
    (s.slotOwner n r o p = 0 →
      exec (.slotPosition n r o) s = .next ((s.setRouter n r { s.router n r with
        pos := Sparse.set 0 (s.router n r).pos o ((p + 1) % 64) }).emit (.slot n r o p { tok := Token.empty })))
    ∧ (∀ i pre post h, s.slotOwner n r o p = 8 + i → (s.router n r).holds = pre ++ h :: post → h.flit.tok.prompt = true → h.input = i →
      h.output = some o → (∀ x ∈ pre, x.flit.tok.prompt = true → x.input = i → x.mayLeave n r o = false) →
      exec (.slotPosition n r o) s = .next (((s.setRouter n r { s.router n r with
        pos := Sparse.set 0 (s.router n r).pos o ((p + 1) % 64), holds := pre ++ post }).send h.flit).emit (.slot n r o p h.flit)))
    ∧ (s.slotOwner n r o p = 1 → (∀ x ∈ (s.router n r).holds, x.flit.tok.prompt = false → x.mayLeave n r o = false) →
      exec (.slotPosition n r o) s = .next ((s.setRouter n r { s.router n r with
        pos := Sparse.set 0 (s.router n r).pos o ((p + 1) % 64) }).emit (.slot n r o p { tok := Token.empty })))
    ∧ (∀ i, s.slotOwner n r o p = 8 + i → (∀ x ∈ (s.router n r).holds, x.flit.tok.prompt = true → x.input = i → x.mayLeave n r o = false) →
      exec (.slotPosition n r o) s = .next ((s.setRouter n r { s.router n r with
        pos := Sparse.set 0 (s.router n r).pos o ((p + 1) % 64) }).emit (.slot n r o p { tok := Token.empty })))

/-- R88: a scrub read of a cluster's SRAM counts a correction, lists it in a prompt cluster, and records what cannot be corrected. -/
def Sys2Proof.Claims.SramScrubCountsAndLists : Prop :=
  ∀ (n c w : Nat) (s : State), s.flag SCRUBCFG.enable [n, c] = true →
    exec (.sramScrub n c w .clean) s = .next s
    ∧ (s.cluPrompt n c = false → exec (.sramScrub n c w .single) s = .next (s.bump SRAMECC.corrected [n, c]))
    ∧ (s.cluPrompt n c = true → w ∉ (s.clu n c).repair → (s.clu n c).repair.length < 16 →
      exec (.sramScrub n c w .single) s = .next (((s.bump SRAMECC.corrected [n, c]).setClu n c
        { s.clu n c with repair := (s.clu n c).repair ++ [w] }).wr SRAMREPAIR.pending [n, c] ((s.clu n c).repair.length + 1)))
    ∧ (s.cluPrompt n c = true → w ∉ (s.clu n c).repair → 16 ≤ (s.clu n c).repair.length →
      exec (.sramScrub n c w .single) s = .next ((s.bump SRAMECC.corrected [n, c]).wr SRAMREPAIR.overflow [n, c] 1))
    ∧ (∀ v, exec (.sramScrub n c w (.double v)) s = .next (s.sramBad n c (8 * w) true))

namespace Sys2Proof.Claims

/-- A failure is reported (R363, R381): one more entry in a report queue that had room, with the raw counter, and nothing beyond the
FLT block, its registers, the olm and the fault pin. -/
def Reported (s t : State) (cls die kind outcome unit : Nat) : Prop :=
  (s.flt.queue.length < 32 → t.flt.queue = s.flt.queue ++ [{ whenRaw := s.rawTicks % 2 ^ 32, cls, die, kind, outcome, unit }])
  ∧ (32 ≤ s.flt.queue.length → t.flt.queue = s.flt.queue)
  ∧ t = { s with flt := { s.flt with queue := t.flt.queue }, regs := t.regs, olm := t.olm, out := t.out }

/-- The state with a unit entered in the FLT block's list of lost units. -/
def withLost (s : State) (cls n k : Nat) : State := { s with flt := { s.flt with lost := s.flt.lost ++ [(cls, n, k)] } }

end Sys2Proof.Claims

/-- R381: what `fltFailed`, the report of every failure, does; `FLTCNT.lost` counts outcomes 2 and 3. -/
def Sys2Proof.Claims.FailuresAreReported : Prop :=
  ∀ (s : State) (cls die kind outcome unit : Nat), Sparse.sorted s.regs = true →
    ∃ t, s.fltFailed cls die kind outcome unit = t ∧ Reported s t cls die kind outcome unit
      ∧ t.rd FLTCNT.lost [] = (if outcome = 2 ∨ outcome = 3 then min (s.rd FLTCNT.lost [] + 1) (2 ^ FLTCNT.lost.w - 1) else s.rd FLTCNT.lost [])
      ∧ (s.flt.queue.length < 32 → t.rd FLTSTAT.count [] = s.flt.queue.length + 1 ∧ t.rd FLTSTAT.overflow [] = s.rd FLTSTAT.overflow [])
      ∧ (32 ≤ s.flt.queue.length → t.rd FLTSTAT.overflow [] = 1)

/-- R36, R37: the two monitors count on the die, fill `HSMON_LAST` while it is free, and mark the unit at the receiving end failed. -/
def Sys2Proof.Claims.MonitorsMarkUnitsFailed : Prop :=
  (∀ (u : UnitId) (code part_ row col t : Nat) (s : State), 1 ≤ code → code ≤ 4 →
    exec (.handshakeStall u code part_ row col t) s = .next (((s.upTo t).hsmon u code).failUnit u part_ row col 1))
  ∧ (∀ (u : UnitId) (code part_ row col t : Nat) (s : State), (code = 0 ∨ 5 ≤ code) →
    exec (.handshakeStall u code part_ row col t) s = .next (s.upTo t))
  ∧ (∀ (h : HenRef) (f : Flit) (x : Token) (part_ row col t : Nat) (s : State), x.kind ≠ 3 → x.kind ≠ 2 →
    s.lastTok.find? (fun p => p.1 = .hen h) = some (.hen h, x) →
    exec (.invalidCode (.hen h) f part_ row col t) s = .next (((({ s.upTo t with
      inFlight := { f with tok := { x with data := 0, status := 2 } } :: eraseFirst f s.inFlight } : State).henToken h
        { f with tok := { x with data := 0, status := 2 } } t).hsmon (.hen h) 5).failUnit (.hen h) part_ row col 1))
  ∧ (∀ (s : State) (n c : Nat) (kind : Nat), Sparse.sorted s.regs = true → s.rd HSMON_LAST.valid [n] = 0 →
    ∃ v, (s.hsmon (.steer n c) kind).raw HSMON_LAST [n] = v ∧ bitsOf v 0 8 = 3 ∧ bitsOf v 8 16 = c % 2 ^ 16 ∧ bitsOf v 24 3 = kind % 8
      ∧ (kind < 8 → bitOf v 27 = s.cluPrompt n c ∧ bitOf v 31 = true ∧ bitsOf v 32 32 = s.rawTicks % 2 ^ 32))
  ∧ (∀ (s : State) (u : UnitId) (kind : Nat), s.flag HSMON_LAST.valid [unitDie u] = true →
    ∀ n, n = unitDie u → (s.hsmon u kind).raw HSMON_LAST [n] = s.raw HSMON_LAST [n])

/-- R100, R101, R103: a substitution that is not under way changes nothing but time; the commands name the hen, cluster or array. -/
def Sys2Proof.Claims.SubstitutionsOnlyOfFailedUnits : Prop :=
  (∀ (h : HenRef) (ok : Bool) (t : Nat) (s : State), h ∉ s.flt.hensFailing → exec (.henSubstitution h ok t) s = .next (s.upTo t))
  ∧ (∀ (n c : Nat) (ok : Bool) (t : Nat) (s : State), (n, c) ∉ s.flt.clusFailing → exec (.clusterSubstitution n c ok t) s = .next (s.upTo t))
  ∧ (∀ (n a t : Nat) (s : State), (∀ f ∈ s.flt.arrsFailing, f.die = n → f.arr ≠ a) → exec (.arraySubstitution n a t) s = .next (s.upTo t))

/-- R100, R102: a hen's substitution writes the spare from the image store, shows it in the cluster's status, maps the logical hen to it
and ends the holding of its tokens. -/
def Sys2Proof.Claims.HenSubstitutionMapsTheSpare : Prop :=
  ∀ (n c k t l : Nat) (s : State), k < 64 → ⟨n, c, k⟩ ∈ s.flt.hensFailing → l = s.logHen ⟨n, c, k⟩ → l < 64 →
    (s.clu n c).henSubst = some l → Sparse.sorted s.regs = true → Sparse.sorted s.clus = true → Sparse.sorted s.hens = true →
    ∃ u, exec (.henSubstitution ⟨n, c, k⟩ true t) s = .next u
      ∧ u.physHen n c l = 64 ∧ u.logHen ⟨n, c, 64⟩ = l ∧ u.rd HSTAT.standing_in [n, c, 64] = 1
      ∧ u.rd HSTAT.epoch [n, c, 64] = s.rd HSTAT.epoch [n, c, k]
      ∧ (u.clu n c).henSubst = none
      ∧ ⟨n, c, k⟩ ∉ u.flt.hensFailing
      ∧ (u.hen ⟨n, c, 64⟩).imem = Sparse.get [] (s.die n).store.imem (64 * s.logClu n c + l)
      ∧ (u.hen ⟨n, c, 64⟩).consts = Sparse.get [] (s.die n).store.consts (64 * s.logClu n c + l)

/-- R101: a cluster's substitution makes the spare cluster stand in for the logical one. -/
def Sys2Proof.Claims.ClusterSubstitutionMapsTheSpare : Prop :=
  ∀ (n c t : Nat) (s : State), n < 16 → c < 64 → (n, c) ∈ s.flt.clusFailing → s.logClu n c < 64 → Sparse.sorted s.regs = true →
    ∃ u, exec (.clusterSubstitution n c true t) s = .next u
      ∧ (n, c) ∉ u.flt.clusFailing
      ∧ u.rd CLUSTAT.standing_in [n, 64] = 1 ∧ u.logClu n 64 = s.logClu n c ∧ u.physClu n (s.logClu n c) = 64
      ∧ u.rd DIESTAT.spare_cluster_used [n] = 1
      ∧ (∀ h, h < 64 → (Sparse.get [] (s.die n).store.imem (64 * s.logClu n c + h)) ≠ [] →
          (u.hen ⟨n, 64, h⟩).imem = Sparse.get [] (s.die n).store.imem (64 * s.logClu n c + h))

/-- R125, R126: a spare column or row takes the place of a faulty one and the array's feed resumes; without one the array fails. -/
def Sys2Proof.Claims.ArraySubstitutionTakesSpares : Prop :=
  ∀ (n a t : Nat) (s : State) (f : ArrFault), s.flt.arrsFailing = [f] → f.die = n → f.arr = a → (s.arr n a).waiting = [] →
    Sparse.sorted s.regs = true → Sparse.sorted s.arrs = true →
    (∀ k, f.part_ = 2 → s.freeCol n a = some k → f.col < 512 →
      ∃ u, exec (.arraySubstitution n a t) s = .next u ∧ u.flt.arrsFailing = []
        ∧ u.rd ([ASPARE.col0, ASPARE.col1, ASPARE.col2, ASPARE.col3].getD k ASPARE.col0) [n, a] = f.col + 512
        ∧ u.arr n a = { s.arr n a with held := false })
    ∧ (f.part_ = 2 → s.freeCol n a = none →
      ∃ u, exec (.arraySubstitution n a t) s = .next u ∧ u.flt.arrsFailing = [] ∧ u.rd ASTAT.failed [n, a] = 1)

/-- R376, R377: the first failed rail phase of a die is masked and counted, the second marks the die for failure. -/
def Sys2Proof.Claims.RailPhases : Prop :=
  ∀ (n t : Nat) (s : State),
    (s.hasDie n = false → exec (.railPhaseFailure n t) s = .next (s.upTo t))
    ∧ (s.hasDie n = true → n ∉ s.flt.phases →
      ∃ u v, exec (.railPhaseFailure n t) s = .next u ∧ u = v.bump FLTCNT.masked []
        ∧ Reported ({ s.upTo t with flt := { s.flt with phases := s.flt.phases ++ [n] } } : State) v 0xF7 n 4 1 n)
    ∧ (s.hasDie n = true → n ∈ s.flt.phases → (s.flt.dying.any (fun p => p.1 == n)) = false → bitOf (s.rd FLTDIE.failed []) n = false →
      ∃ u v, exec (.railPhaseFailure n t) s = .next u ∧ Reported (s.upTo t) v 0xF7 n 4 3 n
        ∧ u = { v with flt := { v.flt with dying := v.flt.dying ++ [(n, 4)] } })

/-- R377: a die marked failed is shown in `FLTDIE` and reported; without a standby it joins the dies whose gates release fallbacks, with a
usable one its standby takes over. -/
def Sys2Proof.Claims.DieFailures : Prop :=
  ∀ (n kind t : Nat) (s : State), s.flt.dying.find? (fun p => p.1 == n) = some (n, kind) → n < 16 → Sparse.sorted s.regs = true →
    ((s.die n).standby = 0 →
      ∃ u, exec (.dieFailed n t) s = .next u ∧ bitOf (u.rd FLTDIE.failed []) n = true ∧ u.flt.stopped = s.flt.stopped ++ [n]
        ∧ u.flt.dying = s.flt.dying.filter (fun p => p.1 != n) ∧ u.dies = s.dies)
    ∧ (∀ m, (s.die n).standby = m + 1 → m < 16 → m ≠ n → bitOf (s.rd FLTDIE.failed []) m = false →
      ∃ u, exec (.dieFailed n t) s = .next u ∧ bitOf (u.rd FLTDIE.failed []) n = true ∧ u.flt.stopped = s.flt.stopped
        ∧ (u.die n).muted = true ∧ (Sparse.sorted s.dies = true → (u.die m).muted = false))

/-- R378: the first loss of a DRAM die or of a tier-2 package is entered and reported as lost; a DRAM die with the image store takes it along; the
loss of what is not fitted changes nothing. -/
def Sys2Proof.Claims.UnitLosses : Prop :=
  (∀ (n t : Nat) (s : State), (0xF0, n, 2 * n) ∉ s.flt.lost → bitOf s.fit.dram (2 * n) = true → s.jobOfDie n = none →
    ∃ u, exec (.unitLost (.dram n 0) t) s = .next u ∧ Reported (withLost (s.upTo t) 0xF0 n (2 * n)) u 0xF0 n 2 2 (2 * n))
  ∧ (∀ (n t : Nat) (s : State), (0xF0, n, 2 * n + 1) ∉ s.flt.lost → bitOf s.fit.dram (2 * n + 1) = true → s.jobOfDie n = none →
    ∃ u v, exec (.unitLost (.dram n 1) t) s = .next u ∧ Reported (withLost (s.upTo t) 0xF0 n (2 * n + 1)) v 0xF0 n 2 2 (2 * n + 1)
      ∧ u = { v with flt := { v.flt with storeLost := v.flt.storeLost ++ [n] } })
  ∧ (∀ (p t : Nat) (s : State), (0xF1, 0, p) ∉ s.flt.lost → bitOf s.fit.lpddr p = true → s.jobs = [] →
    ∃ u, exec (.unitLost (.package p) t) s = .next u ∧ Reported (withLost (s.upTo t) 0xF1 0 p) u 0xF1 0 2 2 p)
  ∧ (∀ (u : LostUnit) (n b t : Nat) (s : State), u = .dram n b → (bitOf s.fit.dram (2 * n + b) = false ∨ (0xF0, n, 2 * n + b) ∈ s.flt.lost) →
    exec (.unitLost u t) s = .next (s.upTo t))
  ∧ (∀ (e t : Nat) (s : State), bitOf s.fit.glow e = false → exec (.unitLost (.glowworm e) t) s = .next (s.upTo t))

/-- R378, R379: an oscillator failure is taken once, is reported, and stops the module. -/
def Sys2Proof.Claims.OscillatorFailures : Prop :=
  ∀ (t : Nat) (s : State),
    (s.flt.oscFailed = true → exec (.oscillatorFailure t) s = .next (s.upTo t))
    ∧ (s.flt.oscFailed = false → ∃ v, Reported ({ s.upTo t with flt := { s.flt with oscFailed := true } } : State) v 0xF8 0 7 2 0
        ∧ exec (.oscillatorFailure t) s = .next v.moduleStop)

/-- R380, R381: which hub a mismatch retires, what a failover shows, and that a read of `FLTREP_HI` takes the oldest report. -/
def Sys2Proof.Claims.HubsAndReports : Prop :=
  (∀ (h0 h1 : Bool) (t : Nat) (s : State), s.flt.retired = [] →
    (h0 = true → exec (.lockstepMismatch h0 h1 t) s = .next ((s.upTo t).retireHub 1 2))
    ∧ (h0 = false → h1 = true → exec (.lockstepMismatch h0 h1 t) s = .next ((s.upTo t).retireHub 0 0)))
  ∧ (∀ (s : State) (h outcome : Nat), Sparse.sorted s.regs = true →
    (s.retireHub h outcome).flt.retired = s.flt.retired ++ [h] ∧ (s.retireHub h outcome).rd FLTSTAT.standby_lost [] = 1)
  ∧ (∀ (gap t : Nat) (s : State), s.flt.retired = [0] → s.flag FLTSTAT.active_hub [] = false → (∀ d, d < 4 → (s.acqDest d).kind = 0) →
      Sparse.sorted s.regs = true →
    ∃ u, exec (.hubFailover gap t) s = .next u ∧ u.rd FLTSTAT.active_hub [] = 1 ∧ u.rd FLTSTAT.failover [] = 1)
  ∧ (∀ (gap t : Nat) (s : State), s.flt.retired ≠ [0] → exec (.hubFailover gap t) s = .next (s.upTo t))
  ∧ (∀ (r : FltRep) (rs : List FltRep) (s : State), s.flt.queue = r :: rs →
    ∃ u, exec .fltrepHiRead s = .next u ∧ u.flt = { s.flt with queue := rs }
      ∧ u = { s with flt := u.flt, regs := s.regs.wr FLTSTAT.count [] rs.length, out := u.out }
      ∧ (∃ more, u.out = s.out ++ .readValue (FLTREP_HI.addr []) 32 r.hi :: more))
  ∧ (∀ s : State, s.flt.queue = [] → exec .fltrepHiRead s = .next (s.emit (.readValue (FLTREP_HI.addr []) 32 0)))

namespace Sys2Proof.Claims

/-- Registers whose writes store and do nothing else. -/
def plainRegs : List Reg := [HENCFG, CLUCFG, SCRUBCFG, STEERCFG, GDEADLINE, OLMRATE, BARTIMEOUT, T1SCRUB, IHOLD]

/-- Registers of 32 bits whose fields are counters that a read clears. -/
def rcRegs : List Reg := [HCNT_TOKEN, HCNT_FAULT, HCNT_AGE, STEERCNT, GCNT_LATE, HSMON_CNT, SRAMECC]

end Sys2Proof.Claims

/-- R7: an access of another size, out of alignment or beyond BAR0 stores nothing and reads all ones. -/
def Sys2Proof.Claims.BusAccessesOutsideTheRules : Prop :=
  ∀ (a b v t : Nat) (s : State), ((b ≠ 4 ∧ b ≠ 8) ∨ a % b ≠ 0 ∨ 0x4000000 ≤ a) →
    exec (.registerWrite a b v t) s = .next (s.upTo t)
    ∧ exec (.rcRead a b t) s = .next ((s.upTo t).emit (.readValue a (8 * b) (2 ^ (8 * b) - 1)))

/-- R6: of every register of the map, what a write of the bits in `mask` leaves in each field, by the field's access type. -/
def Obligations.FieldAccessTypesGovernWrites : Prop :=
  ∀ r ∈ regMap, ∀ f ∈ r.fields, ∀ mask v old : Nat, mask < 2 ^ 64 → v < 2 ^ 64 → old < 2 ^ 64 → ∀ i, i < f.w →
    bitOf (stored r mask v old) (f.lo + i)
      = match f.acc with
        | .rw => if bitOf mask (f.lo + i) then bitOf v (f.lo + i) else bitOf old (f.lo + i)
        | .w1c => bitOf old (f.lo + i) && !(bitOf mask (f.lo + i) && bitOf v (f.lo + i))
        | _ => bitOf old (f.lo + i)

/-- R6, R9, R104: a write to a plain register of a present unit stores, unless it is shut or a value is out of range. -/
def Sys2Proof.Claims.RegisterWritesStore : Prop :=
  ∀ (a v t : Nat) (r : Reg) (idx : List Nat) (s : State), r ∈ plainRegs → findReg a = some (r, idx, 0) → a % 4 = 0 → a < 0x4000000 →
    s.regAbsent r idx = false →
    (s.writeShut r idx (v % 2 ^ 32) = false → s.valueOk r idx (2 ^ 32 - 1) (merged r (2 ^ 32 - 1) (v % 2 ^ 32) (s.raw r idx)) = true →
      exec (.registerWrite a 4 v t) s = .next ((s.upTo t).setRaw r idx (stored r (2 ^ 32 - 1) (v % 2 ^ 32) (s.raw r idx))))
    ∧ (s.writeShut r idx (v % 2 ^ 32) = true ∨ s.valueOk r idx (2 ^ 32 - 1) (merged r (2 ^ 32 - 1) (v % 2 ^ 32) (s.raw r idx)) = false →
      exec (.registerWrite a 4 v t) s = .next (s.upTo t))

/-- R4, R8: a read of a counter register gives its value and clears it; of an absent unit it gives 0 and clears nothing. -/
def Sys2Proof.Claims.CounterReadsClear : Prop :=
  ∀ (a t : Nat) (r : Reg) (idx : List Nat) (s : State), r ∈ rcRegs → findReg a = some (r, idx, 0) → a % 4 = 0 → a < 0x4000000 →
    (s.regAbsent r idx = false → Sparse.sorted s.regs = true → s.raw r idx < 2 ^ 32 →
      ∃ u, exec (.rcRead a 4 t) s = .next u ∧ u = { s with now := max s.now t, regs := u.regs, out := s.out ++ [.readValue a 32 (s.raw r idx)] }
        ∧ u.raw r idx = 0 ∧ RegsBut s u [r.addr idx])
    ∧ (s.regAbsent r idx = true → exec (.rcRead a 4 t) s = .next ((s.upTo t).emit (.readValue a 32 0)))

/-- R15, R20: a whole write to `PARTCFG` of a present die sets the split in die state 1 if it is valid, and the refusal flag otherwise. -/
def Sys2Proof.Claims.SplitWrites : Prop :=
  ∀ (n v t : Nat) (s : State), n < 16 → s.hasDie n = true → s.managed n = true → Sparse.sorted s.regs = true → v < 2 ^ 64 →
    (s.rd DIESTAT.state [n] = 1 → s.splitOk n v = true →
      ∃ u, exec (.partcfgWrite n none v t) s = .next u ∧ u = { s with now := max s.now t, regs := u.regs }
        ∧ u.rd PARTCFG.prompt_clusters [n] = bitsOf v 0 7 ∧ u.rd PARTCFG.prompt_arrays [n] = bitsOf v 7 3
        ∧ u.rd PARTCFG.prompt_ports [n] = bitsOf v 32 16
        ∧ u.rd DIESTAT.part_write_refused [n] = s.rd DIESTAT.part_write_refused [n])
    ∧ (s.rd DIESTAT.state [n] ≠ 1 ∨ s.splitOk n v = false →
      exec (.partcfgWrite n none v t) s = .next ((s.upTo t).wr DIESTAT.part_write_refused [n] 1))

/-- R15: the words the splits that a die accepts are made of. -/
def Sys2Proof.Claims.ValidSplits : Prop :=
  ∀ (n v : Nat) (s : State), s.splitOk n v = true →
    bitsOf v 0 7 % 4 = 0 ∧ bitsOf v 0 7 ≤ 64 ∧ bitsOf v 7 3 ≤ 4 ∧ (bitsOf v 7 3 ≠ 0 → 4 ≤ bitsOf v 0 7)
      ∧ (bitsOf v 0 7 = 0 → bitsOf v 7 3 = 0 ∧ bitsOf v 32 16 = 0 ∧ bitsOf v 16 8 = 0)

/-- R104, R156, R396: writes to a stream descriptor of an idle die store and zero its statistics, to `TPSEL` store what is present. -/
def Sys2Proof.Claims.DescriptorAndProbeWrites : Prop :=
  (∀ (n c q v t : Nat) (s : State), n < 16 → c < 65 → q < 16 → s.regAbsent QDESC1 [n, c, q] = false → s.rd DIESTAT.state [n] = 1 →
    s.valueOk QDESC1 [n, c, q] (2 ^ 64 - 1) (merged QDESC1 (2 ^ 64 - 1) (v % 2 ^ 64) (s.raw QDESC1 [n, c, q])) = true →
    exec (.qdescWrite n c q 1 none v t) s
      = .next (((s.upTo t).setRaw QDESC1 [n, c, q] (stored QDESC1 (2 ^ 64 - 1) (v % 2 ^ 64) (s.raw QDESC1 [n, c, q]))).setSlot n c q {}))
  ∧ (∀ (n c q v t : Nat) (s : State), n < 16 → c < 65 → q < 16 → s.rd DIESTAT.state [n] ≠ 1 →
    exec (.qdescWrite n c q 1 none v t) s = .next (s.upTo t))
  ∧ (∀ (p v t : Nat) (s : State), p < 4 → s.probeOk (merged TPSEL (2 ^ TPSEL.width - 1) (v % 2 ^ 64) (s.raw TPSEL [p])) = true →
    rangesOk (2 ^ TPSEL.width - 1) (merged TPSEL (2 ^ TPSEL.width - 1) (v % 2 ^ 64) (s.raw TPSEL [p])) TPSEL.fields = true →
    exec (.tpselWrite p none v t) s
      = .next ((s.upTo t).setRaw TPSEL [p] (stored TPSEL (2 ^ TPSEL.width - 1) (v % 2 ^ 64) (s.raw TPSEL [p]))))

/-- R23, R298, R378: CXL.mem reads and writes reach tier 2 and the acquisition ring; outside both a read is poisoned and counted and a
write is dropped and counted. -/
def Sys2Proof.Claims.CxlMemoryAccesses : Prop :=
  ∀ (a t : Nat) (bs : List Byte) (s : State),
    (a + 64 ≤ s.tier2Bytes → s.tier2Lost = false →
      exec (.cxlMemRead a t) s = .next ((s.upTo t).emit (.memValue a (some ((List.range 64).map (fun i => Sparse.get 0 s.tier2 (a + i)))))))
    ∧ (a + 64 ≤ s.tier2Bytes → s.tier2Lost = true →
      exec (.cxlMemRead a t) s = .next (((s.upTo t).emit (.memValue a none)).bump HOSTCNT.poison []))
    ∧ (s.tier2Bytes < a + 64 → 0x020000000000 ≤ a → a + 64 ≤ 0x020000000000 + s.ringBytes →
      exec (.cxlMemRead a t) s
        = .next ((s.upTo t).emit (.memValue a (some ((List.range 64).map (fun i => Sparse.get 0 s.acq.ring (a - 0x020000000000 + i)))))))
    ∧ (s.tier2Bytes < a + 64 → (a < 0x020000000000 ∨ 0x020000000000 + s.ringBytes < a + 64) →
      exec (.cxlMemRead a t) s = .next (((s.upTo t).emit (.memValue a none)).bump HOSTCNT.oor_read []))
    ∧ (a + bs.length ≤ s.tier2Bytes → Sparse.sorted s.tier2 = true →
      ∃ u, exec (.cxlMemWrite a t bs) s = .next u ∧ u = { s with now := max s.now t, tier2 := u.tier2 }
        ∧ ∀ i, Sparse.get 0 u.tier2 i = if a ≤ i ∧ i < a + bs.length then bs.getD (i - a) 0 else Sparse.get 0 s.tier2 i)
    ∧ (s.tier2Bytes < a + bs.length → 0x020000000000 ≤ a → a + bs.length ≤ 0x020000000000 + s.ringBytes → Sparse.sorted s.acq.ring = true →
      ∃ u, exec (.cxlMemWrite a t bs) s = .next u ∧ u = { s with now := max s.now t, acq := { s.acq with ring := u.acq.ring } }
        ∧ ∀ i, Sparse.get 0 u.acq.ring i = if a - 0x020000000000 ≤ i ∧ i < a - 0x020000000000 + bs.length then bs.getD (i - (a - 0x020000000000)) 0
            else Sparse.get 0 s.acq.ring i)
    ∧ (s.tier2Bytes < a + bs.length → (a < 0x020000000000 ∨ 0x020000000000 + s.ringBytes < a + bs.length) →
      exec (.cxlMemWrite a t bs) s = .next ((s.upTo t).bump HOSTCNT.oor_write []))

namespace Sys2Proof.Claims

/-- Array `a` of die `n` alone may differ among the arrays. -/
def ArrsBut (s t : State) (n a : Nat) : Prop := ∀ m k, key2 m k ≠ key2 n a → t.arr m k = s.arr m k

/-- The exact sum of products of a column of signed bytes (R109, R114, R115). -/
def byteColumn (x w : Nat → Byte) (c : Nat) : Int :=
  ((List.range 128).map (fun r => (x r).toInt * (w (128 * c + r)).toInt)).sum

/-- The token of a raw output of one column (R119, R121). -/
def rawToken (s : State) (n a o : Nat) (acc : Accum) (v : Vec) : Token :=
  { data := BitVec.ofInt 64 (Sparse.get 0 acc.sums (s.rd AODESC.first [n, a, o]))
    addr := BitVec.ofNat 28 (n * 2 ^ 24 + 3 * 2 ^ 21 + s.rd AODESC.place [n, a, o] * 2 ^ 15)
    operand := s.rd AODESC.pos [n, a, o], tag := v.tag, prompt := s.arrPrompt n a, epoch := v.epoch, status := acc.status
    beat := v.beat, copy := v.copy }

/-- The weights a register reads of a store set, and its sidecar (R110). -/
def Holds (w : WReg) (x : Arr) (st : Nat) : Prop :=
  (∀ i, i < 65536 → Sparse.get 0 w.weights i = Sparse.get 0 x.store (65536 * st + i))
  ∧ ∀ i, i < 8192 → Sparse.get 0 w.sidecar i = Sparse.get 0 x.sidecar (8192 * st + i)

end Sys2Proof.Claims

/-- R114, R115: with byte codes and no block scales a column of the 8-bit class sums its signed products exactly. -/
def Obligations.ByteColumnsAreExact : Prop :=
  ∀ (v : VecIn) (c : Nat), v.cls = 0 → v.xf = ⟨.int 8, 0, 0⟩ → v.wf = ⟨.int 8, 0, 0⟩ → v.L = 0 →
    v.narrowCol c = (byteColumn (fun r => v.vec.data.getD r 0) (Sparse.get 0 v.reg.weights) c, 0, false)

/-- R108, R110, R117: a vector that opens an accumulation of signed bytes puts the exact column sums into it; a failed array or another
epoch discards it; one that names a register being filled waits. -/
def Sys2Proof.Claims.ArrayVectorsAccumulate : Prop :=
  ∀ (n a : Nat) (v : Vec) (t : Nat) (s : State),
    ((s.flag ASTAT.failed [n, a] = true ∨ v.epoch ≠ s.rd ASTAT.epoch [n, a]) →
      exec (.arrayVector n a v t) s = .next (({ s.upTo t with
        feed := eraseFirst (n, a, v) s.feed, lastVec := Sparse.insert s.lastVec (key2 n a) v } : State).bump ACNT_ERR.discard [n, a]))
    ∧ (s.flag ASTAT.failed [n, a] = false → v.epoch = s.rd ASTAT.epoch [n, a] → (s.arr n a).waiting = [] →
        (s.arr n a).pendingFill (hReg v) = true →
      exec (.arrayVector n a v t) s = .next (({ s.upTo t with
        feed := eraseFirst (n, a, v) s.feed, lastVec := Sparse.insert s.lastVec (key2 n a) v } : State).setArr n a
          { s.arr n a with waiting := [v] }))
    ∧ (s.flag ASTAT.failed [n, a] = false → v.epoch = s.rd ASTAT.epoch [n, a] → (s.arr n a).waiting = [] → (s.arr n a).fills = [] →
        (s.arr n a).held = false → (s.arr n a).acc = none → v.header = 2 → (s.arr n a).regA.filled = true →
        (s.arr n a).regA.faulty = false → s.setOf n a (s.arr n a).regA.logical = (0, 0, 0, 0) → v.status = 0 → Sparse.sorted s.regs = true →
      ∃ u acc, exec (.arrayVector n a v t) s = .next u
        ∧ u = { s with now := max s.now t, feed := eraseFirst (n, a, v) s.feed, lastVec := u.lastVec, arrs := u.arrs, regs := u.regs
                       pwr := { s.pwr with winVec := u.pwr.winVec } }
        ∧ ArrsBut s u n a ∧ (u.arr n a).acc = some acc ∧ acc.chunk = 1 ∧ acc.float = false ∧ acc.status = 0 ∧ acc.poison = []
        ∧ (∀ c, c < 512 → Sparse.get 0 acc.sums c
            = byteColumn (fun r => v.data.getD r 0) (Sparse.get 0 (s.arr n a).regA.weights) c)
        ∧ u.rd ACNT_VEC.vectors [n, a] = (s.rd ACNT_VEC.vectors [n, a] + 1) % 2 ^ 64
        ∧ u.rd ACNT_ERR.header [n, a] = s.rd ACNT_ERR.header [n, a])

/-- R119 to R121: a descriptor toward a gate puts a raw column sum into one token of the gate's beat. -/
def Sys2Proof.Claims.RawOutputsReachTheGate : Prop :=
  ∀ (n a o bank : Nat) (acc : Accum) (v : Vec) (s : State), s.rd AODESC.kind [n, a, o] = 1 → s.rd AODESC.fmt [n, a, o] = 3 →
    s.rd AODESC.count [n, a, o] = 1 → s.rd AODESC.first [n, a, o] ∉ acc.poison →
    ∃ u, s.emitDesc n a acc v bank 0 o = u ∧ u = { s with regs := u.regs, inFlight := u.inFlight }
      ∧ u.inFlight = s.inFlight ++ [{ tok := rawToken s n a o acc v, edge := .none }]

/-- R110, R127: the oldest fill ends: its register holds the set's weights and sidecar, and its errors are counted. -/
def Sys2Proof.Claims.FillsComplete : Prop :=
  ∀ (n a corrected t : Nat) (f : Fill) (fs : List Fill) (s : State), (s.arr n a).fills = f :: fs → (s.arr n a).waiting = [] →
    Sparse.sorted (s.arr n a).store = true → Sparse.sorted (s.arr n a).sidecar = true → Sparse.sorted s.arrs = true →
    f.reg ≤ 1 → Sparse.sorted s.regs = true →
    ∃ u, exec (.fillComplete n a corrected 0 t) s = .next u ∧ u = { s with now := max s.now t, arrs := u.arrs, regs := u.regs }
      ∧ ArrsBut s u n a ∧ (u.arr n a).fills = fs
      ∧ ((u.arr n a).wreg f.reg).filled = true ∧ ((u.arr n a).wreg f.reg).logical = f.set
      ∧ ((u.arr n a).wreg f.reg).faulty = !s.flag ASETDESC.valid [n, a, f.set]
      ∧ Holds ((u.arr n a).wreg f.reg) (s.arr n a) (s.setMap n a (s.rd ASTAT.epoch [n, a]) f.set)
      ∧ u.rd AECC.corrected [n, a] = min (s.rd AECC.corrected [n, a] + corrected) (2 ^ AECC.corrected.w - 1)

/-- R112: a management write reaches the store of an array that may take it and is refused and counted where a running prompt job maps the
set; a goat reaches the sets of a bulk array alone. -/
def Sys2Proof.Claims.StoreWrites : Prop :=
  ∀ (n a off : Nat) (bs : List Byte) (s : State),
    (s.arrPrompt n a = true → exec (.storeWrite n a 0 off bs true) s = .next s)
    ∧ (s.arrPrompt n a = true → s.setMapped n a (off / 65536) = true → s.rd DIESTAT.state [n] = 3 →
      exec (.storeWrite n a 0 off bs false) s = .next (s.bump ACNT_ERR.store_refused [n, a]))
    ∧ (s.arrPrompt n a = true → (s.setMapped n a (off / 65536) = false ∨ s.rd DIESTAT.state [n] ≠ 3) →
      exec (.storeWrite n a 0 off bs false) s = .next (s.setArr n a { s.arr n a with store := Sparse.setBytes (s.arr n a).store off bs }))
    ∧ (∀ g, s.arrPrompt n a = false → (s.arr n a).fills = [] →
      exec (.storeWrite n a 0 off bs g) s = .next (s.setArr n a { s.arr n a with store := Sparse.setBytes (s.arr n a).store off bs })
      ∧ exec (.storeWrite n a 1 off bs g) s = .next (s.setArr n a { s.arr n a with sidecar := Sparse.setBytes (s.arr n a).sidecar off bs }))
    ∧ exec (.storeWrite n a 2 off bs false) s = .next (s.setArr n a { s.arr n a with scale := Sparse.setBytes (s.arr n a).scale off bs })
    ∧ exec (.storeWrite n a 2 off bs true) s = .next s

/-- R88, R124, R127, R369: ballast slots and windows, and what a scrub read of an array's store finds. -/
def Sys2Proof.Claims.BallastAndStoreScrub : Prop :=
  (∀ (n a : Nat) (s : State),
    ((s.arr n a).waiting = [] → ((s.arr n a).recent.filter id).length < s.rd ABALLAST.level [n, a] →
      exec (.ballastSlot n a) s = .next (((s.setArr n a { s.arr n a with recent := (true :: (s.arr n a).recent).take 15 }).addWrap
        ACNT_BALLAST.slots [n, a] 1).emit (.ballast n a)))
    ∧ ((s.arr n a).waiting ≠ [] ∨ s.rd ABALLAST.level [n, a] ≤ ((s.arr n a).recent.filter id).length →
      exec (.ballastSlot n a) s = .next s))
  ∧ (∀ (n a v r : Nat) (s : State), v = Sparse.get 0 s.pwr.winVec (key2 n a) → r = Sparse.get 0 s.pwr.ra (key2 n a) →
    exec (.ballastWindow n a) s = .next (({ s with pwr := { s.pwr with
      winVec := Sparse.set 0 s.pwr.winVec (key2 n a) 0
      winMax := Sparse.set 0 s.pwr.winMax (key2 n a) (max (Sparse.get 0 s.pwr.winMax (key2 n a)) v) } } : State).wr
        ABALLAST.level [n, a] (if s.flag PWRSTAT.forced [] then 0 else min (s.rd ABALLAST.ceiling [n, a]) (r - v))))
  ∧ (∀ (n a w : Nat) (s : State), s.flag ASCRUB.enable [n, a] = true →
    exec (.storeScrub n a w .clean) s = .next s
    ∧ (s.arrPrompt n a = false → exec (.storeScrub n a w .single) s = .next (s.bump AECC.corrected [n, a]))
    ∧ (s.arrPrompt n a = true → w ∉ (s.arr n a).repair → (s.arr n a).repair.length < 16 →
      exec (.storeScrub n a w .single) s = .next (((s.bump AECC.corrected [n, a]).setArr n a
        { s.arr n a with repair := (s.arr n a).repair ++ [w] }).wr AREPAIR.pending [n, a] ((s.arr n a).repair.length + 1)))
    ∧ (∀ v, ∃ u, exec (.storeScrub n a w (.double v)) s = .next u
        ∧ u = { s with regs := u.regs, olm := u.olm, flt := { s.flt with notes := s.flt.notes ++
            [{ cls := 6, die := n, unit := a, cause := 6, bulk := !s.arrPrompt n a }] } }))

namespace Sys2Proof.Claims

/-- The state as a token has just reached a quantiser. -/
def atQuant (s : State) (n c : Nat) (f : Flit) (t : Nat) : State := (s.upTo t).arrive (.quant n c f.tok.index) f

/-- The stream is one that takes gallery words (R149). -/
def TakesWords (s : State) (n c q : Nat) : Prop :=
  s.rd QDESC0.op [n, c, q] = 1 ∧ s.rd QDESC0.src [n, c, q] = 0 ∧ (s.stream n c q).started = true

/-- The stream is one that runs SRAM passes (R149). -/
def TakesPasses (s : State) (n c q : Nat) : Prop :=
  s.rd QDESC0.op [n, c, q] ≠ 0 ∧ s.rd QDESC0.src [n, c, q] = 2 ∧ (s.stream n c q).started = true

/-- The elements of a gallery word in a source format, lowest lane first (R130). -/
def wordCodes (fmt : Nat) (d : W64) : List Nat := (List.range (64 / fmtLane fmt)).map (fun j => bitsOf d.toNat (j * fmtLane fmt) (fmtLane fmt))

end Sys2Proof.Claims

/-- R149 to R151: a word of another epoch or of a stream that takes none is discarded and counted; one in order returns its credit and its
elements go through the stream; one out of order is flagged, counted, and marked FAULT. -/
def Sys2Proof.Claims.QuantiserWords : Prop :=
  ∀ (n c : Nat) (f : Flit) (t q : Nat) (s : State), q = f.tok.index → f.tok.kind ≠ 3 →
    (f.tok.epoch ≠ s.rd QSTAT.epoch [n, c] → s.carryEdge n f.edge = false →
      exec (.quantWord n c f t) s = .next (((atQuant s n c f t).bump QCNT.discard [n, c]).owe f.edge))
    ∧ (f.tok.epoch = s.rd QSTAT.epoch [n, c] → TakesWords s n c q → f.tok.operand = (s.stream n c q).wordPos % 8 →
      exec (.quantWord n c f t) s = .next (((atQuant s n c f t).owe f.edge).qTake n c q (s.qcfg n c q)
        (wordCodes (s.qcfg n c q).sfmt f.tok.data)
        { num := (s.stream n c q).wordPos, tag := f.tok.tag, beat := f.tok.beat, copy := f.tok.copy, status := f.tok.status }))
    ∧ (f.tok.epoch = s.rd QSTAT.epoch [n, c] → TakesWords s n c q → f.tok.operand ≠ (s.stream n c q).wordPos % 8 →
      exec (.quantWord n c f t) s = .next (((((atQuant s n c f t).bump QCNT.order [n, c]).wr QSTAT.order_fault [n, c] 1).owe f.edge).qTake n c q
        (s.qcfg n c q) (wordCodes (s.qcfg n c q).sfmt f.tok.data)
        { num := (s.stream n c q).wordPos, tag := f.tok.tag, beat := f.tok.beat, copy := f.tok.copy, status := f.tok.status ||| stFault }))

/-- R121, R149, R151: return lines go to the running stream that takes them, or are discarded and counted. -/
def Sys2Proof.Claims.QuantiserReturnLines : Prop :=
  ∀ (n c t : Nat) (r : RetLine) (pre post : List RetLine) (s : State), s.returns = pre ++ r :: post →
    (∀ x ∈ pre, x.die = n → x.clu ≠ s.logClu n c) → r.die = n → r.clu = s.logClu n c →
    (s.returnStream n c = none →
      exec (.quantReturn n c t) s = .next (({ s.upTo t with returns := pre ++ post } : State).bump QCNT.discard [n, c]))
    ∧ (∀ q, s.returnStream n c = some q → r.epoch ≠ s.rd QSTAT.epoch [n, c] →
      exec (.quantReturn n c t) s = .next (({ s.upTo t with returns := pre ++ post } : State).bump QCNT.discard [n, c]))
    ∧ (∀ q, s.returnStream n c = some q → r.epoch = s.rd QSTAT.epoch [n, c] →
      exec (.quantReturn n c t) s = .next (({ s.upTo t with returns := pre ++ post } : State).qTake n c q (s.qcfg n c q)
        ((List.range (r.bytes.length * 8 / fmtLane (s.qcfg n c q).sfmt)).map (fun j =>
          bitsOf (leNat r.bytes) (j * fmtLane (s.qcfg n c q).sfmt) (fmtLane (s.qcfg n c q).sfmt)))
        { num := (s.stream n c q).wordPos, tag := r.tag, status := r.status, beat := r.beat, copy := r.copy }))

/-- R149: a start token queues its pass and, where the pass fits the SRAM, its reads wait at the banks, one for each 128 bytes; one of
another kind of stream is discarded. -/
def Sys2Proof.Claims.SramPassesBegin : Prop :=
  ∀ (n c : Nat) (f : Flit) (t q : Nat) (s : State), q = f.tok.index → f.tok.epoch = s.rd QSTAT.epoch [n, c] →
    (TakesPasses s n c q → (s.qcfg n c q).passBad (passOf f.tok) = true →
      exec (.sramPass n c f t) s = .next (((atQuant s n c f t).owe f.edge).setStream n c q
        { s.stream n c q with passes := (s.stream n c q).passes ++ [passOf f.tok] }))
    ∧ (TakesPasses s n c q → (s.qcfg n c q).passBad (passOf f.tok) = false →
      ∃ u, exec (.sramPass n c f t) s = .next u
        ∧ u = { ((atQuant s n c f t).owe f.edge).setStream n c q
            { s.stream n c q with passes := (s.stream n c q).passes ++ [passOf f.tok] } with clus := u.clus }
        ∧ (∀ m k, cluKey m k ≠ cluKey n c → u.clu m k = s.clu m k)
        ∧ (Sparse.sorted s.clus = true → u.clu n c = { s.clu n c with bankQ := (s.clu n c).bankQ ++
            (List.range ((planeBytes (s.qcfg n c q).sfmt (passOf f.tok).count + 127) / 128)).map (fun i =>
              { who := .quant n c, addr := bitsOf f.tok.data.toNat 0 22 + 128 * i, op := .wideRead, arrived := max s.now t }) }))
    ∧ (s.rd QDESC0.src [n, c, q] ≠ 2 →
      exec (.sramPass n c f t) s = .next (((atQuant s n c f t).bump QCNT.discard [n, c]).owe f.edge))

/-- R149, R151: the end of a pass: one that did not fit is flagged, reported and answered with FAULT and data 0; a measuring pass leaves
the SRAM alone. -/
def Sys2Proof.Claims.SramPassesEnd : Prop :=
  ∀ (n c q t : Nat) (p : Pass) (ps : List Pass) (s : State), (s.stream n c q).passes = p :: ps →
    ((s.qcfg n c q).passBad p = true → ∃ u v, exec (.passComplete n c q t) s = .next u
      ∧ v = ((((s.upTo t).setStream n c q { s.stream n c q with passes := ps }).wr QSTAT.pass_fault [n, c] 1).fltNote 0x07 n c 11
          (!s.cluPrompt n c))
      ∧ u = v.qNotify n c q (v.notifyTok n c q 0 0 (p.start.tag, p.start.status ||| stFault, p.start.beat, p.start.copy)))
    ∧ ((s.qcfg n c q).passBad p = false → (s.qcfg n c q).op = 2 → Sparse.sorted s.clus = true →
      ∃ u, exec (.passComplete n c q t) s = .next u ∧ (u.clu n c).sram = (s.clu n c).sram
        ∧ (Sparse.sorted s.quants = true → ∀ x, u.slot n c x = s.slot n c x) ∧ u.regs = (((s.upTo t).setStream n c q
            { s.stream n c q with passes := ps }).takeSeed n c q).regs)

/-- R156: a snapshot shows a statistics slot, and with clear empties it. -/
def Sys2Proof.Claims.SnapshotsShowStatistics : Prop :=
  ∀ (n c q : Nat) (x : StatSlot) (s : State), x = s.slot n c q → Sparse.sorted s.regs = true → q < 16 →
    ∃ u, exec (.qsnapTake n c q) s = .next u ∧ u = { s with regs := u.regs }
      ∧ u.rd QSNAP.slot [n, c] = q ∧ u.rd QSCOUNT.value [n, c] = x.count % 2 ^ 64 ∧ u.rd QSMAXERR.value [n, c] = x.maxErr % 2 ^ 32
      ∧ u.rd QSSAT.value [n, c] = x.sat % 2 ^ 32 ∧ u.rd QSDEGEN.value [n, c] = x.degen % 2 ^ 32 ∧ u.rd QSNAN.value [n, c] = x.nan % 2 ^ 32
      ∧ u.rd QSTENSOR.value [n, c] = x.tid % 2 ^ QSTENSOR.value.w ∧ u.rd QSSEED.value [n, c] = x.seed % 2 ^ 64
      ∧ u.rd QSMIN.value [n, c] = x.minv % 2 ^ 32 ∧ u.rd QSMAX.value [n, c] = x.maxv % 2 ^ 32
      ∧ (∀ w, w < 10 → u.rd QSSE.sum [n, c, w] = x.sse / 2 ^ (64 * w) % 2 ^ 64)
      ∧ exec (.qsnapTakeClear n c q) s = .next (u.setSlot n c q {})

namespace Sys2Proof.Claims

/-- Domain time goes on from tick `w` at the value `base` and the rate `inc`; before it the former registers hold; nothing else differs
but the tick used up. -/
def Rebased (s t : State) (w base inc : Nat) : Prop :=
  t.timeSeg = { tref := w % 2 ^ 64, tbase := base % 2 ^ 96, tinc := inc }
  ∧ (w < 2 ^ 64 → t.domainAt (w * tickPs) = base % 2 ^ 96 ∧ ∀ ps, ps / vernierPs < 8 * w → t.domainAt ps = s.domainAt ps)
  ∧ RegsBut s t [TREF.addr [], TBASE_LO.addr [], TBASE_HI.addr [], TINC.addr []]
  ∧ t = { s with regs := t.regs, segs := s.timeSeg :: s.segs, vote := { s.vote with timeTick := w } }

/-- The base and the length of an event's train, and its occurrences that have passed by instant `u` (R271). -/
def passedBy (base period count u n : Nat) : Prop := base + n * period ≤ u ∧ (count = 0 ∨ n < count)

/-- Pin `p` is idle: no pulse of its own is under way. -/
def PinIdle (s : State) (p : Nat) : Prop := (s.tpin p).until_ = none

/-- An edge at `t` on pin `p` asks for something: its mode is 4 and its rule takes pin edges (R272, R283). -/
def PinAsks (s : State) (p : Nat) : Prop :=
  s.rd TIOCFG.mode [p] = 4 ∧ s.flag VRULE0.enable [s.rd TIOACT.rule [p]] = true ∧ s.flag VRULE0.src [s.rd TIOACT.rule [p]] = true

/-- The request of an edge at `t` on pin `p`. -/
def pinRequest (s : State) (p t : Nat) : TrigReq :=
  { id := s.vote.nextId + 1, rule := s.rd TIOACT.rule [p], action := s.rd VRULE0.action [s.rd TIOACT.rule [p]]
    time := (s.upTo t).domainAt t }

end Sys2Proof.Claims

/-- R263 to R265: rate writes, steps and sets of domain time from BAR0, their refusals, and the snapshot. -/
def Obligations.TimeBaseWrites : Prop :=
  ∀ (v : W64) (h : W32) (s : State), Sparse.sorted s.regs = true →
    (s.rd TCFG.source [] ≠ 0 →
      exec (.tincWrite v) s = .next s ∧ exec (.tadjStep v) s = .next s ∧ exec (.tsetCommit h) s = .next s)
    ∧ (s.rd TCFG.source [] = 0 →
      (rateOk (v.toNat % 2 ^ 48) = false → exec (.tincWrite v) s = .next s)
      ∧ (rateOk (v.toNat % 2 ^ 48) = true → ∃ t, exec (.tincWrite v) s = .next t
          ∧ Rebased s t s.nextTick (domainOf s.timeSeg (8 * s.nextTick)) (v.toNat % 2 ^ 48))
      ∧ (s.tooFar v.toInt = false → ∃ t, exec (.tadjStep v) s = .next t
          ∧ Rebased s t s.nextTick (((domainOf s.timeSeg (8 * s.nextTick) : Int) + v.toInt) % 2 ^ 96).toNat (s.raw TINC []))
      ∧ (s.tooFar v.toInt = true → exec (.tadjStep v) s = .next
          ((((s.takeTick s.nextTick).wr TSTAT.jump_refused [] 1).bump TCNT.steps []).olmWrite 0x0080 (item4 1 ++ item8 v.toNat)))
      ∧ (s.dieBusy = false → ∃ t, exec (.tsetCommit h) s = .next t
          ∧ Rebased (s.upTo (s.nextTick * tickPs)) t s.nextTick (s.raw TSET_LO [] + h.toNat * 2 ^ 64) (s.raw TINC []))
      ∧ (s.dieBusy = true → exec (.tsetCommit h) s = .next
          (((((s.upTo (s.nextTick * tickPs)).takeTick s.nextTick).wr TSTAT.set_refused [] 1).bump TCNT.sets []).olmWrite 0x0080
            (item4 2 ++ leBytes 12 (s.raw TSET_LO [] + h.toNat * 2 ^ 64)))))
    ∧ (∃ t, exec .timeSnap s = .next t ∧ t = { s with regs := t.regs } ∧ t.raw TSNAP_RAW [] = s.rawTicks
        ∧ t.raw TSNAP_LO [] + t.rd TSNAP_HI.value [] * 2 ^ 64 = s.domainAt (s.rawTicks * tickPs) % 2 ^ 96
        ∧ RegsBut s t [TSNAP_RAW.addr [], TSNAP_LO.addr [], TSNAP_HI.addr []])

/-- R271, R272, R289: arming, stopping and the occurrences of time events, and the pin pulses they start and end. -/
def Sys2Proof.Claims.TimeEventsDrivePins : Prop :=
  (∀ (e : Nat) (v : W32) (s : State), e < 16 → Sparse.sorted s.regs = true → Sparse.sorted s.tevents = true →
    (bitOf v.toNat 0 = false → ∃ t, exec (.tecfgWrite e v) s = .next t ∧ t = { s with regs := t.regs, tevents := t.tevents }
      ∧ t.tevent e = {} ∧ t.flag TECFG.enable [e] = false ∧ t.raw TEOCC [e] = 0 ∧ RegsBut s t [TECFG.addr [e], TEOCC.addr [e]])
    ∧ (bitOf v.toNat 0 = true → s.flag TECFG.enable [e] = true → exec (.tecfgWrite e v) s = .next s)
    ∧ (bitOf v.toNat 0 = true → s.flag TECFG.enable [e] = false →
      ∃ t, exec (.tecfgWrite e v) s = .next t ∧ t = { s with regs := t.regs, tevents := t.tevents }
        ∧ t.flag TECFG.enable [e] = true ∧ t.rd TECFG.count [e] = bitsOf v.toNat 8 24
        ∧ (bitOf v.toNat 2 = true → t.tevent e = { waitJob := true })
        ∧ (bitOf v.toNat 2 = false → bitOf v.toNat 1 = false → s.rd TEPER.period [e] ≠ 0 →
            (t.tevent e).armed = true ∧ (t.tevent e).base = s.raw TEBASE [e]
            ∧ (∀ n, n < (t.tevent e).occurred ↔ passedBy (s.raw TEBASE [e]) (s.rd TEPER.period [e]) (bitsOf v.toNat 8 24) (s.now / vernierPs) n)
            ∧ (bitsOf v.toNat 8 24 = 0 ∨ (t.tevent e).occurred < bitsOf v.toNat 8 24 →
                (t.tevent e).next = some ((s.raw TEBASE [e] + (t.tevent e).occurred * s.rd TEPER.period [e]) * vernierPs))
            ∧ (bitsOf v.toNat 8 24 ≠ 0 → bitsOf v.toNat 8 24 ≤ (t.tevent e).occurred → (t.tevent e).next = none))))
  ∧ (∀ (e t : Nat) (s : State), e < 16 → (s.tevent e).armed = true → (s.tevent e).next = some t → s.flag TECFG.mode [e] = false →
    (s.eventPins e = [] → ∃ u, exec (.timeEventOccurrence e) s = .next u
      ∧ u = { s with now := max s.now t, regs := u.regs, tevents := u.tevents } ∧ RegsBut s u [TEOCC.addr [e]]
      ∧ (u.tevent e).occurred = (s.tevent e).occurred + 1
      ∧ (u.tevent e).next = (if s.occLeft e ((s.tevent e).occurred + 1)
          then some (s.occInstant e (s.tevent e).base ((s.tevent e).occurred + 1)) else none))
    ∧ (∀ p, p < 8 → s.eventPins e = [p] → PinIdle s p → ∃ u, exec (.timeEventOccurrence e) s = .next u
      ∧ (u.tevent e).occurred = (s.tevent e).occurred + 1
      ∧ u.tpin p = { s.tpin p with high := true, until_ := some (t + s.rd TIOCFG.width [p] * tickPs) }
      ∧ u.out = s.out ++ [.timePin p (!s.flag TIOCFG.invert [p])]))
  ∧ (∀ (p u : Nat) (s : State), (s.tpin p).until_ = some u →
    exec (.pulseEnd p) s = .next (((s.upTo u).setTpin p { s.tpin p with high := false, until_ := none }).emit
      (.timePin p (s.flag TIOCFG.invert [p]))))

/-- R269, R272: edges captured and read, trigger edges, and the read of a transmit timestamp. -/
def Sys2Proof.Claims.TimePinsAndStampsAreRead : Prop :=
  (∀ (p t : Nat) (s : State), s.rd TIOCFG.mode [p] = 3 →
    ((s.tpin p).edges.length < 16 → exec (.tioCapture p t) s = .next ((s.upTo t).setTpin p
      { s.tpin p with edges := (s.tpin p).edges ++ [t / vernierPs] }))
    ∧ (16 ≤ (s.tpin p).edges.length → exec (.tioCapture p t) s = .next ((s.upTo t).bump TIOCNT.overflow [p])))
  ∧ (∀ (p t : Nat) (s : State), PinAsks s p →
    (s.rd VRULE0.action [s.rd TIOACT.rule [p]] = 1 → s.vote.queue.length < 16 → exec (.tioTrigger p t) s = .next { s.upTo t with vote :=
      { s.vote with nextId := s.vote.nextId + 1, queue := s.vote.queue ++ [pinRequest s p t] } })
    ∧ (s.rd VRULE0.action [s.rd TIOACT.rule [p]] = 1 → 16 ≤ s.vote.queue.length → exec (.tioTrigger p t) s = .next
      (({ s.upTo t with vote := { s.vote with nextId := s.vote.nextId + 1 } }).bump VCNT_QUEUE_DROP.count [])))
  ∧ (∀ (p e : Nat) (es : List Nat) (s : State), Sparse.sorted s.tpins = true →
    ((s.tpin p).edges = e :: es → ∃ u, exec (.tiocapRead p) s = .next u ∧ u = { s with out := u.out, tpins := u.tpins }
      ∧ u.out = s.out ++ [.readValue (TIOCAP.addr [p]) 64 (2 ^ 63 + e % 2 ^ 63)] ∧ u.tpin p = { s.tpin p with edges := es })
    ∧ ((s.tpin p).edges = [] → ∃ u, exec (.tiocapRead p) s = .next u ∧ u.out = s.out ++ [.readValue (TIOCAP.addr [p]) 64 0]
      ∧ (u.tpin p).edges = []))
  ∧ (∀ (n i : Nat) (x : TxStamp) (q : List TxStamp) (s : State), n < 16 → i < 16 → Sparse.get [] s.txts (key2 n i) = x :: q →
    Sparse.sorted s.txts = true → Sparse.sorted s.regs = true →
    ∃ u, exec (.txtsHiRead false n i) s = .next u ∧ u = { s with out := u.out, txts := u.txts, regs := u.regs }
      ∧ u.out = s.out ++ [.readValue (TXTS_HI.addr [n, i]) 64 (s.raw TXTS_HI [n, i])] ∧ Sparse.get [] u.txts (key2 n i) = q
      ∧ u.rd TXTSSTAT.depth [n, i] = q.length % 64
      ∧ (∀ y r, q = y :: r → u.raw TXTS_LO [n, i] = leNat (stampBytes y.time) % 2 ^ 64 ∧ u.flag TXTS_HI.valid [n, i] = true
          ∧ u.rd TXTS_HI.id [n, i] = y.id % 256)
      ∧ (q = [] → u.flag TXTS_HI.valid [n, i] = false))

namespace Sys2Proof.Claims

/-- The node acts on a ring frame: it takes part, the frame is another node's, and no copy of it came within 8 µs (R277). -/
def Heeds (s : State) (f : RingFrame) (t : Nat) : Prop :=
  s.inRing = true ∧ f.origin ≠ s.node
    ∧ ∀ p ∈ s.vote.seen, p.1 = f.origin → p.2.1 = f.seq → p.2.2 + 8000000 < max s.now t

/-- The state once a frame has been forwarded and, where it is acted on, noted. -/
def heard (s : State) (f : RingFrame) (t : Nat) : State := (s.ringIn f t).2

/-- The frames a node sends on for one it receives (R277). -/
def forwarded (s : State) (f : RingFrame) : List Out :=
  if s.flag VCFG.enable [] = true ∧ f.hop + 1 < s.rd VCFG.nodes [] ∧ f.origin ≠ s.node
  then [.ring f.lane (ringBytes f.kind f.origin (f.hop + 1) f.flags f.seq (f.time * 256) f.body)] else []

/-- A frame of the node's own on both lanes, under one number (R275, R277). -/
def onBothLanes (s : State) (kind flags time : Nat) (body : List Byte) : List Out :=
  [.ring 0 (ringBytes kind s.node 0 flags s.vote.seq time body), .ring 1 (ringBytes kind s.node 0 (flags + 1) s.vote.seq time body)]

/-- The rows of frames that are forwarded and, once, acted on. -/
def ringRows : List (RingFrame → Nat → Instr) :=
  [.arm, .fire, .vote, .retract, .arrive, .release, .ready, .readyB, .go, .jobend]

/-- Fires and votes are taken at time `T`: the domain is armed then, and the vote check agrees (R282, R285). -/
def Takes (r : State) (T : Nat) : Prop := r.armedAt T = true ∧ r.flag VSTAT.vote_mismatch [] = false

/-- The act of a FIRE frame at the node (R284). -/
def fireAct (r : State) (f : RingFrame) (at_ : Nat) : ActRec :=
  { at_, time := r.nearest f.time, origin := f.origin, seq := f.seq, rule := rfld f 0 1 % 16, kind := 1, word := BitVec.ofNat 64 (rfld f 4 8) }

/-- What a RETRACT frame names: an act of a fire, or a vote not yet evaluated (R286). -/
def namesAct (f : RingFrame) (x : ActRec) : Prop := x.kind = 1 ∧ x.origin = f.origin ∧ x.seq = BitVec.ofNat 16 (rfld f 0 2)
def namesVote (f : RingFrame) (x : VoteRec) : Prop := x.evaluated = false ∧ x.origin = f.origin ∧ x.seq = BitVec.ofNat 16 (rfld f 0 2)

/-- Time `u` of the target is not too early for a retraction at `T` (R286). -/
def inTime (r : State) (T u : Nat) : Prop := T + nsDom (r.rd VFIRE.bound []) ≤ u + r.actDelay

/-- Vote `v` completes a voted fire: it counts, and at least k origins have counting votes in its window (R285). -/
def CompletesFire (s : State) (v : VoteRec) : Prop :=
  let counts := fun (x : VoteRec) => bitOf (s.raw VVMASK []) x.origin = true ∧ ∀ u, s.vote.lastFire = some u → u < x.time
  1 ≤ s.rd VVOTE.k [] ∧ s.rd VVOTE.k [] ≤ 64 ∧ counts v
  ∧ ∃ os : List Nat, os.Nodup ∧ s.rd VVOTE.k [] ≤ os.length
      ∧ ∀ o ∈ os, ∃ x ∈ s.vote.votes, x.origin = o ∧ (x = v ∨ x.evaluated = true) ∧ x.time ≤ v.time
          ∧ v.time ≤ x.time + nsDom (s.rd VVOTE.window []) ∧ counts x

/-- `v` is the next vote in the order of evaluation: of the least time, then of the least origin (R285). -/
def NextVote (s : State) (v : VoteRec) : Prop := nextVote s.vote.votes = some v

end Sys2Proof.Claims

/-- R276, R277: a frame goes on in its direction with one hop more, and a node acts on it once; what it does not act on changes nothing
else. -/
def Sys2Proof.Claims.RingFramesAreForwardedAndHeededOnce : Prop :=
  ∀ (f : RingFrame) (t : Nat) (s : State),
    (heard s f t).out = s.out ++ forwarded s f
    ∧ ((s.ringIn f t).1 = true ↔ Heeds s f t)
    ∧ (¬ Heeds s f t → heard s f t = { s.upTo t with out := s.out ++ forwarded s f } ∧ ∀ c ∈ ringRows, exec (c f t) s = .next (heard s f t))
    ∧ (Heeds s f t → ¬ Heeds (heard s f t) f t)
    ∧ exec (.badRingFrame t) s = .next ((s.upTo t).bump VCNT_BAD.count [])
    ∧ (s.flag VCFG.enable [] = true → exec (.unknownFrameType f t) s = .next ((heard s f t).bump VCNT_UNKNOWN.count []))

/-- R282, R284, R285: fires and votes at a node, by their times. -/
def Sys2Proof.Claims.FiresAndVotesAreTaken : Prop :=
  ∀ (f : RingFrame) (t T : Nat) (r s : State), Heeds s f t → r = heard s f t → T = r.nearest f.time →
    (r.armedAt T = false → exec (.fire f t) s = .next (r.bump VCNT_DISARMED.count []) ∧ exec (.vote f t) s = .next (r.bump VCNT_DISARMED.count []))
    ∧ (r.armedAt T = true → r.flag VSTAT.vote_mismatch [] = true → exec (.fire f t) s = .next r ∧ exec (.vote f t) s = .next r)
    ∧ (Takes r T →
      (r.actDelay = 0 → exec (.fire f t) s = .next { r with vote := { r.vote with acts := r.vote.acts ++ [fireAct r f r.domNow] } })
      ∧ (r.actDelay ≠ 0 → r.domNow ≤ T + r.actDelay →
        exec (.fire f t) s = .next { r with vote := { r.vote with acts := r.vote.acts ++ [fireAct r f (T + r.actDelay)] } })
      ∧ (r.actDelay ≠ 0 → T + r.actDelay < r.domNow → exec (.fire f t) s = .next ((({ r with vote :=
          { r.vote with acts := r.vote.acts ++ [fireAct r f r.domNow] } } : State).bump VCNT_LATE_ACT.count []).voteEvent 0x11 f.origin f.seq T))
      ∧ (1 ≤ r.rd VVOTE.k [] → r.rd VVOTE.k [] ≤ 64 →
        (r.actDelay = 0 ∨ r.domNow ≤ T + r.actDelay → exec (.vote f t) s = .next { r with vote := { r.vote with votes := r.vote.votes ++
          [{ time := T, origin := f.origin, seq := f.seq, rule := rfld f 0 1 % 16, word := BitVec.ofNat 64 (rfld f 4 8) }] } })
        ∧ (r.actDelay ≠ 0 → T + r.actDelay < r.domNow → exec (.vote f t) s = .next (r.bump VCNT_LATE_VOTE.count []))))

/-- R286: a retraction in time removes what it names and nothing else; one that is too late, or that names nothing, is counted and recorded. -/
def Sys2Proof.Claims.RetractionsInTimeRemove : Prop :=
  ∀ (f : RingFrame) (t T : Nat) (r s : State), Heeds s f t → r = heard s f t → T = r.nearest f.time →
    (((∃ x ∈ r.vote.acts, namesAct f x) ∧ (∀ x ∈ r.vote.acts, namesAct f x → inTime r T x.time)
        ∨ (∀ x ∈ r.vote.acts, ¬ namesAct f x) ∧ (∃ x ∈ r.vote.votes, namesVote f x) ∧ ∀ x ∈ r.vote.votes, namesVote f x → inTime r T x.time) →
      ∃ u, exec (.retract f t) s = .next u ∧ u = { r with regs := u.regs, vote := { r.vote with acts := u.vote.acts, votes := u.vote.votes } }
        ∧ (∀ x, x ∈ u.vote.acts ↔ x ∈ r.vote.acts ∧ ¬ namesAct f x) ∧ (∀ x, x ∈ u.vote.votes ↔ x ∈ r.vote.votes ∧ ¬ namesVote f x)
        ∧ RegsBut r u [VCNT_RETRACT.addr []]
        ∧ (Sparse.sorted r.regs = true → u.rd VCNT_RETRACT.retracted [] = min (r.rd VCNT_RETRACT.retracted [] + 1) (2 ^ VCNT_RETRACT.retracted.w - 1)))
    ∧ ((∀ x ∈ r.vote.acts, namesAct f x → ¬ inTime r T x.time) → (∀ x ∈ r.vote.votes, namesVote f x → ¬ inTime r T x.time) →
      exec (.retract f t) s = .next ((r.bump VCNT_RETRACT.retract_late []).voteEvent 0x13 f.origin (BitVec.ofNat 16 (rfld f 0 2)) T))

/-- R282, R285: arming, by the master's write and by its frame, the vote check, and the change at its time. -/
def Obligations.ArmingTakesEffectAtItsTime : Prop :=
  (∀ (f : RingFrame) (t : Nat) (r s : State) (b : Bool), Heeds s f t → r = heard s f t → b = bitOf (rfld f 1 1) 0 → Sparse.sorted r.regs = true →
    ∃ u, exec (.arm f t) s = .next u ∧ u = { r with regs := u.regs, vote := { r.vote with armNext := u.vote.armNext } }
      ∧ (∀ x, x ∈ u.vote.armNext ↔ x = { effective := r.nearest (rfld f 2 6), armed := b } ∨ x ∈ r.vote.armNext)
      ∧ (r.vote.armNext.Pairwise (fun x y => x.effective ≤ y.effective) → u.vote.armNext.Pairwise (fun x y => x.effective ≤ y.effective))
      ∧ u.flag VSTAT.vote_mismatch [] = (if BitVec.ofNat 32 (rfld f 8 4) ≠ r.voteCheck then true
          else if b = true then false else r.flag VSTAT.vote_mismatch []))
  ∧ (∀ (v : W64) (s : State), (s.flag VCFG.master [] = false ∨ s.vote.yielded = true) → exec (.varmWrite v) s = .next s)
  ∧ (∀ (v : W64) (E : Nat) (s : State), s.flag VCFG.master [] = true → s.vote.yielded = false → E = s.nearest (bitsOf v.toNat 8 48) →
    (E < s.domNow + nsDom (s.rd VFIRE.bound []) → exec (.varmWrite v) s = .next (s.wr VSTAT.arm_refused [] 1))
    ∧ (s.domNow + nsDom (s.rd VFIRE.bound []) ≤ E → s.inRing = true → ∃ u, exec (.varmWrite v) s = .next u
      ∧ u.out = s.out ++ onBothLanes s 0x10 0 s.domNow (leBytes 1 ((s.vote.armGen + 1) % 256) ++ leBytes 1 (b2n (bitOf v.toNat 0))
          ++ leBytes 6 (dom48 E) ++ leBytes 4 s.voteCheck.toNat)
      ∧ (∀ x, x ∈ u.vote.armNext ↔ x = { effective := E, armed := bitOf v.toNat 0 } ∨ x ∈ s.vote.armNext)))
  ∧ (∀ (a : ArmRec) (q : List ArmRec) (s : State), s.vote.armNext = a :: q →
    (a.armed = true ∨ ∀ k, k < 16 → fieldIn ACQSCFG.armed_only (s.acqStream k).cfg ≠ 1) →
    exec .armEffective s = .next (({ s.upTo (s.psOf a.effective) with vote :=
      { s.vote with armNext := q, armPast := s.vote.armPast ++ [a] } } : State).wr VSTAT.armed [] (b2n a.armed)))

/-- R283 to R285: requests are sent four in a microsecond, acts are made at their instants, votes are evaluated in order, and `VACT` is read. -/
def Sys2Proof.Claims.RequestsActsAndVotes : Prop :=
  (∀ (t : Nat) (x : TrigReq) (q : List TrigReq) (s : State), s.vote.queue = x :: q →
    (4 ≤ (s.vote.sent.filter (fun u => decide (max s.now t < u + 1000000))).length → exec (.triggerSend t) s = .next (s.upTo t))
    ∧ ((s.vote.sent.filter (fun u => decide (max s.now t < u + 1000000))).length < 4 → s.inRing = true → x.action = 1 ∨ x.action = 2 →
      ∃ u, exec (.triggerSend t) s = .next u ∧ u.vote.queue = q
        ∧ u.out = s.out ++ onBothLanes s (0x10 + x.action) 0 x.time
            (leBytes 1 x.rule ++ leBytes 1 x.status.toNat ++ leBytes 2 x.beat.toNat ++ leBytes 8 x.word.toNat)))
  ∧ (∀ s : State, s.vote.acts ≠ [] → ∃ a u, a ∈ s.vote.acts ∧ (∀ b ∈ s.vote.acts, a.at_ ≤ b.at_) ∧ exec .act s = .next u
      ∧ u.now = max s.now (s.psOf a.at_) ∧ u.vote.acts = eraseFirst a s.vote.acts
      ∧ u.vote.vact = (if s.vote.vact.length < 16 then s.vote.vact ++ [actEntry a] else s.vote.vact)
      ∧ ∀ p, p < 8 → s.rd TIOCFG.mode [p] = 2 → bitOf (s.rd TIOACT.rules [p]) a.rule = true → PinIdle s p →
          u.tpin p = { s.tpin p with high := true, until_ := some (u.now + s.rd TIOCFG.width [p] * tickPs) })
  ∧ (∀ (v : VoteRec) (s z : State), NextVote s v → z = s.upTo (s.psOf (v.time + s.actDelay)) →
    (CompletesFire s v → exec .voteEvaluation s = .next { z with vote := { s.vote with
      votes := s.vote.votes.filter (fun x => decide (v.time < x.time)), lastFire := some v.time
      acts := s.vote.acts ++ [{ at_ := max (z.actInstant v.time) (v.time + s.actDelay), time := v.time, origin := v.origin, seq := v.seq
                                rule := v.rule, kind := 2, word := v.word }] } })
    ∧ (¬ CompletesFire s v → ∃ u, exec .voteEvaluation s = .next u ∧ u = { z with vote := { s.vote with votes := u.vote.votes } }
        ∧ ∀ x, x ≠ v → x.evaluated = false → (x ∈ u.vote.votes ↔ x ∈ s.vote.votes)))
  ∧ (∀ s : State,
    (∀ v q, s.vote.vact = v :: q → exec .vactRead s = .next { s with
      out := s.out ++ [.readValue (VACT.addr []) 64 v.toNat], vote := { s.vote with vact := q } })
    ∧ (s.vote.vact = [] → exec .vactRead s = .next { s with out := s.out ++ [.readValue (VACT.addr []) 64 0] }))

namespace Sys2Proof.Claims

/-- The delay and the asymmetry of the hop into a lane (R279). -/
def hopDelay (lane : Nat) : Fld := if lane = 0 then VHOP0.delay else VHOP1.delay
def hopAsym (lane : Nat) : Fld := if lane = 0 then VHOP0.asym else VHOP1.asym

/-- Half of what the request and its answer were under way beyond the answering node's turn, with the asymmetry (R279). -/
def measuredHop (s : State) (f : RingFrame) (t1 : Nat) : Nat :=
  min ((diff48 (dom48 s.domNow) t1 - diff48 f.time (rfld f 6 6)) / 2 + signed16 (s.rd (hopAsym f.lane) [])).toNat (2 ^ 32 - 1)

/-- The state once a SYNC frame has been sent on, with its correction and the hop it came by (R280). -/
def synced (s : State) (f : RingFrame) (t : Nat) : State :=
  (s.upTo t).ringForward f (leBytes 8 (rfld f 0 8 + s.rd (hopDelay f.lane) []) ++ List.replicate 4 0)

/-- A follower's SYNC: the node takes part, is no master, and the frame is another's (R280). -/
def Follows (s : State) (f : RingFrame) : Prop :=
  s.inRing = true ∧ f.origin ≠ s.node ∧ (s.flag VCFG.master [] = false ∨ s.vote.yielded = true)

/-- No fewer hops are known from the other lane (R280). -/
def NearerLane (s : State) (f : RingFrame) : Prop :=
  Sparse.get 0 s.vote.syncHops (1 - f.lane) = 0 ∨ f.hop + 1 < Sparse.get 0 s.vote.syncHops (1 - f.lane)
    ∨ (f.hop + 1 = Sparse.get 0 s.vote.syncHops (1 - f.lane) ∧ f.lane = 0)

/-- The counts of a STATUS frame (R276). -/
def statusBody (s : State) : List Byte :=
  leBytes 4 s.vote.late ++ leBytes 2 (min s.vote.fault 65535)
    ++ leBytes 1 (s.leastStep % 16 + b2n (s.flag FLTSTAT.failover []) * 16 + b2n (s.flag VSTAT.vote_mismatch []) * 32
        + b2n (!s.flag TSTAT.locked []) * 64 + b2n s.countFails * 128)
    ++ List.replicate 4 0 ++ leBytes 1 s.ownTag

/-- The state with the clock's own data changed. -/
def withPtp (s : State) (x : Ptp) : State := { s with ptp := x }

end Sys2Proof.Claims

/-- R279, R280: hops are measured each way, a duplicate node number is found, and the master sends SYNC. -/
def Sys2Proof.Claims.HopsAreMeasured : Prop :=
  (∀ (t d : Nat) (s : State), s.inRing = true → d = (s.upTo t).domNow →
    exec (.delayPeriod t) s = .next { s.upTo t with
      out := s.out ++ [.ring 0 (ringBytes 0x02 s.node 0 0 s.vote.seq d []), .ring 1 (ringBytes 0x02 s.node 0 1 (s.vote.seq + 1) d [])]
      vote := { s.vote with seq := s.vote.seq + 1 + 1, delayT1 := [(0, dom48 d + 1), (1, dom48 d + 1)] } })
  ∧ (∀ (f : RingFrame) (t : Nat) (s : State), s.flag VCFG.enable [] = true →
    (f.origin = s.node → exec (.delayReq f t) s = .next ((s.upTo t).wr VSTAT.dup_node [] 1))
    ∧ (f.origin ≠ s.node → s.inRing = true → exec (.delayReq f t) s = .next { s.upTo t with
        out := s.out ++ [.ring (1 - f.lane) (ringBytes 0x03 s.node 0 (1 - f.lane) s.vote.seq (s.upTo t).domNow
          (leBytes 6 f.time ++ leBytes 6 (dom48 (s.upTo t).domNow)))]
        vote := { s.vote with seq := s.vote.seq + 1 } }))
  ∧ (∀ (f : RingFrame) (t t1 : Nat) (s : State), s.inRing = true → f.origin ≠ s.node → f.lane < 2 → Sparse.sorted s.regs = true →
    Sparse.get 0 s.vote.delayT1 (1 - f.lane) = t1 + 1 → rfld f 0 6 = t1 →
    ∃ u, exec (.delayResp f t) s = .next u ∧ u = { s.upTo t with regs := u.regs, vote := { s.vote with delayT1 := u.vote.delayT1 } }
      ∧ u.rd (hopDelay f.lane) [] = measuredHop (s.upTo t) f t1
      ∧ u.flag VSTAT.long_hop [] = (s.flag VSTAT.long_hop [] || decide (30 * 256 < measuredHop (s.upTo t) f t1)))
  ∧ (∀ (t : Nat) (s : State), s.flag VCFG.master [] = true → s.vote.yielded = false → s.inRing = true →
    exec (.syncPeriod t) s = .next { s.upTo t with
      out := s.out ++ onBothLanes s 0x01 0 (s.upTo t).domNow [], vote := { s.vote with seq := s.vote.seq + 1 } })

/-- R267, R280, R281: SYNC goes on corrected; of two masters one yields; a follower steers by the nearer direction, at a rate the
spec leaves open within 200 ppm (log 3); a servo that hears nothing loses its lock. -/
def Sys2Proof.Claims.SyncSteersFollowers : Prop :=
  (∀ (f : RingFrame) (t : Nat) (s : State),
    (f.origin < s.node → s.inRing = true → s.flag VCFG.master [] = true → s.vote.yielded = false → exec (.sync f t) s = .next
      (({ synced s f t with vote := { s.vote with yielded := true } } : State).wr VSTAT.master_conflict [] 1))
    ∧ (s.node < f.origin → s.inRing = true → s.flag VCFG.master [] = true → s.vote.yielded = false → exec (.sync f t) s = .next (synced s f t))
    ∧ (Follows s f → (s.rd TCFG.source [] ≠ 2 ∨ ¬ NearerLane s f) → exec (.sync f t) s = .next (({ synced s f t with vote :=
        { s.vote with syncHops := Sparse.set 0 s.vote.syncHops f.lane (f.hop + 1) } } : State).wr VSTAT.master_node [] f.origin))
    ∧ (Follows s f → s.rd TCFG.source [] = 2 → NearerLane s f → ∃ z, z = (({ synced s f t with vote :=
        { s.vote with syncHops := Sparse.set 0 s.vote.syncHops f.lane (f.hop + 1) } } : State).wr VSTAT.master_node [] f.origin)
        ∧ exec (.sync f t) s = .next (z.servo (((z.nearest f.time + (rfld f 0 8 + s.rd (hopDelay f.lane) []) * 256 : Nat) : Int) - z.domNow))))
  ∧ (∀ (s : State) (o : Int), Sparse.sorted s.regs = true →
    rateOk ((s.servo o).raw TINC []) = true
    ∧ (s.servo o).vote.lockRun = (if o.natAbs ≤ 16384 then s.vote.lockRun + 1 else 0)
    ∧ (s.servo o).flag TSTAT.locked [] = decide (16 ≤ (s.servo o).vote.lockRun))
  ∧ (∀ (t : Nat) (s : State), s.vote.lastSync + 4 * (s.rd VTIME.sync_period [] * 1000000) ≤ max s.now t →
    exec (.servoUnlock t) s = .next (({ s.upTo t with vote := { s.vote with lockRun := 0, syncHops := [] } } : State).wr TSTAT.locked [] 0))

/-- R278, R288: STATUS goes out with its counts and is counted at the job master; a wrong node count and a silent node are found; the
counts of a node are cleared. -/
def Sys2Proof.Claims.StatusFramesCount : Prop :=
  (∀ (t : Nat) (s : State), s.inRing = true → ∃ u, exec (.statusPeriod t) s = .next u
      ∧ u.out = s.out ++ onBothLanes s 0x30 0 (s.upTo t).domNow (statusBody (s.upTo t)) ∧ u.vote.late = 0 ∧ u.vote.fault = 0)
  ∧ (∀ (f : RingFrame) (t : Nat) (s : State), f.origin = s.node → s.inRing = true →
    (s.flag VCFG.star [] = false → f.hop ≠ s.rd VCFG.nodes [] - 1 → exec (.status f t) s = .next ((heard s f t).countBad))
    ∧ (f.hop = s.rd VCFG.nodes [] - 1 → exec (.status f t) s = .next (heard s f t)))
  ∧ (∀ (f : RingFrame) (t : Nat) (s : State), Heeds s f t → f.origin < 64 → Sparse.sorted s.regs = true →
    ∃ u, exec (.status f t) s = .next u ∧ Sparse.get 0 u.vote.statusAt f.origin = max s.now t + 1
      ∧ (s.jobMaster = true → u.flag VNODE.present [f.origin] = true ∧ u.rd VNODE.step [f.origin] = rfld f 6 1 % 16
          ∧ u.rd VNODE.late [f.origin] = min (s.rd VNODE.late [f.origin] + rfld f 0 4) (2 ^ VNODE.late.w - 1)
          ∧ (bitOf (rfld f 6 1) 7 = true → u.flag VSTAT.nodes_mismatch [] = true)))
  ∧ (∀ (n t : Nat) (s : State), s.jobMaster = true → n ≠ s.node → s.flag VNODE.present [n] = true →
    Sparse.get 0 s.vote.statusAt n + 3 * (s.rd VTIME.status_period [] * 1000000) ≤ max s.now t + 1 →
    exec (.nodeMissing n t) s = .next ((((s.upTo t).wr VNODE.present [n] 0).wr VSTAT.node_missing [] 1).voteEvent 0x30 n 0 (s.upTo t).domNow))
  ∧ (∀ (n : Nat) (s : State), exec (.vnodeClear n) s = .next ((s.wr VNODE.late [n] 0).wr VNODE.fault [n] 0))

/-- R267, R268, R281: the ordinary clock answers, measures and follows; a module strapped as a follower never becomes grandmaster. -/
def Sys2Proof.Claims.PtpClockMessages : Prop :=
  (∀ (t src q a c : Nat) (s z : State), s.flag TPTP.enable [] = true → z = s.upTo t →
    (∀ ds, ∃ u, exec (.ptpMessage (.announce src ds) t) s = .next u ∧ u = withPtp z { s.ptp with heard := u.ptp.heard } ∧ (src, ds) ∈ u.ptp.heard)
    ∧ (s.ptp.parent = some src →
        exec (.ptpMessage (.sync src q true a c) t) s = .next (withPtp z { s.ptp with sync := some (src, q, z.domainAt t) })
        ∧ exec (.ptpMessage (.sync src q false a c) t) s = .next (z.ptpOffset ((z.domainAt t : Int) - a - c)))
    ∧ (∀ t2, s.ptp.sync = some (src, q, t2) → exec (.ptpMessage (.followUp src q a c) t) s = .next (z.ptpOffset ((t2 : Int) - a - c)))
    ∧ (s.flag TSTAT.gm [] = true →
        exec (.ptpMessage (.delayReq src q) t) s = .next (z.emit (.ptp (s.rd TPTP.port []) (.delayResp src q (z.domainAt t) 0))))
    ∧ (s.ptp.parent = some src → s.flag TPTP.p2p [] = false → ∀ t3, s.ptp.request = some (t3, q) →
        exec (.ptpMessage (.delayResp src q a c) t) s = .next (withPtp z { s.ptp with
          request := none, delay := (s.ptp.forward + ((a : Int) - t3 - c)) / 2 }))
    ∧ (s.flag TPTP.p2p [] = true → ∀ t1, s.ptp.request = some (t1, q) →
        exec (.ptpMessage (.pdelayResp src q a false c) t) s = .next (withPtp z { s.ptp with
          request := none, delay := ((z.domainAt t : Int) - t1 - c) / 2 }))
    ∧ exec (.ptpMessage (.pdelayReq src q) t) s = .next ((z.emit (.ptp (s.rd TPTP.port []) (.pdelayResp src q (z.domainAt t) true 0))).emit
        (.ptp (s.rd TPTP.port []) (.pdelayRespFollowUp src q (z.domainAt t) 0))))
  ∧ (∀ (t q : Nat) (s z : State), s.flag TPTP.enable [] = true → z = s.upTo t → q = (s.ptp.seq + 1) % 65536 →
    (s.flag TSTAT.gm [] = true →
      exec (.ptpTimer 0 t) s = .next { z with ptp := { s.ptp with seq := q }, out := s.out ++
        [.ptp (s.rd TPTP.port []) (.sync s.part.serial q true 0 0), .ptp (s.rd TPTP.port []) (.followUp s.part.serial q z.domNow 0)] }
      ∧ exec (.ptpTimer 1 t) s = .next { z with ptp := { s.ptp with seq := q }, out := s.out ++ [.ptp (s.rd TPTP.port [])
          (.announce s.part.serial [s.rd TPTP.priority1 [], s.rd TPTP.priority2 [], s.part.serial])] })
    ∧ (s.flag TSTAT.gm [] = false → s.flag TPTP.p2p [] = false → exec (.ptpTimer 2 t) s = .next { z with
        ptp := { s.ptp with seq := q, request := some (z.domNow, q) }, out := s.out ++ [.ptp (s.rd TPTP.port []) (.delayReq s.part.serial q)] })
    ∧ (∃ u, exec (.ptpTimer 3 t) s = .next u
        ∧ (s.straps.timeRole = false → Sparse.sorted s.regs = true → u.flag TSTAT.gm [] = false)))

namespace Sys2Proof.Claims

/-- The state as a start token has just reached a goat. -/
def atGoat (s : State) (n c g : Nat) (f : Flit) (t : Nat) : State := (s.upTo t).arrive (.goat n c g f.tok.index) f

/-- Goat `g` holds the stream, its run and the descriptor read from its memory. -/
def GoatRun (s : State) (n c g d : Nat) (ds : GDesc) (r : GRun) : Prop :=
  (s.goat n c g).desc d = ds ∧ ((s.goat n c g).stream d).run = some r

/-- Descriptor `d` may issue a line now (R16, R220, R224, R230). -/
def MayIssueLine (s : State) (n c g d : Nat) : Prop :=
  s.cluPrompt n c = false ∧ s.flag GTCFG.enable [n, c, g] = true ∧ s.bulkAdmits n = true ∧ (s.goat n c g).lines.length < 32
    ∧ (if s.mayReorder n c g = true then (s.goat n c g).ready d = true else (s.goat n c g).nextReady = some d)

/-- One goat alone may differ among the goats. -/
def GoatsBut (s t : State) (n c g : Nat) : Prop := ∀ m k h, goatKey m k h ≠ goatKey n c g → t.goat m k h = s.goat m k h

/-- The 16 words of a line, the lowest address first (R219). -/
def lineWords (bs : List Byte) : List W64 := (List.range 16).map (fun j => BitVec.ofNat 64 (leNat ((bs.drop (8 * j)).take 8)))

/-- Line `k` of a descriptor's run as it is issued (R219, R220, R222). -/
def issuedLine (s : State) (n d : Nat) (ds : GDesc) (r : GRun) (p : LinePhase) : GLine :=
  { desc := d, k := r.issued
    addr := if s.linePlace n ds r.tok.data.toNat r.issued = .nowhere then none else some (ds.lineAddr r.tok.data.toNat r.issued).toNat
    sram := ds.lineSram r.issued, phase := p }

/-- What a line of the goat's own, and nothing else, changes. -/
def LineIssued (s u : State) (n c g d : Nat) (l : GLine) (r : GRun) : Prop :=
  (u.goat n c g).lines = (s.goat n c g).lines ++ [l] ∧ ((u.goat n c g).stream d).run = some { r with issued := r.issued + 1 }
    ∧ (u.goat n c g).rot = d ∧ GoatsBut s u n c g ∧ u.dram = s.dram ∧ u.tier2 = s.tier2

/-- The one member whose notify a release sends: it holds a credit, and no start token or notify waits behind it. -/
def Alone (s : State) (b : Nat) (a : Arrival) : Prop :=
  (s.barrier b).arrivals = [a] ∧ s.creditOf (.goat a.die a.clu a.goat a.desc) ≠ 0
    ∧ ((s.goat a.die a.clu a.goat).stream a.desc).notes = [] ∧ ((s.goat a.die a.clu a.goat).stream a.desc).waiting = none

/-- An item of the history taps is the next of die `n`. -/
def NextItem (s : State) (n : Nat) (x : HistItem) (rest : List HistItem) : Prop := takeItem n s.histTap = some (x, rest)

/-- The state as the history writer turns to that item, with `k` records written out. -/
def histReady (s : State) (n k t : Nat) (rest : List HistItem) : State := ({ s.upTo t with histTap := rest } : State).histFree n k

end Sys2Proof.Claims

/-- R221, R231: what a start token does at a goat: another epoch's is dropped, one to no triggered descriptor is counted, one to a
waiting descriptor begins its run, one behind a pending start is counted. -/
def Sys2Proof.Claims.StartTokensBeginRuns : Prop :=
  ∀ (n c g t d : Nat) (f : Flit) (ds : GDesc) (s z : State), d = f.tok.index → z = atGoat s n c g f t → f.tok.kind ≠ 3 →
    (s.goat n c g).desc d = ds →
    (f.tok.epoch ≠ (s.die n).bulkEpoch → exec (.goatStart n c g f t) s = .next ((z.owe f.edge).tryFinish n))
    ∧ (f.tok.epoch = (s.die n).bulkEpoch →
      (ds.kind = 0 ∨ ds.trig = false →
        exec (.goatStart n c g f t) s = .next (((((z.bump GTCNT_ERR.range [n, c, g]).wr GTSTAT.excess [n, c, g] 1).fltNote 0x04 n c 10 true).owe
          f.edge).tryFinish n))
      ∧ (1 ≤ ds.kind → ds.kind ≤ 3 → ds.trig = true → ((s.goat n c g).stream d).run = none →
        ∃ u, exec (.goatStart n c g f t) s = .next (u.tryFinish n) ∧ GoatsBut s u n c g
          ∧ ((u.goat n c g).stream d).run = some
              { tok := f.tok, number := ((s.goat n c g).stream d).runs
                appended := if ds.kind = 2 then ((s.goat n c g).queue ds.queue).entries.length else 0 })
      ∧ (1 ≤ ds.kind → ds.kind ≤ 3 → ds.trig = true → ((s.goat n c g).stream d).run ≠ none → ((s.goat n c g).stream d).waiting = none →
        exec (.goatStart n c g f t) s = .next ((z.setGoat n c g ((s.goat n c g).setStream d
          { (s.goat n c g).stream d with waiting := some f })).tryFinish n))
      ∧ (1 ≤ ds.kind → ds.kind ≤ 3 → ds.trig = true → ((s.goat n c g).stream d).run ≠ none → ((s.goat n c g).stream d).waiting ≠ none →
        exec (.goatStart n c g f t) s = .next (((((z.bump GTCNT_ERR.range [n, c, g]).wr GTSTAT.excess [n, c, g] 1).fltNote 0x04 n c 10 true).owe
          f.edge).tryFinish n))
      ∧ (ds.kind = 4 → ds.func = 0 → ds.trig = true → (s.barrier ds.barrier).has n c g d = false →
        exec (.goatStart n c g f t) s = .next (((z.arriveAt ds.barrier n c g d f.tok).owe f.edge).tryFinish n)))

/-- R219, R220, R230: a descriptor that may issues its next line: a read reserves 16 entries, a write takes the 16 oldest, a copy leaves
its queues alone and one out of SRAM waits at the banks. -/
def Sys2Proof.Claims.GoatsIssueLines : Prop :=
  ∀ (n c g d t : Nat) (ds : GDesc) (r : GRun) (s : State), MayIssueLine s n c g d → GoatRun s n c g d ds r →
    (ds.kind = 1 → ∃ u, exec (.lineIssue n c g d t) s = .next u ∧ LineIssued s u n c g d (issuedLine s n d ds r .reading)
        (if s.linePlace n ds r.tok.data.toNat r.issued = .nowhere then { r with fault := true } else r)
      ∧ (u.goat n c g).queue ds.queue = { (s.goat n c g).queue ds.queue with reserved := ((s.goat n c g).queue ds.queue).reserved + 16 })
    ∧ (ds.kind = 2 → ∃ u, exec (.lineIssue n c g d t) s = .next u
      ∧ LineIssued s u n c g d (issuedLine s n d ds r (.writing ((((s.goat n c g).queue ds.queue).entries.take 16).flatMap (fun v => leBytes 8 v.toNat))))
        (if s.linePlace n ds r.tok.data.toNat r.issued = .nowhere then { r with fault := true } else r)
      ∧ (u.goat n c g).queue ds.queue = { (s.goat n c g).queue ds.queue with
          entries := ((s.goat n c g).queue ds.queue).entries.drop 16, leaving := ((s.goat n c g).queue ds.queue).leaving + 16 })
    ∧ (ds.kind = 3 → ∃ u, exec (.lineIssue n c g d t) s = .next u
      ∧ LineIssued s u n c g d (issuedLine s n d ds r (if ds.dir = true then .sram [] else .reading))
        (if s.linePlace n ds r.tok.data.toNat r.issued = .nowhere then { r with fault := true } else r)
      ∧ (u.goat n c g).queues = (s.goat n c g).queues
      ∧ (Sparse.sorted s.clus = true → (u.clu n c).bankQ = (s.clu n c).bankQ ++ (if ds.dir = true then
          [{ who := .goat n c g d r.issued, addr := ds.lineSram r.issued, op := .wideRead, arrived := max s.now t }] else [])))

/-- R220, R223: a read line out of turn waits whole; the one in turn enters the queue as 16 words; a written line is in memory. -/
def Sys2Proof.Claims.LinesLandInOrder : Prop :=
  (∀ (n c g d k t a : Nat) (ds : GDesc) (r : GRun) (l : GLine) (s : State), GoatRun s n c g d ds r → (s.goat n c g).line d k = some l →
    l.phase = .reading → ds.kind = 1 → s.linePlace n ds r.tok.data.toNat k = .tier1 a →
    ((∀ m ∈ (s.goat n c g).lines, m.desc = d → m.k ≠ r.done) → ∃ u, exec (.lineComplete n c g d k 0 false t) s = .next u
      ∧ u.goat n c g = (s.goat n c g).setLine d k (.landed (Sparse.getBytes (s.tier1 n) a 128)) ∧ GoatsBut s u n c g ∧ u.dram = s.dram)
    ∧ ((s.goat n c g).lines = [l] → k = r.done → ∃ u, exec (.lineComplete n c g d k 0 false t) s = .next u
      ∧ ((u.goat n c g).queue ds.queue).entries
          = ((s.goat n c g).queue ds.queue).entries ++ lineWords (Sparse.getBytes (s.tier1 n) a 128)
      ∧ (u.goat n c g).lines = [] ∧ GoatsBut s u n c g ∧ u.dram = s.dram))
  ∧ (∀ (n c g d k t a : Nat) (bs : List Byte) (ds : GDesc) (r : GRun) (l : GLine) (s : State), GoatRun s n c g d ds r →
    (s.goat n c g).line d k = some l → l.phase = .writing bs → s.linePlace n ds r.tok.data.toNat k = .tier1 a → bs.length = 128 →
    Sparse.sorted s.dram = true →
    ∃ u, exec (.writeAccepted n c g d k t) s = .next u ∧ u.tier2 = s.tier2 ∧ (∀ m, m ≠ n → u.tier1 m = s.tier1 m)
      ∧ (∀ x, x < a ∨ a + 128 ≤ x → Sparse.get 0 (u.tier1 n) x = Sparse.get 0 (s.tier1 n) x)
      ∧ (Sparse.sorted (s.tier1 n) = true → ∀ i, (h : i < bs.length) → Sparse.get 0 (u.tier1 n) (a + i) = bs[i]))

/-- R217, R226, R230: the patrol scrubber, refresh, hot DRAM, and the pacer, which at step r admits r + 1 phases of 16. -/
def Sys2Proof.Claims.MemoryUpkeepAndPacer : Prop :=
  (∀ (n a k : Nat) (s : State), s.flag T1SCRUB.enable [n] = true →
    exec (.patrolScrub 1 n a k false) s = .next (s.add T1ECC.corrected [n] k)
    ∧ exec (.patrolScrub 1 n a k true) s = .next (((((s.add T1ECC.corrected [n] k).bump T1ECC.uncorrected [n]).setRaw T1ERRADDR [n]
        (a % 2 ^ 41 + 2 ^ 41 + 2 ^ 63)).olmWrite 0x0050 (item4 1 ++ item8 a ++ item4 1))))
  ∧ (∀ (n a k : Nat) (s : State), exec (.patrolScrub 2 n a k false) s = .next (s.add T2ECC.corrected (pkgIdx (s.tier2Package a)) k))
  ∧ (∀ (tier n ch t : Nat) (s : State), exec (.refresh tier n ch t) s = .next (s.upTo t))
  ∧ (∀ (n b : Nat) (s : State), b < 2 → Sparse.sorted s.regs = true →
    (∃ u, exec (.dramHot n b true) s = .next u ∧ u.flag T1STAT.hot [n] = true)
    ∧ ((∀ j ∈ s.pwr.hot, j / 2 = n → j = 2 * n + b) → ∃ u, exec (.dramHot n b false) s = .next u ∧ u.flag T1STAT.hot [n] = false))
  ∧ (∀ (n : Nat) (s : State), ∃ u, exec (.pacerPhase n) s = .next u ∧ u = { s with pacer := u.pacer }
      ∧ (Sparse.sorted s.pacer = true → Sparse.get 0 u.pacer n = (Sparse.get 0 s.pacer n + 1) % 16))
  ∧ (∀ r, r < 16 → ((List.range 16).filter (phaseAdmits r)).length = r + 1)

/-- R228, R229, R256: a tapped frame becomes a record at the ring's next place and joins the chain, or finds no room and is dropped. -/
def Sys2Proof.Claims.HistoryRecordsAreWritten : Prop :=
  (∀ (n k t : Nat) (x : HistItem) (rest : List HistItem) (s : State), NextItem s n x rest → s.flag HISTCFG.active [n] = false →
    exec (.historyFrame n k t) s = .next { s.upTo t with histTap := rest })
  ∧ (∀ (n k t : Nat) (p : Tap) (rest : List HistItem) (s z : State), NextItem s n (.frame p) rest → s.flag HISTCFG.active [n] = true →
    z = histReady s n k t rest →
    (64 < z.rd HISTQ.in_use [n] + (p.bytes.length + 255) / 256 → exec (.historyFrame n k t) s = .next
      (({ z with hists := Sparse.set {} z.hists n { Sparse.get {} z.hists n with dropped := true } } : State).bump PCNT_TAPDROP.count [n, p.port]))
    ∧ (∀ (bs : List Byte), z.rd HISTQ.in_use [n] + (p.bytes.length + 255) / 256 ≤ 64 →
      bs = histRecord 0 p.port (!p.failed) p.beat.isSome p.excess (match p.beat with | some b => b.toNat | none => 0)
        (s.rd GEPOCH.epoch [n]) 0 (p.first / vernierPs) (s.rd HISTSEQ.value [n]) p.bytes →
      s.rd HISTPTR.value [n] + bs.length ≤ (Sparse.get {} s.hists n).size → n < 16 → Sparse.sorted s.regs = true → Sparse.sorted s.dram = true →
      Sparse.sorted s.hists = true → (Sparse.get {} s.hists n).since ≤ p.first →
      ∃ u, exec (.historyFrame n k t) s = .next u
        ∧ u.tier1 n = Sparse.setBytes (s.tier1 n) ((s.die n).history + s.rd HISTPTR.value [n]) bs
        ∧ u.rd HISTSEQ.value [n] = (s.rd HISTSEQ.value [n] + 1) % 2 ^ HISTSEQ.value.w
        ∧ (∀ m, m ≠ n → u.tier1 m = s.tier1 m) ∧ u.tier2 = s.tier2))
  ∧ (∀ (n : Nat) (v : W32) (s : State), exec (.histqWrite n v) s = .next (s.wr HISTQ.peak [n] 0))

/-- R231, R287: the ring's part of a barrier, its release, and its limit. -/
def Sys2Proof.Claims.BarriersAreReleased : Prop :=
  (∀ (f : RingFrame) (t : Nat) (j : Job) (s r : State), Heeds s f t → r = heard s f t → s.jobOfTag (rfld f 11 1) = some j →
    (j.rank = 0 → ∃ u, exec (.arrive f t) s = .next u ∧
      ({ barrier := rfld f 0 1 % 16, generation := rfld f 1 2 % 4096, node := f.origin, first := r.nearest (rfld f 5 6), last := r.nearest f.time
         die := rfld f 3 1 % 16, clu := rfld f 4 1 % 64, done := bitOf f.flags 2 } : ArriveRec) ∈ u.vote.arrives)
    ∧ (rfld f 1 2 % 4096 = s.rd BARSTAT.generation [rfld f 0 1 % 16] → (s.barrier (rfld f 0 1 % 16)).arrivals ≠ [] →
      (bitOf f.flags 1 = true → exec (.release f t) s = .next (r.holdBarrier j (rfld f 0 1 % 16)))
      ∧ (bitOf f.flags 1 = false → r.domNow ≤ r.nearest (rfld f 3 6) → exec (.release f t) s = .next (r.setBarrier (rfld f 0 1 % 16)
          { s.barrier (rfld f 0 1 % 16) with release := some (r.psOf (r.nearest (rfld f 3 6))) }))
      ∧ (bitOf f.flags 1 = false → r.nearest (rfld f 3 6) < r.domNow → exec (.release f t) s = .next ((r.setBarrier (rfld f 0 1 % 16)
          { s.barrier (rfld f 0 1 % 16) with release := some r.now }).bump VCNT_LATE_ACT.count []))))
  ∧ (∀ (b t gen : Nat) (a : Arrival) (s : State), b < 16 → Alone s b a → (s.barrier b).release = some t → gen = s.rd BARSTAT.generation [b] →
    Sparse.sorted s.regs = true → Sparse.sorted s.barriers = true →
    ∃ u, exec (.barrierRelease b) s = .next u ∧ u.barrier b = {} ∧ u.rd BARSTAT.generation [b] = (gen + 1) % 4096
      ∧ u.rd BARSTAT.arrived [b] = 0 ∧ u.flag BARSTAT.held [b] = false
      ∧ ∃ k : Token, k.data = BitVec.ofNat 64 gen ∧ k.tag = a.tok.tag
          ∧ u.inFlight = s.inFlight ++ [{ tok := k, edge := .goat a.die a.clu a.goat a.desc }])
  ∧ (∀ (b f : Nat) (a : Arrival) (q : List Arrival) (j : Job) (s : State), (s.barrier b).since = some f → (s.barrier b).arrivals = a :: q →
    s.rd BARTIMEOUT.limit [] ≠ 0 → (s.barrier b).release = none → s.jobOfDie a.die = some j →
    exec (.barrierTimeout b) s = .next ((s.upTo (f + s.rd BARTIMEOUT.limit [] * 1000000000)).endJob j.id 0x0308 false))

namespace Sys2Proof.Claims

/-- The next release of gate `g` of die `n` to its composer, and the port block it goes to (R205). -/
def NextRelease (s : State) (n g : Nat) (r : Release) : Prop := s.releases.find? (fun x => x.die == n && x.gate == g) = some r

/-- The composer of port block `i` is free at a reply start `t`: what it sends is over, and nothing waits (R209). -/
def ComposerFree (s : State) (n i t : Nat) : Prop :=
  (∀ r, (s.port n i).tx = some r → r.done ≤ t) ∧ (s.port n i).held = []

/-- The verdict of a release's inbound frame: passed for a gate in SCHEDULE mode, none where it is not known (R205). -/
def verdictOf (s : State) (n : Nat) (r : Release) : Option Bool :=
  if s.flag GCFG.mode [n, r.gate] = true then some true
  else match s.inbound n (s.rd GCFG.port [n, r.gate]) r.beat with
    | some f => f.verdict
    | none => none

/-- A reply is on its way: from the template and the release, at the instant of its start, under the next id, with a status (R202, R204, R205). -/
def ReplySent (s u : State) (n i t a : Nat) (r : Release) (status : BitVec 4) : Prop :=
  ∃ x, (u.port n i).tx = some x ∧ x.gate = r.gate ∧ x.beat = r.beat ∧ x.anchor = r.anchor ∧ x.start = t ∧ x.status = status
    ∧ x.id = s.rd PTXSEQ.seq [n, i] ∧ x.stomped = false ∧ x.cancel = false
    ∧ x.bytes = composeFrame (s.port n i).mem (templateAt (s.port n i).mem a) {
        tokens := (r.values.take (s.rd GCFG.tokens [n, r.gate] + 1)).flatMap (fun v => leBytes 8 v.toNat)
        inbound := if s.flag GCFG.mode [n, r.gate] = true then [] else
          match s.inbound n (s.rd GCFG.port [n, r.gate]) r.beat with | some f => f.bytes | none => []
        id := s.rd PTXSEQ.seq [n, i], status, beat := r.beat, stamp := stampBytes (s.domainAt r.anchor) }

/-- A port block has no frame open. -/
def Quiet (s : State) (n i : Nat) : Prop := s.frameOpen n i = false

/-- Frame `f` is the next whose verdict becomes known; `l` is the list of frames with it entered (R191). -/
def NextVerdict (s : State) (n i : Nat) (f : RxFrame) (l : List RxFrame) : Prop := giveVerdict (s.port n i).rx = (some f, l)

/-- The frame a link port matches next: the first undecided one with eight bytes landed (R212). -/
def NextLink (s : State) (n i : Nat) (f : RxFrame) : Prop :=
  (s.port n i).rx.find? (fun x => x.isBeat == none && decide (8 ≤ x.bytes.length)) = some f

/-- The frame is of this job, of a running die, and of a beat that is to come and not taken (R212). -/
def LinkMatches (s : State) (n i k : Nat) (f : RxFrame) : Prop :=
  f.num 4 4 true = s.rd PLINK_CFG.job [n, i] ∧ s.rd DIESTAT.state [n] = 3 ∧ (s.port n i).nextLink ≤ k
    ∧ ∀ y ∈ (s.port n i).rx, y.isBeat = some true → y.link ≠ k

end Sys2Proof.Claims

/-- R187, R189: lock gained and lost; an open frame ends there with a failed verdict. -/
def Sys2Proof.Claims.ReceiverLock : Prop :=
  ∀ (n i t : Nat) (s : State),
    (∀ l, s.ringPort n i = some l → exec (.blockLock n i) s = .next (s.wr (if l = 0 then VSTAT.lock_a else VSTAT.lock_b) [] 1)
      ∧ exec (.lockLoss n i t) s = .next ((s.upTo t).wr (if l = 0 then VSTAT.lock_a else VSTAT.lock_b) [] 0))
    ∧ (s.ringPort n i = none →
      (s.rd PCFG.mode [n, i] ≠ 0 → exec (.blockLock n i) s = .next (s.wr PSTAT.lock [n, i] 1))
      ∧ (s.rd PCFG.mode [n, i] = 0 → exec (.blockLock n i) s = .next s)
      ∧ (Quiet s n i → exec (.lockLoss n i t) s = .next ((s.upTo t).wr PSTAT.lock [n, i] 0))
      ∧ (¬ Quiet s n i → ∃ u, exec (.lockLoss n i t) s = .next u ∧ (Sparse.sorted s.regs = true → u.flag PSTAT.lock [n, i] = false)
          ∧ Quiet u n i ∧ (u.port n i).last.bad = true ∧ (u.port n i).last.len = some (s.port n i).last.total
          ∧ (u.port n i).last.bytes = (s.port n i).last.bytes))

/-- R185, R186, R190: pieces of frames land in order, whole and unchanged; without lock nothing does. -/
def Sys2Proof.Claims.FramePiecesLand : Prop :=
  ∀ (n i t : Nat) (s : State),
    (∀ p, s.flag PSTAT.lock [n, i] = false → exec (.fieldLanded n i p t) s = .next (s.upTo (t + s.rxDelay n i)))
    ∧ (∀ (bs : List Byte), s.flag PSTAT.lock [n, i] = true → s.rd PCFG.mode [n, i] = 2 → bs ≠ [] → bs.length ≤ 16384 → Quiet s n i →
      ∃ u, exec (.fieldLanded n i (.ether bs false false) t) s = .next u ∧ ¬ Quiet u n i
        ∧ (u.port n i).rx.length = (s.port n i).rx.length + 1
        ∧ (u.port n i).last.bytes = bs ∧ (u.port n i).last.total = bs.length ∧ (u.port n i).last.crc = bs.foldl crcByte 0xFFFFFFFF)
    ∧ (∀ (bs : List Byte), s.flag PSTAT.lock [n, i] = true → s.rd PCFG.mode [n, i] = 2 → bs ≠ [] → ¬ Quiet s n i →
      (s.port n i).last.bytes.length = (s.port n i).last.total → (s.port n i).last.total + bs.length ≤ 16384 →
      ∃ u, exec (.fieldLanded n i (.ether bs false false) t) s = .next u ∧ ¬ Quiet u n i
        ∧ (u.port n i).rx.length = (s.port n i).rx.length ∧ (u.port n i).last.bytes = (s.port n i).last.bytes ++ bs
        ∧ (u.port n i).last.crc = bs.foldl crcByte (s.port n i).last.crc)
    ∧ (∀ (b : BitVec 272) (l0 l1 : List Bool), s.flag PSTAT.lock [n, i] = true → s.rd PCFG.mode [n, i] = 1 → Quiet s n i →
      decodeWord (codeword b 0) = .good l0 → decodeWord (codeword b 1) = .good l1 →
      (controlOf ((wordBytes (.good l0)).getD 0 0) = .run true none → ∃ u, exec (.fieldLanded n i (.block b) t) s = .next u ∧ ¬ Quiet u n i
        ∧ (u.port n i).last.bytes = (wordBytes (.good l0) ++ wordBytes (.good l1)).drop 1)
      ∧ (controlOf ((wordBytes (.good l0)).getD 0 0) = .idle → ∃ u, exec (.fieldLanded n i (.block b) t) s = .next u ∧ u.ports = s.ports
          ∧ u.out = s.out ∧ u.histTap = s.histTap))

/-- R191, R206: a verdict is entered; a failed one stomps the provisional reply still before its commit point, or queues its cancel. -/
def Sys2Proof.Claims.VerdictsReachReplies : Prop :=
  ∀ (n i t : Nat) (f : RxFrame) (l : List RxFrame) (s : State), NextVerdict s n i f l →
    f.verdict = some f.passes ∧ f.ended = true
    ∧ (f.isBeat ≠ some true → exec (.frameVerdict n i t) s = .next (((s.upTo t).setPort n i { s.port n i with rx := l }).pruneFrames n i))
    ∧ (∀ (j : Nat) (r : Reply), f.isBeat = some true → f.passes = false → s.flag PCFG.link [n, i] = false → j < 16 →
      (s.port n j).tx = some r → r.provFor i f.beat = true → (∀ x ∈ (s.port n j).provs, x.provFor i f.beat = false) →
      (max s.now t < r.commit → ∃ u, exec (.frameVerdict n i t) s = .next u ∧ (u.port n j).tx = some { r with stomped := true }
          ∧ (u.port n j).cancels = (s.port n j).cancels)
      ∧ (r.commit ≤ max s.now t → dirEntry (s.port n j).mem 0x700 ≠ none → (s.port n j).cancels.length < 16 →
          ∃ u, exec (.frameVerdict n i t) s = .next u ∧ (u.port n j).tx = some r
            ∧ (u.port n j).cancels = (s.port n j).cancels ++ [{ gate := r.gate, beat := r.beat, id := r.id, status := r.status
                                                                anchor := r.anchor, verdictAt := max s.now t }]))

/-- R203 to R205, R209: what a composer does at a release's reply start, by the verdict of its inbound frame. -/
def Sys2Proof.Claims.RepliesFollowTheVerdict : Prop :=
  ∀ (n g i : Nat) (r : Release) (s z : State), NextRelease s n g r → i = s.rd GCFG.dest [n, g] → Sparse.sorted s.regs = true →
    z = { s.upTo (r.fire + composerPs) with releases := eraseFirst r s.releases } →
    ((s.die n).muted = true → exec (.replyStart n g) s = .next (z.pruneFrames n (s.rd GCFG.port [n, g])))
    ∧ ((s.die n).muted = false → ¬ ComposerFree s n i (r.fire + composerPs) → exec (.replyStart n g) s = .next
      ((z.setPort n i { s.port n i with held := (s.port n i).held ++ [r] }).bump PCNT_COLLIDE.count [n, i]))
    ∧ ((s.die n).muted = false → ComposerFree s n i (r.fire + composerPs) → n < 16 →
      (dirEntry (s.port n i).mem (0x600 + 4 * g) = none → exec (.replyStart n g) s = .next
        (((z.finishTx n i).bump PCNT_SUPPR.count [n, i]).pruneFrames n (s.rd GCFG.port [n, g])))
      ∧ (∀ a, dirEntry (s.port n i).mem (0x600 + 4 * g) = some a →
        (verdictOf s n r = some false → exec (.replyStart n g) s = .next
          (((z.finishTx n i).bump PCNT_SUPPR.count [n, i]).pruneFrames n (s.rd GCFG.port [n, g])))
        ∧ (verdictOf s n r = some true → ∃ u, exec (.replyStart n g) s = .next u ∧ ReplySent s u n i (r.fire + composerPs) a r r.status
            ∧ u.rd PTXSEQ.seq [n, i] = (s.rd PTXSEQ.seq [n, i] + 1) % 2 ^ 48)
        ∧ (verdictOf s n r = none → s.flag PCFG.policy [n, i] = true → exec (.replyStart n g) s = .next
          (((z.finishTx n i).bump PCNT_HOLD.count [n, i]).pruneFrames n (s.rd GCFG.port [n, g])))
        ∧ (verdictOf s n r = none → s.flag PCFG.policy [n, i] = false → ∃ u, exec (.replyStart n g) s = .next u
            ∧ ReplySent s u n i (r.fire + composerPs) a r (r.status ||| stProv) ∧ u.rd PTXSEQ.seq [n, i] = (s.rd PTXSEQ.seq [n, i] + 1) % 2 ^ 48)))

/-- R206, R207, R209: a frame leaves whole with its check, complemented where it was stomped; a held release follows it; cancels start in a
gap, or are dropped past their limit. -/
def Sys2Proof.Claims.FramesAndCancelsLeave : Prop :=
  (∀ (n i : Nat) (r : Reply) (s : State), (s.port n i).tx = some r → (s.port n i).held = [] → Sparse.sorted s.ports = true →
    ∃ u, exec (.interframeGapEnd n i) s = .next u ∧ u.now = max s.now r.done ∧ (u.port n i).tx = none
      ∧ u.out = s.out ++ [.frame n i (r.bytes ++ leBytes 4 (if r.stomped = true then ~~~ (crc32 r.bytes) else crc32 r.bytes).toNat) r.stomped])
  ∧ (∀ (n i a t : Nat) (c : CancelEntry) (cs : List CancelEntry) (s : State), (s.port n i).cancels = c :: cs → dirEntry (s.port n i).mem 0x700 = some a →
    ComposerFree s n i t →
    (t ≤ c.verdictAt + s.rd PCFG.cancel_limit [n, i] * 1000000 →
      (∀ u ∈ s.knownStarts n i, t + s.gapTime n i ((templateAt (s.port n i).mem a).flen + 4) ≤ u) →
      ∃ u x, exec (.cancelStart n i t) s = .next u ∧ (u.port n i).cancels = cs ∧ (u.port n i).tx = some x ∧ x.cancel = true ∧ x.id = c.id
        ∧ x.beat = c.beat ∧ x.status = c.status ∧ x.start = t)
    ∧ (c.verdictAt + s.rd PCFG.cancel_limit [n, i] * 1000000 < t → exec (.cancelStart n i t) s = .next (s.upTo t)))
  ∧ (∀ (n i t : Nat) (c : CancelEntry) (cs : List CancelEntry) (s : State), (s.port n i).cancels = c :: cs →
    (c.verdictAt + s.rd PCFG.cancel_limit [n, i] * 1000000 < max s.now t → exec (.cancelDrop n i t) s = .next
      ((((s.upTo t).putCancels n i cs).bump PCNT_CDROP.count [n, i]).olmWrite 0x0030
        (item4 n ++ item4 c.gate ++ item4 c.beat.toNat ++ item4 c.status.toNat)))
    ∧ (max s.now t ≤ c.verdictAt + s.rd PCFG.cancel_limit [n, i] * 1000000 → exec (.cancelDrop n i t) s = .next (s.upTo t)))

/-- R212, R213: a link port's frame becomes the beat it is meant for or is discarded; at a beat's instant what is missing is substituted. -/
def Sys2Proof.Claims.LinkPortsMatchAndSubstitute : Prop :=
  (∀ (n i t k : Nat) (f : RxFrame) (s : State), NextLink s n i f → s.flag PCFG.link [n, i] = true →
    k = (s.upTo t).linkBeat n i (BitVec.ofNat 16 (f.num 0 2 true)) t →
    (LinkMatches s n i k f → Sparse.sorted s.regs = true → ∃ u g, exec (.linkFrame n i t) s = .next u ∧ g ∈ (u.port n i).rx ∧ g.isBeat = some true
        ∧ g.link = k ∧ g.beat = BitVec.ofNat 16 (f.num 0 2 true) ∧ g.bytes = f.bytes
        ∧ u.rd PSTAT.beat [n, i] = (BitVec.ofNat 16 (f.num 0 2 true)).toNat)
    ∧ (¬ LinkMatches s n i k f → exec (.linkFrame n i t) s = .next (((s.upTo t).setPort n i { s.port n i with
        rx := mapUndecided (fun y => { y with isBeat := some false }) (s.port n i).rx }).bump PCNT_LINK.discarded [n, i])))
  ∧ (∀ (n i k : Nat) (s : State), k = (s.port n i).nextLink → s.flag PCFG.link [n, i] = true → s.rd DIESTAT.state [n] = 3 →
    (∃ u, exec (.linkSubstitute n i) s = .next u ∧ (u.port n i).nextLink = k + 1 ∧ u.now = max s.now (s.linkInstant n i k))
    ∧ (∀ (r : Rule), rulesOf (s.port n i).mem = [r] → r.kind = 1 → (∀ f ∈ (s.port n i).rx, f.isBeat = some true → f.link ≠ k) →
      s.flag PCFG.subst [n, i] = false → s.markBlocked (.port n i r.num) = false → s.creditOf (.port n i r.num) ≠ 0 →
      ∃ u, exec (.linkSubstitute n i) s = .next u
        ∧ u.inFlight = s.inFlight ++ [{ tok := fieldToken r 0 (s.port n i).epoch (BitVec.ofNat 16 k) 0 (stSubst ||| stLate), edge := .port n i r.num }]
        ∧ (Sparse.sorted s.regs = true → u.rd PCNT_LINK.substituted [n, i]
            = min (s.rd PCNT_LINK.substituted [n, i] + 1) (2 ^ PCNT_LINK.substituted.w - 1))))

/-- R181, R182: words reach the input ports of an ox pair, and one cycle of its program runs by the processor's own rules (outside the spec: Config.s1Step). -/
def Sys2Proof.Claims.OxPairsRun : Prop :=
  (∀ (n p t : Nat) (f0 f : Flit) (s z : State), z = (s.upTo t).arrive (.ox n p) f0 → f = z.relabel n (s.ox n p).epoch f0 → f.tok.kind ≠ 3 →
    (f.tok.epoch ≠ (s.ox n p).epoch → exec (.oxInput n p f0 t) s = .next (z.owe f.edge))
    ∧ (f.tok.epoch = (s.ox n p).epoch → s.fit.ox = true → exec (.oxInput n p f0 t) s = .next ((z.setOx n p { s.ox n p with
        inputs := Sparse.set [] (s.ox n p).inputs f.tok.index (Sparse.get [] (s.ox n p).inputs f.tok.index ++ [f.tok]) }).owe f.edge)))
  ∧ (∀ (n p : Nat) (o : Config.S1Out) (s : State), (s.ox n p).code ≠ [] → s.rd DIESTAT.state [n] = 3 →
    o = Config.s1Step (s.ox n p).code (s.ox n p).data (s.ox n p).mach (s.ox n p).cycles ((s.ox n p).inputs.map (fun q => (q.1, q.2.map (·.data)))) →
    ∃ u, exec (.oxCycle n p) s = .next u ∧ (u.ox n p).data = o.data ∧ (u.ox n p).mach = o.mach ∧ (u.ox n p).cycles = (s.ox n p).cycles + 1
      ∧ (u.ox n p).code = (s.ox n p).code ∧ u.fresh = s.fresh + o.outs.length
      ∧ ∃ sent, u.inFlight = s.inFlight ++ sent ∧ sent.length ≤ o.outs.length)

namespace Sys2Proof.Claims

/-- The loaded job of an id. -/
def JobAt (s : State) (id : Nat) (j : Job) : Prop := s.jobs.find? (fun x => x.id == id) = some j

/-- Operation `id` ends: the first ending it is given stands, and nothing else changes (R332). -/
def ended (s : State) (id : Nat) (e : Ending) : State :=
  { s with sec := { s.sec with cmds := s.sec.cmds.map (fun c => if c.id = id ∧ c.ended = none then { c with ended := some e } else c) } }

/-- The same with a status alone. -/
def endedWith (s : State) (id status : Nat) : State := ended s id { status }

/-- A switch of die `n` runs as `r`, and no switch is about to be complete: each has another die that has not switched (R178). -/
def Switching (s : State) (n : Nat) (r : Reconf) : Prop :=
  (s.die n).reconf = some r ∧ ∀ w ∈ s.switches, ∃ m ∈ w.dies, m ≠ n ∧ (s.die m).reconf ≠ none

/-- A switch of a job is armed on its dies towards an epoch at an instant (R174, R238, R251, R253). -/
def Armed (u : State) (j : Job) (target tPs cause : Nat) : Prop :=
  ∃ w ∈ u.switches, w.job = j.id ∧ w.dies = j.dies ∧ w.target = target ∧ w.tPs = tPs ∧ w.cause = cause

/-- The command's packet holds a host memory list at byte `a`. -/
def HasList (c : Cmd) (a : Nat) (zero : Bool) (l : List (Nat × Nat)) (b : Nat) : Prop := hostList c.pkt.params a zero = some (l, b)

/-- The frozen stream asked for by a FREEZE (R251). -/
def freezeOf (j : Job) (c : Cmd) (s : State) (l : List (Nat × Nat)) : Frozen :=
  { job := j.id, cmd := c.id, tPs := s.timeParam c.pkt.params 0
    limit := (if pnum c.pkt.params 12 4 = 0 then 100 else pnum c.pkt.params 12 4) * 1000000, list := l }

/-- An install descriptor with its start token. -/
def installOf (n c g d : Nat) (k : Token) : InstallRec := { die := n, clu := c, goat := g, desc := d, tok := k }

/-- What a READY frame says (R276). -/
def readyOf (f : RingFrame) : ReadyRec :=
  { node := f.origin, rank := rfld f 0 1, modules := rfld f 1 1, anyId := bitOf (rfld f 2 1) 0, identity := rfld f 4 4, stretch := rfld f 8 4 }

end Sys2Proof.Claims

/-- R170, R226: START_TICK sets a job's dies running; a report from a bulk unit ends its job, whose bulk epoch advances. -/
def Sys2Proof.Claims.JobsStartAndEnd : Prop :=
  (∀ (id : Nat) (j : Job) (s : State), JobAt s id j → j.go = true → (∀ n ∈ j.dies, n < 16 ∧ s.rd DIESTAT.state [n] = 2) → Sparse.sorted s.regs = true →
    ∃ u, exec (.jobStart id) s = .next u ∧ u.now = max s.now j.startPs ∧ u.flag DETSTAT.strict [] = s.flag DETSTAT.strict []
      ∧ ∀ n ∈ j.dies, u.rd DIESTAT.state [n] = 3)
  ∧ (∀ (id : Nat) (j : Job) (s : State), JobAt s id j → (j.go = false ∨ ∃ n ∈ j.dies, s.rd DIESTAT.state [n] ≠ 2) → exec (.jobStart id) s = .next s)
  ∧ (∀ (t : Nat) (e : FltNote) (j : Job) (s : State), s.flt.notes.head? = some e → e.bulk = true → s.jobOfDie e.die = some j → j.bulk = true →
    exec (.bulkJobEnd t) s = .next ((s.upTo t).endJob j.id (noteStatus e) false))
  ∧ (∀ (n id st : Nat) (remote : Bool) (j : Job) (s : State), s.jobs.find? (fun x => x.id == id && x.bulk) = some j → j.dies = [n] →
    Sparse.sorted s.dies = true →
    ((s.endJob id st remote).die n).bulkEpoch = ((s.die n).bulkEpoch + 1) % 4
      ∧ ∀ x ∈ (s.endJob id st remote).jobs, x.id = id → x.bulk = false)

/-- R170, R174, R179, R236, R338: an image is loaded, resumed, updated or refused with the code of the first check it fails; STOP stops jobs. -/
def Sys2Proof.Claims.ImagesAreJudged : Prop :=
  ∀ (id t : Nat) (mem ck : Option (List Byte)) (c : Cmd) (s z : State), z = s.upTo t → c.id = id →
    (s.cmdOf id 0x0101 = some c → ∀ (a : LoadArgs) (bs : List Byte), loadArgs c.pkt.params = some a →
      (z.hostRead a.list mem = none → exec (.load id mem t) s = .next (ended z id ({ status := 0x000F } : Fail).ending))
      ∧ (z.hostRead a.list mem = some bs → z.now ≤ z.startAt a.t0 →
        (∀ f, z.judge (readImage bs) bs.length (z.isMaint c.pkt.session) a (z.startAt a.t0 / tickPs) = .inl f →
          exec (.load id mem t) s = .next (ended z id { status := f.status, details := [f.status, f.sect, f.idx, f.detail], word8 := some 0 }))
        ∧ (∀ L d, z.judge (readImage bs) bs.length (z.isMaint c.pkt.session) a (z.startAt a.t0 / tickPs) = .inr (L, d) → L.base.modules = 1 →
          ∃ u, exec (.load id mem t) s = .next u ∧ ∃ j ∈ u.jobs, j.id = L.base.jobId ∧ j.dies = L.physDies ∧ j.go = true
            ∧ j.startPs = z.startAt a.t0 ∧ j.stretch = d)))
    ∧ (s.cmdOf id 0x0102 = some c → (∀ w ∈ s.switches, w.cmd ≠ id + 1) → ∀ (l : List (Nat × Nat)) (a : Nat) (bs : List Byte), HasList c 0 false l a →
      z.hostRead l mem = some bs → z.now ≤ z.timeParam c.pkt.params a →
        (∀ f, z.judgeUpdate (readImage bs) bs.length (z.isMaint c.pkt.session) = .inl f → exec (.update id mem t) s = .next (ended z id f.ending))
        ∧ (∀ b L, z.judgeUpdate (readImage bs) bs.length (z.isMaint c.pkt.session) = .inr (b, L) → ∃ u, exec (.update id mem t) s = .next u
          ∧ Armed u b.job b.target (z.timeParam c.pkt.params a) 0))
    ∧ (s.cmdOf id 0x0103 = some c → ∀ ns, ns = (List.range 16).filter (fun n => bitOf (pnum c.pkt.params 0 4) n) →
      ((∃ j ∈ s.jobs, ∃ n ∈ j.dies, n ∈ ns) → exec (.stop id t) s = .next (endedWith (z.stopDies ns) id 0))
      ∧ ((∀ j ∈ s.jobs, ∀ n ∈ j.dies, n ∉ ns) → exec (.stop id t) s = .next (endedWith z id 0x0208)))
    ∧ (s.cmdOf id 0x0104 = some c → ∀ (a : LoadArgs) (l : List (Nat × Nat)) (b : Nat), loadArgs c.pkt.params = some a → HasList c a.next false l b →
      (z.hostRead a.list mem = none ∨ z.hostRead l ck = none → exec (.resume id mem ck t) s = .next (ended z id ({ status := 0x000F } : Fail).ending))
      ∧ (∀ (bs cb : List Byte) (L : Loading) (d : Nat), z.hostRead a.list mem = some bs → z.hostRead l ck = some cb → z.now ≤ z.startAt a.t0 →
        z.judge (readImage bs) bs.length (z.isMaint c.pkt.session) a (z.startAt a.t0 / tickPs) = .inr (L, d) →
        (z.ckMatches (L.job c a d (z.startAt a.t0) 0 z.part.identityCode) 0x544B4347 true cb = false →
          exec (.resume id mem ck t) s = .next (ended z id ({ status := 0x0205 } : Fail).ending))
        ∧ (∀ rs, z.ckMatches (L.job c a d (z.startAt a.t0) 0 z.part.identityCode) 0x544B4347 true cb = true → ckRecords cb = some rs →
          (∀ r ∈ rs, L.bulkRec r = true) → L.base.modules = 1 →
          ∃ u, exec (.resume id mem ck t) s = .next u
            ∧ ∃ j ∈ u.jobs, j.id = L.base.jobId ∧ j.dies = L.physDies ∧ j.resume = some (pnum cb 58 1 % 16))))

/-- R175 to R180: markers come in, units switch to the target epoch and are released, and what a switch does at its times. -/
def Obligations.SwitchesFollowTheirMarkers : Prop :=
  (∀ (x : UnitId) (f : Flit) (t : Nat) (s : State), f.tok.kind ≠ 2 → exec (.markerArrival x f t) s = .next (s.upTo t))
  ∧ (∀ (n g t : Nat) (f : Flit) (r : Reconf) (s : State), f.tok.kind = 2 → Switching s n r → r.tPs ≤ max s.now t → UnitId.gate n g ∉ r.switched →
    s.inputEdges (.gate n g) = [f.edge] → Sparse.sorted s.gates = true → r.target < 4 →
    ∃ u, exec (.markerArrival (.gate n g) f t) s = .next u ∧ u.gate n g = { s.gate n g with epoch := r.target })
  ∧ (∀ (n a t : Nat) (f : Flit) (s : State), f.tok.kind = 2 → f.edge ∈ s.inputEdges (.array n a) →
    exec (.arrayMarker n a f t) s = .next (((((s.upTo t).arrive (.array n a) f).markArrived (.array n a) f.edge).arraySwitch n a).switchDone))
  ∧ (∀ (n a t : Nat) (r : Reconf) (s : State), Switching s n r → r.holding = [.array n a] → r.held = [] → Sparse.sorted s.arrs = true →
    ∃ u, exec (.unitRelease (.array n a) t) s = .next u ∧ u.arr n a = { s.arr n a with repair := [] })
  ∧ (∀ (n : Nat) (r : Reconf) (s : State), (s.die n).reconf = some r →
    exec (.drainLimit n) s = .next ((s.upTo (r.tPs + r.limitPs)).forceSwitch n)
    ∧ (r.cause < 2 → exec (.switchTime n) s = .next (((s.upTo r.tPs).beginSwitch n).switchDone)))
  ∧ (∀ (n : Nat) (s : State), s.flag RCFGSTAT.q_valid [n] = true →
    ((∀ c ∈ s.clusOf n true, s.rd HENCFG.age_prompt [n, c] ≠ 0) →
      exec (.epochHoldExpiry n) s = .next ((s.upTo (s.die n).holdUntil).wr RCFGSTAT.q_valid [n] 0))
    ∧ ((∃ c ∈ s.clusOf n true, s.rd HENCFG.age_prompt [n, c] = 0) → exec (.epochHoldExpiry n) s = .next (s.upTo (s.die n).holdUntil)))

/-- R234, R251 to R253: checkpoints are armed, taken when the job is quiescent, or abandoned; streams are frozen and thawed. -/
def Obligations.CheckpointsAndFreezes : Prop :=
  (∀ (id t b : Nat) (c : Cmd) (j : Job) (l : List (Nat × Nat)) (s : State), s.cmdOf id 0x0201 = some c →
    s.jobs.find? (fun x => x.bulk && s.runs x) = some j → HasList c 0 false l b →
    ((∀ k ∈ s.ckpts, k.job ≠ j.id) → exec (.checkpoint id t) s = .next { s.upTo t with ckpts := s.ckpts ++
      [{ job := j.id, window := c.window, tag := id, list := l, limit := pnum c.pkt.params b 4 * 1000000 }] })
    ∧ ((∃ k ∈ s.ckpts, k.job = j.id) → exec (.checkpoint id t) s = .next (s.upTo t)))
  ∧ (∀ (id t b : Nat) (j : Job) (k : Ckpt) (s z : State), JobAt s id j → s.ckpts.find? (fun x => x.job == id && x.barrier.isSome) = some k →
    k.barrier = some b → z = s.upTo t →
    (z.quiescent j = false → exec (.checkpointQuiescent id t) s = .next z)
    ∧ (z.quiescent j = true → listBytes k.list < (z.checkpointFile j b).length →
      exec (.checkpointQuiescent id t) s = .next ((endedWith z k.tag 0x000E).ckptOver j b))
    ∧ (z.quiescent j = true → (z.checkpointFile j b).length ≤ listBytes k.list → ∃ v, v = ended (z.writeList (z.checkpointFile j b) k.list) k.tag
        { status := 0, details := [(z.checkpointFile j b).length % 2 ^ 32, (z.checkpointFile j b).length / 2 ^ 32, j.prov.ckpts % 2 ^ 32, j.prov.ckpts / 2 ^ 32] }
      ∧ exec (.checkpointQuiescent id t) s = .next (((v.bulkDigest id).setJob id (fun x =>
          { x with prov := { x.prov with ckpts := x.prov.ckpts + 1 } })).ckptOver j b))
    ∧ exec (.checkpointDrainLimit id) s = .next ((endedWith (s.upTo (k.since + k.limit)) k.tag 0x0204).ckptOver j b))
  ∧ (∀ (id t b : Nat) (c : Cmd) (j : Job) (l : List (Nat × Nat)) (s z : State), s.cmdOf id 0x0202 = some c → c.id = id → z = s.upTo t →
    s.streamJob = some j → HasList c 16 false l b →
    (s.frozen ≠ none → exec (.freeze id t) s = .next (endedWith z id 0x0208))
    ∧ (s.frozen = none → (∀ w ∈ s.switches, w.job ≠ j.id) →
      (z.timeParam c.pkt.params 0 < z.now + 100000000 → exec (.freeze id t) s = .next (endedWith z id 0x000B))
      ∧ (z.now + 100000000 ≤ z.timeParam c.pkt.params 0 → ∃ u, exec (.freeze id t) s = .next u ∧ u.frozen = some (freezeOf j c z l)
        ∧ Armed u j (s.nextEpoch j.dies) (z.timeParam c.pkt.params 0) 2)))
  ∧ (∀ (id t b : Nat) (c : Cmd) (j : Job) (g : Frozen) (s z : State), s.cmdOf id 0x0203 = some c → c.id = id → z = s.upTo t → s.frozen = some g →
    JobAt s g.job j → HasList c 12 true [] b →
    (s.rd DETSTAT.stream [] ≠ 2 ∨ g.thaw = true → ∀ mem, exec (.thaw id mem t) s = .next (endedWith z id 0x0208))
    ∧ (s.rd DETSTAT.stream [] = 2 → g.thaw = false → z.now + 100000000 ≤ z.timeParam c.pkt.params 0 → ∀ mem, ∃ u, exec (.thaw id mem t) s = .next u
      ∧ u.frozen = some { job := j.id, cmd := id, tPs := z.timeParam c.pkt.params 0, limit := 100000000, thaw := true }
      ∧ Armed u j (s.nextEpoch j.dies) (z.timeParam c.pkt.params 0) 3))
  ∧ (∀ (f : Frozen) (w : SwitchRec) (s : State), s.frozen = some f → f.begun = false →
    (f.thaw = false → s.switches.find? (fun x => x.cause == 2) = some w → ∃ v, v = ({ (s.upTo f.tPs).wr DETSTAT.stream [] 1 with
        frozen := some { f with begun := true, kT := ((s.upTo f.tPs).wr DETSTAT.stream [] 1).nextBeatOf w.dies } } : State)
      ∧ exec .freezeTime s = .next ((w.dies.foldl (fun z n => (List.range 16).foldl (fun y i =>
          if y.portPrompt n i then y.portSwitch n i else y) (z.beginSwitch n)) v).switchDone))
    ∧ (f.thaw = true → f.carry = none → s.switches.find? (fun x => x.cause == 3) = some w → ∃ v, v = ({ (s.upTo f.tPs).wr DETSTAT.stream [] 3 with
        frozen := some { f with begun := true, kT := ((s.upTo f.tPs).wr DETSTAT.stream [] 3).nextBeatOf w.dies } } : State)
      ∧ exec .thawTime s = .next ((w.dies.foldl (fun z n => z.beginSwitch n) v).switchDone)))

/-- R237, R238: an install is refused with its reason, or copies its sets and arms a switch to the next epoch. -/
def Sys2Proof.Claims.InstallsArmASwitch : Prop :=
  ∀ (n c g d t : Nat) (r : GRun) (j : Job) (l : List InstallEntry) (tPs : Nat) (s z : State), z = s.upTo t →
    ((s.goat n c g).stream d).run = some r → s.jobOfDie n = some j → ((s.goat n c g).desc d).kind = 4 → ((s.goat n c g).desc d).func = 1 →
    (∀ i ∈ s.installs, ¬ (i.die = n ∧ i.clu = c ∧ i.goat = g ∧ i.desc = d)) → l = installList (s.tier1 n) r.tok.data.toNat →
    tPs = leNat (Sparse.getBytes (s.tier1 n) r.tok.data.toNat 8) * tickPs →
    (z.installCode n tPs l ≠ 0 → exec (.install n c g d t) s = .next (z.installEnd (installOf n c g d r.tok) (BitVec.ofNat 64 (z.installCode n tPs l)) true))
    ∧ (z.installCode n tPs l = 0 → ∃ u, exec (.install n c g d t) s = .next u ∧ Armed u j (s.nextEpoch j.dies) tPs 1
      ∧ installOf n c g d r.tok ∈ u.installs)

/-- R260, R261, R288: the ready frames, the start and the end of a job of several modules. -/
def Sys2Proof.Claims.StartFramesAreHeeded : Prop :=
  ∀ (f : RingFrame) (t : Nat) (s r : State), Heeds s f t → r = heard s f t →
    exec (.ready f t) s = .next { r with
        vote := { r.vote with ready := readyOf f :: r.vote.ready.filter (fun x => !(x.node == f.origin && x.graph.isNone)) } }
    ∧ ∀ j, s.jobOfTag (rfld f 11 1) = some j →
      (j.rank ≠ 0 → ∃ u, exec (.readyB f t) s = .next u ∧ u = { r with vote := { r.vote with ready := u.vote.ready } }
        ∧ ∀ x, r.vote.ready = [x] → x.node = f.origin → x.graph = none →
            u.vote.ready = [{ x with graph := some (BitVec.ofNat 64 (rfld f 0 8)), jobTag := rfld f 11 1 }])
      ∧ (rfld f 0 4 = j.id % 2 ^ 32 → JobAt s j.id j → ∃ u k, exec (.go f t) s = .next u ∧ k ∈ u.jobs ∧ k.id = j.id ∧ k.go = true
        ∧ k.startPs = ticksTo s.timeSeg j.t0 * tickPs)
      ∧ (0x0402 ≤ rfld f 0 2 → rfld f 0 2 ≤ 0x0406 → exec (.jobend f t) s = .next (r.startRefused j.id (rfld f 0 2 - 0x0400)))
      ∧ (rfld f 0 2 < 0x0402 ∨ 0x0406 < rfld f 0 2 → exec (.jobend f t) s = .next (r.endJob j.id 0x030C true))

/-- R246, R248, R258, R259: STRICT, early exit, declared inputs, and provenance digests. -/
def Obligations.StrictExitInputsAndProvenance : Prop :=
  ∀ (w t : Nat) (p : Pkt) (s z : State), z = s.upTo t →
    (s.takenOp w 0x0204 = some p →
      (bitOf (pnum p.params 0 4) 0 = false → s.flag DETSTAT.locked [] = true → exec (.strict w t) s = .next (z.answer w p 0x0201 [] []))
      ∧ (bitOf (pnum p.params 0 4) 0 = true ∨ s.flag DETSTAT.locked [] = false ∧ (∀ j ∈ s.jobs, j.bulk = true → j.strict = true → s.runs j = false) →
        ∃ v, exec (.strict w t) s = .next (v.answer w p 0 [] (leBytes 4 (v.raw DETSTAT []))) ∧ v = { z with regs := v.regs }
          ∧ RegsBut z v [DETSTAT.addr []] ∧ (Sparse.sorted s.regs = true → v.flag DETSTAT.strict [] = bitOf (pnum p.params 0 4) 0
            ∧ v.flag DETSTAT.locked [] = (s.flag DETSTAT.locked [] || bitOf (pnum p.params 0 4) 1)
            ∧ (bitOf (pnum p.params 0 4) 0 = true → v.flag DETSTAT.exit_armed [] = false))))
    ∧ (s.takenOp w 0x0205 = some p →
      (bitOf (pnum p.params 0 4) 0 = true → s.flag DETSTAT.strict [] = true → exec (.jobctl w t) s = .next (z.answer w p 0x0203 [] []))
      ∧ (bitOf (pnum p.params 0 4) 0 = true → bitOf (pnum p.params 0 4) 1 = false → s.flag DETSTAT.strict [] = false →
        exec (.jobctl w t) s = .next ((z.wr DETSTAT.exit_armed [] 1).answer w p 0 [] []))
      ∧ (bitOf (pnum p.params 0 4) 0 = false → bitOf (pnum p.params 0 4) 1 = true →
        exec (.jobctl w t) s = .next ((z.wr DETSTAT.exit_armed [] 0).answer w p 0 [] [])))
    ∧ (s.takenOp w 0x0206 = some p →
      ((∃ j ∈ s.jobs, j.id = pnum p.params 0 8) → exec (.inputs w t) s = .next ((z.setJob (pnum p.params 0 8) (fun j =>
        { j with prov := { j.prov with inputs := some (pnum p.params 0 8, (p.params.drop 8).take 32) } })).answer w p 0 [] []))
      ∧ ((∀ j ∈ s.jobs, j.id ≠ pnum p.params 0 8) → exec (.inputs w t) s = .next (z.answer w p 0x0208 [] [])))
    ∧ (s.takenOp w 0x0207 = some p →
      (∀ m d : List Byte, (s.issued.filter (fun e => e.1 == pnum p.params 0 4)).getLast? = some (pnum p.params 0 4, pnum p.params 4 8, m, d) →
        exec (.prov w t) s = .next (z.answer w p 0 [] (m ++ d)))
      ∧ (s.provFind (pnum p.params 0 4) (pnum p.params 4 8) = none → exec (.prov w t) s = .next (z.answer w p 0x0010 [] [])))

/-- R332, R335, R336, R345: an operation that has ended is completed once, a stale one is only counted, and a deadline retires its tag. -/
def Sys2Proof.Claims.OperationsComplete : Prop :=
  ∀ (id : Nat) (c : Cmd) (s : State), s.sec.cmds.find? (fun x => x.id == id) = some c →
    (∀ (t : Nat) (e : Ending), c.ended = some e → s.switches = [] →
      (c.timedOut = true → ∃ u, exec (.commandComplete id t) s = .next u
        ∧ u = ((({ s.upTo t with sec := { s.sec with cmds := s.sec.cmds.filter (fun d => d.id != id) } } : State).addWrap SECCNT.stale [] 1).secRecord
            c.pkt.session c.window))
      ∧ (c.timedOut = false → ∃ v, v = ({ s.upTo t with sec := { s.sec with cmds := s.sec.cmds.filter (fun d => d.id != id) } } : State).postEntry c.window
            c.pkt.op c.pkt.tag c.pkt.gen c.pkt.session c.pkt.seq e.status e.details e.word8
        ∧ exec (.commandComplete id t) s = .next (v.setTag c.pkt.session c.pkt.tag { gen := c.pkt.gen, out := false })))
    ∧ (c.timedOut = false → s.staleRuns c.pkt.session c.pkt.tag ((c.pkt.gen + 1) % 16) = false → ∃ v, v = (s.upTo (c.pkt.commit + c.pkt.deadline)).postEntry
          c.window c.pkt.op c.pkt.tag c.pkt.gen c.pkt.session c.pkt.seq 0x000D [] none
      ∧ exec (.commandTimeout id) s = .next ((v.setCmd id (fun d => { d with timedOut := true })).setTag c.pkt.session c.pkt.tag
          { gen := (c.pkt.gen + 1) % 16, out := false }))

namespace Sys2Proof.Claims

/-- The engine works: the part has one and the IO die of compute die `n` stands (R290). -/
def AcqWorks (s : State) (n : Nat) : Prop := s.fit.acq = true ∧ s.flt.lost.contains (0xF5, 0, n / 4) = false

/-- The first tapped frame is `f` and `rest` follow: what the state is when its last byte has landed. -/
def tapped (s : State) (f : Tap) (rest : List Tap) : State := ({ s with acqTap := rest } : State).upTo f.last

/-- Of the sixteen streams only `k` takes frames of the frame's port (R291). -/
def OnlyStream (s : State) (f : Tap) (k : Nat) : Prop :=
  k < 16 ∧ (s.acqStream k).on = true ∧ fieldIn ACQSCFG.die (s.acqStream k).cfg = f.die ∧ fieldIn ACQSCFG.block (s.acqStream k).cfg = f.port
  ∧ fieldIn ACQSCFG.beats_only (s.acqStream k).cfg = 0 ∧ fieldIn ACQSCFG.armed_only (s.acqStream k).cfg = 0
  ∧ ∀ j, j ≠ k → (s.acqStream j).on = false

/-- No stream takes frames of the frame's port. -/
def NoStream (s : State) (f : Tap) : Prop :=
  ∀ k, k < 16 → (s.acqStream k).on = true → ¬ (fieldIn ACQSCFG.die (s.acqStream k).cfg = f.die ∧ fieldIn ACQSCFG.block (s.acqStream k).cfg = f.port)

/-- The RAW record of a frame at stream `k` (R292, R293). -/
def rawRecord (s : State) (f : Tap) (k : Nat) : AcqRec :=
  let snap := 8 * (fieldIn ACQSCFG.snap (s.acqStream k).cfg + 1)
  { kind := 1, stream := k, flags := b2n (!f.failed) + 2 * b2n f.beat.isSome + 4 * b2n (decide (snap < f.content.length) || f.excess)
    beat := match f.beat with | some b => b.toNat | none => 0
    die := f.die, block := f.port, when_ := s.domainAt f.first, body := f.content.take snap, landed := s.now }

/-- A window with the frame's elements entered one by one (R293). -/
def windowOf (s : State) (f : Tap) (k : Nat) : AcqWin :=
  (acqValues (s.acqStream k) f.content).foldl
    (fun w v => w.take (fieldIn ACQSCFG.fmt (s.acqStream k).cfg) (s.acqStream k).thr v (s.domainAt f.first)) ((s.acqStream k).window.getD {})

end Sys2Proof.Claims

/-- R301: a commit is refused whole with the code of its first failed check, or every stream and destination becomes what is pending; a stop
disables them all. -/
def Sys2Proof.Claims.AcquisitionCommits : Prop :=
  ∀ (s : State), s.fit.acq = true → Sparse.sorted s.regs = true →
    (s.acqCheck ≠ 0 → ∃ u, exec .acqCommit s = .next u ∧ u = { s with regs := u.regs } ∧ u.rd ACQSTAT.code [] = s.acqCheck
      ∧ u.flag ACQSTAT.refused [] = true ∧ RegsBut s u [ACQSTAT.addr []])
    ∧ (s.acqCheck = 0 → Sparse.sorted s.acq.streams = true → Sparse.sorted s.acq.dests = true → ∃ u, exec .acqCommit s = .next u
      ∧ (∀ k, k < 16 → (u.acqStream k).same (s.acqPending k) = true ∧ u.rd ACQSSTAT.running [k] = s.rd ACQSCFG.enable [k]
          ∧ ((s.acqStream k).same (s.acqPending k) = false → (u.acqStream k).line = [] ∧ (u.acqStream k).window = none))
      ∧ (∀ d, d < 4 → (u.acqDest d).same (s.acqPendDest d) = true
          ∧ ((s.acqDest d).same (s.acqPendDest d) = false → u.rd ACQDSEQ.seq [d] = 1 ∧ u.rd ACQDPTR.offset [d] = 0))
      ∧ (u.flag ACQSTAT.running [] = true ↔ ∃ k, k < 16 ∧ s.flag ACQSCFG.enable [k] = true)
      ∧ u.tier2 = s.tier2 ∧ u.dram = s.dram ∧ u.now = s.now)
    ∧ ∃ u, exec .acqStop s = .next u ∧ u = { s with regs := u.regs, acq := { s.acq with streams := [], dests := [] } }
      ∧ u.flag ACQSTAT.running [] = false ∧ (∀ k, k < 16 → u.rd ACQSSTAT.running [k] = 0 ∧ u.rd ACQSRATE.rate [k] = 0)

/-- R291 to R294: a tapped frame makes a RAW record at its stream, or its elements enter the stream's window. -/
def Sys2Proof.Claims.TappedFramesMakeRecords : Prop :=
  ∀ (f : Tap) (rest : List Tap) (s z : State), s.acqTap = f :: rest → z = tapped s f rest →
    (NoStream s f → exec .acqFrame s = .next z)
    ∧ (s.fit.acq = false → exec .acqFrame s = .next z)
    ∧ (∀ k, OnlyStream s f k → AcqWorks s f.die → Sparse.sorted s.acq.streams = true →
      (fieldIn ACQSCFG.kind (s.acqStream k).cfg = 0 → fieldIn ACQSCFG.segment (s.acqStream k).cfg = 1 → ∃ u, exec .acqFrame s = .next u
        ∧ u = { z with acq := { s.acq with streams := u.acq.streams } }
        ∧ u.acqStream k = { s.acqStream k with line := (s.acqStream k).line ++ [rawRecord z f k] }
        ∧ ∀ j, j ≠ k → u.acqStream j = s.acqStream j)
      ∧ (fieldIn ACQSCFG.kind (s.acqStream k).cfg = 0 → fieldIn ACQSCFG.segment (s.acqStream k).cfg = 0 →
        exec .acqFrame s = .next (z.acqRecord k (rawRecord z f k)))
      ∧ (fieldIn ACQSCFG.kind (s.acqStream k).cfg ≠ 0 → (acqValues (s.acqStream k) f.content).length = fieldIn ACQSCFG.n (s.acqStream k).cfg + 1 →
        ((s.acqStream k).window.getD {}).got + fieldIn ACQSCFG.n (s.acqStream k).cfg < fieldIn ACQSWIN.N (s.acqStream k).win →
        ∃ u, exec .acqFrame s = .next u ∧ u = { z with acq := { s.acq with streams := u.acq.streams } }
          ∧ u.acqStream k = { s.acqStream k with window := some (windowOf z f k) }
          ∧ (windowOf z f k).got = ((s.acqStream k).window.getD {}).got + fieldIn ACQSCFG.n (s.acqStream k).cfg + 1))

/-- R294, R296, R298, R299: a delayed record is committed inside a segment and discarded outside; what a commit writes, and tail blocks and
datagrams. -/
def Obligations.RecordsReachTheirDestinations : Prop :=
  (∀ (k : Nat) (r : AcqRec) (rest : List AcqRec) (s z : State), (s.acqStream k).line = r :: rest →
    z = s.upTo (max r.landed (s.psOf (r.when_ + nsDom (1000 * fieldIn ACQSSEG.pre (s.acqStream k).seg)))) →
    (s.inSegment (s.acqStream k) r.when_ = false → ∃ u, exec (.segmentCommit k) s = .next u
      ∧ u = { z with acq := { s.acq with streams := u.acq.streams } } ∧ (Sparse.sorted s.acq.streams = true →
        u.acqStream k = { s.acqStream k with line := rest } ∧ ∀ j, j ≠ k → u.acqStream j = s.acqStream j))
    ∧ (s.inSegment (s.acqStream k) r.when_ = true →
      exec (.segmentCommit k) s = .next ((z.setAcqStream k { s.acqStream k with line := rest }).acqRecord k r)
      ∧ (Sparse.sorted s.regs = true → Sparse.sorted s.acq.ring = true → (s.acqDest (s.acqStream k).dest).kind = 2 →
          s.rd ACQDPTR.offset [(s.acqStream k).dest] + acqRecBytes r.body.length ≤ 2 ^ 26 → k < 16 →
          ∃ u, exec (.segmentCommit k) s = .next u
            ∧ Sparse.getBytes u.acq.ring (s.rd ACQDPTR.offset [(s.acqStream k).dest]) (r.bytes (s.rd ACQDSEQ.seq [(s.acqStream k).dest])).length
              = r.bytes (s.rd ACQDSEQ.seq [(s.acqStream k).dest])
            ∧ u.rd ACQDSEQ.seq [(s.acqStream k).dest] = (s.rd ACQDSEQ.seq [(s.acqStream k).dest] + 1) % 2 ^ ACQDSEQ.seq.w
            ∧ u.rd ACQDPTR.offset [(s.acqStream k).dest]
              = (s.rd ACQDPTR.offset [(s.acqStream k).dest] + acqRecBytes r.body.length) % 2 ^ 26
            ∧ u.out = s.out ∧ u.tier2 = s.tier2)))
  ∧ (∀ (d t : Nat) (s : State),
    ((s.acqDest d).kind ≠ 1 → exec (.tailBlock d t) s = .next (s.upTo t))
    ∧ ((s.acqDest d).kind = 1 → s.flag HOSTSTAT.up [] = false → exec (.tailBlock d t) s = .next ((s.upTo t).bump ACQDCNT.dropped [d]))
    ∧ ((s.acqDest d).kind = 1 → s.flag HOSTSTAT.up [] = true → ∃ u bs, exec (.tailBlock d t) s = .next u ∧ bs.length = 64
      ∧ u = { s with now := max s.now t, out := s.out ++ [.hostWrite ((s.acqDest d).tail / 64 * 64) bs] }
      ∧ leNat (bs.take 8) = s.rd ACQDSEQ.seq [d] ∧ leNat ((bs.drop 8).take 8) = s.rd ACQDPTR.offset [d]
      ∧ leNat ((bs.drop 16).take 12) = (s.upTo t).domNow % 2 ^ 96 ∧ bs.drop 28 = List.replicate 36 0))
  ∧ (∀ (d l : Nat) (x : AcqDest) (s z : State), x = s.acqDest d → x.dgram ≠ [] → l = fieldIn ACQDCFG.eport x.cfg →
    z = (s.upTo (x.dgAt + fieldIn ACQDETH.flush x.eth * 1000000)).setAcqDest d { x with dgram := [], dgCount := 0, dgSeq := 0, dgAt := 0 } →
    (s.flag PSTAT.lock [l / 16, l % 16] = false → exec (.datagramFlush d) s = .next (z.bump ACQDCNT.dropped [d]))
    ∧ (s.flag PSTAT.lock [l / 16, l % 16] = true → ∃ u bs, exec (.datagramFlush d) s = .next u
      ∧ u = { z with out := s.out ++ [.ethernet (l / 16) (l % 16) bs] }
      ∧ (x.template.length = 42 → bs.length = 58 + x.dgram.length ∧ bs.drop 58 = x.dgram
          ∧ leNat ((bs.drop 42).take 8) = x.dgSeq % 2 ^ 64 ∧ leNat ((bs.drop 50).take 2) = x.dgCount % 2 ^ 16
          ∧ bs.take 14 = x.template.take 14 ∧ (bs.drop 40).take 2 = [0, 0])))

namespace Sys2Proof.Claims

/-- All that a laser die of number `l` is called by: its failed flag and its power in `GWLASER` (R306). -/
def laserFailed (l : Nat) : Fld := if l = 0 then GWLASER.a_failed else GWLASER.b_failed
def laserPower (l : Nat) : Fld := if l = 0 then GWLASER.power_a else GWLASER.power_b

/-- The lane of a glowworm that stands (R307). -/
def LaneStands (s : State) (e k : Nat) : Prop := e < 8 ∧ k < 32 ∧ bitOf s.fit.glow e = true ∧ s.flag GWSTAT.failed [e] = false

/-- An injection of lane `k` runs with this many still to make (R311). -/
def Injecting (s : State) (e k : Nat) (x : Inject) : Prop := Sparse.find s.injects (laneKey e k) = some x

/-- A good frame of an own address: nothing keeps it from its queue `q` (R312 to R316). -/
def GoodFrame (s : State) (n i q : Nat) (bytes : List Byte) : Prop :=
  s.bulkEth n i = true ∧ 64 ≤ bytes.length ∧ bytes.length ≤ 9216 ∧ bytes.foldl crcByte 0xFFFFFFFF = crcResidue
  ∧ addressOk (s.raw MACADDR [n / 4, 16 * (n % 4) + i]) (s.flag MCFG.mcast [n, i]) (s.flag MCFG.promisc [n, i]) bytes = true
  ∧ (frameTags bytes).2 ≠ 0x8808 ∧ isPtp bytes = false ∧ s.steerFrame n i bytes = some q ∧ s.flag MRQ.enable [n, i, q] = true

/-- The state when a bulk frame has gone to the two taps (R18). -/
def macTapped (s : State) (n i : Nat) (bytes : List Byte) (bad : Bool) (first t : Nat) : State := (s.upTo t).tapBulk n i bytes bad first t

/-- Transmit queue `q` serves next, and its first token is `f` (R317). -/
def Serves (s : State) (n i q : Nat) (f : Flit) (rest : List Flit) : Prop :=
  s.bulkEth n i = true ∧ s.txPick n i = some q ∧ ((s.mac n i).tx q).toks = f :: rest

/-- The slow-control port's own frame `x` is first in its queue. -/
def T1sFirst (s : State) (x : T1sTx) (r : List T1sTx) : Prop := s.t1s.txq = x :: r

/-- The port with another transmit queue. -/
def withTxq (s : State) (q : List T1sTx) : State := s.setT1s { s.t1s with txq := q }

end Sys2Proof.Claims

/-- R306, R307: one laser die's failure leaves the light to the other; without either every glowworm is lost, and a lost glowworm's lanes
are dark. -/
def Sys2Proof.Claims.LightSources : Prop :=
  (∀ (l t : Nat) (s : State), l < 2 → Sparse.sorted s.regs = true → (∀ e ∈ s.glows, s.flag (laserFailed l) [e] = false) →
    (∀ e ∈ s.glows, s.flag (laserFailed (1 - l)) [e] = false) →
    ∃ u, exec (.laserFailure l t) s = .next u ∧ ∀ e ∈ s.glows, u.flag (laserFailed l) [e] = true ∧ u.rd (laserPower l) [e] = 0
      ∧ u.flag (laserFailed (1 - l)) [e] = false ∧ u.flag GWSTAT.failed [e] = s.flag GWSTAT.failed [e])
  ∧ (∀ (l t : Nat) (s : State), l < 2 → Sparse.sorted s.regs = true → s.glows ≠ [] → (∀ e ∈ s.glows, s.flag (laserFailed l) [e] = false) →
    (∀ e ∈ s.glows, s.flag (laserFailed (1 - l)) [e] = true) →
    ∃ u, exec (.laserFailure l t) s = .next u ∧ ∀ e ∈ s.glows, u.flag GWSTAT.failed [e] = true)
  ∧ (∀ (e t : Nat) (s : State), e < 8 → bitOf s.fit.glow e = true → Sparse.sorted s.regs = true → s.flag GWSTAT.failed [e] = false →
    ∃ u, exec (.glowwormFailure e t) s = .next u ∧ u.flag GWSTAT.failed [e] = true
      ∧ ∀ k, k < 32 → u.flag LSTAT.signal [e, k] = false ∧ u.flag LSTAT.cdr_lock [e, k] = false
        ∧ (s.ringPort (2 * e + k / 16) (k % 16) = none → u.flag PSTAT.lock [2 * e + k / 16, k % 16] = false))

/-- R308, R310: what a lane's receiver and its pattern checker record when they lock and lose lock. -/
def Sys2Proof.Claims.LaneReceivers : Prop :=
  ∀ (e k t : Nat) (s : State), LaneStands s e k → Sparse.sorted s.regs = true →
    (∀ best oma, best < 2 ^ LSTAT.peaking_now.w → oma < 2 ^ LOPT.rx_oma.w → ∃ u, exec (.cdrLock e k best oma t) s = .next u
      ∧ u = { s with now := max s.now t, regs := u.regs } ∧ RegsBut s u [LSTAT.addr [e, k], LOPT.addr [e, k]]
      ∧ u.flag LSTAT.signal [e, k] = true ∧ u.flag LSTAT.cdr_lock [e, k] = true ∧ u.rd LOPT.rx_oma [e, k] = oma
      ∧ u.rd LSTAT.peaking_now [e, k] = (if s.flag LCFG.adapt [e, k] = true then best else s.rd LCFG.peaking [e, k] % 2 ^ LSTAT.peaking_now.w))
    ∧ (s.flag LSTAT.cdr_lock [e, k] = true → ∃ u, exec (.cdrLockLoss e k t) s = .next u
      ∧ u = { s with now := max s.now t, regs := u.regs } ∧ RegsBut s u [LSTAT.addr [e, k]]
      ∧ u.flag LSTAT.cdr_lock [e, k] = false ∧ u.flag LSTAT.lock_lost [e, k] = true)
    ∧ (s.flag LSTAT.cdr_lock [e, k] = false → exec (.cdrLockLoss e k t) s = .next (s.upTo t))
    ∧ (s.rd LCFG.prbs_rx [e, k] ≠ 0 → ∃ u, exec (.prbsLock e k t) s = .next u ∧ u.flag LSTAT.prbs_lock [e, k] = true
      ∧ u = { s with now := max s.now t, regs := u.regs } ∧ RegsBut s u [LSTAT.addr [e, k]])
    ∧ (s.rd LCFG.prbs_rx [e, k] = 0 → exec (.prbsLock e k t) s = .next (s.upTo t))
    ∧ (∀ bits errs, s.flag LSTAT.prbs_lock [e, k] = true → ∃ u, exec (.prbsLockLoss e k bits errs t) s = .next u
      ∧ u.flag LSTAT.prbs_lock [e, k] = false
      ∧ u.rd LPRBSERR.errors [e, k] = min (s.rd LPRBSERR.errors [e, k] + errs) (2 ^ LPRBSERR.errors.w - 1)
      ∧ u.rd LPRBSBITS.bits [e, k] = (s.rd LPRBSBITS.bits [e, k] + bits) % 2 ^ LPRBSBITS.bits.w)

/-- R311: an injection run starts with `go`, makes one error at each spacing and ends after `count`, or at once with kind 0. -/
def Sys2Proof.Claims.LaneInjections : Prop :=
  ∀ (e k : Nat) (s : State), e < 8 → k < 32 → Sparse.sorted s.regs = true → Sparse.sorted s.injects = true →
    (∀ (v : W64), bitOf v.toNat 51 = true → v.toNat % 4 ≠ 0 → bitsOf v.toNat 26 16 ≠ 0 → bitsOf v.toNat 42 9 ≤ 271 →
      (s.flag LINJ.busy [e, k] = true → exec (.linjGo e k v) s = .next s)
      ∧ (s.flag LINJ.busy [e, k] = false → ∃ u, exec (.linjGo e k v) s = .next u ∧ u.flag LINJ.busy [e, k] = true
        ∧ u.raw LINJ [e, k] % 2 ^ 51 = v.toNat % 2 ^ 51
        ∧ Injecting u e k { left := if u.rd LINJ.count [e, k] = 0 then none else some (u.rd LINJ.count [e, k]) }
        ∧ u = { s with regs := u.regs, injects := u.injects } ∧ RegsBut s u [LINJ.addr [e, k]]))
    ∧ (∀ (v : W64), v.toNat % 4 = 0 → bitsOf v.toNat 26 16 ≠ 0 → bitsOf v.toNat 42 9 ≤ 271 →
      ∃ u, exec (.linjStop e k v) s = .next u ∧ u.flag LINJ.busy [e, k] = false ∧ Sparse.find u.injects (laneKey e k) = none
        ∧ u = { s with regs := u.regs, injects := u.injects } ∧ RegsBut s u [LINJ.addr [e, k]])
    ∧ (∀ (t : Nat) (x : Inject), Injecting s e k x → ∃ u p, exec (.injection e k t) s = .next u
      ∧ u.out = s.out ++ [.inject e k (s.rd LINJ.kind [e, k]) p] ∧ u.now = max s.now t
      ∧ u.rd LINJCNT.made [e, k] = min (s.rd LINJCNT.made [e, k] + 1) (2 ^ LINJCNT.made.w - 1)
      ∧ (s.rd LINJ.kind [e, k] = 2 → p = s.rd LINJ.length [e, k] + 1) ∧ (s.rd LINJ.kind [e, k] = 3 → p = s.rd LINJ.symbol [e, k])
      ∧ (x.left = none → Injecting u e k x)
      ∧ (x.left = some 1 → u.flag LINJ.busy [e, k] = false ∧ Sparse.find u.injects (laneKey e k) = none)
      ∧ (∀ m, x.left = some (m + 2) → Injecting u e k { left := some (m + 1) }))

/-- R312 to R317: bulk frames are counted out or stored in their queue's order, recorded in its ring and released; a peer's pause stops queues. -/
def Obligations.BulkFramesAreReceived : Prop :=
  (∀ (n i first t : Nat) (bytes : List Byte) (s : State), s.bulkEth n i = true →
    ((bytes.length < 64 ∨ 9216 < bytes.length) → ∀ err, ∃ b, exec (.macReceive n i bytes err first t) s
      = .next ((macTapped s n i bytes b first t).bump MCNT_SIZE.count [n, i]))
    ∧ (64 ≤ bytes.length → bytes.length ≤ 9216 → bytes.foldl crcByte 0xFFFFFFFF ≠ crcResidue →
      ∀ err, exec (.macReceive n i bytes err first t) s = .next ((macTapped s n i bytes true first t).bump MCNT_FCS.count [n, i]))
    ∧ (∀ q, GoodFrame s n i q bytes →
      (256 * s.portLanes n i < s.macCells n i none + (bytes.length + 255) / 256 →
        exec (.macReceive n i bytes false first t) s = .next ((macTapped s n i bytes false first t).bump MCNT_NOMEM.count [n, i]))
      ∧ (s.macCells n i none + (bytes.length + 255) / 256 ≤ 256 * s.portLanes n i → Sparse.sorted s.macs = true →
        ∃ u, exec (.macReceive n i bytes false first t) s = .next u
          ∧ (u.mac n i).frames = (s.mac n i).frames ++ [{ queue := q, bytes, at_ := first }] ∧ (u.mac n i).rings = (s.mac n i).rings
          ∧ (u.mac n i).txq = (s.mac n i).txq ∧ u.tier2 = s.tier2 ∧ u.dram = s.dram)))
  ∧ (∀ (n i q t : Nat) (f : MacFrame) (rest : List MacFrame) (g : Region) (s : State), takeFrame q (s.mac n i).frames = some (f, rest) →
    s.regionOf n (s.rd MRQ.region [n, i, q]) = some g →
    (g.size < (((s.mac n i).ring q).held.map (·.2)).sum + 128 → exec (.receiveRecord n i q t) s = .next (s.upTo t))
    ∧ (∀ body, body = histRecord 0 i true false false 0 (s.rd GEPOCH.epoch [n]) 0 (f.at_ / vernierPs) ((s.mac n i).ring q).seq f.bytes →
      ((s.mac n i).ring q).written % max 1 g.size + body.length ≤ g.size →
      (((s.mac n i).ring q).held.map (·.2)).sum + body.length ≤ g.size → g.tier = 2 → Sparse.sorted s.tier2 = true → Sparse.sorted s.macs = true →
      ∃ u, exec (.receiveRecord n i q t) s = .next u
        ∧ Sparse.getBytes u.tier2 (g.base + ((s.mac n i).ring q).written % max 1 g.size) body.length = body
        ∧ (u.mac n i).frames = rest ∧ ((u.mac n i).ring q).seq = ((s.mac n i).ring q).seq + 1
        ∧ ((u.mac n i).ring q).written = ((s.mac n i).ring q).written + body.length
        ∧ ((u.mac n i).ring q).held = ((s.mac n i).ring q).held ++ [(((s.mac n i).ring q).seq, body.length)]))
  ∧ (∀ (n i t q seq : Nat) (f : Flit) (s z : State), z = ((s.upTo t).arrive (.port n i) f).owe f.edge → q = f.tok.data.toNat % 16 →
    seq = bitsOf f.tok.data.toNat 16 48 → f.tok.kind = 0 → f.tok.epoch = (s.die n).bulkEpoch →
    ((((s.mac n i).ring q).seq ≤ seq ∨ bitsOf f.tok.data.toNat 4 12 ≠ 0) → exec (.receiveRelease n i f t) s = .next (z.bump MCNT_RELERR.count [n, i]))
    ∧ (seq < ((s.mac n i).ring q).seq → bitsOf f.tok.data.toNat 4 12 = 0 → exec (.receiveRelease n i f t) s = .next (z.setMac n i
        ((s.mac n i).setRing q { (s.mac n i).ring q with held := ((s.mac n i).ring q).held.filter (fun p => decide (seq < p.1)) }))))
  ∧ (∀ (n i t q v : Nat) (s : State), s.bulkEth n i = true → s.flag MCFG.pause_rx [n, i] = true → q < 8 → v ≠ 0 → n < 16 → i < 16 →
    Sparse.sorted s.regs = true → Sparse.sorted s.macs = true → Sparse.sorted (s.mac n i).pausedTo = true →
    ∃ u, exec (.pauseReceived n i false [(q, v)] t) s = .next u ∧ Sparse.get 0 (u.mac n i).pausedTo q = max s.now t + v * s.quantumPs n i
      ∧ ((s.upTo t).quantumPs n i ≠ 0 → bitOf (u.rd MOCC.paused [n, i]) q = true)
      ∧ u.rd MCNT_PAUSERX.count [n, i] = min (s.rd MCNT_PAUSERX.count [n, i] + 1) (2 ^ MCNT_PAUSERX.count.w - 1))
  ∧ (∀ (n i q u : Nat) (s : State), u = Sparse.get 0 (s.mac n i).pausedTo q → u ≠ 0 → q < 8 → exec (.pauseExpiry n i q) s = .next
    (((s.upTo u).setMac n i { s.mac n i with pausedTo := Sparse.erase (s.mac n i).pausedTo q }).wr MOCC.paused [n, i]
      (setBits (s.rd MOCC.paused [n, i]) q 1 0)))
  ∧ (∀ (n i t : Nat) (s : State), (s.upTo t).pauseFree n i = true → s.rd MWM.low [n, i] ≤ s.macCells n i none →
    s.rd MCFG.fc [n, i] = 1 → s.rd MOCC.pausing [n, i] ≠ 0 → n < 16 → i < 16 → Sparse.sorted s.regs = true → Sparse.sorted s.macs = true →
    ∃ u, exec (.pauseRefresh n i t) s = .next u ∧ u.out = s.out ++ [.pause n i true [(0, s.rd MACPAUSE.quanta [n / 4])]]
      ∧ (u.mac n i).pauseAt = max s.now t + 1)

/-- R317, R318: descriptor tokens queue, the highest queue that may send goes first, a broken descriptor is counted and sends nothing. -/
def Sys2Proof.Claims.BulkFramesAreSent : Prop :=
  (∀ (n i t : Nat) (f : Flit) (s z : State), z = (s.upTo t).arrive (.port n i) f → f.tok.kind ≠ 3 →
    (f.tok.epoch ≠ (s.die n).bulkEpoch → exec (.transmitToken n i f t) s = .next (z.owe f.edge))
    ∧ (f.tok.epoch = (s.die n).bulkEpoch → f.tok.index ≤ 7 → s.flag MTQ.enable [n, i, f.tok.index] = true →
      ((s.mac n i).tx f.tok.index).toks.length < 64 → exec (.transmitToken n i f t) s = .next (z.setMac n i
        ((s.mac n i).setTx f.tok.index { (s.mac n i).tx f.tok.index with toks := ((s.mac n i).tx f.tok.index).toks ++ [f] }))))
  ∧ (∀ (n i q first t : Nat) (f : Flit) (rest : List Flit) (s : State), Serves s n i q f rest → Sparse.sorted s.macs = true →
    Sparse.sorted (s.mac n i).txq = true → n < 16 → i < 16 → Sparse.sorted s.regs = true →
    (∀ bytes, s.txDesc n f.tok.data = (some bytes, none) → ∃ u, exec (.frameSent n i first t) s = .next u
      ∧ u.out = s.out ++ [.ethernet n i (bytes ++ leBytes 4 (crc32 bytes).toNat)] ∧ ((u.mac n i).tx q).toks = rest
      ∧ ((u.mac n i).tx q).sent = ((s.mac n i).tx q).sent + 1
      ∧ (∀ p, p < 8 → q < p → ((s.mac n i).tx p).toks = [] ∨ bitOf (s.rd MOCC.paused [n, i]) p = true))
    ∧ (s.txDesc n f.tok.data = (none, none) → ∃ u, exec (.frameSent n i first t) s = .next u ∧ u.out = s.out ∧ ((u.mac n i).tx q).toks = rest
      ∧ ((u.mac n i).tx q).sent = ((s.mac n i).tx q).sent))

/-- R319, R320: the slow-control port takes good frames into its queue, and sends with back-off after each collision. -/
def Sys2Proof.Claims.SlowControlPort : Prop :=
  (∀ (bytes : List Byte) (t : Nat) (s : State),
    (s.fit.t1s = false ∨ s.flag T1SCFG.enable [] = false → exec (.t1sReceive bytes t) s = .next (s.upTo t))
    ∧ (s.fit.t1s = true → s.flag T1SCFG.enable [] = true →
      (bytes.foldl crcByte 0xFFFFFFFF ≠ crcResidue → exec (.t1sReceive bytes t) s = .next ((s.upTo t).bump T1SCNT.fcs []))
      ∧ (bytes.foldl crcByte 0xFFFFFFFF = crcResidue → 64 ≤ bytes.length → bytes.length ≤ 1522 →
        addressOk (s.raw T1SADDR []) (s.flag T1SCFG.mcast []) (s.flag T1SCFG.promisc []) bytes = true → isPtp bytes = false →
        (s.t1s.rxq.length < 32 → ∃ u, exec (.t1sReceive bytes t) s = .next u
          ∧ u.t1s = { s.t1s with rxq := s.t1s.rxq ++ [(bytes, (s.upTo t).domainAt t)] })
        ∧ (32 ≤ s.t1s.rxq.length → exec (.t1sReceive bytes t) s = .next ((s.upTo t).wr T1SSTAT.rxq_full [] 1)))))
  ∧ (∀ (bits t : Nat) (x : T1sTx) (r : List T1sTx) (s z : State), T1sFirst s x r → x.backoff = false →
    z = ((s.upTo t).bump T1SCNT.collisions []).emit .t1sJam →
    (bits ≤ 512 → x.tries < 15 → exec (.t1sCollision bits t) s = .next (withTxq z ({ x with tries := x.tries + 1, backoff := true } :: r)))
    ∧ (bits ≤ 512 → 15 ≤ x.tries → x.stamp = false → exec (.t1sCollision bits t) s = .next (withTxq (z.bump T1SCNT.excessive []) r))
    ∧ (512 < bits → x.stamp = false → exec (.t1sCollision bits t) s = .next (withTxq (z.bump T1SCNT.late []) r)))
  ∧ (∀ (t : Nat) (x : T1sTx) (r : List T1sTx) (s : State), T1sFirst s x r → x.backoff = true →
    exec (.t1sBackoff false t) s = .next (withTxq (s.upTo t) ({ x with backoff := false } :: r))
    ∧ (x.stamp = false → exec (.t1sBackoff true t) s = .next ((withTxq (s.upTo t) r).emit (.t1s (x.bytes ++ leBytes 4 (crc32 x.bytes).toNat)))))

/-- R323, R324: the host link's training and its falls, and the message an unmasked vector owes. -/
def Sys2Proof.Claims.HostLink : Prop :=
  (∀ (t : Nat) (s : State), Sparse.sorted s.regs = true → ∃ u, exec (.linkDown 0 t) s = .next u ∧ u = { s with now := max s.now t, regs := u.regs }
    ∧ u.flag HOSTSTAT.up [] = false ∧ u.rd HOSTSTAT.width [] = 0
    ∧ u.rd HOSTCNT.link_down [] = min (s.rd HOSTCNT.link_down [] + 1) (2 ^ HOSTCNT.link_down.w - 1)
    ∧ (∀ v, v < 64 → u.flag MSIXCTL.masked [v] = true) ∧ u.raw MSIXPBA [] = 0)
  ∧ (∀ (k t : Nat) (s : State), Sparse.sorted s.regs = true → ∃ u, exec (.linkDown (k + 1) t) s = .next u ∧ u = { s with now := max s.now t, regs := u.regs }
    ∧ u.rd HOSTSTAT.up [] = s.rd HOSTSTAT.up [] ∧ u.raw HOSTCNT [] = s.raw HOSTCNT [] ∧ (∀ v, v < 64 → u.flag MSIXCTL.masked [v] = true))
  ∧ (∀ (width rate t : Nat) (s : State), Sparse.sorted s.regs = true → width ≤ 16 → rate ≤ 128 → ∃ u, exec (.linkTrained width rate t) s = .next u
    ∧ u.flag HOSTSTAT.up [] = true ∧ u.rd HOSTSTAT.width [] = width ∧ u.rd HOSTSTAT.rate [] = rate
    ∧ (u.flag HOSTSTAT.degraded [] = true ↔ width < s.strapLanes ∨ rate < 128)
    ∧ (s.strapLanes ≤ width → 128 ≤ rate → u = { s with now := max s.now t, regs := u.regs } ∧ RegsBut s u [HOSTSTAT.addr []]))
  ∧ (∀ (v : Nat) (s : State), v < 64 → Sparse.sorted s.regs = true → ∃ u, exec (.msixUnmask v) s = .next u ∧ u.flag MSIXCTL.masked [v] = false
    ∧ bitOf (u.raw MSIXPBA []) v = false ∧ u.out = s.out ++ (if bitOf (s.raw MSIXPBA []) v = true then [.msix v] else [])
    ∧ RegsBut s u [MSIXCTL.addr [v], MSIXPBA.addr []] ∧ ∀ w, w ≠ v → bitOf (u.raw MSIXPBA []) w = bitOf (s.raw MSIXPBA []) w)

namespace Sys2Proof.Claims

/-- A reply stands in window `w` (R328, R331): state 3, one more in its count, the packet done, the first three words those of the packet,
the status and the data. -/
def Answered (s u : State) (w : Nat) (p : Pkt) (status : Nat) (data : List Byte) : Prop :=
  u.rd CWSTATE.state [w] = 3 ∧ u.rd CWSTATE.replies [w] = (s.rd CWSTATE.replies [w] + 1) % 2 ^ 16 ∧ (u.win w).taken = none
  ∧ (u.win w).reply.take 4 = leBytes 4 (p.op + p.tag * 2 ^ 16 + p.gen * 2 ^ 28) ∧ ((u.win w).reply.drop 12).take 4 = leBytes 4 status
  ∧ ((u.win w).reply.drop 32).take data.length = data

/-- A whole packet of `len` words is written at once into window `w`, that is free (R325, R327). -/
def WholePacket (s : State) (w : Nat) (ws : List W32) : Prop :=
  w < 16 ∧ s.rd CWSTATE.state [w] ≠ 2 ∧ 8 ≤ ws.length ∧ ws.length ≤ 12288 ∧ (ws.getD 1 0).toNat % 65536 = ws.length ∧ Sparse.sorted s.regs = true
  ∧ Sparse.sorted (s.win w).words = true

/-- The window as the words leave it, taken by the firmware. -/
def committed (s : State) (w t : Nat) (ws : List W32) : State :=
  (((s.upTo t).setWin w { s.win w with words := setWords (s.win w).words 0 ws, lenSeen := true }).wr CWSTATE.state [w] 1).wr CWSTATE.state [w] 2

/-- The packet of window `w` has come to its command of opcode `op`. -/
def Taken (s : State) (w op : Nat) (p : Pkt) : Prop := s.takenOp w op = some p ∧ w < 16 ∧ Sparse.sorted s.regs = true

/-- Session slot `k` holds `x`, and no other slot its id. -/
def SessionAt (s : State) (id k : Nat) (x : Sess) : Prop :=
  s.sessSlot id = some (k, x) ∧ Sparse.sorted s.sec.sessions = true
    ∧ ∀ i j y z, i < 8 → j < 8 → Sparse.get none s.sec.sessions i = some y → Sparse.get none s.sec.sessions j = some z → y.id = z.id → i = j

/-- No tag of the session is outstanding. -/
def NoTags (x : Sess) : Prop := x.tags.any (fun r => r.2.out) = false

/-- The nonce of window `w` that an open may still use (R341). -/
def FreshNonce (s : State) (w : Nat) (nd : List Byte) (u : Nat) : Prop := (s.win w).nonce = some (nd, u) ∧ s.now ≤ u + 10000000000000

/-- The key of a maintenance session over a nonce and the host's parameters (R343). -/
def maintKey (s : State) (nd : List Byte) (p : Pkt) : List Byte := fitTo 32 (Config.kmac256 "IADAR S2 MAINT" s.vault.verifier (nd ++ p.params) 32)

/-- The bytes of window `w`'s packet without its MAC, and the MAC. -/
def macBody (s : State) (w : Nat) : List Byte := ((s.win w).bytes 0 (4 * ((s.win w).word 1 % 65536))).take (4 * ((s.win w).word 1 % 65536) - 16)
def macOf (s : State) (w : Nat) : List Byte := ((s.win w).bytes 0 (4 * ((s.win w).word 1 % 65536))).drop (4 * ((s.win w).word 1 % 65536) - 16)

/-- A reply goes to a host list where one is given, else into the reply area (R339). -/
def ListReply (cmd : Instr) (s : State) (w t : Nat) (p : Pkt) (a : Nat) (data : List Byte) : Prop :=
  ∀ (l : List (Nat × Nat)) (b : Nat), hostList p.params a true = some (l, b) →
    (l = [] → 48 + data.length ≤ 8176 → ∃ u, exec cmd s = .next u ∧ Answered s u w p 0 data ∧ u.vault = s.vault)
    ∧ (l = [] → 8176 < 48 + data.length → ∃ u, exec cmd s = .next u ∧ Answered s u w p 0x000E [])
    ∧ (l ≠ [] → listBytes l < data.length → ∃ u, exec cmd s = .next u ∧ Answered s u w p 0x000E [])
    ∧ (∀ x n, l = [(x, n)] → data ≠ [] → data.length ≤ n → ∃ u v, exec cmd s = .next u ∧ Answered s u w p 0 []
        ∧ u.out = s.out ++ .hostWrite x data :: v ∧ u.now = max s.now t)

/-- The firmware in which an update ends (R348). -/
def UpdateRead (s : State) (id : Nat) (mem : Option (List Byte)) (bs : List Byte) : Prop :=
  ∃ c l b m, s.cmdOf id 0x0605 = some c ∧ hostList c.pkt.params 0 false = some (l, b) ∧ s.flag HOSTSTAT.up [] = true ∧ mem = some m
    ∧ bs = fitTo (listBytes l) m

end Sys2Proof.Claims

/-- R325 to R332: words written into a window, and what becomes of a packet when its last word comes. -/
def Sys2Proof.Claims.PacketsAreCheckedInOrder : Prop :=
  (∀ (w i t : Nat) (ws : List W32) (s : State), w < 16 → i < 12288 → ws ≠ [] → i + ws.length ≤ 12288 →
    (s.rd CWSTATE.state [w] = 2 → exec (.requestAreaWrite w (4 * i) ws t) s = .next ((s.upTo t).bump CWCNT.ignored [w]))
    ∧ (s.rd CWSTATE.state [w] = 1 → (s.win w).lenSeen = true → 2 ≤ i → 8 ≤ ((s.win w).word 1) % 65536 → Sparse.sorted (s.win w).words = true →
      i + ws.length < ((s.win w).word 1) % 65536 → ∃ u, exec (.requestAreaWrite w (4 * i) ws t) s = .next u ∧ u.rd CWSTATE.state [w] = 1
        ∧ (∀ j v, ws[j]? = some v → (u.win w).word (i + j) = v.toNat) ∧ (∀ j, j < i → (u.win w).word j = (s.win w).word j)
        ∧ (u.win w).reply = (s.win w).reply ∧ (u.win w).taken = (s.win w).taken ∧ u.out = s.out))
  ∧ (∀ (w t : Nat) (ws : List W32) (s z : State) (p : Pkt), WholePacket s w ws → z = committed s w t ws → p = z.readPacket w ws.length →
    ((z.packetCheck w p ws.length).1 ≠ 0 → p.seq ≠ 2 ^ 32 - 1 → ∃ u, exec (.packetCommit w 0 ws t) s = .next u
      ∧ Answered s u w p (z.packetCheck w p ws.length).1 [])
    ∧ ((z.packetCheck w p ws.length).1 = 0 → p.seq ≠ 2 ^ 32 - 1 → bitsOf (z.win w |>.word 3) 17 15 = 0 →
      (∀ who, opInfo p.op = some (who, false) → ∃ u, exec (.packetCommit w 0 ws t) s = .next u ∧ (u.win w).taken = some p
        ∧ u.rd CWSTATE.state [w] = 2 ∧ (u.win w).reply = (s.win w).reply)
      ∧ (∀ who, opInfo p.op = some (who, true) → ∃ u, exec (.packetCommit w 0 ws t) s = .next u ∧ Answered s u w p 0x0001 []
        ∧ u.sec.cmds = s.sec.cmds ++ [{ id := s.sec.nextCmd, window := w, pkt := p }] ∧ u.sec.nextCmd = s.sec.nextCmd + 1))
    ∧ (p.session ≠ 0 → s.sessSlot p.session = none → (z.packetCheck w p ws.length).1 = 0x0004)
    ∧ (∀ k x, p.session ≠ 0 → s.sessSlot p.session = some (k, x) → macOf z w = mac16 "IADAR S2 CMD" x.key (macBody z w) → p.seq ≠ s.nextSeq k →
      (z.packetCheck w p ws.length).1 = 0x0006))

/-- R341, R343 to R345: nonces, opens and their refusals, and the lockout they lead to. -/
def Obligations.SessionsOpen : Prop :=
  (∀ (w t : Nat) (p : Pkt) (s : State), Taken s w 0x0001 p → ∃ u nd, exec (.nonce w t) s = .next u ∧ nd.length = 32
    ∧ (u.win w).nonce = some (nd, max s.now t) ∧ Answered s u w p 0 (fitTo 16 s.vault.salt ++ nd) ∧ u.vault = s.vault ∧ u.sec = s.sec)
  ∧ (∀ (w t : Nat) (p : Pkt) (s : State), Taken s w 0x0002 p →
    (s.flag SECSTAT.locked_out [] = true → ∃ u, exec (.openMaint w t) s = .next u ∧ Answered s u w p 0x0012 [] ∧ u.sec = s.sec
      ∧ u.rd SECCNT.auth_failed [] = (s.rd SECCNT.auth_failed [] + 1) % 2 ^ SECCNT.auth_failed.w)
    ∧ (s.flag SECSTAT.locked_out [] = false →
      ((s.win w).nonce = none → ∃ u, exec (.openMaint w t) s = .next u ∧ Answered s u w p 0x0011 [] ∧ u.sec.fails = s.sec.fails + 1
        ∧ u.sec.sessions = s.sec.sessions ∧ (u.flag SECSTAT.locked_out [] = true ↔ 5 ≤ s.sec.fails + 1)
        ∧ (5 ≤ s.sec.fails + 1 → u.sec.lockUntil = some (max s.now t + min 3600 (60 * 2 ^ (s.sec.fails - 4)) * 1000000000000)))
      ∧ (∀ nd i k, FreshNonce (s.upTo t) w nd i → p.seq = 0 → macOf s w = mac16 "IADAR S2 CMD" (maintKey s nd p) (macBody s w) →
        s.freeSlot true = some k → ∃ u x, exec (.openMaint w t) s = .next u ∧ Answered s u w p 0 (leBytes 4 s.sessionId)
          ∧ Sparse.get none u.sec.sessions k = some x ∧ x.maint = true ∧ x.id = s.sessionId ∧ x.key = maintKey s nd p ∧ x.tags = []
          ∧ u.sec.fails = 0 ∧ (u.win w).nonce = none ∧ u.flag SECSTAT.maint_open [] = true ∧ u.vault = s.vault)))
  ∧ (∀ (w t : Nat) (p : Pkt) (s : State), Taken s w 0x0003 p →
    ((s.win w).nonce = none → ∃ u, exec (.openOp w t) s = .next u ∧ Answered s u w p 0x0011 [] ∧ u.sec = s.sec)
    ∧ (∀ nd i slot x m ok, FreshNonce (s.upTo t) w nd i → s.keyOfId (pnum p.params 0 4) = some (slot, x) → bitOf x.roles 0 = true →
      m = fitTo 64 (Config.shake256 (asciiBytes "IADAR S2 OPEN" ++ nd ++ (p.params.drop 4).take 32 ++ (p.params.drop 36).take 1568
        ++ leBytes 8 s.part.serial) 64) → ok = Config.falconVerify x.pub m ((p.params.drop 1608).take (pnum p.params 1604 4)) →
      ∃ u, exec (.openOp w t) s = .next u
        ∧ (ok = false → Answered s u w p 0x0011 [] ∧ u.sec = s.sec)
        ∧ ∀ k, ok = true → s.freeSlot false = some k → Answered s u w p 0 (leBytes 4 s.sessionId) ∧ (u.win w).nonce = none ∧ u.sec.fails = s.sec.fails
          ∧ ∃ y, Sparse.get none u.sec.sessions k = some y ∧ y.maint = false ∧ y.slot = slot ∧ y.id = s.sessionId))
  ∧ (∀ (u : Nat) (s : State), s.sec.lockUntil = some u → exec .lockoutExpiry s = .next
    (({ s.upTo u with sec := { s.sec with lockUntil := none } } : State).wr SECSTAT.locked_out [] 0))
  ∧ (∀ (w u : Nat) (nd : List Byte) (s : State), (s.win w).nonce = some (nd, u) → exec (.nonceExpiry w) s = .next
    ((s.upTo (u + 10000000000000)).setWin w { s.win w with nonce := none }))

/-- R345: sessions close when asked or idle, never over an outstanding tag unless forced. -/
def Obligations.SessionsClose : Prop :=
  ∀ (id k : Nat) (x : Sess) (s : State), SessionAt s id k x → k < 8 →
    (∀ w t p, Taken s w 0x0004 p → p.session = id →
      (¬ NoTags x → bitOf (pnum p.params 0 4) 0 = false → ∃ u, exec (.close w t) s = .next u ∧ Answered s u w p 0x0014 [] ∧ u.sec = s.sec)
      ∧ (NoTags x ∨ bitOf (pnum p.params 0 4) 0 = true → ∃ u, exec (.close w t) s = .next u ∧ Answered s u w p 0 [] ∧ u.sessSlot id = none
        ∧ (∀ j, j ≠ k → Sparse.get none u.sec.sessions j = Sparse.get none s.sec.sessions j)
        ∧ (∀ c ∈ u.sec.cmds, c.pkt.session = id → c.timedOut = true)))
    ∧ (NoTags x → s.rd SECPOLICY.idle [] ≠ 0 → ∃ u, exec (.sessionIdle id) s = .next u ∧ u.sessSlot id = none
      ∧ u.now = max s.now (x.last + s.rd SECPOLICY.idle [] * 1000000000000)
      ∧ (∀ j, j ≠ k → Sparse.get none u.sec.sessions j = Sparse.get none s.sec.sessions j))
    ∧ (s.rd SECPOLICY.idle [] = 0 ∨ ¬ NoTags x → exec (.sessionIdle id) s = .next s)

/-- R343, R347, R348: the password, the policy, and firmware updates. -/
def Sys2Proof.Claims.SecureStoreCommands : Prop :=
  (∀ (w t : Nat) (p : Pkt) (s : State), Taken s w 0x0603 p → ∃ u, exec (.password w t) s = .next u ∧ Answered s u w p 0 []
    ∧ u.vault = { s.vault with salt := p.params.take 16, verifier := (p.params.drop 16).take 32 } ∧ u.sec = s.sec)
  ∧ (∀ (w t : Nat) (p : Pkt) (s : State), Taken s w 0x0604 p → pnum p.params 0 4 < 2 ^ 18 → ∃ u, exec (.policy w t) s = .next u ∧ Answered s u w p 0 []
    ∧ u.raw SECPOLICY [] = pnum p.params 0 4 ∧ u.vault = { s.vault with policy := pnum p.params 0 4 + 1 } ∧ u.sec = s.sec)
  ∧ (∀ (id t : Nat) (c : Cmd) (s : State), s.cmdOf id 0x0605 = some c → s.flag HOSTSTAT.up [] = false → ∀ mem l b,
    hostList c.pkt.params 0 false = some (l, b) → exec (.fwUpdate id mem t) s = .next (endedWith (s.upTo t) id 0x000F))
  ∧ (∀ (id t : Nat) (mem : Option (List Byte)) (bs : List Byte) (s : State), UpdateRead s id mem bs →
    ∃ u, exec (.fwUpdate id mem t) s = .next u
      ∧ (s.firmwareOf bs = none → u = endedWith (s.upTo t) id 0x0015)
      ∧ ∀ k f, s.firmwareOf bs = some (k, f) →
        (f.rollback < s.part.rollback → u = endedWith (s.upTo t) id 0x0016)
        ∧ (s.part.rollback ≤ f.rollback → s.hostLoads = false → k = 1 → u = ended ({ s.upTo t with
          vault := if s.flag SECSTAT.boot_copy [] = true then { s.vault with flash0 := f } else { s.vault with flash1 := f } } : State) id
            { status := 0, details := [f.version] }))

/-- R320, R338, R339, R350: the answers about the module and the slow-control frames. -/
def Sys2Proof.Claims.ModuleAnswers : Prop :=
  (∀ (w t : Nat) (p : Pkt) (s : State), Taken s w 0x0005 p → ListReply (.caps w t) s w t p 0 (s.upTo t).capBytes)
  ∧ (∀ (w t : Nat) (p : Pkt) (s : State), Taken s w 0x0006 p → ListReply (.lattab w t) s w t p 0 (s.upTo t).latTable)
  ∧ (∀ (w t : Nat) (p : Pkt) (r sig : List Byte) (s : State), Taken s w 0x0007 p → r = (s.upTo t).attestReport (p.params.take 32) →
    sig = Config.falconSign s.part.serial (fitTo 64 (Config.shake256 r 64)) →
    ListReply (.attest w t) s w t p 32 (r ++ leBytes 4 sig.length ++ sig ++ Config.identityKey s.part.serial
      ++ leBytes 4 (Config.identityCert s.part.serial).length ++ Config.identityCert s.part.serial))
  ∧ (∀ (w t h : Nat) (p : Pkt) (s : State), Taken s w 0x0501 p → h = pnum p.params 0 4 → ∃ u, exec (.t1sSend w t) s = .next u ∧ Answered s u w p 0 []
    ∧ u.t1s = { s.t1s with txq := s.t1s.txq ++ [{ bytes := (p.params.drop 4).take (h % 2048), stamp := bitOf h 16, id := bitsOf h 24 8, window := w + 1 }] })
  ∧ (∀ (w t : Nat) (p : Pkt) (s : State), Taken s w 0x0502 p →
    (s.t1s.rxq = [] → ∃ u, exec (.t1sRecv w t) s = .next u ∧ Answered s u w p 0x0010 [] ∧ u.t1s = s.t1s)
    ∧ (∀ b u0 r, s.t1s.rxq = (b, u0) :: r → ∃ u, exec (.t1sRecv w t) s = .next u
      ∧ Answered s u w p 0 (leBytes 4 b.length ++ stampBytes u0 ++ b) ∧ u.t1s = { s.t1s with rxq := r }))

/-- R346: a key's id, and what KEY_ENROLL refuses and stores and KEY_REVOKE empties and closes. -/
def Obligations.KeysAreEnrolledAndRevoked : Prop :=
  (∀ pub : List Byte, keyId pub = leNat ((Config.shake256 pub 32).take 4))
  ∧ (∀ (w t k : Nat) (p : Pkt) (pub : List Byte) (s : State), Taken s w 0x0601 p → k = pnum p.params 0 4 → pub = (p.params.drop 8).take 1793 → k < 16 →
    ((Sparse.get {} s.vault.keys k).pub ≠ [] ∨ pnum p.params 4 4 = 0 ∨ s.keyOfId (keyId pub) ≠ none → ∃ u, exec (.keyEnroll w t) s = .next u ∧ Answered s u w p 0x000B [] ∧ u.vault = s.vault)
    ∧ ((Sparse.get {} s.vault.keys k).pub = [] → pnum p.params 4 4 ≠ 0 → pnum p.params 4 4 < 8 → pub ≠ [] → s.keyOfId (keyId pub) = none →
      ∃ u, exec (.keyEnroll w t) s = .next u ∧ Answered s u w p 0 (leBytes 4 (keyId pub))
        ∧ Sparse.get {} u.vault.keys k = { pub, roles := pnum p.params 4 4 } ∧ u.rd SECKEY.id [k] = keyId pub ∧ u.flag SECKEY.valid [k] = true
        ∧ u.rd SECKEY.roles [k] = pnum p.params 4 4 ∧ u.vault.salt = s.vault.salt ∧ u.vault.policy = s.vault.policy ∧ u.sec = s.sec))
  ∧ (∀ (w t k : Nat) (p : Pkt) (s : State), Taken s w 0x0602 p → k = pnum p.params 0 4 → k < 16 → Sparse.sorted s.vault.keys = true →
    ∃ u, exec (.keyRevoke w t) s = .next u ∧ Answered s u w p 0 [] ∧ Sparse.get {} u.vault.keys k = {} ∧ u.raw SECKEY [k] = 0
      ∧ (∀ j, j ≠ k → Sparse.get {} u.vault.keys j = Sparse.get {} s.vault.keys j)
      ∧ ((∀ i x, i < 8 → Sparse.get none s.sec.sessions i = some x → x.maint = true ∨ x.slot ≠ k) → u.sec = s.sec)
      ∧ (∀ id i x, SessionAt s id i x → i < 8 → x.maint = false → x.slot = k → u.sessSlot id = none))

/-- R329: a length out of range commits the window at once, is counted and answered, and no parameter of the packet is read. -/
def Obligations.WrongLengthsAreAnsweredAtOnce : Prop :=
  ∀ (w t n : Nat) (ws : List W32) (s : State), w < 16 → s.rd CWSTATE.state [w] ≠ 2 → 2 ≤ ws.length → ws.length ≤ 12288 → n = (ws.getD 1 0).toNat % 65536 →
    Sparse.sorted s.regs = true → Sparse.sorted (s.win w).words = true →
    (n < 8 → ∃ u p, exec (.packetCommit w 0 ws t) s = .next u ∧ Answered s u w p 0x0003 [] ∧ p.params = []
      ∧ u.rd CWCNT.length [w] = min (s.rd CWCNT.length [w] + 1) (2 ^ CWCNT.length.w - 1) ∧ u.sec = s.sec)
    ∧ (12288 < n → ∃ u p, exec (.packetCommit w 0 ws t) s = .next u ∧ Answered s u w p 0x0002 [] ∧ p.params = []
      ∧ u.rd CWCNT.length [w] = min (s.rd CWCNT.length [w] + 1) (2 ^ CWCNT.length.w - 1) ∧ u.sec = s.sec)

namespace Sys2Proof.Claims

/-- The message a vector sends, where it is not masked (R359). -/
def messageOf (s : State) (v : Nat) : List Out := if s.flag MSIXCTL.masked [v] = true then [] else [.msix v]

/-- Source `x` is the lowest deliverable to target `t` (R353, R357). -/
def LowestFor (s : State) (t x : Nat) : Prop :=
  x < 1023 ∧ s.targets x t = true ∧ bitOf (s.readyWord (x / 32) t) (x % 32) = true
    ∧ ∀ y, y < x → s.targets y t = false ∨ bitOf (s.readyWord (y / 32) t) (y % 32) = false

end Sys2Proof.Claims

/-- R351 to R356: conditions become pending, and pending sources are signalled once, with the hold-off of their groups. -/
def Sys2Proof.Claims.InterruptsAreDelivered : Prop :=
  ∀ (s : State), Sparse.sorted s.regs = true →
    (∀ src t, src < 1023 → (s.irqCond src = true → bitOf (s.raw IACTIVE [src / 32]) (src % 32) = false →
        ∃ u, exec (.pendingSet src t) s = .next u ∧ u = { s with now := max s.now t, regs := u.regs } ∧ RegsBut s u [IPEND.addr [src / 32]]
          ∧ ∀ b, b < 32 → bitOf (u.raw IPEND [src / 32]) b = (bitOf (s.raw IPEND [src / 32]) b || b == src % 32))
      ∧ (s.irqCond src = false ∨ bitOf (s.raw IACTIVE [src / 32]) (src % 32) = true → exec (.pendingSet src t) s = .next (s.upTo t)))
    ∧ (∀ g (v : W32), g < 32 → ∃ u, exec (.ipendWrite g v) s = .next u ∧ u = { s with regs := u.regs } ∧ RegsBut s u [IPEND.addr [g]]
      ∧ ∀ b, b < 32 → bitOf (u.raw IPEND [g]) b = (bitOf v.toNat b && sourceListed (32 * g + b)))
    ∧ (∀ t u, t < 40 → s.flag ICLAIM.notified [t] = false →
      (s.signalGroups t ≠ [] → ∃ z, exec (.targetSignal t u) s = .next z ∧ z.flag ICLAIM.notified [t] = true
        ∧ z.out = s.out ++ (if t < 8 then [.coreLine t] else messageOf s (t - 8))
        ∧ ∀ g ∈ s.signalGroups t, s.rd IHOLD.holdoff [g] ≠ 0 → z.flag IHOLD.running [g] = true
          ∧ Sparse.get 0 z.irq.holdUntil g = max s.now u + s.rd IHOLD.holdoff [g] * 100000)
      ∧ (s.signalGroups t = [] → exec (.targetSignal t u) s = .next (s.upTo u)))
    ∧ (∀ g, g < 32 → s.flag IHOLD.running [g] = true → ∃ z, exec (.holdoffExpiry g) s = .next z ∧ z.flag IHOLD.running [g] = false
      ∧ z.rd IHOLD.holdoff [g] = s.rd IHOLD.holdoff [g] ∧ z.now = max s.now (Sparse.get 0 s.irq.holdUntil g))

/-- R362, R364: what was suppressed is recorded once a token is there again, and a selection says whether its record is held. -/
def Sys2Proof.Claims.OlmIsReadAndRecovers : Prop :=
  (∀ (code t : Nat) (s z : State), z = s.upTo t →
    ((z.olmBucket code).count ≠ 0 → 0 < (z.olmBucket code).level → ∃ u r, exec (.suppressed code t) s = .next u
      ∧ (u.olmBucket code).count = 0 ∧ (s.raw OLMHEAD [] < 4096 → u.olm.birth = s.olm.birth ++ [r]) ∧ r.code = 0x0002
      ∧ r.seq = s.raw OLMHEAD [] ∧ r.body = item4 code ++ item4 (z.olmBucket code).count ++ item8 (z.olmBucket code).first
          ++ item8 (z.olmBucket code).last)
    ∧ ((z.olmBucket code).count = 0 ∨ (z.olmBucket code).level = 0 → exec (.suppressed code t) s = .next z))
  ∧ (∀ (v : W64) (s : State), Sparse.sorted s.regs = true → ∃ u, exec (.olmselWrite v) s = .next u ∧ u = { s with regs := u.regs }
    ∧ u.raw OLMSEL [] = v.toNat ∧ RegsBut s u [OLMSEL.addr [], OLMSTAT.addr []]
    ∧ (u.flag OLMSTAT.birth [] = true → u.flag OLMSTAT.found [] = true ∧ v.toNat < 4096)
    ∧ (∀ r l, s.olmFrom v.toNat = r :: l → (u.flag OLMSTAT.found [] = true ↔ r.seq = v.toNat))
    ∧ (s.olmFrom v.toNat = [] → u.flag OLMSTAT.found [] = false))

/-- R357, R358: a read of `ICLAIM` claims the lowest deliverable source for its target alone; a write to `ICOMPLETE` ends what that target
claimed, and anything else is ignored and counted. -/
def Obligations.ClaimsAndCompletions : Prop :=
  ∀ (t : Nat) (s : State), t < 40 → Sparse.sorted s.regs = true →
    (∀ x, LowestFor s t x → ∃ z, exec (.iclaimRead t) s = .next z
      ∧ z.out = s.out ++ [.readValue (ICLAIM.addr [t]) 32 (x + s.rd ICLAIM.notified [t] * 2 ^ 10)] ∧ z.flag ICLAIM.notified [t] = false
      ∧ bitOf (z.raw IPEND [x / 32]) (x % 32) = false ∧ bitOf (z.raw IACTIVE [x / 32]) (x % 32) = true
      ∧ Sparse.get 0 z.irq.claimedBy x = t + 1 ∧ RegsBut s z [ICLAIM.addr [t], IPEND.addr [x / 32], IACTIVE.addr [x / 32]]
      ∧ ∀ u, u < 40 → z.lowest u ≠ some x)
    ∧ ((∀ x, x < 1023 → s.targets x t = false ∨ bitOf (s.readyWord (x / 32) t) (x % 32) = false) →
      ∃ z, exec (.iclaimRead t) s = .next z ∧ z = { s with regs := z.regs, out := z.out }
        ∧ z.out = s.out ++ [.readValue (ICLAIM.addr [t]) 32 (0x3FF + s.rd ICLAIM.notified [t] * 2 ^ 10)] ∧ z.flag ICLAIM.notified [t] = false
        ∧ RegsBut s z [ICLAIM.addr [t]])
    ∧ (∀ (v : W32) (x : Nat), x = v.toNat % 1024 → Sparse.sorted s.irq.claimedBy = true →
      (Sparse.get 0 s.irq.claimedBy x = t + 1 → ∃ z, exec (.icompleteWrite t v) s = .next z
        ∧ bitOf (z.raw IACTIVE [x / 32]) (x % 32) = false ∧ Sparse.get 0 z.irq.claimedBy x = 0 ∧ RegsBut s z [IACTIVE.addr [x / 32]]
        ∧ (x < 1023 → z.irqCond x = true → ∃ y, exec (.pendingSet x z.now) z = .next y ∧ bitOf (y.raw IPEND [x / 32]) (x % 32) = true))
      ∧ (Sparse.get 0 s.irq.claimedBy x ≠ t + 1 → exec (.icompleteWrite t v) s = .next (s.bump ISTRAY.count [])))

namespace Sys2Proof.Claims

/-- A die's step registers are all that a change of its steps touches. -/
def stepRegs (n : Nat) : List Nat := [PWRDIE.addr [n], BPACE.addr [n]]

end Sys2Proof.Claims

/-- R365, R366, R372, R373: samples and their averages; alerts force every live die to step 0, and it rises again after the hold. -/
def Sys2Proof.Claims.PowerAndAlerts : Prop :=
  (∀ (v a t : Nat) (s : State), Sparse.sorted s.regs = true → v < 65536 → a < 65536 → s.windowSamples ≠ 0 → ∃ u, exec (.powerSample v a t) s = .next u
    ∧ u.rd PWRIN.volts [] = v ∧ u.rd PWRIN.amps [] = a ∧ u.rd PWRIN.p10 [] = min (v * a / 10000) 65535
    ∧ u.pwr = { s.pwr with samples := (v * a :: s.pwr.samples).take s.windowSamples }
    ∧ u.rd PWRIN.w [] = min (u.pwr.samples.sum / (10000 * u.pwr.samples.length)) 65535 ∧ RegsBut s u [PWRIN.addr []])
  ∧ (∀ (t : Nat) (s : State), exec (.converterOverload t) s = .next ((s.upTo t).wr PWRSTAT.alert_mod [] 1)
    ∧ exec (.inputOutOfRange t) s = .next ((s.upTo t).wr PWRSTAT.alert_mod [] 1))
  ∧ (∀ (rack : Bool) (t : Nat) (s : State), Sparse.sorted s.regs = true → Sparse.sorted s.pwr.holds = true → ∃ u, exec (.alert rack t) s = .next u
    ∧ u.flag (if rack = true then PWRSTAT.alert_rack else PWRSTAT.alert_mod) [] = true ∧ u.flag PWRSTAT.alert_seen [] = true ∧ u.pwr.holdFrom = none
    ∧ (∀ n ∈ s.liveDies, u.rd PWRDIE.step [n] = 0 ∧ u.rd PWRDIE.pacer [n] = 0 ∧ u.rd BPACE.step [n] = 0 ∧ u.flag PWRDIE.forced [n] = true
        ∧ Sparse.get {} u.pwr.holds n = {} ∧ n ∉ u.pwr.rising ∧ ∀ k, k < 4 → u.rd ABALLAST.level [n, k] = 0)
    ∧ (s.liveDies ≠ [] → u.flag PWRSTAT.forced [] = true)
    ∧ (∀ n, n < 16 → n ∉ s.liveDies → u.rd PWRDIE.step [n] = s.rd PWRDIE.step [n]))
  ∧ (∀ (rack : Bool) (t : Nat) (s : State), Sparse.sorted s.regs = true → ∃ u, exec (.alertDeassert rack none t) s = .next u
    ∧ u.flag (if rack = true then PWRSTAT.alert_rack else PWRSTAT.alert_mod) [] = false ∧ RegsBut s u [PWRSTAT.addr []]
    ∧ u.pwr = { s.pwr with holdFrom := if s.flag (if rack = true then PWRSTAT.alert_mod else PWRSTAT.alert_rack) [] = true then none
                                      else some (max s.now t) })
  ∧ (∀ (n t : Nat) (s : State), n ∈ s.pwr.thermDies → exec (.alertDeassert false (some n) t) s
    = .next { s.upTo t with pwr := { s.pwr with thermHold := Sparse.set 0 s.pwr.thermHold n (max s.now t + 1) } })
  ∧ (∀ (t h : Nat) (s : State), s.flag PWRSTAT.alert_rack [] = false → s.flag PWRSTAT.alert_mod [] = false → s.pwr.holdFrom = some h →
    s.pwr.thermDies = [] → s.pwr.rising = [] → Sparse.sorted s.regs = true →
    (h + s.alertHold ≤ max s.now t → ∃ u, exec (.alertRecovery t) s = .next u ∧ u.pwr.holdFrom = none
      ∧ (∀ n, n < 16 → u.flag PWRDIE.forced [n] = false ∧ (n ∈ u.pwr.rising ↔ s.flag PWRDIE.forced [n] = true)
          ∧ u.rd PWRDIE.step [n] = s.rd PWRDIE.step [n]) ∧ u.flag PWRSTAT.forced [] = false)
    ∧ (max s.now t < h + s.alertHold → ∃ u, exec (.alertRecovery t) s = .next u ∧ u.pwr.holdFrom = some h ∧ u.pwr.rising = []
      ∧ ∀ n, n < 16 → u.rd PWRDIE.forced [n] = s.rd PWRDIE.forced [n]))

/-- R370, R371, R374: droops pause and release a die's pacer, long ones are counted, held changes apply in band; heat forces a die. -/
def Sys2Proof.Claims.DroopsAndHeat : Prop :=
  ∀ (n t : Nat) (s : State), n < 16 → s.hasDie n = true → Sparse.sorted s.regs = true →
    (s.flag PWRDIE.droop [n] = true → exec (.droop n t) s = .next (s.upTo t))
    ∧ (s.flag PWRDIE.droop [n] = false → ∃ u, exec (.droop n t) s = .next u ∧ u.flag PWRDIE.droop [n] = true ∧ u.flag BPACE.paused [n] = true
      ∧ u.rd PWRDCNT.droops [n] = min (s.rd PWRDCNT.droops [n] + 1) (2 ^ PWRDCNT.droops.w - 1)
      ∧ Sparse.get 0 u.pwr.droopAt n = max s.now t + 1 ∧ u.rd PWRDIE.step [n] = s.rd PWRDIE.step [n]
      ∧ RegsBut s u [PWRDIE.addr [n], PWRDCNT.addr [n], BPACE.addr [n]])
    ∧ (s.flag PWRDIE.droop [n] = true → ∃ u, exec (.droopClear n t) s = .next u ∧ u.flag PWRDIE.droop [n] = false ∧ u.flag BPACE.paused [n] = false
      ∧ Sparse.get 0 u.pwr.bandAt n = max s.now t + 1 ∧ RegsBut s u [PWRDIE.addr [n], BPACE.addr [n]])
    ∧ (s.flag PWRDIE.droop [n] = true → Sparse.get 0 s.pwr.droopAt n ≠ 0 → Sparse.get 0 s.pwr.droopAt n + 10000000 ≤ max s.now t + 1 →
      ∃ u, exec (.droopLong n t) s = .next u ∧ u.flag PWRSTAT.droop_long [] = true
        ∧ u.rd PWRDCNT.long [n] = min (s.rd PWRDCNT.long [n] + 1) (2 ^ PWRDCNT.long.w - 1) ∧ u.rd PWRDIE.step [n] = s.rd PWRDIE.step [n])
    ∧ ((s.upTo t).inBand n = false → exec (.droopSettled n t) s = .next (s.upTo t))
    ∧ (∀ v p, (s.upTo t).inBand n = true → Sparse.get {} s.pwr.holds n = { step := some v, pacer := p } → v < 8 → Sparse.sorted s.pwr.holds = true →
      ∃ u, exec (.droopSettled n t) s = .next u ∧ u.rd PWRDIE.step [n] = v ∧ Sparse.get {} u.pwr.holds n = { step := none, pacer := p }
        ∧ u.rd PWRDIE.pacer [n] = s.rd PWRDIE.pacer [n] ∧ RegsBut s u [PWRDIE.addr [n]])
    ∧ (∀ p, (s.upTo t).inBand n = true → Sparse.get {} s.pwr.holds n = { step := none, pacer := some p } → p < 8 → Sparse.sorted s.pwr.holds = true →
      ∃ u, exec (.droopSettled n t) s = .next u ∧ u.rd PWRDIE.pacer [n] = p ∧ u.rd BPACE.step [n] = p ∧ Sparse.get {} u.pwr.holds n = {}
        ∧ u.rd PWRDIE.step [n] = s.rd PWRDIE.step [n] ∧ RegsBut s u (stepRegs n))
    ∧ (∀ tj, 110 ≤ tj → tj < 256 → Sparse.sorted s.pwr.thermHold = true → ∃ u, exec (.thermalAlert n tj t) s = .next u
      ∧ u.rd PWRDIE.tj [n] = tj ∧ u.flag PWRDIE.forced [n] = true ∧ u.rd PWRDIE.step [n] = 0 ∧ u.rd PWRDIE.pacer [n] = 0
      ∧ u.flag PWRSTAT.therm_seen [] = true ∧ u.flag PWRSTAT.forced [] = true ∧ n ∈ u.pwr.thermDies ∧ Sparse.get 0 u.pwr.thermHold n = 0
      ∧ ∀ m, m < 16 → m ≠ n → u.rd PWRDIE.step [m] = s.rd PWRDIE.step [m])

/-- R368, R371, R373: at the end of a slope interval no live die's step has moved by more than one, and a forced or drooping die stays. -/
def Sys2Proof.Claims.SlopesMoveByOne : Prop :=
  ∀ (tj : List Nat) (s : State), Sparse.sorted s.regs = true →
    ∃ u, exec (.slopeInterval tj) s = .next u ∧ u.now = max s.now s.pwr.slopeNext
      ∧ u.pwr.slopeNext = s.pwr.slopeNext + s.rd PWRSLOPE.interval [] * 100000
      ∧ ∀ n ∈ s.liveDies, s.rd PWRDIE.step [n] ≤ 7 → s.rd PWRDIE.req_step [n] ≤ 7 →
        u.rd PWRDIE.step [n] ≤ s.rd PWRDIE.step [n] + 1 ∧ s.rd PWRDIE.step [n] ≤ u.rd PWRDIE.step [n] + 1
        ∧ (s.flag PWRDIE.forced [n] = true → u.rd PWRDIE.step [n] = s.rd PWRDIE.step [n] ∧ u.rd PWRDIE.pacer [n] = s.rd PWRDIE.pacer [n])
        ∧ (s.flag PWRDIE.droop [n] = true → u.rd PWRDIE.step [n] = s.rd PWRDIE.step [n] ∧ u.rd PWRDIE.pacer [n] = s.rd PWRDIE.pacer [n])

namespace Sys2Proof.Claims

/-- What a power-on or module reset keeps (R389): the part, the secure store and the olm's records; the rest is as `State.reset` has it. -/
def Restarted (s u : State) : Prop :=
  u.part = s.part ∧ u.fit = s.part ∧ u.vault = s.vault ∧ u.olm.birth = s.olm.birth ∧ u.olm.circ = s.olm.circ ∧ u.pending = s.pending
  ∧ u.dram = State.reset.dram ∧ u.tier2 = State.reset.tier2 ∧ u.hens = State.reset.hens ∧ u.jobs = State.reset.jobs
  ∧ u.sec = State.reset.sec ∧ u.wins = State.reset.wins ∧ u.now = State.reset.now ∧ u.raw OLMHEAD [] = s.raw OLMHEAD []
  ∧ u.raw OLMTAIL [] = s.raw OLMTAIL []

/-- The stage register moves on from `k` to `k + 1` (R382). -/
def StageDone (cmd : Instr) (s : State) (t k : Nat) : Prop :=
  (s.atStage k = true → ∃ u, exec cmd s = .next u ∧ u.rd BOOTSTAT.stage [] = k + 1 ∧ u.now = max s.now t ∧ u.vault = s.vault ∧ u.part = s.part)
  ∧ (s.atStage k = false → exec cmd s = .next (s.upTo t))

/-- A start-up from the housekeeping stage has begun (R382, R387): the straps are sampled and stage 1 stands. -/
def Started (s u : State) (cause straps : Nat) : Prop :=
  u.boot.off = none ∧ u.rd RSTCAUSE.cause [] = cause ∧ u.rd BOOTSTAT.stage [] = 1 ∧ u.straps = strapsOf straps
  ∧ u.rd VCFG.node [] = bitsOf straps 2 6 ∧ u.flag DETSTAT.strict [] = bitOf straps 13
  ∧ u.olm.cycles = s.olm.cycles + (if cause = 1 then 0 else 1) ∧ u.vault = s.vault

end Sys2Proof.Claims

/-- R365, R374: the rails fall for a cause, and all but what outlasts a reset is gone. -/
def Sys2Proof.Claims.RailsFall : Prop :=
  ∀ (t : Nat) (s : State),
    (s.boot.off = none →
      (∃ u, exec (.undervoltageTrip t) s = .next u ∧ Restarted s u ∧ u.boot.off = some 2)
      ∧ (∃ u, exec (.overvoltageShutdown t) s = .next u ∧ Restarted s u ∧ u.boot.off = some 3)
      ∧ (∀ n tj, 120 ≤ tj → s.hasDie n = true → ∃ u, exec (.thermalShutdown n tj t) s = .next u ∧ Restarted s u ∧ u.boot.off = some 4
          ∧ u.boot.trip = some (s.rd PWRDIE.step [n])))
    ∧ (s.boot.off ≠ none → exec (.undervoltageTrip t) s = .next (s.upTo t) ∧ exec (.overvoltageShutdown t) s = .next (s.upTo t))
    ∧ (∀ n tj, tj < 120 → exec (.thermalShutdown n tj t) s = .next (s.upTo t))

/-- R365, R382, R386 to R389: what starts the module, and the resets that stop it. -/
def Sys2Proof.Claims.PowerAndResetPins : Prop :=
  ∀ (straps t : Nat) (s : State), Sparse.sorted s.regs = true → straps < 2 ^ 14 →
    (∀ c, s.boot.off = some c → c ≠ 3 → c < 8 → s.boot.resetN = true → ∃ u, exec (.inputPresent straps true none t) s = .next u ∧ Started s u c straps)
    ∧ (s.boot.off = none → exec (.inputPresent straps true none t) s = .next s)
    ∧ (s.boot.off = some 3 → s.boot.resetN = true → ∃ u, exec (.inputWithinRange straps true none t) s = .next u ∧ Started s u 3 straps)
    ∧ (s.boot.off ≠ some 3 → exec (.inputWithinRange straps true none t) s = .next s)
    ∧ (s.boot.off = none → ∃ u, exec (.resetN t) s = .next u ∧ Restarted s u ∧ u.boot.resetN = false ∧ u.boot.off = none)
    ∧ (∀ held, s.boot.off = none → s.boot.resetN = false → ∃ u, exec (.resetRelease straps true none held t) s = .next u ∧ Started s u 1 straps
      ∧ u.boot.resetN = true)
    ∧ (∀ held, s.boot.resetN = true → exec (.resetRelease straps true none held t) s = .next s)
    ∧ (∃ u, exec (.perstN true t) s = .next u ∧ u.boot = { s.boot with perstN := false } ∧ u.flag HOSTSTAT.up [] = false
      ∧ u.jobs = s.jobs ∧ u.tier2 = s.tier2)
    ∧ exec (.perstN false t) s = .next { s.upTo t with boot := { s.boot with perstN := true } }

/-- R382 to R386, R306: each stage of start-up does its work and hands on, or waits where it may not leave. -/
def Sys2Proof.Claims.StartupStages : Prop :=
  ∀ (t : Nat) (s : State), Sparse.sorted s.regs = true →
    (∀ ok0 ok1, s.atStage 1 = true →
      (s.straps.boot = 0 → s.copyOk s.vault.flash0 ok0 = true → ∃ u, exec (.firmwareStage ok0 ok1 none t) s = .next u ∧ u.rd BOOTSTAT.stage [] = 2
        ∧ u.sec.running = s.vault.flash0 ∧ u.flag SECSTAT.boot_copy [] = false ∧ u.flag BOOTSTAT.fallback [] = false
        ∧ u.flag SECSTAT.fw_verified [] = true)
      ∧ (s.straps.boot = 0 → s.copyOk s.vault.flash0 ok0 = false → s.copyOk s.vault.flash1 ok1 = true → ∃ u,
        exec (.firmwareStage ok0 ok1 none t) s = .next u ∧ u.rd BOOTSTAT.stage [] = 2 ∧ u.sec.running = s.vault.flash1
          ∧ u.flag SECSTAT.boot_copy [] = true ∧ u.flag BOOTSTAT.fallback [] = true)
      ∧ (s.straps.boot ≠ 2 → s.copyOk s.vault.flash0 ok0 = false → s.copyOk s.vault.flash1 ok1 = false → ∃ u,
        exec (.firmwareStage ok0 ok1 none t) s = .next u ∧ u.rd BOOTSTAT.stage [] = 9 ∧ u.flag BOOTSTAT.recovery [] = true ∧ u.fit = s.part.recovery))
    ∧ StageDone (.railsStage t) s t 2 ∧ (∀ bad, StageDone (.memoryStage bad t) s t 3)
    ∧ (∀ a b, StageDone (.lasersStage (some a) (some b) t) s t 4) ∧ StageDone (.lanesStage [] [] t) s t 5 ∧ StageDone (.selfTestStage [] [] t) s t 6
    ∧ (s.atStage 2 = true → ∃ u, exec (.railsStage t) s = .next u ∧ ∀ n ∈ s.liveDies, u.rd PWRDIE.pacer [n] = 0
      ∧ (s.flag PWRDIE.forced [n] = false → n ∉ s.pwr.rising → u.rd PWRDIE.step [n] = 4))
    ∧ (s.atStage 7 = true →
      (s.boot.perstN = true → s.boot.hostDone = false → ∃ u, exec (.hostStage none t) s = .next u ∧ u.boot = { s.boot with hostDone := true }
        ∧ u.flag HOSTSTAT.up [] = false)
      ∧ (∀ w r, s.boot.perstN = true → s.boot.hostDone = false → w ≤ 16 → r ≤ 128 → ∃ u, exec (.hostStage (some (w, r)) t) s = .next u
        ∧ u.boot = { s.boot with hostDone := true } ∧ u.flag HOSTSTAT.up [] = true ∧ u.rd HOSTSTAT.width [] = w)
      ∧ (s.boot.perstN = false → exec (.hostStage none t) s = .next (s.upTo t))
      ∧ (s.boot.hostDone = false → exec (.modReady t) s = .next (s.upTo t))
      ∧ (s.boot.hostDone = true → s.tap.ir = 4 → ∃ u, exec (.modReady t) s = .next u ∧ u.rd BOOTSTAT.stage [] = 8
        ∧ u.out = s.out ++ [.slowPin 0 true]))

/-- R395: the TAP's instructions; its own reset touches nothing else. -/
def Sys2Proof.Claims.TapInstructions : Prop :=
  ∀ (pins scan : List Bool) (s : State),
    (∃ u, exec .trstN s = .next u ∧ u = { s with tap := u.tap, out := u.out } ∧ u.tap = { s.tap with ir := 4, bypass := false })
    ∧ (∃ u, exec (.extest pins scan) s = .next u ∧ u = { s with tap := u.tap, out := u.out } ∧ u.tap.ir = 0 ∧ u.tap.boundary.length = boundaryCells)
    ∧ (∃ u, exec (.samplePreload pins scan) s = .next u ∧ u = { s with tap := u.tap, out := u.out } ∧ u.tap.ir = 1
      ∧ u.tap.boundary = (scan.reverse ++ s.captured pins).take boundaryCells
      ∧ (s.tap.ir = 1 ∨ s.tap.ir = 4 → u.out = s.out ++ [.tdo (((s.captured pins).reverse ++ scan).take scan.length)]))
    ∧ (∃ u, exec (.clamp scan) s = .next u ∧ u = { s with tap := u.tap, out := u.out } ∧ u.tap.ir = 2 ∧ u.tap.boundary = s.tap.boundary)
    ∧ (∃ u, exec (.highz scan) s = .next u ∧ u = { s with tap := u.tap, out := u.out } ∧ u.tap.ir = 3 ∧ u.tap.boundary = s.tap.boundary
      ∧ .highZ 0 ∈ u.out ∧ .highZ 1 ∈ u.out)
    ∧ (∀ code, 4 ≤ code → ∃ u, exec (.bypass code scan) s = .next u ∧ u = { s with tap := u.tap, out := u.out } ∧ u.tap.ir = 4
      ∧ u.tap.boundary = s.tap.boundary ∧ (s.tap.ir = 1 ∨ s.tap.ir = 4 → u.out = s.out ++ [.tdo ((false :: scan).take scan.length)]))

/-- A step runs the command at the front of the queue on the state with the queue's rest; with none waiting it changes nothing (the model's choice, log 1). -/
def Obligations.StepRunsFront : Prop :=
  (∀ (c : Instr) (rest : List Instr) (s : State), s.pending = c :: rest → step s = exec c { s with pending := rest })
  ∧ ∀ s : State, s.pending = [] → step s = .next s

/-- After reset nothing waits, the memories list nothing, every table is in its canonical form, and every register reads its reset value.
Where the manual gives a register no reset value the value is the model's (log 5), and so are memories that read 0 until written (log 6). -/
def Obligations.ResetIsInOrder : Prop :=
  State.reset.pending = [] ∧ State.reset.memWf = true ∧ State.reset.tier2 = [] ∧ State.reset.dram = [] ∧ State.reset.out = []
  ∧ ∀ r ∈ regMap, ∀ idx, State.reset.raw r idx = (r.reset idx).toNat

/-- Every command has an effect in every state: no step stops. A command whose condition does not hold completes and leaves the state as it is
(the model's reading of an event that cannot happen, log 9). -/
def Obligations.EveryStepAnswers : Prop := ∀ s : State, s.safe

/-- The register file and both tiers of memory stay in canonical form through every step of every command. -/
def Obligations.StepsKeepMemoryForm : Prop := ∀ s t : State, s.memWf = true → step s = .next t → t.memWf = true

/-- R3, R348, R389: no step of any command changes a fuse but the rollback index, which only rises; and it takes one command of the queue. -/
def Obligations.StepsKeepFuses : Prop :=
  ∀ s t : State, step s = .next t →
    t.part = { s.part with rollback := t.part.rollback } ∧ s.part.rollback ≤ t.part.rollback ∧ t.pending = s.pending.tail

/-- R343, R346, R348: the password, the keys, the policy and the firmware copies change only by the commands that are there to change them. -/
def Obligations.SecureStoreHasItsOwnCommands : Prop :=
  ∀ (c : Instr) (s t : State), Sparse.wf {} s.vault.keys = true → exec c s = .next t →
    (∀ w u, c ≠ .keyEnroll w u ∧ c ≠ .keyRevoke w u ∧ c ≠ .password w u ∧ c ≠ .policy w u) → (∀ id m u, c ≠ .fwUpdate id m u) → t.vault = s.vault

namespace Sys2Proof.Claims

/-- The commands and events that may change a byte of tier 1 or of tier 2: CXL.mem writes, the goats' writes, received frames, the history
rings, what loads, resumes and updates fill, and what takes the memories' power or resets the module. -/
def storesToMemory : Instr → Bool
  | .cxlMemWrite .. => true
  | .writeAccepted .. => true
  | .receiveRecord .. => true
  | .historyFrame .. => true
  | .load .. => true
  | .resume .. => true
  | .update .. => true
  | .undervoltageTrip .. => true
  | .overvoltageShutdown .. => true
  | .thermalShutdown .. => true
  | .resetN .. => true
  | _ => false

end Sys2Proof.Claims

/-- Every byte of tier 1 and of tier 2 stands as it stood through every other command: the memory part of every command's frame. -/
def Obligations.MemoryHasItsOwnCommands : Prop :=
  ∀ (c : Instr) (s t : State), storesToMemory c = false → exec c s = .next t → t.tier2 = s.tier2 ∧ t.dram = s.dram


/-! ### Statements of several parts -/

/-- The integer and lane operations of the hens write what the ALU computes to rd and go on. -/
def Obligations.HenIntegerOperations : Prop :=
  Sys2Proof.Claims.HenLaneOperationsWriteEachLane ∧ Sys2Proof.Claims.HenWordOperationsWriteRd

/-- Floating operations, conversions, rounding and the special values of the hens. -/
def Obligations.HenFloatOperations : Prop :=
  Sys2Proof.Claims.HenFloatOperationsWriteRd ∧ Sys2Proof.Claims.RoundingKeepsRepresentableValues ∧ Sys2Proof.Claims.HenSpecialValuesAndStatus

/-- Branches, the fault path, and waits for a time. -/
def Obligations.HenControlFlow : Prop :=
  Sys2Proof.Claims.HenBranchesGoToTarget ∧ Sys2Proof.Claims.HenFaultPathContinues ∧ Sys2Proof.Claims.TimeWaits

/-- Loads and stores of the hens, from their issue to the bank that serves them. -/
def Obligations.HenMemoryAccesses : Prop :=
  Sys2Proof.Claims.HenMemoryOperationsWaitAtBank ∧ Sys2Proof.Claims.SramAccessesComplete

/-- Sends take credits in order; queue instructions act, wait, and complete. -/
def Obligations.HenSendsAndQueues : Prop :=
  Sys2Proof.Claims.HenSendTakesCreditOrWaits ∧ Sys2Proof.Claims.HenQueueInstructions ∧ Sys2Proof.Claims.QueueConditionMetCompletes

/-- How contexts end: by END, by an illegal word, by age. -/
def Obligations.ContextsRetire : Prop :=
  Sys2Proof.Claims.EndRetiresContext ∧ Sys2Proof.Claims.IllegalAndOverdueContextsRetire

/-- Steering and the binding of operands: what becomes of a token on its way to a context. -/
def Obligations.TokensReachHens : Prop :=
  Sys2Proof.Claims.HenTokens ∧ Sys2Proof.Claims.SteeringDirectTokens ∧ Sys2Proof.Claims.SteeringHoldsAheadTokens ∧ Sys2Proof.Claims.SteeringAgeAndPeak

/-- Anchors and tokens at a gate. -/
def Obligations.GateInputs : Prop :=
  Sys2Proof.Claims.GatesAdmitAnchors ∧ Sys2Proof.Claims.GateTokensJoinTheirBeat

/-- The verdict of a gate by its copies, and what it releases at its firing time. -/
def Obligations.GateOutputs : Prop :=
  Sys2Proof.Claims.GateVerdictTable ∧ Sys2Proof.Claims.GatesFire

/-- Credits, routers, dimension order and slot positions. -/
def Obligations.TokensCrossTheGallery : Prop :=
  Sys2Proof.Claims.CreditsReturn ∧ Sys2Proof.Claims.RouterTokens ∧ Sys2Proof.Claims.DimensionOrderComesNearer ∧ Sys2Proof.Claims.SlotPositionsCarryTheirOwner

/-- Scrubs, monitors and rail phases, and what every report of a failure does. -/
def Obligations.FailuresAreFoundAndReported : Prop :=
  Sys2Proof.Claims.SramScrubCountsAndLists ∧ Sys2Proof.Claims.FailuresAreReported ∧ Sys2Proof.Claims.MonitorsMarkUnitsFailed ∧ Sys2Proof.Claims.RailPhases

/-- Substitutions of hens, clusters and arrays. -/
def Obligations.SparesAreSubstituted : Prop :=
  Sys2Proof.Claims.SubstitutionsOnlyOfFailedUnits ∧ Sys2Proof.Claims.HenSubstitutionMapsTheSpare ∧ Sys2Proof.Claims.ClusterSubstitutionMapsTheSpare ∧ Sys2Proof.Claims.ArraySubstitutionTakesSpares

/-- Losses of dies, memories, oscillators and hubs. -/
def Obligations.LossesOfDiesAndUnits : Prop :=
  Sys2Proof.Claims.DieFailures ∧ Sys2Proof.Claims.UnitLosses ∧ Sys2Proof.Claims.OscillatorFailures ∧ Sys2Proof.Claims.HubsAndReports

/-- Accesses of BAR0: those outside the rules, plain writes, and counters that a read clears. -/
def Obligations.RegisterAccesses : Prop :=
  Sys2Proof.Claims.BusAccessesOutsideTheRules ∧ Sys2Proof.Claims.RegisterWritesStore ∧ Sys2Proof.Claims.CounterReadsClear

/-- The split of a die between prompt and bulk. -/
def Obligations.SplitsOfDies : Prop :=
  Sys2Proof.Claims.SplitWrites ∧ Sys2Proof.Claims.ValidSplits

/-- Writes to gates, stream descriptors and probe selectors, and CXL.mem accesses. -/
def Obligations.WritesThatConfigure : Prop :=
  Sys2Proof.Claims.GateConfigurationWrites ∧ Sys2Proof.Claims.DescriptorAndProbeWrites ∧ Sys2Proof.Claims.CxlMemoryAccesses

/-- Vectors accumulate in an array, and its descriptors put results out. -/
def Obligations.ArrayVectorsAndOutputs : Prop :=
  Sys2Proof.Claims.ArrayVectorsAccumulate ∧ Sys2Proof.Claims.RawOutputsReachTheGate

/-- Fills, management writes, ballast and scrubs of an array. -/
def Obligations.ArrayStores : Prop :=
  Sys2Proof.Claims.FillsComplete ∧ Sys2Proof.Claims.StoreWrites ∧ Sys2Proof.Claims.BallastAndStoreScrub

/-- Words, return lines, passes and statistics of the quantisers. -/
def Obligations.QuantiserStreams : Prop :=
  Sys2Proof.Claims.QuantiserWords ∧ Sys2Proof.Claims.QuantiserReturnLines ∧ Sys2Proof.Claims.SramPassesBegin ∧ Sys2Proof.Claims.SramPassesEnd ∧ Sys2Proof.Claims.SnapshotsShowStatistics

/-- Time events, time pins and transmit timestamps. -/
def Obligations.TimeEventsAndPins : Prop :=
  Sys2Proof.Claims.TimeEventsDrivePins ∧ Sys2Proof.Claims.TimePinsAndStampsAreRead

/-- Ring frames are forwarded and heeded once; requests, acts and votes. -/
def Obligations.RingFramesAndRequests : Prop :=
  Sys2Proof.Claims.RingFramesAreForwardedAndHeededOnce ∧ Sys2Proof.Claims.RequestsActsAndVotes

/-- Fires, votes and retractions at a node. -/
def Obligations.FiresVotesAndRetractions : Prop :=
  Sys2Proof.Claims.FiresAndVotesAreTaken ∧ Sys2Proof.Claims.RetractionsInTimeRemove

/-- Hops, SYNC, STATUS and the PTP clock. -/
def Obligations.RingTimeAndStatus : Prop :=
  Sys2Proof.Claims.HopsAreMeasured ∧ Sys2Proof.Claims.SyncSteersFollowers ∧ Sys2Proof.Claims.StatusFramesCount ∧ Sys2Proof.Claims.PtpClockMessages

/-- Start tokens, and the lines goats read and write. -/
def Obligations.GoatsMoveLines : Prop :=
  Sys2Proof.Claims.StartTokensBeginRuns ∧ Sys2Proof.Claims.GoatsIssueLines ∧ Sys2Proof.Claims.LinesLandInOrder

/-- History records, barriers, the upkeep of memory and the pacer. -/
def Obligations.HistoryBarriersAndUpkeep : Prop :=
  Sys2Proof.Claims.MemoryUpkeepAndPacer ∧ Sys2Proof.Claims.HistoryRecordsAreWritten ∧ Sys2Proof.Claims.BarriersAreReleased

/-- Lock of a port block, and the frames that come in. -/
def Obligations.ReceivedFrames : Prop :=
  Sys2Proof.Claims.ReceiverLock ∧ Sys2Proof.Claims.FramePiecesLand

/-- Verdicts, replies and cancels of the prompt path. -/
def Obligations.RepliesAndCancels : Prop :=
  Sys2Proof.Claims.VerdictsReachReplies ∧ Sys2Proof.Claims.RepliesFollowTheVerdict ∧ Sys2Proof.Claims.FramesAndCancelsLeave

/-- Link ports between modules, and ox pairs. -/
def Obligations.LinkPortsAndOxPairs : Prop :=
  Sys2Proof.Claims.LinkPortsMatchAndSubstitute ∧ Sys2Proof.Claims.OxPairsRun

/-- The start and the end of jobs on one module and on several. -/
def Obligations.JobsStartAndEnd : Prop :=
  Sys2Proof.Claims.JobsStartAndEnd ∧ Sys2Proof.Claims.StartFramesAreHeeded

/-- Images are loaded, resumed, updated or refused; weights are installed. -/
def Obligations.ImagesAndInstalls : Prop :=
  Sys2Proof.Claims.ImagesAreJudged ∧ Sys2Proof.Claims.InstallsArmASwitch

/-- Acquisition: commits, and the records and windows frames make. -/
def Obligations.AcquisitionConfigures : Prop :=
  Sys2Proof.Claims.AcquisitionCommits ∧ Sys2Proof.Claims.TappedFramesMakeRecords

/-- Lasers, glowworms, lanes and error injection. -/
def Obligations.LightAndLanes : Prop :=
  Sys2Proof.Claims.LightSources ∧ Sys2Proof.Claims.LaneReceivers ∧ Sys2Proof.Claims.LaneInjections

/-- Bulk frames sent, the slow-control port, and the host link. -/
def Obligations.BulkAndSlowFramesAreSent : Prop :=
  Sys2Proof.Claims.BulkFramesAreSent ∧ Sys2Proof.Claims.SlowControlPort ∧ Sys2Proof.Claims.HostLink

/-- Packets are checked in order, and operations complete once. -/
def Obligations.PacketsAndCompletions : Prop :=
  Sys2Proof.Claims.PacketsAreCheckedInOrder ∧ Sys2Proof.Claims.OperationsComplete

/-- The password, the policy, firmware updates, and the answers about the module. -/
def Obligations.SecureStoreAndAnswers : Prop :=
  Sys2Proof.Claims.SecureStoreCommands ∧ Sys2Proof.Claims.ModuleAnswers

/-- Delivery of interrupts, and reading the olm. -/
def Obligations.InterruptsAndOlm : Prop :=
  Sys2Proof.Claims.InterruptsAreDelivered ∧ Sys2Proof.Claims.OlmIsReadAndRecovers

/-- Supply, alerts, droop, heat and slope intervals. -/
def Obligations.PowerDroopAndSlopes : Prop :=
  Sys2Proof.Claims.PowerAndAlerts ∧ Sys2Proof.Claims.DroopsAndHeat ∧ Sys2Proof.Claims.SlopesMoveByOne

/-- The rails fall, power comes back, and resets. -/
def Obligations.RailsAndResets : Prop :=
  Sys2Proof.Claims.RailsFall ∧ Sys2Proof.Claims.PowerAndResetPins

/-- The stages of start-up, and the TAP. -/
def Obligations.StartupAndTap : Prop :=
  Sys2Proof.Claims.StartupStages ∧ Sys2Proof.Claims.TapInstructions
end

