-- ==== Sys2Proof/Laws/Bytes.lean ====
section
/-!
SUPPORT. Byte strings: their lengths, the numbers they hold, and the length of a checkpoint or save.
-/
namespace Sys2Proof.Machine

@[simp] theorem leBytes_length (n v : Nat) : (leBytes n v).length = n := by
  induction n generalizing v with
  | zero => rfl
  | succ n ih => simp [leBytes, ih]

/-- The bytes of a number hold it (R5). -/
theorem leNat_leBytes (n v : Nat) : leNat (leBytes n v) = v % 256 ^ n := by
  induction n generalizing v with
  | zero => simp [leBytes, leNat, Nat.mod_one]
  | succ n ih =>
    simp only [leBytes, leNat, ih, BitVec.toNat_ofNat]
    have h : (256 : Nat) ^ (n + 1) = 256 * 256 ^ n := by rw [Nat.pow_succ, Nat.mul_comm]
    rw [h, Nat.mod_mul]

@[simp] theorem fitTo_length (n : Nat) (l : List Byte) : (fitTo n l).length = n := by
  simp only [fitTo, List.length_take, List.length_append, List.length_replicate]; omega

/-- A field that lies in the first part of a byte string, and one that lies after it. -/
theorem pnum_append_left (x y : List Byte) (a k : Nat) (h : a + k ≤ x.length) : pnum (x ++ y) a k = pnum x a k := by
  unfold pnum
  rw [List.drop_append_of_le_length (by omega), List.take_append_of_le_length (by rw [List.length_drop]; omega)]
theorem pnum_append_right (x y : List Byte) (a k : Nat) (h : x.length ≤ a) : pnum (x ++ y) a k = pnum y (a - x.length) k := by
  unfold pnum
  rw [List.drop_append, List.drop_of_length_le h, List.nil_append]

theorem State.ckHeader_length (s : State) (j : Job) (m n w q : Nat) : (s.ckHeader j m n w q).length = 128 := by
  simp [State.ckHeader]

/-- A checkpoint or save is its header, its records and a digest of 32 bytes (R235). -/
theorem State.ckFile_length (s : State) (j : Job) (m w q : Nat) (rs : List Rec) :
    (s.ckFile j m w q rs).length = 160 + (rs.flatMap Rec.bytes).length := by
  simp only [State.ckFile, List.length_append, fitTo_length, State.ckHeader_length]; omega

theorem pnum_leBytes (x : List Byte) (k v : Nat) : pnum (leBytes k v ++ x) 0 k = v % 256 ^ k := by
  rw [pnum_append_left _ _ _ _ (by simp), ← leNat_leBytes]
  simp [pnum, List.take_of_length_le]

/-- A checkpoint or save fits the job it is written for, whatever stands after it in the list's bytes (R235, R236). -/
theorem State.ckMatches_ckFile (s : State) (j : Job) (magic w q : Nat) (rs : List Rec) (z : List Byte) (hm : magic < 2 ^ 32)
    (hl : 160 + (rs.flatMap Rec.bytes).length < 2 ^ 64) (hj : j.id < 2 ^ 64) (hr : j.rank < 256) (hn : j.modules < 256)
    (hi : s.part.identityCode < 2 ^ 32) : s.ckMatches j magic true (s.ckFile j magic w q rs ++ z) = true := by
  have hf := s.ckFile_length j magic w q rs
  have h0 : ∀ (n : Nat), 128 + n + 32 = 160 + n := by omega
  generalize hx : s.ckHeader j magic (128 + (rs.flatMap Rec.bytes).length + 32) w q ++ rs.flatMap Rec.bytes = x at *
  have hxl : x.length = 128 + (rs.flatMap Rec.bytes).length := by rw [← hx, List.length_append, State.ckHeader_length]
  have hfile : s.ckFile j magic w q rs = x ++ fitTo 32 (Config.shake256 x 32) := by rw [← hx]; rfl
  have hn' : pnum (s.ckFile j magic w q rs) 8 8 = 160 + (rs.flatMap Rec.bytes).length := by
    rw [hfile, ← hx, State.ckHeader]
    simp only [List.append_assoc]
    rw [pnum_append_right _ _ _ _ (by simp), pnum_append_right _ _ _ _ (by simp)]
    simp only [leBytes_length, Nat.reduceSub]
    rw [pnum_leBytes, Nat.mod_eq_of_lt (by omega)]; omega
  have ht : (s.ckFile j magic w q rs ++ z).take (160 + (rs.flatMap Rec.bytes).length) = s.ckFile j magic w q rs := by rw [← hf, List.take_left]
  have hz : pnum (s.ckFile j magic w q rs ++ z) 8 8 = 160 + (rs.flatMap Rec.bytes).length := by rw [pnum_append_left _ _ _ _ (by omega), hn']
  have hd : s.ckFile j magic w q rs = leBytes 4 magic ++ (leBytes 4 1 ++ (leBytes 8 (128 + (rs.flatMap Rec.bytes).length + 32) ++ (fitTo 32 j.prov.image
      ++ (leBytes 8 j.id ++ (leBytes 1 j.rank ++ (leBytes 1 j.modules ++ (leBytes 2 w ++ (leBytes 4 s.part.identityCode ++ (leBytes 8 j.seed
      ++ (leBytes 8 s.rawTicks ++ (leBytes 8 q ++ (List.replicate 40 0 ++ (rs.flatMap Rec.bytes ++ fitTo 32 (Config.shake256 x 32)))))))))))))) := by
    rw [hfile, ← hx, State.ckHeader]; simp only [List.append_assoc]
  unfold State.ckMatches
  simp only [hz, ht, List.length_append, hf]
  have e1 : (s.ckFile j magic w q rs).drop (160 + (rs.flatMap Rec.bytes).length - 32) = fitTo 32 (Config.shake256 x 32) := by
    rw [hfile, show 160 + (rs.flatMap Rec.bytes).length - 32 = x.length by omega, List.drop_left]
  have e2 : (s.ckFile j magic w q rs).take (160 + (rs.flatMap Rec.bytes).length - 32) = x := by
    rw [hfile, show 160 + (rs.flatMap Rec.bytes).length - 32 = x.length by omega, List.take_left]
  rw [e1, e2]
  have e3 : ((s.ckFile j magic w q rs).drop 16).take 32 = fitTo 32 j.prov.image := by
    rw [hd]
    simp [List.drop_append, List.drop_of_length_le]
  have p0 : pnum (s.ckFile j magic w q rs) 0 4 = magic := by rw [hd, pnum_leBytes]; exact Nat.mod_eq_of_lt hm
  have p4 : pnum (s.ckFile j magic w q rs) 4 4 = 1 := by
    rw [hd, pnum_append_right _ _ _ _ (by simp)]; simp only [leBytes_length, Nat.sub_self, pnum_leBytes] <;> decide
  have p48 : pnum (s.ckFile j magic w q rs) 48 8 = j.id := by
    rw [hd]; iterate 4 rw [pnum_append_right _ _ _ _ (by simp)]
    simp only [leBytes_length, fitTo_length, Nat.reduceSub, pnum_leBytes]; exact Nat.mod_eq_of_lt hj
  have p56 : pnum (s.ckFile j magic w q rs) 56 1 = j.rank := by
    rw [hd]; iterate 5 rw [pnum_append_right _ _ _ _ (by simp)]
    simp only [leBytes_length, fitTo_length, Nat.reduceSub, pnum_leBytes]; exact Nat.mod_eq_of_lt hr
  have p57 : pnum (s.ckFile j magic w q rs) 57 1 = j.modules := by
    rw [hd]; iterate 6 rw [pnum_append_right _ _ _ _ (by simp)]
    simp only [leBytes_length, fitTo_length, Nat.reduceSub, pnum_leBytes]; exact Nat.mod_eq_of_lt hn
  have p60 : pnum (s.ckFile j magic w q rs) 60 4 = s.part.identityCode := by
    rw [hd]; iterate 8 rw [pnum_append_right _ _ _ _ (by simp)]
    simp only [leBytes_length, fitTo_length, Nat.reduceSub, pnum_leBytes]; exact Nat.mod_eq_of_lt hi
  rw [e3, p0, p4, p48, p56, p57, p60]
  simp only [beq_self_eq_true, Bool.and_true, Bool.or_true, Bool.and_eq_true, decide_eq_true_eq]
  omega

/-- A checkpoint or save without records has none. -/
theorem State.ckRecords_none (s : State) (j : Job) (magic w q : Nat) (z : List Byte) : ckRecords (s.ckFile j magic w q [] ++ z) = some [] := by
  have hf : (s.ckFile j magic w q []).length = 160 := s.ckFile_length j magic w q []
  have h : pnum (s.ckFile j magic w q []) 8 8 = 160 := by
    rw [State.ckFile, State.ckHeader]
    simp only [List.append_assoc]
    rw [pnum_append_right _ _ _ _ (by simp), pnum_append_right _ _ _ _ (by simp)]
    simp only [leBytes_length, Nat.reduceSub, pnum_leBytes]
    decide
  have hd : ((s.ckFile j magic w q [] ++ z).take 128).drop 128 = [] := List.drop_of_length_le (by rw [List.length_take]; omega)
  rw [ckRecords, pnum_append_left _ _ _ _ (by omega), h, Nat.add_sub_cancel_left 32 128, hd]
  rfl

end Sys2Proof.Machine
end

