-- ==== Sys2Proof/Laws/Sparse.lean ====
section
/-!
SUPPORT. The laws of sparse tables: what a read after a write gives, and that every operation keeps the canonical form.
-/
namespace Sys2Proof.Machine

variable {α : Type}

theorem Sparse.get_erase_other (d : α) (m : Sparse α) {j k : Nat} (h : j ≠ k) : Sparse.get d (Sparse.erase m k) j = Sparse.get d m j := by
  induction m with
  | nil => rfl
  | cons p m ih =>
    obtain ⟨a, v⟩ := p
    by_cases hk : a = k
    · subst hk; simp [Sparse.erase, Sparse.get, h.symm]
    · simp only [Sparse.erase, if_neg hk, Sparse.get, ih]

theorem Sparse.get_insert_other (d : α) (m : Sparse α) (v : α) {j k : Nat} (h : j ≠ k) :
    Sparse.get d (Sparse.insert m k v) j = Sparse.get d m j := by
  induction m with
  | nil => simp [Sparse.insert, Sparse.get, h.symm]
  | cons p m ih =>
    obtain ⟨a, w⟩ := p
    by_cases h1 : k < a
    · simp [Sparse.insert, Sparse.get, h1, h.symm]
    · by_cases h2 : k = a
      · subst h2; simp [Sparse.insert, Sparse.get, h.symm]
      · simp only [Sparse.insert, if_neg h1, if_neg h2, Sparse.get, ih]

theorem Sparse.get_insert_same (d : α) (m : Sparse α) (k : Nat) (v : α) : Sparse.get d (Sparse.insert m k v) k = v := by
  induction m with
  | nil => simp [Sparse.insert, Sparse.get]
  | cons p m ih =>
    obtain ⟨a, w⟩ := p
    by_cases h1 : k < a
    · simp [Sparse.insert, Sparse.get, h1]
    · by_cases h2 : k = a
      · subst h2; simp [Sparse.insert, Sparse.get]
      · have h3 : ¬a = k := fun e => h2 e.symm
        simp [Sparse.insert, Sparse.get, h1, h2, h3, ih]

/-- A write leaves every other key as it was. -/
theorem Sparse.get_set_other [DecidableEq α] (d e : α) (m : Sparse α) (v : α) {j k : Nat} (h : j ≠ k) :
    Sparse.get d (Sparse.set e m k v) j = Sparse.get d m j := by
  unfold Sparse.set
  split
  · exact Sparse.get_erase_other d m h
  · exact Sparse.get_insert_other d m v h

theorem Sparse.get_above (d : α) {m : Sparse α} {k : Nat} (h : Sparse.above k m = true) : Sparse.get d m k = d := by
  induction m with
  | nil => rfl
  | cons p m ih =>
    obtain ⟨a, v⟩ := p
    simp only [Sparse.above, List.all_cons, Bool.and_eq_true, decide_eq_true_eq] at h
    have h1 : ¬a = k := by omega
    simp only [Sparse.get, h1, if_false]
    exact ih h.2

theorem Sparse.above_mono {m : Sparse α} {j k : Nat} (h : j ≤ k) (hk : Sparse.above k m = true) : Sparse.above j m = true := by
  unfold Sparse.above at *
  rw [List.all_eq_true] at *
  intro p hp
  have := hk p hp
  simp only [decide_eq_true_eq] at *
  omega

theorem Sparse.get_erase_same (d : α) {m : Sparse α} (k : Nat) (h : Sparse.sorted m = true) : Sparse.get d (Sparse.erase m k) k = d := by
  induction m with
  | nil => rfl
  | cons p m ih =>
    obtain ⟨a, v⟩ := p
    simp only [Sparse.sorted, Bool.and_eq_true] at h
    by_cases hk : a = k
    · subst hk; simpa [Sparse.erase] using Sparse.get_above d h.1
    · simp [Sparse.erase, Sparse.get, hk, ih h.2]

/-- A read after a write to the same key gives the value written. -/
theorem Sparse.get_set_same [DecidableEq α] (d : α) {m : Sparse α} (k : Nat) (v : α) (h : Sparse.sorted m = true) :
    Sparse.get d (Sparse.set d m k v) k = v := by
  unfold Sparse.set
  split
  · next hv => rw [hv]; exact Sparse.get_erase_same d k h
  · exact Sparse.get_insert_same d m k v

theorem Sparse.above_erase {m : Sparse α} {j k : Nat} (h : Sparse.above j m = true) : Sparse.above j (Sparse.erase m k) = true := by
  induction m with
  | nil => rfl
  | cons p m ih =>
    obtain ⟨a, v⟩ := p
    simp only [Sparse.above, List.all_cons, Bool.and_eq_true, decide_eq_true_eq] at h
    by_cases hk : a = k
    · simpa [Sparse.erase, hk, Sparse.above] using h.2
    · simp only [Sparse.erase, hk, if_false, Sparse.above, List.all_cons, Bool.and_eq_true, decide_eq_true_eq]
      exact ⟨h.1, ih h.2⟩

theorem Sparse.above_insert {m : Sparse α} {j k : Nat} (v : α) (hk : j < k) (h : Sparse.above j m = true) :
    Sparse.above j (Sparse.insert m k v) = true := by
  induction m with
  | nil => simp [Sparse.insert, Sparse.above, hk]
  | cons p m ih =>
    obtain ⟨a, w⟩ := p
    simp only [Sparse.above, List.all_cons, Bool.and_eq_true, decide_eq_true_eq] at h
    unfold Sparse.insert
    split
    · simp only [Sparse.above, List.all_cons, Bool.and_eq_true, decide_eq_true_eq]; exact ⟨hk, h.1, h.2⟩
    · split
      · simp only [Sparse.above, List.all_cons, Bool.and_eq_true, decide_eq_true_eq]; exact ⟨hk, h.2⟩
      · simp only [Sparse.above, List.all_cons, Bool.and_eq_true, decide_eq_true_eq]; exact ⟨h.1, ih h.2⟩

theorem Sparse.sorted_erase {m : Sparse α} {k : Nat} (h : Sparse.sorted m = true) : Sparse.sorted (Sparse.erase m k) = true := by
  induction m with
  | nil => rfl
  | cons p m ih =>
    obtain ⟨a, v⟩ := p
    simp only [Sparse.sorted, Bool.and_eq_true] at h
    by_cases hk : a = k
    · simpa [Sparse.erase, hk] using h.2
    · simp only [Sparse.erase, hk, if_false, Sparse.sorted, Bool.and_eq_true]
      exact ⟨Sparse.above_erase h.1, ih h.2⟩

theorem Sparse.sorted_insert {m : Sparse α} {k : Nat} (v : α) (h : Sparse.sorted m = true) : Sparse.sorted (Sparse.insert m k v) = true := by
  induction m with
  | nil => simp [Sparse.insert, Sparse.sorted, Sparse.above]
  | cons p m ih =>
    obtain ⟨a, w⟩ := p
    simp only [Sparse.sorted, Bool.and_eq_true] at h
    unfold Sparse.insert
    split
    · next hk =>
      simp only [Sparse.sorted, Bool.and_eq_true]
      refine ⟨?_, h.1, h.2⟩
      have := Sparse.above_mono (Nat.le_of_lt hk) h.1
      simp only [Sparse.above, List.all_cons, Bool.and_eq_true, decide_eq_true_eq]
      exact ⟨hk, this⟩
    · next hk =>
      split
      · next he => subst he; simp only [Sparse.sorted, Bool.and_eq_true]; exact ⟨h.1, h.2⟩
      · next he =>
        simp only [Sparse.sorted, Bool.and_eq_true]
        exact ⟨Sparse.above_insert v (by omega) h.1, ih h.2⟩

theorem Sparse.sorted_set [DecidableEq α] (d : α) {m : Sparse α} {k : Nat} (v : α) (h : Sparse.sorted m = true) :
    Sparse.sorted (Sparse.set d m k v) = true := by
  unfold Sparse.set
  split
  · exact Sparse.sorted_erase h
  · exact Sparse.sorted_insert v h

theorem Sparse.mem_erase {m : Sparse α} {k : Nat} {p : Nat × α} (h : p ∈ Sparse.erase m k) : p ∈ m := by
  induction m with
  | nil => exact h
  | cons q m ih =>
    obtain ⟨a, v⟩ := q
    by_cases hk : a = k
    · rw [Sparse.erase, if_pos hk] at h; exact List.mem_cons_of_mem _ h
    · rw [Sparse.erase, if_neg hk] at h
      rcases List.mem_cons.1 h with h | h
      · rw [h]; exact List.mem_cons_self
      · exact List.mem_cons_of_mem _ (ih h)

theorem Sparse.mem_insert {m : Sparse α} {k : Nat} {v : α} {p : Nat × α} (h : p ∈ Sparse.insert m k v) : p = (k, v) ∨ p ∈ m := by
  induction m with
  | nil => exact .inl (List.mem_singleton.1 h)
  | cons q m ih =>
    obtain ⟨a, w⟩ := q
    unfold Sparse.insert at h
    split at h
    · exact List.mem_cons.1 h
    · split at h
      · rcases List.mem_cons.1 h with h | h
        · exact .inl h
        · exact .inr (List.mem_cons_of_mem _ h)
      · rcases List.mem_cons.1 h with h | h
        · rw [h]; exact .inr List.mem_cons_self
        · exact (ih h).imp id (List.mem_cons_of_mem _)

/-- Every write keeps the canonical form. -/
theorem Sparse.wf_set [DecidableEq α] {d : α} {m : Sparse α} (k : Nat) (v : α) (h : Sparse.wf d m = true) :
    Sparse.wf d (Sparse.set d m k v) = true := by
  simp only [Sparse.wf, Bool.and_eq_true, List.all_eq_true, decide_eq_true_eq] at *
  refine ⟨Sparse.sorted_set d v h.1, ?_⟩
  unfold Sparse.set
  split
  · exact fun p hp => h.2 p (Sparse.mem_erase hp)
  · next hv =>
    intro p hp
    rcases Sparse.mem_insert hp with rfl | hp
    · exact hv
    · exact h.2 p hp

/-- Writing bytes keeps the canonical form. -/
theorem Sparse.wf_setBytes {m : Sparse Byte} (a : Nat) (bs : List Byte) (h : Sparse.wf 0 m = true) : Sparse.wf 0 (Sparse.setBytes m a bs) = true := by
  induction bs generalizing m a with
  | nil => exact h
  | cons b bs ih => exact ih (a + 1) (Sparse.wf_set a b h)

/-- Writing bytes leaves every byte outside them. -/
theorem Sparse.get_setBytes_outside (m : Sparse Byte) (a : Nat) (bs : List Byte) {j : Nat} (h : j < a ∨ a + bs.length ≤ j) :
    Sparse.get 0 (Sparse.setBytes m a bs) j = Sparse.get 0 m j := by
  induction bs generalizing m a with
  | nil => rfl
  | cons b bs ih =>
    simp only [List.length_cons] at h
    rw [Sparse.setBytes, ih _ _ (by omega), Sparse.get_set_other 0 0 m b (by omega)]

/-- The bytes written are read back. -/
theorem Sparse.get_setBytes_inside (m : Sparse Byte) (a : Nat) (bs : List Byte) (h : Sparse.sorted m = true) {i : Nat} (hi : i < bs.length) :
    Sparse.get 0 (Sparse.setBytes m a bs) (a + i) = bs[i] := by
  induction bs generalizing m a i with
  | nil => exact absurd hi (Nat.not_lt_zero _)
  | cons b bs ih =>
    cases i with
    | zero =>
      rw [Sparse.setBytes, Sparse.get_setBytes_outside _ _ _ (by omega)]
      exact Sparse.get_set_same 0 a b h
    | succ i =>
      have := ih (Sparse.set 0 m a b) (a + 1) (Sparse.sorted_set 0 b h) (Nat.lt_of_succ_lt_succ hi)
      simpa [Sparse.setBytes, Nat.add_assoc, Nat.add_comm 1 i] using this

theorem Sparse.find_insert_same (m : Sparse α) (k : Nat) (v : α) : Sparse.find (Sparse.insert m k v) k = some v := by
  induction m with
  | nil => simp [Sparse.insert, Sparse.find]
  | cons p m ih =>
    obtain ⟨a, w⟩ := p
    by_cases h1 : k < a
    · simp [Sparse.insert, Sparse.find, h1]
    · by_cases h2 : k = a
      · subst h2; simp [Sparse.insert, Sparse.find]
      · have h3 : ¬a = k := fun e => h2 e.symm
        simp [Sparse.insert, Sparse.find, h1, h2, h3, ih]

theorem Sparse.find_insert_other (m : Sparse α) (v : α) {j k : Nat} (h : j ≠ k) : Sparse.find (Sparse.insert m k v) j = Sparse.find m j := by
  induction m with
  | nil => simp [Sparse.insert, Sparse.find, h.symm]
  | cons p m ih =>
    obtain ⟨a, w⟩ := p
    by_cases h1 : k < a
    · simp [Sparse.insert, Sparse.find, h1, h.symm]
    · by_cases h2 : k = a
      · subst h2; simp [Sparse.insert, Sparse.find, h.symm]
      · simp only [Sparse.insert, if_neg h1, if_neg h2, Sparse.find, ih]

end Sys2Proof.Machine
end

