-- ==== Sys2Proof/Laws/Regs.lean ====
section
/-!
SUPPORT. The register file: what a read after a write of a field gives, and that another address stands.
-/
namespace Sys2Proof.Machine

theorem bitsOf_lt (n lo w : Nat) : bitsOf n lo w < 2 ^ w := Nat.mod_lt _ (Nat.two_pow_pos w)

/-- The field just set reads back, cut to its width. -/
theorem bitsOf_setBits (n lo w v : Nat) : bitsOf (setBits n lo w v) lo w = v % 2 ^ w := by
  have hp := Nat.two_pow_pos lo
  have hw := Nat.two_pow_pos w
  have key : setBits n lo w v / 2 ^ lo = n / 2 ^ lo - n / 2 ^ lo % 2 ^ w + v % 2 ^ w := by
    have h1 : bitsOf n lo w * 2 ^ lo ≤ n :=
      Nat.le_trans (Nat.mul_le_mul_right _ (Nat.mod_le _ _)) (Nat.div_mul_le_self _ _)
    unfold setBits
    rw [Nat.add_mul_div_right _ _ hp]
    congr 1
    have : n - bitsOf n lo w * 2 ^ lo = n - 2 ^ lo * bitsOf n lo w := by rw [Nat.mul_comm]
    rw [this, Nat.sub_mul_div]
    rfl
  unfold bitsOf at *
  rw [key]
  have hd : (n / 2 ^ lo - n / 2 ^ lo % 2 ^ w) % 2 ^ w = 0 := by
    have := Nat.div_add_mod (n / 2 ^ lo) (2 ^ w)
    have h2 : n / 2 ^ lo - n / 2 ^ lo % 2 ^ w = 2 ^ w * (n / 2 ^ lo / 2 ^ w) := by omega
    rw [h2]; exact Nat.mul_mod_right _ _
  rw [Nat.add_mod, hd, Nat.zero_add, Nat.mod_mod, Nat.mod_mod]

/-- Setting a field within 64 bits leaves a number of 64 bits. -/
theorem setBits_lt {n lo w v : Nat} (hn : n < 2 ^ 64) (h : lo + w ≤ 64) : setBits n lo w v < 2 ^ 64 := by
  have hp := Nat.two_pow_pos lo
  have hw := Nat.two_pow_pos w
  have hsplit : 2 ^ 64 = 2 ^ (lo + w) * 2 ^ (64 - (lo + w)) := by rw [← Nat.pow_add]; congr 1; omega
  have e1 : n = 2 ^ (lo + w) * (n / 2 ^ (lo + w)) + n % 2 ^ (lo + w) := (Nat.div_add_mod _ _).symm
  have e2 : n % 2 ^ (lo + w) = 2 ^ lo * bitsOf n lo w + n % 2 ^ lo := by
    rw [Nat.pow_add, Nat.mod_mul]; unfold bitsOf; omega
  have b1 : n % 2 ^ lo < 2 ^ lo := Nat.mod_lt _ hp
  have b2 : v % 2 ^ w < 2 ^ w := Nat.mod_lt _ hw
  have hq : n / 2 ^ (lo + w) < 2 ^ (64 - (lo + w)) := by
    rw [Nat.div_lt_iff_lt_mul (Nat.two_pow_pos _), Nat.mul_comm, ← hsplit]; exact hn
  have h3 : 2 ^ (lo + w) * (n / 2 ^ (lo + w)) + 2 ^ (lo + w) ≤ 2 ^ 64 := by
    rw [hsplit]
    calc 2 ^ (lo + w) * (n / 2 ^ (lo + w)) + 2 ^ (lo + w) = 2 ^ (lo + w) * (n / 2 ^ (lo + w) + 1) := by rw [Nat.mul_add, Nat.mul_one]
      _ ≤ _ := Nat.mul_le_mul_left _ hq
  have h4 : v % 2 ^ w * 2 ^ lo + 2 ^ lo ≤ 2 ^ (lo + w) := by
    rw [Nat.pow_add, Nat.mul_comm (2 ^ lo)]
    calc v % 2 ^ w * 2 ^ lo + 2 ^ lo = (v % 2 ^ w + 1) * 2 ^ lo := by rw [Nat.add_mul, Nat.one_mul]
      _ ≤ _ := Nat.mul_le_mul_right _ b2
  unfold setBits
  have h5 : bitsOf n lo w * 2 ^ lo = 2 ^ lo * bitsOf n lo w := Nat.mul_comm _ _
  omega

/-- The whole register just stored reads back. -/
theorem RegFile.raw_setRaw_same {f : RegFile} (r : Reg) (idx : List Nat) (v : W64) (h : Sparse.sorted f = true) :
    (f.setRaw r idx v).raw r idx = v := Sparse.get_set_same _ _ _ h

/-- A register at another address stands. -/
theorem RegFile.raw_setRaw_other (f : RegFile) (r q : Reg) (idx jdx : List Nat) (v : W64) (h : q.addr jdx ≠ r.addr idx) :
    (f.setRaw r idx v).raw q jdx = f.raw q jdx := Sparse.get_set_other _ _ _ _ h

/-- A store keeps the order of the register file. -/
theorem RegFile.sorted_setRaw {f : RegFile} (r : Reg) (idx : List Nat) (v : W64) (h : Sparse.sorted f = true) :
    Sparse.sorted (f.setRaw r idx v) = true := Sparse.sorted_set _ _ h

/-- A field just set reads back, cut to its width. -/
theorem RegFile.rd_wr_same {f : RegFile} (x : Fld) (idx : List Nat) (v : Nat) (h : Sparse.sorted f = true) (hw : x.lo + x.w ≤ 64) :
    (f.wr x idx v).rd x idx = v % 2 ^ x.w := by
  unfold RegFile.wr RegFile.rd
  rw [RegFile.raw_setRaw_same x.reg idx _ h, BitVec.toNat_ofNat,
    Nat.mod_eq_of_lt (setBits_lt (BitVec.isLt _) hw), bitsOf_setBits]

/-- A field of a register at another address stands. -/
theorem RegFile.rd_wr_other (f : RegFile) (x y : Fld) (idx jdx : List Nat) (v : Nat) (h : y.reg.addr jdx ≠ x.reg.addr idx) :
    (f.wr x idx v).rd y jdx = f.rd y jdx := by
  unfold RegFile.wr RegFile.rd
  rw [RegFile.raw_setRaw_other _ _ _ _ _ _ h]

/-- What lies at another address stands, whatever is read there. -/
theorem RegFile.get_setRaw_other (f : RegFile) (r : Reg) (idx : List Nat) (v d : W64) {a : Nat} (h : a ≠ r.addr idx) :
    Sparse.get d (f.setRaw r idx v) a = Sparse.get d f a := Sparse.get_set_other _ _ _ _ h

theorem RegFile.get_wr_other (f : RegFile) (x : Fld) (idx : List Nat) (v : Nat) (d : W64) {a : Nat} (h : a ≠ x.reg.addr idx) :
    Sparse.get d (f.wr x idx v) a = Sparse.get d f a := Sparse.get_set_other _ _ _ _ h

theorem RegFile.get_add_other (f : RegFile) (x : Fld) (idx : List Nat) (n : Nat) (d : W64) {a : Nat} (h : a ≠ x.reg.addr idx) :
    Sparse.get d (f.add x idx n) a = Sparse.get d f a := Sparse.get_set_other _ _ _ _ h

theorem RegFile.get_addWrap_other (f : RegFile) (x : Fld) (idx : List Nat) (n : Nat) (d : W64) {a : Nat} (h : a ≠ x.reg.addr idx) :
    Sparse.get d (f.addWrap x idx n) a = Sparse.get d f a := Sparse.get_set_other _ _ _ _ h

/-- A wrapping counter just raised. -/
theorem RegFile.rd_addWrap_same {f : RegFile} (x : Fld) (idx : List Nat) (n : Nat) (h : Sparse.sorted f = true) (hw : x.lo + x.w ≤ 64) :
    (f.addWrap x idx n).rd x idx = (f.rd x idx + n) % 2 ^ x.w := RegFile.rd_wr_same x idx _ h hw

/-- A saturating counter just raised. -/
theorem RegFile.rd_add_same {f : RegFile} (x : Fld) (idx : List Nat) (n : Nat) (h : Sparse.sorted f = true) (hw : x.lo + x.w ≤ 64) :
    (f.add x idx n).rd x idx = min (f.rd x idx + n) (2 ^ x.w - 1) := by
  have e : (f.add x idx n).rd x idx = min (f.rd x idx + n) (2 ^ x.w - 1) % 2 ^ x.w := RegFile.rd_wr_same x idx _ h hw
  rw [e, Nat.mod_eq_of_lt]
  have := Nat.two_pow_pos x.w
  omega

theorem RegFile.rd_add_other (f : RegFile) (x y : Fld) (idx jdx : List Nat) (n : Nat) (h : y.reg.addr jdx ≠ x.reg.addr idx) :
    (f.add x idx n).rd y jdx = f.rd y jdx := RegFile.rd_wr_other f x y idx jdx _ h

theorem RegFile.rd_addWrap_other (f : RegFile) (x y : Fld) (idx jdx : List Nat) (n : Nat) (h : y.reg.addr jdx ≠ x.reg.addr idx) :
    (f.addWrap x idx n).rd y jdx = f.rd y jdx := RegFile.rd_wr_other f x y idx jdx _ h

theorem RegFile.rd_setRaw_other (f : RegFile) (r : Reg) (y : Fld) (idx jdx : List Nat) (v : W64) (h : y.reg.addr jdx ≠ r.addr idx) :
    (f.setRaw r idx v).rd y jdx = f.rd y jdx := by
  unfold RegFile.rd
  rw [RegFile.raw_setRaw_other _ _ _ _ _ _ h]

theorem RegFile.sorted_wr {f : RegFile} (x : Fld) (idx : List Nat) (v : Nat) (h : Sparse.sorted f = true) :
    Sparse.sorted (f.wr x idx v) = true := RegFile.sorted_setRaw _ _ _ h

theorem RegFile.sorted_add {f : RegFile} (x : Fld) (idx : List Nat) (n : Nat) (h : Sparse.sorted f = true) :
    Sparse.sorted (f.add x idx n) = true := RegFile.sorted_wr _ _ _ h

theorem RegFile.sorted_addWrap {f : RegFile} (x : Fld) (idx : List Nat) (n : Nat) (h : Sparse.sorted f = true) :
    Sparse.sorted (f.addWrap x idx n) = true := RegFile.sorted_wr _ _ _ h

end Sys2Proof.Machine
end

