-- ==== Sys2Proof/Laws/State.lean ====
section
/-!
SUPPORT. Every field under every basic update of the state, so that no proof unfolds a record.
-/
namespace Sys2Proof.Machine

/-! ### Fields an operation does not touch -/

@[simp] theorem State.wr_pending (s : State) (x : Fld) (idx : List Nat) (v : Nat) : (s.wr x idx v).pending = s.pending := rfl
@[simp] theorem State.wr_now (s : State) (x : Fld) (idx : List Nat) (v : Nat) : (s.wr x idx v).now = s.now := rfl
@[simp] theorem State.wr_fresh (s : State) (x : Fld) (idx : List Nat) (v : Nat) : (s.wr x idx v).fresh = s.fresh := rfl
@[simp] theorem State.wr_part (s : State) (x : Fld) (idx : List Nat) (v : Nat) : (s.wr x idx v).part = s.part := rfl
@[simp] theorem State.wr_straps (s : State) (x : Fld) (idx : List Nat) (v : Nat) : (s.wr x idx v).straps = s.straps := rfl
@[simp] theorem State.wr_inFlight (s : State) (x : Fld) (idx : List Nat) (v : Nat) : (s.wr x idx v).inFlight = s.inFlight := rfl
@[simp] theorem State.wr_creditsDue (s : State) (x : Fld) (idx : List Nat) (v : Nat) : (s.wr x idx v).creditsDue = s.creditsDue := rfl
@[simp] theorem State.wr_lastTok (s : State) (x : Fld) (idx : List Nat) (v : Nat) : (s.wr x idx v).lastTok = s.lastTok := rfl
@[simp] theorem State.wr_out (s : State) (x : Fld) (idx : List Nat) (v : Nat) : (s.wr x idx v).out = s.out := rfl
@[simp] theorem State.wr_gates (s : State) (x : Fld) (idx : List Nat) (v : Nat) : (s.wr x idx v).gates = s.gates := rfl
@[simp] theorem State.wr_releases (s : State) (x : Fld) (idx : List Nat) (v : Nat) : (s.wr x idx v).releases = s.releases := rfl
@[simp] theorem State.wr_hens (s : State) (x : Fld) (idx : List Nat) (v : Nat) : (s.wr x idx v).hens = s.hens := rfl
@[simp] theorem State.wr_clus (s : State) (x : Fld) (idx : List Nat) (v : Nat) : (s.wr x idx v).clus = s.clus := rfl
@[simp] theorem State.wr_routers (s : State) (x : Fld) (idx : List Nat) (v : Nat) : (s.wr x idx v).routers = s.routers := rfl
@[simp] theorem State.wr_irq (s : State) (x : Fld) (idx : List Nat) (v : Nat) : (s.wr x idx v).irq = s.irq := rfl
@[simp] theorem State.wr_olm (s : State) (x : Fld) (idx : List Nat) (v : Nat) : (s.wr x idx v).olm = s.olm := rfl
@[simp] theorem State.wr_flt (s : State) (x : Fld) (idx : List Nat) (v : Nat) : (s.wr x idx v).flt = s.flt := rfl
@[simp] theorem State.wr_pwr (s : State) (x : Fld) (idx : List Nat) (v : Nat) : (s.wr x idx v).pwr = s.pwr := rfl
@[simp] theorem State.wr_dies (s : State) (x : Fld) (idx : List Nat) (v : Nat) : (s.wr x idx v).dies = s.dies := rfl
@[simp] theorem State.wr_jobs (s : State) (x : Fld) (idx : List Nat) (v : Nat) : (s.wr x idx v).jobs = s.jobs := rfl
@[simp] theorem State.wr_oxs (s : State) (x : Fld) (idx : List Nat) (v : Nat) : (s.wr x idx v).oxs = s.oxs := rfl
@[simp] theorem State.wr_fit (s : State) (x : Fld) (idx : List Nat) (v : Nat) : (s.wr x idx v).fit = s.fit := rfl
@[simp] theorem State.wr_arrs (s : State) (x : Fld) (idx : List Nat) (v : Nat) : (s.wr x idx v).arrs = s.arrs := rfl
@[simp] theorem State.wr_feed (s : State) (x : Fld) (idx : List Nat) (v : Nat) : (s.wr x idx v).feed = s.feed := rfl
@[simp] theorem State.wr_returns (s : State) (x : Fld) (idx : List Nat) (v : Nat) : (s.wr x idx v).returns = s.returns := rfl
@[simp] theorem State.wr_quants (s : State) (x : Fld) (idx : List Nat) (v : Nat) : (s.wr x idx v).quants = s.quants := rfl
@[simp] theorem State.wr_ports (s : State) (x : Fld) (idx : List Nat) (v : Nat) : (s.wr x idx v).ports = s.ports := rfl
@[simp] theorem State.wr_stamps (s : State) (x : Fld) (idx : List Nat) (v : Nat) : (s.wr x idx v).stamps = s.stamps := rfl
@[simp] theorem State.wr_credits (s : State) (x : Fld) (idx : List Nat) (v : Nat) : (s.wr x idx v).credits = s.credits := rfl
@[simp] theorem State.wr_segs (s : State) (x : Fld) (idx : List Nat) (v : Nat) : (s.wr x idx v).segs = s.segs := rfl
@[simp] theorem State.wr_histTap (s : State) (x : Fld) (idx : List Nat) (v : Nat) : (s.wr x idx v).histTap = s.histTap := rfl
@[simp] theorem State.wr_acqTap (s : State) (x : Fld) (idx : List Nat) (v : Nat) : (s.wr x idx v).acqTap = s.acqTap := rfl
@[simp] theorem State.wr_goats (s : State) (x : Fld) (idx : List Nat) (v : Nat) : (s.wr x idx v).goats = s.goats := rfl
@[simp] theorem State.wr_barriers (s : State) (x : Fld) (idx : List Nat) (v : Nat) : (s.wr x idx v).barriers = s.barriers := rfl
@[simp] theorem State.wr_hists (s : State) (x : Fld) (idx : List Nat) (v : Nat) : (s.wr x idx v).hists = s.hists := rfl
@[simp] theorem State.wr_dram (s : State) (x : Fld) (idx : List Nat) (v : Nat) : (s.wr x idx v).dram = s.dram := rfl
@[simp] theorem State.wr_tier2 (s : State) (x : Fld) (idx : List Nat) (v : Nat) : (s.wr x idx v).tier2 = s.tier2 := rfl
@[simp] theorem State.wr_tevents (s : State) (x : Fld) (idx : List Nat) (v : Nat) : (s.wr x idx v).tevents = s.tevents := rfl
@[simp] theorem State.wr_tpins (s : State) (x : Fld) (idx : List Nat) (v : Nat) : (s.wr x idx v).tpins = s.tpins := rfl
@[simp] theorem State.wr_pacer (s : State) (x : Fld) (idx : List Nat) (v : Nat) : (s.wr x idx v).pacer = s.pacer := rfl
@[simp] theorem State.wr_vote (s : State) (x : Fld) (idx : List Nat) (v : Nat) : (s.wr x idx v).vote = s.vote := rfl
@[simp] theorem State.wr_ckpts (s : State) (x : Fld) (idx : List Nat) (v : Nat) : (s.wr x idx v).ckpts = s.ckpts := rfl
@[simp] theorem State.wr_macs (s : State) (x : Fld) (idx : List Nat) (v : Nat) : (s.wr x idx v).macs = s.macs := rfl
@[simp] theorem State.wr_t1s (s : State) (x : Fld) (idx : List Nat) (v : Nat) : (s.wr x idx v).t1s = s.t1s := rfl
@[simp] theorem State.wr_injects (s : State) (x : Fld) (idx : List Nat) (v : Nat) : (s.wr x idx v).injects = s.injects := rfl
@[simp] theorem State.wr_ptp (s : State) (x : Fld) (idx : List Nat) (v : Nat) : (s.wr x idx v).ptp = s.ptp := rfl
@[simp] theorem State.wr_txts (s : State) (x : Fld) (idx : List Nat) (v : Nat) : (s.wr x idx v).txts = s.txts := rfl
@[simp] theorem State.wr_acq (s : State) (x : Fld) (idx : List Nat) (v : Nat) : (s.wr x idx v).acq = s.acq := rfl
@[simp] theorem State.wr_lastVec (s : State) (x : Fld) (idx : List Nat) (v : Nat) : (s.wr x idx v).lastVec = s.lastVec := rfl
@[simp] theorem State.wr_wins (s : State) (x : Fld) (idx : List Nat) (v : Nat) : (s.wr x idx v).wins = s.wins := rfl
@[simp] theorem State.wr_sec (s : State) (x : Fld) (idx : List Nat) (v : Nat) : (s.wr x idx v).sec = s.sec := rfl
@[simp] theorem State.wr_vault (s : State) (x : Fld) (idx : List Nat) (v : Nat) : (s.wr x idx v).vault = s.vault := rfl
@[simp] theorem State.wr_switches (s : State) (x : Fld) (idx : List Nat) (v : Nat) : (s.wr x idx v).switches = s.switches := rfl
@[simp] theorem State.wr_issued (s : State) (x : Fld) (idx : List Nat) (v : Nat) : (s.wr x idx v).issued = s.issued := rfl
@[simp] theorem State.wr_frozen (s : State) (x : Fld) (idx : List Nat) (v : Nat) : (s.wr x idx v).frozen = s.frozen := rfl
@[simp] theorem State.wr_installs (s : State) (x : Fld) (idx : List Nat) (v : Nat) : (s.wr x idx v).installs = s.installs := rfl
@[simp] theorem State.wr_tap (s : State) (x : Fld) (idx : List Nat) (v : Nat) : (s.wr x idx v).tap = s.tap := rfl
@[simp] theorem State.wr_boot (s : State) (x : Fld) (idx : List Nat) (v : Nat) : (s.wr x idx v).boot = s.boot := rfl
@[simp] theorem State.add_pending (s : State) (x : Fld) (idx : List Nat) (n : Nat) : (s.add x idx n).pending = s.pending := rfl
@[simp] theorem State.add_now (s : State) (x : Fld) (idx : List Nat) (n : Nat) : (s.add x idx n).now = s.now := rfl
@[simp] theorem State.add_fresh (s : State) (x : Fld) (idx : List Nat) (n : Nat) : (s.add x idx n).fresh = s.fresh := rfl
@[simp] theorem State.add_part (s : State) (x : Fld) (idx : List Nat) (n : Nat) : (s.add x idx n).part = s.part := rfl
@[simp] theorem State.add_straps (s : State) (x : Fld) (idx : List Nat) (n : Nat) : (s.add x idx n).straps = s.straps := rfl
@[simp] theorem State.add_inFlight (s : State) (x : Fld) (idx : List Nat) (n : Nat) : (s.add x idx n).inFlight = s.inFlight := rfl
@[simp] theorem State.add_creditsDue (s : State) (x : Fld) (idx : List Nat) (n : Nat) : (s.add x idx n).creditsDue = s.creditsDue := rfl
@[simp] theorem State.add_lastTok (s : State) (x : Fld) (idx : List Nat) (n : Nat) : (s.add x idx n).lastTok = s.lastTok := rfl
@[simp] theorem State.add_out (s : State) (x : Fld) (idx : List Nat) (n : Nat) : (s.add x idx n).out = s.out := rfl
@[simp] theorem State.add_gates (s : State) (x : Fld) (idx : List Nat) (n : Nat) : (s.add x idx n).gates = s.gates := rfl
@[simp] theorem State.add_releases (s : State) (x : Fld) (idx : List Nat) (n : Nat) : (s.add x idx n).releases = s.releases := rfl
@[simp] theorem State.add_hens (s : State) (x : Fld) (idx : List Nat) (n : Nat) : (s.add x idx n).hens = s.hens := rfl
@[simp] theorem State.add_clus (s : State) (x : Fld) (idx : List Nat) (n : Nat) : (s.add x idx n).clus = s.clus := rfl
@[simp] theorem State.add_routers (s : State) (x : Fld) (idx : List Nat) (n : Nat) : (s.add x idx n).routers = s.routers := rfl
@[simp] theorem State.add_irq (s : State) (x : Fld) (idx : List Nat) (n : Nat) : (s.add x idx n).irq = s.irq := rfl
@[simp] theorem State.add_olm (s : State) (x : Fld) (idx : List Nat) (n : Nat) : (s.add x idx n).olm = s.olm := rfl
@[simp] theorem State.add_flt (s : State) (x : Fld) (idx : List Nat) (n : Nat) : (s.add x idx n).flt = s.flt := rfl
@[simp] theorem State.add_pwr (s : State) (x : Fld) (idx : List Nat) (n : Nat) : (s.add x idx n).pwr = s.pwr := rfl
@[simp] theorem State.add_dies (s : State) (x : Fld) (idx : List Nat) (n : Nat) : (s.add x idx n).dies = s.dies := rfl
@[simp] theorem State.add_jobs (s : State) (x : Fld) (idx : List Nat) (n : Nat) : (s.add x idx n).jobs = s.jobs := rfl
@[simp] theorem State.add_oxs (s : State) (x : Fld) (idx : List Nat) (n : Nat) : (s.add x idx n).oxs = s.oxs := rfl
@[simp] theorem State.add_fit (s : State) (x : Fld) (idx : List Nat) (n : Nat) : (s.add x idx n).fit = s.fit := rfl
@[simp] theorem State.add_arrs (s : State) (x : Fld) (idx : List Nat) (n : Nat) : (s.add x idx n).arrs = s.arrs := rfl
@[simp] theorem State.add_feed (s : State) (x : Fld) (idx : List Nat) (n : Nat) : (s.add x idx n).feed = s.feed := rfl
@[simp] theorem State.add_returns (s : State) (x : Fld) (idx : List Nat) (n : Nat) : (s.add x idx n).returns = s.returns := rfl
@[simp] theorem State.add_quants (s : State) (x : Fld) (idx : List Nat) (n : Nat) : (s.add x idx n).quants = s.quants := rfl
@[simp] theorem State.add_ports (s : State) (x : Fld) (idx : List Nat) (n : Nat) : (s.add x idx n).ports = s.ports := rfl
@[simp] theorem State.add_stamps (s : State) (x : Fld) (idx : List Nat) (n : Nat) : (s.add x idx n).stamps = s.stamps := rfl
@[simp] theorem State.add_credits (s : State) (x : Fld) (idx : List Nat) (n : Nat) : (s.add x idx n).credits = s.credits := rfl
@[simp] theorem State.add_segs (s : State) (x : Fld) (idx : List Nat) (n : Nat) : (s.add x idx n).segs = s.segs := rfl
@[simp] theorem State.add_histTap (s : State) (x : Fld) (idx : List Nat) (n : Nat) : (s.add x idx n).histTap = s.histTap := rfl
@[simp] theorem State.add_acqTap (s : State) (x : Fld) (idx : List Nat) (n : Nat) : (s.add x idx n).acqTap = s.acqTap := rfl
@[simp] theorem State.add_goats (s : State) (x : Fld) (idx : List Nat) (n : Nat) : (s.add x idx n).goats = s.goats := rfl
@[simp] theorem State.add_barriers (s : State) (x : Fld) (idx : List Nat) (n : Nat) : (s.add x idx n).barriers = s.barriers := rfl
@[simp] theorem State.add_hists (s : State) (x : Fld) (idx : List Nat) (n : Nat) : (s.add x idx n).hists = s.hists := rfl
@[simp] theorem State.add_dram (s : State) (x : Fld) (idx : List Nat) (n : Nat) : (s.add x idx n).dram = s.dram := rfl
@[simp] theorem State.add_tier2 (s : State) (x : Fld) (idx : List Nat) (n : Nat) : (s.add x idx n).tier2 = s.tier2 := rfl
@[simp] theorem State.add_tevents (s : State) (x : Fld) (idx : List Nat) (n : Nat) : (s.add x idx n).tevents = s.tevents := rfl
@[simp] theorem State.add_tpins (s : State) (x : Fld) (idx : List Nat) (n : Nat) : (s.add x idx n).tpins = s.tpins := rfl
@[simp] theorem State.add_pacer (s : State) (x : Fld) (idx : List Nat) (n : Nat) : (s.add x idx n).pacer = s.pacer := rfl
@[simp] theorem State.add_vote (s : State) (x : Fld) (idx : List Nat) (n : Nat) : (s.add x idx n).vote = s.vote := rfl
@[simp] theorem State.add_ckpts (s : State) (x : Fld) (idx : List Nat) (n : Nat) : (s.add x idx n).ckpts = s.ckpts := rfl
@[simp] theorem State.add_macs (s : State) (x : Fld) (idx : List Nat) (n : Nat) : (s.add x idx n).macs = s.macs := rfl
@[simp] theorem State.add_t1s (s : State) (x : Fld) (idx : List Nat) (n : Nat) : (s.add x idx n).t1s = s.t1s := rfl
@[simp] theorem State.add_injects (s : State) (x : Fld) (idx : List Nat) (n : Nat) : (s.add x idx n).injects = s.injects := rfl
@[simp] theorem State.add_ptp (s : State) (x : Fld) (idx : List Nat) (n : Nat) : (s.add x idx n).ptp = s.ptp := rfl
@[simp] theorem State.add_txts (s : State) (x : Fld) (idx : List Nat) (n : Nat) : (s.add x idx n).txts = s.txts := rfl
@[simp] theorem State.add_acq (s : State) (x : Fld) (idx : List Nat) (n : Nat) : (s.add x idx n).acq = s.acq := rfl
@[simp] theorem State.add_lastVec (s : State) (x : Fld) (idx : List Nat) (n : Nat) : (s.add x idx n).lastVec = s.lastVec := rfl
@[simp] theorem State.add_wins (s : State) (x : Fld) (idx : List Nat) (n : Nat) : (s.add x idx n).wins = s.wins := rfl
@[simp] theorem State.add_sec (s : State) (x : Fld) (idx : List Nat) (n : Nat) : (s.add x idx n).sec = s.sec := rfl
@[simp] theorem State.add_vault (s : State) (x : Fld) (idx : List Nat) (n : Nat) : (s.add x idx n).vault = s.vault := rfl
@[simp] theorem State.add_switches (s : State) (x : Fld) (idx : List Nat) (n : Nat) : (s.add x idx n).switches = s.switches := rfl
@[simp] theorem State.add_issued (s : State) (x : Fld) (idx : List Nat) (n : Nat) : (s.add x idx n).issued = s.issued := rfl
@[simp] theorem State.add_frozen (s : State) (x : Fld) (idx : List Nat) (n : Nat) : (s.add x idx n).frozen = s.frozen := rfl
@[simp] theorem State.add_installs (s : State) (x : Fld) (idx : List Nat) (n : Nat) : (s.add x idx n).installs = s.installs := rfl
@[simp] theorem State.add_tap (s : State) (x : Fld) (idx : List Nat) (n : Nat) : (s.add x idx n).tap = s.tap := rfl
@[simp] theorem State.add_boot (s : State) (x : Fld) (idx : List Nat) (n : Nat) : (s.add x idx n).boot = s.boot := rfl
@[simp] theorem State.bump_pending (s : State) (x : Fld) (idx : List Nat) : (s.bump x idx).pending = s.pending := rfl
@[simp] theorem State.bump_now (s : State) (x : Fld) (idx : List Nat) : (s.bump x idx).now = s.now := rfl
@[simp] theorem State.bump_fresh (s : State) (x : Fld) (idx : List Nat) : (s.bump x idx).fresh = s.fresh := rfl
@[simp] theorem State.bump_part (s : State) (x : Fld) (idx : List Nat) : (s.bump x idx).part = s.part := rfl
@[simp] theorem State.bump_straps (s : State) (x : Fld) (idx : List Nat) : (s.bump x idx).straps = s.straps := rfl
@[simp] theorem State.bump_inFlight (s : State) (x : Fld) (idx : List Nat) : (s.bump x idx).inFlight = s.inFlight := rfl
@[simp] theorem State.bump_creditsDue (s : State) (x : Fld) (idx : List Nat) : (s.bump x idx).creditsDue = s.creditsDue := rfl
@[simp] theorem State.bump_lastTok (s : State) (x : Fld) (idx : List Nat) : (s.bump x idx).lastTok = s.lastTok := rfl
@[simp] theorem State.bump_out (s : State) (x : Fld) (idx : List Nat) : (s.bump x idx).out = s.out := rfl
@[simp] theorem State.bump_gates (s : State) (x : Fld) (idx : List Nat) : (s.bump x idx).gates = s.gates := rfl
@[simp] theorem State.bump_releases (s : State) (x : Fld) (idx : List Nat) : (s.bump x idx).releases = s.releases := rfl
@[simp] theorem State.bump_hens (s : State) (x : Fld) (idx : List Nat) : (s.bump x idx).hens = s.hens := rfl
@[simp] theorem State.bump_clus (s : State) (x : Fld) (idx : List Nat) : (s.bump x idx).clus = s.clus := rfl
@[simp] theorem State.bump_routers (s : State) (x : Fld) (idx : List Nat) : (s.bump x idx).routers = s.routers := rfl
@[simp] theorem State.bump_irq (s : State) (x : Fld) (idx : List Nat) : (s.bump x idx).irq = s.irq := rfl
@[simp] theorem State.bump_olm (s : State) (x : Fld) (idx : List Nat) : (s.bump x idx).olm = s.olm := rfl
@[simp] theorem State.bump_flt (s : State) (x : Fld) (idx : List Nat) : (s.bump x idx).flt = s.flt := rfl
@[simp] theorem State.bump_pwr (s : State) (x : Fld) (idx : List Nat) : (s.bump x idx).pwr = s.pwr := rfl
@[simp] theorem State.bump_dies (s : State) (x : Fld) (idx : List Nat) : (s.bump x idx).dies = s.dies := rfl
@[simp] theorem State.bump_jobs (s : State) (x : Fld) (idx : List Nat) : (s.bump x idx).jobs = s.jobs := rfl
@[simp] theorem State.bump_oxs (s : State) (x : Fld) (idx : List Nat) : (s.bump x idx).oxs = s.oxs := rfl
@[simp] theorem State.bump_fit (s : State) (x : Fld) (idx : List Nat) : (s.bump x idx).fit = s.fit := rfl
@[simp] theorem State.bump_arrs (s : State) (x : Fld) (idx : List Nat) : (s.bump x idx).arrs = s.arrs := rfl
@[simp] theorem State.bump_feed (s : State) (x : Fld) (idx : List Nat) : (s.bump x idx).feed = s.feed := rfl
@[simp] theorem State.bump_returns (s : State) (x : Fld) (idx : List Nat) : (s.bump x idx).returns = s.returns := rfl
@[simp] theorem State.bump_quants (s : State) (x : Fld) (idx : List Nat) : (s.bump x idx).quants = s.quants := rfl
@[simp] theorem State.bump_ports (s : State) (x : Fld) (idx : List Nat) : (s.bump x idx).ports = s.ports := rfl
@[simp] theorem State.bump_stamps (s : State) (x : Fld) (idx : List Nat) : (s.bump x idx).stamps = s.stamps := rfl
@[simp] theorem State.bump_credits (s : State) (x : Fld) (idx : List Nat) : (s.bump x idx).credits = s.credits := rfl
@[simp] theorem State.bump_segs (s : State) (x : Fld) (idx : List Nat) : (s.bump x idx).segs = s.segs := rfl
@[simp] theorem State.bump_histTap (s : State) (x : Fld) (idx : List Nat) : (s.bump x idx).histTap = s.histTap := rfl
@[simp] theorem State.bump_acqTap (s : State) (x : Fld) (idx : List Nat) : (s.bump x idx).acqTap = s.acqTap := rfl
@[simp] theorem State.bump_goats (s : State) (x : Fld) (idx : List Nat) : (s.bump x idx).goats = s.goats := rfl
@[simp] theorem State.bump_barriers (s : State) (x : Fld) (idx : List Nat) : (s.bump x idx).barriers = s.barriers := rfl
@[simp] theorem State.bump_hists (s : State) (x : Fld) (idx : List Nat) : (s.bump x idx).hists = s.hists := rfl
@[simp] theorem State.bump_dram (s : State) (x : Fld) (idx : List Nat) : (s.bump x idx).dram = s.dram := rfl
@[simp] theorem State.bump_tier2 (s : State) (x : Fld) (idx : List Nat) : (s.bump x idx).tier2 = s.tier2 := rfl
@[simp] theorem State.bump_tevents (s : State) (x : Fld) (idx : List Nat) : (s.bump x idx).tevents = s.tevents := rfl
@[simp] theorem State.bump_tpins (s : State) (x : Fld) (idx : List Nat) : (s.bump x idx).tpins = s.tpins := rfl
@[simp] theorem State.bump_pacer (s : State) (x : Fld) (idx : List Nat) : (s.bump x idx).pacer = s.pacer := rfl
@[simp] theorem State.bump_vote (s : State) (x : Fld) (idx : List Nat) : (s.bump x idx).vote = s.vote := rfl
@[simp] theorem State.bump_ckpts (s : State) (x : Fld) (idx : List Nat) : (s.bump x idx).ckpts = s.ckpts := rfl
@[simp] theorem State.bump_macs (s : State) (x : Fld) (idx : List Nat) : (s.bump x idx).macs = s.macs := rfl
@[simp] theorem State.bump_t1s (s : State) (x : Fld) (idx : List Nat) : (s.bump x idx).t1s = s.t1s := rfl
@[simp] theorem State.bump_injects (s : State) (x : Fld) (idx : List Nat) : (s.bump x idx).injects = s.injects := rfl
@[simp] theorem State.bump_ptp (s : State) (x : Fld) (idx : List Nat) : (s.bump x idx).ptp = s.ptp := rfl
@[simp] theorem State.bump_txts (s : State) (x : Fld) (idx : List Nat) : (s.bump x idx).txts = s.txts := rfl
@[simp] theorem State.bump_acq (s : State) (x : Fld) (idx : List Nat) : (s.bump x idx).acq = s.acq := rfl
@[simp] theorem State.bump_lastVec (s : State) (x : Fld) (idx : List Nat) : (s.bump x idx).lastVec = s.lastVec := rfl
@[simp] theorem State.bump_wins (s : State) (x : Fld) (idx : List Nat) : (s.bump x idx).wins = s.wins := rfl
@[simp] theorem State.bump_sec (s : State) (x : Fld) (idx : List Nat) : (s.bump x idx).sec = s.sec := rfl
@[simp] theorem State.bump_vault (s : State) (x : Fld) (idx : List Nat) : (s.bump x idx).vault = s.vault := rfl
@[simp] theorem State.bump_switches (s : State) (x : Fld) (idx : List Nat) : (s.bump x idx).switches = s.switches := rfl
@[simp] theorem State.bump_issued (s : State) (x : Fld) (idx : List Nat) : (s.bump x idx).issued = s.issued := rfl
@[simp] theorem State.bump_frozen (s : State) (x : Fld) (idx : List Nat) : (s.bump x idx).frozen = s.frozen := rfl
@[simp] theorem State.bump_installs (s : State) (x : Fld) (idx : List Nat) : (s.bump x idx).installs = s.installs := rfl
@[simp] theorem State.bump_tap (s : State) (x : Fld) (idx : List Nat) : (s.bump x idx).tap = s.tap := rfl
@[simp] theorem State.bump_boot (s : State) (x : Fld) (idx : List Nat) : (s.bump x idx).boot = s.boot := rfl
@[simp] theorem State.addWrap_pending (s : State) (x : Fld) (idx : List Nat) (n : Nat) : (s.addWrap x idx n).pending = s.pending := rfl
@[simp] theorem State.addWrap_now (s : State) (x : Fld) (idx : List Nat) (n : Nat) : (s.addWrap x idx n).now = s.now := rfl
@[simp] theorem State.addWrap_fresh (s : State) (x : Fld) (idx : List Nat) (n : Nat) : (s.addWrap x idx n).fresh = s.fresh := rfl
@[simp] theorem State.addWrap_part (s : State) (x : Fld) (idx : List Nat) (n : Nat) : (s.addWrap x idx n).part = s.part := rfl
@[simp] theorem State.addWrap_straps (s : State) (x : Fld) (idx : List Nat) (n : Nat) : (s.addWrap x idx n).straps = s.straps := rfl
@[simp] theorem State.addWrap_inFlight (s : State) (x : Fld) (idx : List Nat) (n : Nat) : (s.addWrap x idx n).inFlight = s.inFlight := rfl
@[simp] theorem State.addWrap_creditsDue (s : State) (x : Fld) (idx : List Nat) (n : Nat) : (s.addWrap x idx n).creditsDue = s.creditsDue := rfl
@[simp] theorem State.addWrap_lastTok (s : State) (x : Fld) (idx : List Nat) (n : Nat) : (s.addWrap x idx n).lastTok = s.lastTok := rfl
@[simp] theorem State.addWrap_out (s : State) (x : Fld) (idx : List Nat) (n : Nat) : (s.addWrap x idx n).out = s.out := rfl
@[simp] theorem State.addWrap_gates (s : State) (x : Fld) (idx : List Nat) (n : Nat) : (s.addWrap x idx n).gates = s.gates := rfl
@[simp] theorem State.addWrap_releases (s : State) (x : Fld) (idx : List Nat) (n : Nat) : (s.addWrap x idx n).releases = s.releases := rfl
@[simp] theorem State.addWrap_hens (s : State) (x : Fld) (idx : List Nat) (n : Nat) : (s.addWrap x idx n).hens = s.hens := rfl
@[simp] theorem State.addWrap_clus (s : State) (x : Fld) (idx : List Nat) (n : Nat) : (s.addWrap x idx n).clus = s.clus := rfl
@[simp] theorem State.addWrap_routers (s : State) (x : Fld) (idx : List Nat) (n : Nat) : (s.addWrap x idx n).routers = s.routers := rfl
@[simp] theorem State.addWrap_irq (s : State) (x : Fld) (idx : List Nat) (n : Nat) : (s.addWrap x idx n).irq = s.irq := rfl
@[simp] theorem State.addWrap_olm (s : State) (x : Fld) (idx : List Nat) (n : Nat) : (s.addWrap x idx n).olm = s.olm := rfl
@[simp] theorem State.addWrap_flt (s : State) (x : Fld) (idx : List Nat) (n : Nat) : (s.addWrap x idx n).flt = s.flt := rfl
@[simp] theorem State.addWrap_pwr (s : State) (x : Fld) (idx : List Nat) (n : Nat) : (s.addWrap x idx n).pwr = s.pwr := rfl
@[simp] theorem State.addWrap_dies (s : State) (x : Fld) (idx : List Nat) (n : Nat) : (s.addWrap x idx n).dies = s.dies := rfl
@[simp] theorem State.addWrap_jobs (s : State) (x : Fld) (idx : List Nat) (n : Nat) : (s.addWrap x idx n).jobs = s.jobs := rfl
@[simp] theorem State.addWrap_oxs (s : State) (x : Fld) (idx : List Nat) (n : Nat) : (s.addWrap x idx n).oxs = s.oxs := rfl
@[simp] theorem State.addWrap_fit (s : State) (x : Fld) (idx : List Nat) (n : Nat) : (s.addWrap x idx n).fit = s.fit := rfl
@[simp] theorem State.addWrap_arrs (s : State) (x : Fld) (idx : List Nat) (n : Nat) : (s.addWrap x idx n).arrs = s.arrs := rfl
@[simp] theorem State.addWrap_feed (s : State) (x : Fld) (idx : List Nat) (n : Nat) : (s.addWrap x idx n).feed = s.feed := rfl
@[simp] theorem State.addWrap_returns (s : State) (x : Fld) (idx : List Nat) (n : Nat) : (s.addWrap x idx n).returns = s.returns := rfl
@[simp] theorem State.addWrap_quants (s : State) (x : Fld) (idx : List Nat) (n : Nat) : (s.addWrap x idx n).quants = s.quants := rfl
@[simp] theorem State.addWrap_ports (s : State) (x : Fld) (idx : List Nat) (n : Nat) : (s.addWrap x idx n).ports = s.ports := rfl
@[simp] theorem State.addWrap_stamps (s : State) (x : Fld) (idx : List Nat) (n : Nat) : (s.addWrap x idx n).stamps = s.stamps := rfl
@[simp] theorem State.addWrap_credits (s : State) (x : Fld) (idx : List Nat) (n : Nat) : (s.addWrap x idx n).credits = s.credits := rfl
@[simp] theorem State.addWrap_segs (s : State) (x : Fld) (idx : List Nat) (n : Nat) : (s.addWrap x idx n).segs = s.segs := rfl
@[simp] theorem State.addWrap_histTap (s : State) (x : Fld) (idx : List Nat) (n : Nat) : (s.addWrap x idx n).histTap = s.histTap := rfl
@[simp] theorem State.addWrap_acqTap (s : State) (x : Fld) (idx : List Nat) (n : Nat) : (s.addWrap x idx n).acqTap = s.acqTap := rfl
@[simp] theorem State.addWrap_goats (s : State) (x : Fld) (idx : List Nat) (n : Nat) : (s.addWrap x idx n).goats = s.goats := rfl
@[simp] theorem State.addWrap_barriers (s : State) (x : Fld) (idx : List Nat) (n : Nat) : (s.addWrap x idx n).barriers = s.barriers := rfl
@[simp] theorem State.addWrap_hists (s : State) (x : Fld) (idx : List Nat) (n : Nat) : (s.addWrap x idx n).hists = s.hists := rfl
@[simp] theorem State.addWrap_dram (s : State) (x : Fld) (idx : List Nat) (n : Nat) : (s.addWrap x idx n).dram = s.dram := rfl
@[simp] theorem State.addWrap_tier2 (s : State) (x : Fld) (idx : List Nat) (n : Nat) : (s.addWrap x idx n).tier2 = s.tier2 := rfl
@[simp] theorem State.addWrap_tevents (s : State) (x : Fld) (idx : List Nat) (n : Nat) : (s.addWrap x idx n).tevents = s.tevents := rfl
@[simp] theorem State.addWrap_tpins (s : State) (x : Fld) (idx : List Nat) (n : Nat) : (s.addWrap x idx n).tpins = s.tpins := rfl
@[simp] theorem State.addWrap_pacer (s : State) (x : Fld) (idx : List Nat) (n : Nat) : (s.addWrap x idx n).pacer = s.pacer := rfl
@[simp] theorem State.addWrap_vote (s : State) (x : Fld) (idx : List Nat) (n : Nat) : (s.addWrap x idx n).vote = s.vote := rfl
@[simp] theorem State.addWrap_ckpts (s : State) (x : Fld) (idx : List Nat) (n : Nat) : (s.addWrap x idx n).ckpts = s.ckpts := rfl
@[simp] theorem State.addWrap_macs (s : State) (x : Fld) (idx : List Nat) (n : Nat) : (s.addWrap x idx n).macs = s.macs := rfl
@[simp] theorem State.addWrap_t1s (s : State) (x : Fld) (idx : List Nat) (n : Nat) : (s.addWrap x idx n).t1s = s.t1s := rfl
@[simp] theorem State.addWrap_injects (s : State) (x : Fld) (idx : List Nat) (n : Nat) : (s.addWrap x idx n).injects = s.injects := rfl
@[simp] theorem State.addWrap_ptp (s : State) (x : Fld) (idx : List Nat) (n : Nat) : (s.addWrap x idx n).ptp = s.ptp := rfl
@[simp] theorem State.addWrap_txts (s : State) (x : Fld) (idx : List Nat) (n : Nat) : (s.addWrap x idx n).txts = s.txts := rfl
@[simp] theorem State.addWrap_acq (s : State) (x : Fld) (idx : List Nat) (n : Nat) : (s.addWrap x idx n).acq = s.acq := rfl
@[simp] theorem State.addWrap_lastVec (s : State) (x : Fld) (idx : List Nat) (n : Nat) : (s.addWrap x idx n).lastVec = s.lastVec := rfl
@[simp] theorem State.addWrap_wins (s : State) (x : Fld) (idx : List Nat) (n : Nat) : (s.addWrap x idx n).wins = s.wins := rfl
@[simp] theorem State.addWrap_sec (s : State) (x : Fld) (idx : List Nat) (n : Nat) : (s.addWrap x idx n).sec = s.sec := rfl
@[simp] theorem State.addWrap_vault (s : State) (x : Fld) (idx : List Nat) (n : Nat) : (s.addWrap x idx n).vault = s.vault := rfl
@[simp] theorem State.addWrap_switches (s : State) (x : Fld) (idx : List Nat) (n : Nat) : (s.addWrap x idx n).switches = s.switches := rfl
@[simp] theorem State.addWrap_issued (s : State) (x : Fld) (idx : List Nat) (n : Nat) : (s.addWrap x idx n).issued = s.issued := rfl
@[simp] theorem State.addWrap_frozen (s : State) (x : Fld) (idx : List Nat) (n : Nat) : (s.addWrap x idx n).frozen = s.frozen := rfl
@[simp] theorem State.addWrap_installs (s : State) (x : Fld) (idx : List Nat) (n : Nat) : (s.addWrap x idx n).installs = s.installs := rfl
@[simp] theorem State.addWrap_tap (s : State) (x : Fld) (idx : List Nat) (n : Nat) : (s.addWrap x idx n).tap = s.tap := rfl
@[simp] theorem State.addWrap_boot (s : State) (x : Fld) (idx : List Nat) (n : Nat) : (s.addWrap x idx n).boot = s.boot := rfl
@[simp] theorem State.setRaw_pending (s : State) (r : Reg) (idx : List Nat) (v : Nat) : (s.setRaw r idx v).pending = s.pending := rfl
@[simp] theorem State.setRaw_now (s : State) (r : Reg) (idx : List Nat) (v : Nat) : (s.setRaw r idx v).now = s.now := rfl
@[simp] theorem State.setRaw_fresh (s : State) (r : Reg) (idx : List Nat) (v : Nat) : (s.setRaw r idx v).fresh = s.fresh := rfl
@[simp] theorem State.setRaw_part (s : State) (r : Reg) (idx : List Nat) (v : Nat) : (s.setRaw r idx v).part = s.part := rfl
@[simp] theorem State.setRaw_straps (s : State) (r : Reg) (idx : List Nat) (v : Nat) : (s.setRaw r idx v).straps = s.straps := rfl
@[simp] theorem State.setRaw_inFlight (s : State) (r : Reg) (idx : List Nat) (v : Nat) : (s.setRaw r idx v).inFlight = s.inFlight := rfl
@[simp] theorem State.setRaw_creditsDue (s : State) (r : Reg) (idx : List Nat) (v : Nat) : (s.setRaw r idx v).creditsDue = s.creditsDue := rfl
@[simp] theorem State.setRaw_lastTok (s : State) (r : Reg) (idx : List Nat) (v : Nat) : (s.setRaw r idx v).lastTok = s.lastTok := rfl
@[simp] theorem State.setRaw_out (s : State) (r : Reg) (idx : List Nat) (v : Nat) : (s.setRaw r idx v).out = s.out := rfl
@[simp] theorem State.setRaw_gates (s : State) (r : Reg) (idx : List Nat) (v : Nat) : (s.setRaw r idx v).gates = s.gates := rfl
@[simp] theorem State.setRaw_releases (s : State) (r : Reg) (idx : List Nat) (v : Nat) : (s.setRaw r idx v).releases = s.releases := rfl
@[simp] theorem State.setRaw_hens (s : State) (r : Reg) (idx : List Nat) (v : Nat) : (s.setRaw r idx v).hens = s.hens := rfl
@[simp] theorem State.setRaw_clus (s : State) (r : Reg) (idx : List Nat) (v : Nat) : (s.setRaw r idx v).clus = s.clus := rfl
@[simp] theorem State.setRaw_routers (s : State) (r : Reg) (idx : List Nat) (v : Nat) : (s.setRaw r idx v).routers = s.routers := rfl
@[simp] theorem State.setRaw_irq (s : State) (r : Reg) (idx : List Nat) (v : Nat) : (s.setRaw r idx v).irq = s.irq := rfl
@[simp] theorem State.setRaw_olm (s : State) (r : Reg) (idx : List Nat) (v : Nat) : (s.setRaw r idx v).olm = s.olm := rfl
@[simp] theorem State.setRaw_flt (s : State) (r : Reg) (idx : List Nat) (v : Nat) : (s.setRaw r idx v).flt = s.flt := rfl
@[simp] theorem State.setRaw_pwr (s : State) (r : Reg) (idx : List Nat) (v : Nat) : (s.setRaw r idx v).pwr = s.pwr := rfl
@[simp] theorem State.setRaw_dies (s : State) (r : Reg) (idx : List Nat) (v : Nat) : (s.setRaw r idx v).dies = s.dies := rfl
@[simp] theorem State.setRaw_jobs (s : State) (r : Reg) (idx : List Nat) (v : Nat) : (s.setRaw r idx v).jobs = s.jobs := rfl
@[simp] theorem State.setRaw_oxs (s : State) (r : Reg) (idx : List Nat) (v : Nat) : (s.setRaw r idx v).oxs = s.oxs := rfl
@[simp] theorem State.setRaw_fit (s : State) (r : Reg) (idx : List Nat) (v : Nat) : (s.setRaw r idx v).fit = s.fit := rfl
@[simp] theorem State.setRaw_arrs (s : State) (r : Reg) (idx : List Nat) (v : Nat) : (s.setRaw r idx v).arrs = s.arrs := rfl
@[simp] theorem State.setRaw_feed (s : State) (r : Reg) (idx : List Nat) (v : Nat) : (s.setRaw r idx v).feed = s.feed := rfl
@[simp] theorem State.setRaw_returns (s : State) (r : Reg) (idx : List Nat) (v : Nat) : (s.setRaw r idx v).returns = s.returns := rfl
@[simp] theorem State.setRaw_quants (s : State) (r : Reg) (idx : List Nat) (v : Nat) : (s.setRaw r idx v).quants = s.quants := rfl
@[simp] theorem State.setRaw_ports (s : State) (r : Reg) (idx : List Nat) (v : Nat) : (s.setRaw r idx v).ports = s.ports := rfl
@[simp] theorem State.setRaw_stamps (s : State) (r : Reg) (idx : List Nat) (v : Nat) : (s.setRaw r idx v).stamps = s.stamps := rfl
@[simp] theorem State.setRaw_credits (s : State) (r : Reg) (idx : List Nat) (v : Nat) : (s.setRaw r idx v).credits = s.credits := rfl
@[simp] theorem State.setRaw_segs (s : State) (r : Reg) (idx : List Nat) (v : Nat) : (s.setRaw r idx v).segs = s.segs := rfl
@[simp] theorem State.setRaw_histTap (s : State) (r : Reg) (idx : List Nat) (v : Nat) : (s.setRaw r idx v).histTap = s.histTap := rfl
@[simp] theorem State.setRaw_acqTap (s : State) (r : Reg) (idx : List Nat) (v : Nat) : (s.setRaw r idx v).acqTap = s.acqTap := rfl
@[simp] theorem State.setRaw_goats (s : State) (r : Reg) (idx : List Nat) (v : Nat) : (s.setRaw r idx v).goats = s.goats := rfl
@[simp] theorem State.setRaw_barriers (s : State) (r : Reg) (idx : List Nat) (v : Nat) : (s.setRaw r idx v).barriers = s.barriers := rfl
@[simp] theorem State.setRaw_hists (s : State) (r : Reg) (idx : List Nat) (v : Nat) : (s.setRaw r idx v).hists = s.hists := rfl
@[simp] theorem State.setRaw_dram (s : State) (r : Reg) (idx : List Nat) (v : Nat) : (s.setRaw r idx v).dram = s.dram := rfl
@[simp] theorem State.setRaw_tier2 (s : State) (r : Reg) (idx : List Nat) (v : Nat) : (s.setRaw r idx v).tier2 = s.tier2 := rfl
@[simp] theorem State.setRaw_tevents (s : State) (r : Reg) (idx : List Nat) (v : Nat) : (s.setRaw r idx v).tevents = s.tevents := rfl
@[simp] theorem State.setRaw_tpins (s : State) (r : Reg) (idx : List Nat) (v : Nat) : (s.setRaw r idx v).tpins = s.tpins := rfl
@[simp] theorem State.setRaw_pacer (s : State) (r : Reg) (idx : List Nat) (v : Nat) : (s.setRaw r idx v).pacer = s.pacer := rfl
@[simp] theorem State.setRaw_vote (s : State) (r : Reg) (idx : List Nat) (v : Nat) : (s.setRaw r idx v).vote = s.vote := rfl
@[simp] theorem State.setRaw_ckpts (s : State) (r : Reg) (idx : List Nat) (v : Nat) : (s.setRaw r idx v).ckpts = s.ckpts := rfl
@[simp] theorem State.setRaw_macs (s : State) (r : Reg) (idx : List Nat) (v : Nat) : (s.setRaw r idx v).macs = s.macs := rfl
@[simp] theorem State.setRaw_t1s (s : State) (r : Reg) (idx : List Nat) (v : Nat) : (s.setRaw r idx v).t1s = s.t1s := rfl
@[simp] theorem State.setRaw_injects (s : State) (r : Reg) (idx : List Nat) (v : Nat) : (s.setRaw r idx v).injects = s.injects := rfl
@[simp] theorem State.setRaw_ptp (s : State) (r : Reg) (idx : List Nat) (v : Nat) : (s.setRaw r idx v).ptp = s.ptp := rfl
@[simp] theorem State.setRaw_txts (s : State) (r : Reg) (idx : List Nat) (v : Nat) : (s.setRaw r idx v).txts = s.txts := rfl
@[simp] theorem State.setRaw_acq (s : State) (r : Reg) (idx : List Nat) (v : Nat) : (s.setRaw r idx v).acq = s.acq := rfl
@[simp] theorem State.setRaw_lastVec (s : State) (r : Reg) (idx : List Nat) (v : Nat) : (s.setRaw r idx v).lastVec = s.lastVec := rfl
@[simp] theorem State.setRaw_wins (s : State) (r : Reg) (idx : List Nat) (v : Nat) : (s.setRaw r idx v).wins = s.wins := rfl
@[simp] theorem State.setRaw_sec (s : State) (r : Reg) (idx : List Nat) (v : Nat) : (s.setRaw r idx v).sec = s.sec := rfl
@[simp] theorem State.setRaw_vault (s : State) (r : Reg) (idx : List Nat) (v : Nat) : (s.setRaw r idx v).vault = s.vault := rfl
@[simp] theorem State.setRaw_switches (s : State) (r : Reg) (idx : List Nat) (v : Nat) : (s.setRaw r idx v).switches = s.switches := rfl
@[simp] theorem State.setRaw_issued (s : State) (r : Reg) (idx : List Nat) (v : Nat) : (s.setRaw r idx v).issued = s.issued := rfl
@[simp] theorem State.setRaw_frozen (s : State) (r : Reg) (idx : List Nat) (v : Nat) : (s.setRaw r idx v).frozen = s.frozen := rfl
@[simp] theorem State.setRaw_installs (s : State) (r : Reg) (idx : List Nat) (v : Nat) : (s.setRaw r idx v).installs = s.installs := rfl
@[simp] theorem State.setRaw_tap (s : State) (r : Reg) (idx : List Nat) (v : Nat) : (s.setRaw r idx v).tap = s.tap := rfl
@[simp] theorem State.setRaw_boot (s : State) (r : Reg) (idx : List Nat) (v : Nat) : (s.setRaw r idx v).boot = s.boot := rfl
@[simp] theorem State.emit_pending (s : State) (o : Out) : (s.emit o).pending = s.pending := rfl
@[simp] theorem State.emit_now (s : State) (o : Out) : (s.emit o).now = s.now := rfl
@[simp] theorem State.emit_fresh (s : State) (o : Out) : (s.emit o).fresh = s.fresh := rfl
@[simp] theorem State.emit_part (s : State) (o : Out) : (s.emit o).part = s.part := rfl
@[simp] theorem State.emit_straps (s : State) (o : Out) : (s.emit o).straps = s.straps := rfl
@[simp] theorem State.emit_regs (s : State) (o : Out) : (s.emit o).regs = s.regs := rfl
@[simp] theorem State.emit_inFlight (s : State) (o : Out) : (s.emit o).inFlight = s.inFlight := rfl
@[simp] theorem State.emit_creditsDue (s : State) (o : Out) : (s.emit o).creditsDue = s.creditsDue := rfl
@[simp] theorem State.emit_lastTok (s : State) (o : Out) : (s.emit o).lastTok = s.lastTok := rfl
@[simp] theorem State.emit_gates (s : State) (o : Out) : (s.emit o).gates = s.gates := rfl
@[simp] theorem State.emit_releases (s : State) (o : Out) : (s.emit o).releases = s.releases := rfl
@[simp] theorem State.emit_hens (s : State) (o : Out) : (s.emit o).hens = s.hens := rfl
@[simp] theorem State.emit_clus (s : State) (o : Out) : (s.emit o).clus = s.clus := rfl
@[simp] theorem State.emit_routers (s : State) (o : Out) : (s.emit o).routers = s.routers := rfl
@[simp] theorem State.emit_irq (s : State) (o : Out) : (s.emit o).irq = s.irq := rfl
@[simp] theorem State.emit_olm (s : State) (o : Out) : (s.emit o).olm = s.olm := rfl
@[simp] theorem State.emit_flt (s : State) (o : Out) : (s.emit o).flt = s.flt := rfl
@[simp] theorem State.emit_pwr (s : State) (o : Out) : (s.emit o).pwr = s.pwr := rfl
@[simp] theorem State.emit_dies (s : State) (o : Out) : (s.emit o).dies = s.dies := rfl
@[simp] theorem State.emit_jobs (s : State) (o : Out) : (s.emit o).jobs = s.jobs := rfl
@[simp] theorem State.emit_oxs (s : State) (o : Out) : (s.emit o).oxs = s.oxs := rfl
@[simp] theorem State.emit_fit (s : State) (o : Out) : (s.emit o).fit = s.fit := rfl
@[simp] theorem State.emit_arrs (s : State) (o : Out) : (s.emit o).arrs = s.arrs := rfl
@[simp] theorem State.emit_feed (s : State) (o : Out) : (s.emit o).feed = s.feed := rfl
@[simp] theorem State.emit_returns (s : State) (o : Out) : (s.emit o).returns = s.returns := rfl
@[simp] theorem State.emit_quants (s : State) (o : Out) : (s.emit o).quants = s.quants := rfl
@[simp] theorem State.emit_ports (s : State) (o : Out) : (s.emit o).ports = s.ports := rfl
@[simp] theorem State.emit_stamps (s : State) (o : Out) : (s.emit o).stamps = s.stamps := rfl
@[simp] theorem State.emit_credits (s : State) (o : Out) : (s.emit o).credits = s.credits := rfl
@[simp] theorem State.emit_segs (s : State) (o : Out) : (s.emit o).segs = s.segs := rfl
@[simp] theorem State.emit_histTap (s : State) (o : Out) : (s.emit o).histTap = s.histTap := rfl
@[simp] theorem State.emit_acqTap (s : State) (o : Out) : (s.emit o).acqTap = s.acqTap := rfl
@[simp] theorem State.emit_goats (s : State) (o : Out) : (s.emit o).goats = s.goats := rfl
@[simp] theorem State.emit_barriers (s : State) (o : Out) : (s.emit o).barriers = s.barriers := rfl
@[simp] theorem State.emit_hists (s : State) (o : Out) : (s.emit o).hists = s.hists := rfl
@[simp] theorem State.emit_dram (s : State) (o : Out) : (s.emit o).dram = s.dram := rfl
@[simp] theorem State.emit_tier2 (s : State) (o : Out) : (s.emit o).tier2 = s.tier2 := rfl
@[simp] theorem State.emit_tevents (s : State) (o : Out) : (s.emit o).tevents = s.tevents := rfl
@[simp] theorem State.emit_tpins (s : State) (o : Out) : (s.emit o).tpins = s.tpins := rfl
@[simp] theorem State.emit_pacer (s : State) (o : Out) : (s.emit o).pacer = s.pacer := rfl
@[simp] theorem State.emit_vote (s : State) (o : Out) : (s.emit o).vote = s.vote := rfl
@[simp] theorem State.emit_ckpts (s : State) (o : Out) : (s.emit o).ckpts = s.ckpts := rfl
@[simp] theorem State.emit_macs (s : State) (o : Out) : (s.emit o).macs = s.macs := rfl
@[simp] theorem State.emit_t1s (s : State) (o : Out) : (s.emit o).t1s = s.t1s := rfl
@[simp] theorem State.emit_injects (s : State) (o : Out) : (s.emit o).injects = s.injects := rfl
@[simp] theorem State.emit_ptp (s : State) (o : Out) : (s.emit o).ptp = s.ptp := rfl
@[simp] theorem State.emit_txts (s : State) (o : Out) : (s.emit o).txts = s.txts := rfl
@[simp] theorem State.emit_acq (s : State) (o : Out) : (s.emit o).acq = s.acq := rfl
@[simp] theorem State.emit_lastVec (s : State) (o : Out) : (s.emit o).lastVec = s.lastVec := rfl
@[simp] theorem State.emit_wins (s : State) (o : Out) : (s.emit o).wins = s.wins := rfl
@[simp] theorem State.emit_sec (s : State) (o : Out) : (s.emit o).sec = s.sec := rfl
@[simp] theorem State.emit_vault (s : State) (o : Out) : (s.emit o).vault = s.vault := rfl
@[simp] theorem State.emit_switches (s : State) (o : Out) : (s.emit o).switches = s.switches := rfl
@[simp] theorem State.emit_issued (s : State) (o : Out) : (s.emit o).issued = s.issued := rfl
@[simp] theorem State.emit_frozen (s : State) (o : Out) : (s.emit o).frozen = s.frozen := rfl
@[simp] theorem State.emit_installs (s : State) (o : Out) : (s.emit o).installs = s.installs := rfl
@[simp] theorem State.emit_tap (s : State) (o : Out) : (s.emit o).tap = s.tap := rfl
@[simp] theorem State.emit_boot (s : State) (o : Out) : (s.emit o).boot = s.boot := rfl
@[simp] theorem State.send_pending (s : State) (f : Flit) : (s.send f).pending = s.pending := rfl
@[simp] theorem State.send_now (s : State) (f : Flit) : (s.send f).now = s.now := rfl
@[simp] theorem State.send_fresh (s : State) (f : Flit) : (s.send f).fresh = s.fresh := rfl
@[simp] theorem State.send_part (s : State) (f : Flit) : (s.send f).part = s.part := rfl
@[simp] theorem State.send_straps (s : State) (f : Flit) : (s.send f).straps = s.straps := rfl
@[simp] theorem State.send_regs (s : State) (f : Flit) : (s.send f).regs = s.regs := rfl
@[simp] theorem State.send_creditsDue (s : State) (f : Flit) : (s.send f).creditsDue = s.creditsDue := rfl
@[simp] theorem State.send_lastTok (s : State) (f : Flit) : (s.send f).lastTok = s.lastTok := rfl
@[simp] theorem State.send_out (s : State) (f : Flit) : (s.send f).out = s.out := rfl
@[simp] theorem State.send_gates (s : State) (f : Flit) : (s.send f).gates = s.gates := rfl
@[simp] theorem State.send_releases (s : State) (f : Flit) : (s.send f).releases = s.releases := rfl
@[simp] theorem State.send_hens (s : State) (f : Flit) : (s.send f).hens = s.hens := rfl
@[simp] theorem State.send_clus (s : State) (f : Flit) : (s.send f).clus = s.clus := rfl
@[simp] theorem State.send_routers (s : State) (f : Flit) : (s.send f).routers = s.routers := rfl
@[simp] theorem State.send_irq (s : State) (f : Flit) : (s.send f).irq = s.irq := rfl
@[simp] theorem State.send_olm (s : State) (f : Flit) : (s.send f).olm = s.olm := rfl
@[simp] theorem State.send_flt (s : State) (f : Flit) : (s.send f).flt = s.flt := rfl
@[simp] theorem State.send_pwr (s : State) (f : Flit) : (s.send f).pwr = s.pwr := rfl
@[simp] theorem State.send_dies (s : State) (f : Flit) : (s.send f).dies = s.dies := rfl
@[simp] theorem State.send_jobs (s : State) (f : Flit) : (s.send f).jobs = s.jobs := rfl
@[simp] theorem State.send_oxs (s : State) (f : Flit) : (s.send f).oxs = s.oxs := rfl
@[simp] theorem State.send_fit (s : State) (f : Flit) : (s.send f).fit = s.fit := rfl
@[simp] theorem State.send_arrs (s : State) (f : Flit) : (s.send f).arrs = s.arrs := rfl
@[simp] theorem State.send_feed (s : State) (f : Flit) : (s.send f).feed = s.feed := rfl
@[simp] theorem State.send_returns (s : State) (f : Flit) : (s.send f).returns = s.returns := rfl
@[simp] theorem State.send_quants (s : State) (f : Flit) : (s.send f).quants = s.quants := rfl
@[simp] theorem State.send_ports (s : State) (f : Flit) : (s.send f).ports = s.ports := rfl
@[simp] theorem State.send_stamps (s : State) (f : Flit) : (s.send f).stamps = s.stamps := rfl
@[simp] theorem State.send_credits (s : State) (f : Flit) : (s.send f).credits = s.credits := rfl
@[simp] theorem State.send_segs (s : State) (f : Flit) : (s.send f).segs = s.segs := rfl
@[simp] theorem State.send_histTap (s : State) (f : Flit) : (s.send f).histTap = s.histTap := rfl
@[simp] theorem State.send_acqTap (s : State) (f : Flit) : (s.send f).acqTap = s.acqTap := rfl
@[simp] theorem State.send_goats (s : State) (f : Flit) : (s.send f).goats = s.goats := rfl
@[simp] theorem State.send_barriers (s : State) (f : Flit) : (s.send f).barriers = s.barriers := rfl
@[simp] theorem State.send_hists (s : State) (f : Flit) : (s.send f).hists = s.hists := rfl
@[simp] theorem State.send_dram (s : State) (f : Flit) : (s.send f).dram = s.dram := rfl
@[simp] theorem State.send_tier2 (s : State) (f : Flit) : (s.send f).tier2 = s.tier2 := rfl
@[simp] theorem State.send_tevents (s : State) (f : Flit) : (s.send f).tevents = s.tevents := rfl
@[simp] theorem State.send_tpins (s : State) (f : Flit) : (s.send f).tpins = s.tpins := rfl
@[simp] theorem State.send_pacer (s : State) (f : Flit) : (s.send f).pacer = s.pacer := rfl
@[simp] theorem State.send_vote (s : State) (f : Flit) : (s.send f).vote = s.vote := rfl
@[simp] theorem State.send_ckpts (s : State) (f : Flit) : (s.send f).ckpts = s.ckpts := rfl
@[simp] theorem State.send_macs (s : State) (f : Flit) : (s.send f).macs = s.macs := rfl
@[simp] theorem State.send_t1s (s : State) (f : Flit) : (s.send f).t1s = s.t1s := rfl
@[simp] theorem State.send_injects (s : State) (f : Flit) : (s.send f).injects = s.injects := rfl
@[simp] theorem State.send_ptp (s : State) (f : Flit) : (s.send f).ptp = s.ptp := rfl
@[simp] theorem State.send_txts (s : State) (f : Flit) : (s.send f).txts = s.txts := rfl
@[simp] theorem State.send_acq (s : State) (f : Flit) : (s.send f).acq = s.acq := rfl
@[simp] theorem State.send_lastVec (s : State) (f : Flit) : (s.send f).lastVec = s.lastVec := rfl
@[simp] theorem State.send_wins (s : State) (f : Flit) : (s.send f).wins = s.wins := rfl
@[simp] theorem State.send_sec (s : State) (f : Flit) : (s.send f).sec = s.sec := rfl
@[simp] theorem State.send_vault (s : State) (f : Flit) : (s.send f).vault = s.vault := rfl
@[simp] theorem State.send_switches (s : State) (f : Flit) : (s.send f).switches = s.switches := rfl
@[simp] theorem State.send_issued (s : State) (f : Flit) : (s.send f).issued = s.issued := rfl
@[simp] theorem State.send_frozen (s : State) (f : Flit) : (s.send f).frozen = s.frozen := rfl
@[simp] theorem State.send_installs (s : State) (f : Flit) : (s.send f).installs = s.installs := rfl
@[simp] theorem State.send_tap (s : State) (f : Flit) : (s.send f).tap = s.tap := rfl
@[simp] theorem State.send_boot (s : State) (f : Flit) : (s.send f).boot = s.boot := rfl
@[simp] theorem State.sendAll_pending (s : State) (fs : List Flit) : (s.sendAll fs).pending = s.pending := rfl
@[simp] theorem State.sendAll_now (s : State) (fs : List Flit) : (s.sendAll fs).now = s.now := rfl
@[simp] theorem State.sendAll_fresh (s : State) (fs : List Flit) : (s.sendAll fs).fresh = s.fresh := rfl
@[simp] theorem State.sendAll_part (s : State) (fs : List Flit) : (s.sendAll fs).part = s.part := rfl
@[simp] theorem State.sendAll_straps (s : State) (fs : List Flit) : (s.sendAll fs).straps = s.straps := rfl
@[simp] theorem State.sendAll_regs (s : State) (fs : List Flit) : (s.sendAll fs).regs = s.regs := rfl
@[simp] theorem State.sendAll_creditsDue (s : State) (fs : List Flit) : (s.sendAll fs).creditsDue = s.creditsDue := rfl
@[simp] theorem State.sendAll_lastTok (s : State) (fs : List Flit) : (s.sendAll fs).lastTok = s.lastTok := rfl
@[simp] theorem State.sendAll_out (s : State) (fs : List Flit) : (s.sendAll fs).out = s.out := rfl
@[simp] theorem State.sendAll_gates (s : State) (fs : List Flit) : (s.sendAll fs).gates = s.gates := rfl
@[simp] theorem State.sendAll_releases (s : State) (fs : List Flit) : (s.sendAll fs).releases = s.releases := rfl
@[simp] theorem State.sendAll_hens (s : State) (fs : List Flit) : (s.sendAll fs).hens = s.hens := rfl
@[simp] theorem State.sendAll_clus (s : State) (fs : List Flit) : (s.sendAll fs).clus = s.clus := rfl
@[simp] theorem State.sendAll_routers (s : State) (fs : List Flit) : (s.sendAll fs).routers = s.routers := rfl
@[simp] theorem State.sendAll_irq (s : State) (fs : List Flit) : (s.sendAll fs).irq = s.irq := rfl
@[simp] theorem State.sendAll_olm (s : State) (fs : List Flit) : (s.sendAll fs).olm = s.olm := rfl
@[simp] theorem State.sendAll_flt (s : State) (fs : List Flit) : (s.sendAll fs).flt = s.flt := rfl
@[simp] theorem State.sendAll_pwr (s : State) (fs : List Flit) : (s.sendAll fs).pwr = s.pwr := rfl
@[simp] theorem State.sendAll_dies (s : State) (fs : List Flit) : (s.sendAll fs).dies = s.dies := rfl
@[simp] theorem State.sendAll_jobs (s : State) (fs : List Flit) : (s.sendAll fs).jobs = s.jobs := rfl
@[simp] theorem State.sendAll_oxs (s : State) (fs : List Flit) : (s.sendAll fs).oxs = s.oxs := rfl
@[simp] theorem State.sendAll_fit (s : State) (fs : List Flit) : (s.sendAll fs).fit = s.fit := rfl
@[simp] theorem State.sendAll_arrs (s : State) (fs : List Flit) : (s.sendAll fs).arrs = s.arrs := rfl
@[simp] theorem State.sendAll_feed (s : State) (fs : List Flit) : (s.sendAll fs).feed = s.feed := rfl
@[simp] theorem State.sendAll_returns (s : State) (fs : List Flit) : (s.sendAll fs).returns = s.returns := rfl
@[simp] theorem State.sendAll_quants (s : State) (fs : List Flit) : (s.sendAll fs).quants = s.quants := rfl
@[simp] theorem State.sendAll_ports (s : State) (fs : List Flit) : (s.sendAll fs).ports = s.ports := rfl
@[simp] theorem State.sendAll_stamps (s : State) (fs : List Flit) : (s.sendAll fs).stamps = s.stamps := rfl
@[simp] theorem State.sendAll_credits (s : State) (fs : List Flit) : (s.sendAll fs).credits = s.credits := rfl
@[simp] theorem State.sendAll_segs (s : State) (fs : List Flit) : (s.sendAll fs).segs = s.segs := rfl
@[simp] theorem State.sendAll_histTap (s : State) (fs : List Flit) : (s.sendAll fs).histTap = s.histTap := rfl
@[simp] theorem State.sendAll_acqTap (s : State) (fs : List Flit) : (s.sendAll fs).acqTap = s.acqTap := rfl
@[simp] theorem State.sendAll_goats (s : State) (fs : List Flit) : (s.sendAll fs).goats = s.goats := rfl
@[simp] theorem State.sendAll_barriers (s : State) (fs : List Flit) : (s.sendAll fs).barriers = s.barriers := rfl
@[simp] theorem State.sendAll_hists (s : State) (fs : List Flit) : (s.sendAll fs).hists = s.hists := rfl
@[simp] theorem State.sendAll_dram (s : State) (fs : List Flit) : (s.sendAll fs).dram = s.dram := rfl
@[simp] theorem State.sendAll_tier2 (s : State) (fs : List Flit) : (s.sendAll fs).tier2 = s.tier2 := rfl
@[simp] theorem State.sendAll_tevents (s : State) (fs : List Flit) : (s.sendAll fs).tevents = s.tevents := rfl
@[simp] theorem State.sendAll_tpins (s : State) (fs : List Flit) : (s.sendAll fs).tpins = s.tpins := rfl
@[simp] theorem State.sendAll_pacer (s : State) (fs : List Flit) : (s.sendAll fs).pacer = s.pacer := rfl
@[simp] theorem State.sendAll_vote (s : State) (fs : List Flit) : (s.sendAll fs).vote = s.vote := rfl
@[simp] theorem State.sendAll_ckpts (s : State) (fs : List Flit) : (s.sendAll fs).ckpts = s.ckpts := rfl
@[simp] theorem State.sendAll_macs (s : State) (fs : List Flit) : (s.sendAll fs).macs = s.macs := rfl
@[simp] theorem State.sendAll_t1s (s : State) (fs : List Flit) : (s.sendAll fs).t1s = s.t1s := rfl
@[simp] theorem State.sendAll_injects (s : State) (fs : List Flit) : (s.sendAll fs).injects = s.injects := rfl
@[simp] theorem State.sendAll_ptp (s : State) (fs : List Flit) : (s.sendAll fs).ptp = s.ptp := rfl
@[simp] theorem State.sendAll_txts (s : State) (fs : List Flit) : (s.sendAll fs).txts = s.txts := rfl
@[simp] theorem State.sendAll_acq (s : State) (fs : List Flit) : (s.sendAll fs).acq = s.acq := rfl
@[simp] theorem State.sendAll_lastVec (s : State) (fs : List Flit) : (s.sendAll fs).lastVec = s.lastVec := rfl
@[simp] theorem State.sendAll_wins (s : State) (fs : List Flit) : (s.sendAll fs).wins = s.wins := rfl
@[simp] theorem State.sendAll_sec (s : State) (fs : List Flit) : (s.sendAll fs).sec = s.sec := rfl
@[simp] theorem State.sendAll_vault (s : State) (fs : List Flit) : (s.sendAll fs).vault = s.vault := rfl
@[simp] theorem State.sendAll_switches (s : State) (fs : List Flit) : (s.sendAll fs).switches = s.switches := rfl
@[simp] theorem State.sendAll_issued (s : State) (fs : List Flit) : (s.sendAll fs).issued = s.issued := rfl
@[simp] theorem State.sendAll_frozen (s : State) (fs : List Flit) : (s.sendAll fs).frozen = s.frozen := rfl
@[simp] theorem State.sendAll_installs (s : State) (fs : List Flit) : (s.sendAll fs).installs = s.installs := rfl
@[simp] theorem State.sendAll_tap (s : State) (fs : List Flit) : (s.sendAll fs).tap = s.tap := rfl
@[simp] theorem State.sendAll_boot (s : State) (fs : List Flit) : (s.sendAll fs).boot = s.boot := rfl
@[simp] theorem State.arrive_pending (s : State) (u : UnitId) (f : Flit) : (s.arrive u f).pending = s.pending := rfl
@[simp] theorem State.arrive_now (s : State) (u : UnitId) (f : Flit) : (s.arrive u f).now = s.now := rfl
@[simp] theorem State.arrive_fresh (s : State) (u : UnitId) (f : Flit) : (s.arrive u f).fresh = s.fresh := rfl
@[simp] theorem State.arrive_part (s : State) (u : UnitId) (f : Flit) : (s.arrive u f).part = s.part := rfl
@[simp] theorem State.arrive_straps (s : State) (u : UnitId) (f : Flit) : (s.arrive u f).straps = s.straps := rfl
@[simp] theorem State.arrive_regs (s : State) (u : UnitId) (f : Flit) : (s.arrive u f).regs = s.regs := rfl
@[simp] theorem State.arrive_creditsDue (s : State) (u : UnitId) (f : Flit) : (s.arrive u f).creditsDue = s.creditsDue := rfl
@[simp] theorem State.arrive_out (s : State) (u : UnitId) (f : Flit) : (s.arrive u f).out = s.out := rfl
@[simp] theorem State.arrive_gates (s : State) (u : UnitId) (f : Flit) : (s.arrive u f).gates = s.gates := rfl
@[simp] theorem State.arrive_releases (s : State) (u : UnitId) (f : Flit) : (s.arrive u f).releases = s.releases := rfl
@[simp] theorem State.arrive_hens (s : State) (u : UnitId) (f : Flit) : (s.arrive u f).hens = s.hens := rfl
@[simp] theorem State.arrive_clus (s : State) (u : UnitId) (f : Flit) : (s.arrive u f).clus = s.clus := rfl
@[simp] theorem State.arrive_routers (s : State) (u : UnitId) (f : Flit) : (s.arrive u f).routers = s.routers := rfl
@[simp] theorem State.arrive_irq (s : State) (u : UnitId) (f : Flit) : (s.arrive u f).irq = s.irq := rfl
@[simp] theorem State.arrive_olm (s : State) (u : UnitId) (f : Flit) : (s.arrive u f).olm = s.olm := rfl
@[simp] theorem State.arrive_flt (s : State) (u : UnitId) (f : Flit) : (s.arrive u f).flt = s.flt := rfl
@[simp] theorem State.arrive_pwr (s : State) (u : UnitId) (f : Flit) : (s.arrive u f).pwr = s.pwr := rfl
@[simp] theorem State.arrive_dies (s : State) (u : UnitId) (f : Flit) : (s.arrive u f).dies = s.dies := rfl
@[simp] theorem State.arrive_jobs (s : State) (u : UnitId) (f : Flit) : (s.arrive u f).jobs = s.jobs := rfl
@[simp] theorem State.arrive_oxs (s : State) (u : UnitId) (f : Flit) : (s.arrive u f).oxs = s.oxs := rfl
@[simp] theorem State.arrive_fit (s : State) (u : UnitId) (f : Flit) : (s.arrive u f).fit = s.fit := rfl
@[simp] theorem State.arrive_arrs (s : State) (u : UnitId) (f : Flit) : (s.arrive u f).arrs = s.arrs := rfl
@[simp] theorem State.arrive_feed (s : State) (u : UnitId) (f : Flit) : (s.arrive u f).feed = s.feed := rfl
@[simp] theorem State.arrive_returns (s : State) (u : UnitId) (f : Flit) : (s.arrive u f).returns = s.returns := rfl
@[simp] theorem State.arrive_quants (s : State) (u : UnitId) (f : Flit) : (s.arrive u f).quants = s.quants := rfl
@[simp] theorem State.arrive_ports (s : State) (u : UnitId) (f : Flit) : (s.arrive u f).ports = s.ports := rfl
@[simp] theorem State.arrive_stamps (s : State) (u : UnitId) (f : Flit) : (s.arrive u f).stamps = s.stamps := rfl
@[simp] theorem State.arrive_credits (s : State) (u : UnitId) (f : Flit) : (s.arrive u f).credits = s.credits := rfl
@[simp] theorem State.arrive_segs (s : State) (u : UnitId) (f : Flit) : (s.arrive u f).segs = s.segs := rfl
@[simp] theorem State.arrive_histTap (s : State) (u : UnitId) (f : Flit) : (s.arrive u f).histTap = s.histTap := rfl
@[simp] theorem State.arrive_acqTap (s : State) (u : UnitId) (f : Flit) : (s.arrive u f).acqTap = s.acqTap := rfl
@[simp] theorem State.arrive_goats (s : State) (u : UnitId) (f : Flit) : (s.arrive u f).goats = s.goats := rfl
@[simp] theorem State.arrive_barriers (s : State) (u : UnitId) (f : Flit) : (s.arrive u f).barriers = s.barriers := rfl
@[simp] theorem State.arrive_hists (s : State) (u : UnitId) (f : Flit) : (s.arrive u f).hists = s.hists := rfl
@[simp] theorem State.arrive_dram (s : State) (u : UnitId) (f : Flit) : (s.arrive u f).dram = s.dram := rfl
@[simp] theorem State.arrive_tier2 (s : State) (u : UnitId) (f : Flit) : (s.arrive u f).tier2 = s.tier2 := rfl
@[simp] theorem State.arrive_tevents (s : State) (u : UnitId) (f : Flit) : (s.arrive u f).tevents = s.tevents := rfl
@[simp] theorem State.arrive_tpins (s : State) (u : UnitId) (f : Flit) : (s.arrive u f).tpins = s.tpins := rfl
@[simp] theorem State.arrive_pacer (s : State) (u : UnitId) (f : Flit) : (s.arrive u f).pacer = s.pacer := rfl
@[simp] theorem State.arrive_vote (s : State) (u : UnitId) (f : Flit) : (s.arrive u f).vote = s.vote := rfl
@[simp] theorem State.arrive_ckpts (s : State) (u : UnitId) (f : Flit) : (s.arrive u f).ckpts = s.ckpts := rfl
@[simp] theorem State.arrive_macs (s : State) (u : UnitId) (f : Flit) : (s.arrive u f).macs = s.macs := rfl
@[simp] theorem State.arrive_t1s (s : State) (u : UnitId) (f : Flit) : (s.arrive u f).t1s = s.t1s := rfl
@[simp] theorem State.arrive_injects (s : State) (u : UnitId) (f : Flit) : (s.arrive u f).injects = s.injects := rfl
@[simp] theorem State.arrive_ptp (s : State) (u : UnitId) (f : Flit) : (s.arrive u f).ptp = s.ptp := rfl
@[simp] theorem State.arrive_txts (s : State) (u : UnitId) (f : Flit) : (s.arrive u f).txts = s.txts := rfl
@[simp] theorem State.arrive_acq (s : State) (u : UnitId) (f : Flit) : (s.arrive u f).acq = s.acq := rfl
@[simp] theorem State.arrive_lastVec (s : State) (u : UnitId) (f : Flit) : (s.arrive u f).lastVec = s.lastVec := rfl
@[simp] theorem State.arrive_wins (s : State) (u : UnitId) (f : Flit) : (s.arrive u f).wins = s.wins := rfl
@[simp] theorem State.arrive_sec (s : State) (u : UnitId) (f : Flit) : (s.arrive u f).sec = s.sec := rfl
@[simp] theorem State.arrive_vault (s : State) (u : UnitId) (f : Flit) : (s.arrive u f).vault = s.vault := rfl
@[simp] theorem State.arrive_switches (s : State) (u : UnitId) (f : Flit) : (s.arrive u f).switches = s.switches := rfl
@[simp] theorem State.arrive_issued (s : State) (u : UnitId) (f : Flit) : (s.arrive u f).issued = s.issued := rfl
@[simp] theorem State.arrive_frozen (s : State) (u : UnitId) (f : Flit) : (s.arrive u f).frozen = s.frozen := rfl
@[simp] theorem State.arrive_installs (s : State) (u : UnitId) (f : Flit) : (s.arrive u f).installs = s.installs := rfl
@[simp] theorem State.arrive_tap (s : State) (u : UnitId) (f : Flit) : (s.arrive u f).tap = s.tap := rfl
@[simp] theorem State.arrive_boot (s : State) (u : UnitId) (f : Flit) : (s.arrive u f).boot = s.boot := rfl
@[simp] theorem State.setGate_pending (s : State) (n g : Nat) (x : Gate) : (s.setGate n g x).pending = s.pending := rfl
@[simp] theorem State.setGate_now (s : State) (n g : Nat) (x : Gate) : (s.setGate n g x).now = s.now := rfl
@[simp] theorem State.setGate_fresh (s : State) (n g : Nat) (x : Gate) : (s.setGate n g x).fresh = s.fresh := rfl
@[simp] theorem State.setGate_part (s : State) (n g : Nat) (x : Gate) : (s.setGate n g x).part = s.part := rfl
@[simp] theorem State.setGate_straps (s : State) (n g : Nat) (x : Gate) : (s.setGate n g x).straps = s.straps := rfl
@[simp] theorem State.setGate_regs (s : State) (n g : Nat) (x : Gate) : (s.setGate n g x).regs = s.regs := rfl
@[simp] theorem State.setGate_inFlight (s : State) (n g : Nat) (x : Gate) : (s.setGate n g x).inFlight = s.inFlight := rfl
@[simp] theorem State.setGate_creditsDue (s : State) (n g : Nat) (x : Gate) : (s.setGate n g x).creditsDue = s.creditsDue := rfl
@[simp] theorem State.setGate_lastTok (s : State) (n g : Nat) (x : Gate) : (s.setGate n g x).lastTok = s.lastTok := rfl
@[simp] theorem State.setGate_out (s : State) (n g : Nat) (x : Gate) : (s.setGate n g x).out = s.out := rfl
@[simp] theorem State.setGate_releases (s : State) (n g : Nat) (x : Gate) : (s.setGate n g x).releases = s.releases := rfl
@[simp] theorem State.setGate_hens (s : State) (n g : Nat) (x : Gate) : (s.setGate n g x).hens = s.hens := rfl
@[simp] theorem State.setGate_clus (s : State) (n g : Nat) (x : Gate) : (s.setGate n g x).clus = s.clus := rfl
@[simp] theorem State.setGate_routers (s : State) (n g : Nat) (x : Gate) : (s.setGate n g x).routers = s.routers := rfl
@[simp] theorem State.setGate_irq (s : State) (n g : Nat) (x : Gate) : (s.setGate n g x).irq = s.irq := rfl
@[simp] theorem State.setGate_olm (s : State) (n g : Nat) (x : Gate) : (s.setGate n g x).olm = s.olm := rfl
@[simp] theorem State.setGate_flt (s : State) (n g : Nat) (x : Gate) : (s.setGate n g x).flt = s.flt := rfl
@[simp] theorem State.setGate_pwr (s : State) (n g : Nat) (x : Gate) : (s.setGate n g x).pwr = s.pwr := rfl
@[simp] theorem State.setGate_dies (s : State) (n g : Nat) (x : Gate) : (s.setGate n g x).dies = s.dies := rfl
@[simp] theorem State.setGate_jobs (s : State) (n g : Nat) (x : Gate) : (s.setGate n g x).jobs = s.jobs := rfl
@[simp] theorem State.setGate_oxs (s : State) (n g : Nat) (x : Gate) : (s.setGate n g x).oxs = s.oxs := rfl
@[simp] theorem State.setGate_fit (s : State) (n g : Nat) (x : Gate) : (s.setGate n g x).fit = s.fit := rfl
@[simp] theorem State.setGate_arrs (s : State) (n g : Nat) (x : Gate) : (s.setGate n g x).arrs = s.arrs := rfl
@[simp] theorem State.setGate_feed (s : State) (n g : Nat) (x : Gate) : (s.setGate n g x).feed = s.feed := rfl
@[simp] theorem State.setGate_returns (s : State) (n g : Nat) (x : Gate) : (s.setGate n g x).returns = s.returns := rfl
@[simp] theorem State.setGate_quants (s : State) (n g : Nat) (x : Gate) : (s.setGate n g x).quants = s.quants := rfl
@[simp] theorem State.setGate_ports (s : State) (n g : Nat) (x : Gate) : (s.setGate n g x).ports = s.ports := rfl
@[simp] theorem State.setGate_stamps (s : State) (n g : Nat) (x : Gate) : (s.setGate n g x).stamps = s.stamps := rfl
@[simp] theorem State.setGate_credits (s : State) (n g : Nat) (x : Gate) : (s.setGate n g x).credits = s.credits := rfl
@[simp] theorem State.setGate_segs (s : State) (n g : Nat) (x : Gate) : (s.setGate n g x).segs = s.segs := rfl
@[simp] theorem State.setGate_histTap (s : State) (n g : Nat) (x : Gate) : (s.setGate n g x).histTap = s.histTap := rfl
@[simp] theorem State.setGate_acqTap (s : State) (n g : Nat) (x : Gate) : (s.setGate n g x).acqTap = s.acqTap := rfl
@[simp] theorem State.setGate_goats (s : State) (n g : Nat) (x : Gate) : (s.setGate n g x).goats = s.goats := rfl
@[simp] theorem State.setGate_barriers (s : State) (n g : Nat) (x : Gate) : (s.setGate n g x).barriers = s.barriers := rfl
@[simp] theorem State.setGate_hists (s : State) (n g : Nat) (x : Gate) : (s.setGate n g x).hists = s.hists := rfl
@[simp] theorem State.setGate_dram (s : State) (n g : Nat) (x : Gate) : (s.setGate n g x).dram = s.dram := rfl
@[simp] theorem State.setGate_tier2 (s : State) (n g : Nat) (x : Gate) : (s.setGate n g x).tier2 = s.tier2 := rfl
@[simp] theorem State.setGate_tevents (s : State) (n g : Nat) (x : Gate) : (s.setGate n g x).tevents = s.tevents := rfl
@[simp] theorem State.setGate_tpins (s : State) (n g : Nat) (x : Gate) : (s.setGate n g x).tpins = s.tpins := rfl
@[simp] theorem State.setGate_pacer (s : State) (n g : Nat) (x : Gate) : (s.setGate n g x).pacer = s.pacer := rfl
@[simp] theorem State.setGate_vote (s : State) (n g : Nat) (x : Gate) : (s.setGate n g x).vote = s.vote := rfl
@[simp] theorem State.setGate_ckpts (s : State) (n g : Nat) (x : Gate) : (s.setGate n g x).ckpts = s.ckpts := rfl
@[simp] theorem State.setGate_macs (s : State) (n g : Nat) (x : Gate) : (s.setGate n g x).macs = s.macs := rfl
@[simp] theorem State.setGate_t1s (s : State) (n g : Nat) (x : Gate) : (s.setGate n g x).t1s = s.t1s := rfl
@[simp] theorem State.setGate_injects (s : State) (n g : Nat) (x : Gate) : (s.setGate n g x).injects = s.injects := rfl
@[simp] theorem State.setGate_ptp (s : State) (n g : Nat) (x : Gate) : (s.setGate n g x).ptp = s.ptp := rfl
@[simp] theorem State.setGate_txts (s : State) (n g : Nat) (x : Gate) : (s.setGate n g x).txts = s.txts := rfl
@[simp] theorem State.setGate_acq (s : State) (n g : Nat) (x : Gate) : (s.setGate n g x).acq = s.acq := rfl
@[simp] theorem State.setGate_lastVec (s : State) (n g : Nat) (x : Gate) : (s.setGate n g x).lastVec = s.lastVec := rfl
@[simp] theorem State.setGate_wins (s : State) (n g : Nat) (x : Gate) : (s.setGate n g x).wins = s.wins := rfl
@[simp] theorem State.setGate_sec (s : State) (n g : Nat) (x : Gate) : (s.setGate n g x).sec = s.sec := rfl
@[simp] theorem State.setGate_vault (s : State) (n g : Nat) (x : Gate) : (s.setGate n g x).vault = s.vault := rfl
@[simp] theorem State.setGate_switches (s : State) (n g : Nat) (x : Gate) : (s.setGate n g x).switches = s.switches := rfl
@[simp] theorem State.setGate_issued (s : State) (n g : Nat) (x : Gate) : (s.setGate n g x).issued = s.issued := rfl
@[simp] theorem State.setGate_frozen (s : State) (n g : Nat) (x : Gate) : (s.setGate n g x).frozen = s.frozen := rfl
@[simp] theorem State.setGate_installs (s : State) (n g : Nat) (x : Gate) : (s.setGate n g x).installs = s.installs := rfl
@[simp] theorem State.setGate_tap (s : State) (n g : Nat) (x : Gate) : (s.setGate n g x).tap = s.tap := rfl
@[simp] theorem State.setGate_boot (s : State) (n g : Nat) (x : Gate) : (s.setGate n g x).boot = s.boot := rfl
@[simp] theorem State.setHen_pending (s : State) (h : HenRef) (x : Hen) : (s.setHen h x).pending = s.pending := rfl
@[simp] theorem State.setHen_now (s : State) (h : HenRef) (x : Hen) : (s.setHen h x).now = s.now := rfl
@[simp] theorem State.setHen_fresh (s : State) (h : HenRef) (x : Hen) : (s.setHen h x).fresh = s.fresh := rfl
@[simp] theorem State.setHen_part (s : State) (h : HenRef) (x : Hen) : (s.setHen h x).part = s.part := rfl
@[simp] theorem State.setHen_straps (s : State) (h : HenRef) (x : Hen) : (s.setHen h x).straps = s.straps := rfl
@[simp] theorem State.setHen_regs (s : State) (h : HenRef) (x : Hen) : (s.setHen h x).regs = s.regs := rfl
@[simp] theorem State.setHen_inFlight (s : State) (h : HenRef) (x : Hen) : (s.setHen h x).inFlight = s.inFlight := rfl
@[simp] theorem State.setHen_creditsDue (s : State) (h : HenRef) (x : Hen) : (s.setHen h x).creditsDue = s.creditsDue := rfl
@[simp] theorem State.setHen_lastTok (s : State) (h : HenRef) (x : Hen) : (s.setHen h x).lastTok = s.lastTok := rfl
@[simp] theorem State.setHen_out (s : State) (h : HenRef) (x : Hen) : (s.setHen h x).out = s.out := rfl
@[simp] theorem State.setHen_gates (s : State) (h : HenRef) (x : Hen) : (s.setHen h x).gates = s.gates := rfl
@[simp] theorem State.setHen_releases (s : State) (h : HenRef) (x : Hen) : (s.setHen h x).releases = s.releases := rfl
@[simp] theorem State.setHen_clus (s : State) (h : HenRef) (x : Hen) : (s.setHen h x).clus = s.clus := rfl
@[simp] theorem State.setHen_routers (s : State) (h : HenRef) (x : Hen) : (s.setHen h x).routers = s.routers := rfl
@[simp] theorem State.setHen_irq (s : State) (h : HenRef) (x : Hen) : (s.setHen h x).irq = s.irq := rfl
@[simp] theorem State.setHen_olm (s : State) (h : HenRef) (x : Hen) : (s.setHen h x).olm = s.olm := rfl
@[simp] theorem State.setHen_flt (s : State) (h : HenRef) (x : Hen) : (s.setHen h x).flt = s.flt := rfl
@[simp] theorem State.setHen_pwr (s : State) (h : HenRef) (x : Hen) : (s.setHen h x).pwr = s.pwr := rfl
@[simp] theorem State.setHen_dies (s : State) (h : HenRef) (x : Hen) : (s.setHen h x).dies = s.dies := rfl
@[simp] theorem State.setHen_jobs (s : State) (h : HenRef) (x : Hen) : (s.setHen h x).jobs = s.jobs := rfl
@[simp] theorem State.setHen_oxs (s : State) (h : HenRef) (x : Hen) : (s.setHen h x).oxs = s.oxs := rfl
@[simp] theorem State.setHen_fit (s : State) (h : HenRef) (x : Hen) : (s.setHen h x).fit = s.fit := rfl
@[simp] theorem State.setHen_arrs (s : State) (h : HenRef) (x : Hen) : (s.setHen h x).arrs = s.arrs := rfl
@[simp] theorem State.setHen_feed (s : State) (h : HenRef) (x : Hen) : (s.setHen h x).feed = s.feed := rfl
@[simp] theorem State.setHen_returns (s : State) (h : HenRef) (x : Hen) : (s.setHen h x).returns = s.returns := rfl
@[simp] theorem State.setHen_quants (s : State) (h : HenRef) (x : Hen) : (s.setHen h x).quants = s.quants := rfl
@[simp] theorem State.setHen_ports (s : State) (h : HenRef) (x : Hen) : (s.setHen h x).ports = s.ports := rfl
@[simp] theorem State.setHen_stamps (s : State) (h : HenRef) (x : Hen) : (s.setHen h x).stamps = s.stamps := rfl
@[simp] theorem State.setHen_credits (s : State) (h : HenRef) (x : Hen) : (s.setHen h x).credits = s.credits := rfl
@[simp] theorem State.setHen_segs (s : State) (h : HenRef) (x : Hen) : (s.setHen h x).segs = s.segs := rfl
@[simp] theorem State.setHen_histTap (s : State) (h : HenRef) (x : Hen) : (s.setHen h x).histTap = s.histTap := rfl
@[simp] theorem State.setHen_acqTap (s : State) (h : HenRef) (x : Hen) : (s.setHen h x).acqTap = s.acqTap := rfl
@[simp] theorem State.setHen_goats (s : State) (h : HenRef) (x : Hen) : (s.setHen h x).goats = s.goats := rfl
@[simp] theorem State.setHen_barriers (s : State) (h : HenRef) (x : Hen) : (s.setHen h x).barriers = s.barriers := rfl
@[simp] theorem State.setHen_hists (s : State) (h : HenRef) (x : Hen) : (s.setHen h x).hists = s.hists := rfl
@[simp] theorem State.setHen_dram (s : State) (h : HenRef) (x : Hen) : (s.setHen h x).dram = s.dram := rfl
@[simp] theorem State.setHen_tier2 (s : State) (h : HenRef) (x : Hen) : (s.setHen h x).tier2 = s.tier2 := rfl
@[simp] theorem State.setHen_tevents (s : State) (h : HenRef) (x : Hen) : (s.setHen h x).tevents = s.tevents := rfl
@[simp] theorem State.setHen_tpins (s : State) (h : HenRef) (x : Hen) : (s.setHen h x).tpins = s.tpins := rfl
@[simp] theorem State.setHen_pacer (s : State) (h : HenRef) (x : Hen) : (s.setHen h x).pacer = s.pacer := rfl
@[simp] theorem State.setHen_vote (s : State) (h : HenRef) (x : Hen) : (s.setHen h x).vote = s.vote := rfl
@[simp] theorem State.setHen_ckpts (s : State) (h : HenRef) (x : Hen) : (s.setHen h x).ckpts = s.ckpts := rfl
@[simp] theorem State.setHen_macs (s : State) (h : HenRef) (x : Hen) : (s.setHen h x).macs = s.macs := rfl
@[simp] theorem State.setHen_t1s (s : State) (h : HenRef) (x : Hen) : (s.setHen h x).t1s = s.t1s := rfl
@[simp] theorem State.setHen_injects (s : State) (h : HenRef) (x : Hen) : (s.setHen h x).injects = s.injects := rfl
@[simp] theorem State.setHen_ptp (s : State) (h : HenRef) (x : Hen) : (s.setHen h x).ptp = s.ptp := rfl
@[simp] theorem State.setHen_txts (s : State) (h : HenRef) (x : Hen) : (s.setHen h x).txts = s.txts := rfl
@[simp] theorem State.setHen_acq (s : State) (h : HenRef) (x : Hen) : (s.setHen h x).acq = s.acq := rfl
@[simp] theorem State.setHen_lastVec (s : State) (h : HenRef) (x : Hen) : (s.setHen h x).lastVec = s.lastVec := rfl
@[simp] theorem State.setHen_wins (s : State) (h : HenRef) (x : Hen) : (s.setHen h x).wins = s.wins := rfl
@[simp] theorem State.setHen_sec (s : State) (h : HenRef) (x : Hen) : (s.setHen h x).sec = s.sec := rfl
@[simp] theorem State.setHen_vault (s : State) (h : HenRef) (x : Hen) : (s.setHen h x).vault = s.vault := rfl
@[simp] theorem State.setHen_switches (s : State) (h : HenRef) (x : Hen) : (s.setHen h x).switches = s.switches := rfl
@[simp] theorem State.setHen_issued (s : State) (h : HenRef) (x : Hen) : (s.setHen h x).issued = s.issued := rfl
@[simp] theorem State.setHen_frozen (s : State) (h : HenRef) (x : Hen) : (s.setHen h x).frozen = s.frozen := rfl
@[simp] theorem State.setHen_installs (s : State) (h : HenRef) (x : Hen) : (s.setHen h x).installs = s.installs := rfl
@[simp] theorem State.setHen_tap (s : State) (h : HenRef) (x : Hen) : (s.setHen h x).tap = s.tap := rfl
@[simp] theorem State.setHen_boot (s : State) (h : HenRef) (x : Hen) : (s.setHen h x).boot = s.boot := rfl
@[simp] theorem State.setClu_pending (s : State) (n c : Nat) (x : Cluster) : (s.setClu n c x).pending = s.pending := rfl
@[simp] theorem State.setClu_now (s : State) (n c : Nat) (x : Cluster) : (s.setClu n c x).now = s.now := rfl
@[simp] theorem State.setClu_fresh (s : State) (n c : Nat) (x : Cluster) : (s.setClu n c x).fresh = s.fresh := rfl
@[simp] theorem State.setClu_part (s : State) (n c : Nat) (x : Cluster) : (s.setClu n c x).part = s.part := rfl
@[simp] theorem State.setClu_straps (s : State) (n c : Nat) (x : Cluster) : (s.setClu n c x).straps = s.straps := rfl
@[simp] theorem State.setClu_regs (s : State) (n c : Nat) (x : Cluster) : (s.setClu n c x).regs = s.regs := rfl
@[simp] theorem State.setClu_inFlight (s : State) (n c : Nat) (x : Cluster) : (s.setClu n c x).inFlight = s.inFlight := rfl
@[simp] theorem State.setClu_creditsDue (s : State) (n c : Nat) (x : Cluster) : (s.setClu n c x).creditsDue = s.creditsDue := rfl
@[simp] theorem State.setClu_lastTok (s : State) (n c : Nat) (x : Cluster) : (s.setClu n c x).lastTok = s.lastTok := rfl
@[simp] theorem State.setClu_out (s : State) (n c : Nat) (x : Cluster) : (s.setClu n c x).out = s.out := rfl
@[simp] theorem State.setClu_gates (s : State) (n c : Nat) (x : Cluster) : (s.setClu n c x).gates = s.gates := rfl
@[simp] theorem State.setClu_releases (s : State) (n c : Nat) (x : Cluster) : (s.setClu n c x).releases = s.releases := rfl
@[simp] theorem State.setClu_hens (s : State) (n c : Nat) (x : Cluster) : (s.setClu n c x).hens = s.hens := rfl
@[simp] theorem State.setClu_routers (s : State) (n c : Nat) (x : Cluster) : (s.setClu n c x).routers = s.routers := rfl
@[simp] theorem State.setClu_irq (s : State) (n c : Nat) (x : Cluster) : (s.setClu n c x).irq = s.irq := rfl
@[simp] theorem State.setClu_olm (s : State) (n c : Nat) (x : Cluster) : (s.setClu n c x).olm = s.olm := rfl
@[simp] theorem State.setClu_flt (s : State) (n c : Nat) (x : Cluster) : (s.setClu n c x).flt = s.flt := rfl
@[simp] theorem State.setClu_pwr (s : State) (n c : Nat) (x : Cluster) : (s.setClu n c x).pwr = s.pwr := rfl
@[simp] theorem State.setClu_dies (s : State) (n c : Nat) (x : Cluster) : (s.setClu n c x).dies = s.dies := rfl
@[simp] theorem State.setClu_jobs (s : State) (n c : Nat) (x : Cluster) : (s.setClu n c x).jobs = s.jobs := rfl
@[simp] theorem State.setClu_oxs (s : State) (n c : Nat) (x : Cluster) : (s.setClu n c x).oxs = s.oxs := rfl
@[simp] theorem State.setClu_fit (s : State) (n c : Nat) (x : Cluster) : (s.setClu n c x).fit = s.fit := rfl
@[simp] theorem State.setClu_arrs (s : State) (n c : Nat) (x : Cluster) : (s.setClu n c x).arrs = s.arrs := rfl
@[simp] theorem State.setClu_feed (s : State) (n c : Nat) (x : Cluster) : (s.setClu n c x).feed = s.feed := rfl
@[simp] theorem State.setClu_returns (s : State) (n c : Nat) (x : Cluster) : (s.setClu n c x).returns = s.returns := rfl
@[simp] theorem State.setClu_quants (s : State) (n c : Nat) (x : Cluster) : (s.setClu n c x).quants = s.quants := rfl
@[simp] theorem State.setClu_ports (s : State) (n c : Nat) (x : Cluster) : (s.setClu n c x).ports = s.ports := rfl
@[simp] theorem State.setClu_stamps (s : State) (n c : Nat) (x : Cluster) : (s.setClu n c x).stamps = s.stamps := rfl
@[simp] theorem State.setClu_credits (s : State) (n c : Nat) (x : Cluster) : (s.setClu n c x).credits = s.credits := rfl
@[simp] theorem State.setClu_segs (s : State) (n c : Nat) (x : Cluster) : (s.setClu n c x).segs = s.segs := rfl
@[simp] theorem State.setClu_histTap (s : State) (n c : Nat) (x : Cluster) : (s.setClu n c x).histTap = s.histTap := rfl
@[simp] theorem State.setClu_acqTap (s : State) (n c : Nat) (x : Cluster) : (s.setClu n c x).acqTap = s.acqTap := rfl
@[simp] theorem State.setClu_goats (s : State) (n c : Nat) (x : Cluster) : (s.setClu n c x).goats = s.goats := rfl
@[simp] theorem State.setClu_barriers (s : State) (n c : Nat) (x : Cluster) : (s.setClu n c x).barriers = s.barriers := rfl
@[simp] theorem State.setClu_hists (s : State) (n c : Nat) (x : Cluster) : (s.setClu n c x).hists = s.hists := rfl
@[simp] theorem State.setClu_dram (s : State) (n c : Nat) (x : Cluster) : (s.setClu n c x).dram = s.dram := rfl
@[simp] theorem State.setClu_tier2 (s : State) (n c : Nat) (x : Cluster) : (s.setClu n c x).tier2 = s.tier2 := rfl
@[simp] theorem State.setClu_tevents (s : State) (n c : Nat) (x : Cluster) : (s.setClu n c x).tevents = s.tevents := rfl
@[simp] theorem State.setClu_tpins (s : State) (n c : Nat) (x : Cluster) : (s.setClu n c x).tpins = s.tpins := rfl
@[simp] theorem State.setClu_pacer (s : State) (n c : Nat) (x : Cluster) : (s.setClu n c x).pacer = s.pacer := rfl
@[simp] theorem State.setClu_vote (s : State) (n c : Nat) (x : Cluster) : (s.setClu n c x).vote = s.vote := rfl
@[simp] theorem State.setClu_ckpts (s : State) (n c : Nat) (x : Cluster) : (s.setClu n c x).ckpts = s.ckpts := rfl
@[simp] theorem State.setClu_macs (s : State) (n c : Nat) (x : Cluster) : (s.setClu n c x).macs = s.macs := rfl
@[simp] theorem State.setClu_t1s (s : State) (n c : Nat) (x : Cluster) : (s.setClu n c x).t1s = s.t1s := rfl
@[simp] theorem State.setClu_injects (s : State) (n c : Nat) (x : Cluster) : (s.setClu n c x).injects = s.injects := rfl
@[simp] theorem State.setClu_ptp (s : State) (n c : Nat) (x : Cluster) : (s.setClu n c x).ptp = s.ptp := rfl
@[simp] theorem State.setClu_txts (s : State) (n c : Nat) (x : Cluster) : (s.setClu n c x).txts = s.txts := rfl
@[simp] theorem State.setClu_acq (s : State) (n c : Nat) (x : Cluster) : (s.setClu n c x).acq = s.acq := rfl
@[simp] theorem State.setClu_lastVec (s : State) (n c : Nat) (x : Cluster) : (s.setClu n c x).lastVec = s.lastVec := rfl
@[simp] theorem State.setClu_wins (s : State) (n c : Nat) (x : Cluster) : (s.setClu n c x).wins = s.wins := rfl
@[simp] theorem State.setClu_sec (s : State) (n c : Nat) (x : Cluster) : (s.setClu n c x).sec = s.sec := rfl
@[simp] theorem State.setClu_vault (s : State) (n c : Nat) (x : Cluster) : (s.setClu n c x).vault = s.vault := rfl
@[simp] theorem State.setClu_switches (s : State) (n c : Nat) (x : Cluster) : (s.setClu n c x).switches = s.switches := rfl
@[simp] theorem State.setClu_issued (s : State) (n c : Nat) (x : Cluster) : (s.setClu n c x).issued = s.issued := rfl
@[simp] theorem State.setClu_frozen (s : State) (n c : Nat) (x : Cluster) : (s.setClu n c x).frozen = s.frozen := rfl
@[simp] theorem State.setClu_installs (s : State) (n c : Nat) (x : Cluster) : (s.setClu n c x).installs = s.installs := rfl
@[simp] theorem State.setClu_tap (s : State) (n c : Nat) (x : Cluster) : (s.setClu n c x).tap = s.tap := rfl
@[simp] theorem State.setClu_boot (s : State) (n c : Nat) (x : Cluster) : (s.setClu n c x).boot = s.boot := rfl
@[simp] theorem State.setRouter_pending (s : State) (n r : Nat) (x : Router) : (s.setRouter n r x).pending = s.pending := rfl
@[simp] theorem State.setRouter_now (s : State) (n r : Nat) (x : Router) : (s.setRouter n r x).now = s.now := rfl
@[simp] theorem State.setRouter_fresh (s : State) (n r : Nat) (x : Router) : (s.setRouter n r x).fresh = s.fresh := rfl
@[simp] theorem State.setRouter_part (s : State) (n r : Nat) (x : Router) : (s.setRouter n r x).part = s.part := rfl
@[simp] theorem State.setRouter_straps (s : State) (n r : Nat) (x : Router) : (s.setRouter n r x).straps = s.straps := rfl
@[simp] theorem State.setRouter_regs (s : State) (n r : Nat) (x : Router) : (s.setRouter n r x).regs = s.regs := rfl
@[simp] theorem State.setRouter_inFlight (s : State) (n r : Nat) (x : Router) : (s.setRouter n r x).inFlight = s.inFlight := rfl
@[simp] theorem State.setRouter_creditsDue (s : State) (n r : Nat) (x : Router) : (s.setRouter n r x).creditsDue = s.creditsDue := rfl
@[simp] theorem State.setRouter_lastTok (s : State) (n r : Nat) (x : Router) : (s.setRouter n r x).lastTok = s.lastTok := rfl
@[simp] theorem State.setRouter_out (s : State) (n r : Nat) (x : Router) : (s.setRouter n r x).out = s.out := rfl
@[simp] theorem State.setRouter_gates (s : State) (n r : Nat) (x : Router) : (s.setRouter n r x).gates = s.gates := rfl
@[simp] theorem State.setRouter_releases (s : State) (n r : Nat) (x : Router) : (s.setRouter n r x).releases = s.releases := rfl
@[simp] theorem State.setRouter_hens (s : State) (n r : Nat) (x : Router) : (s.setRouter n r x).hens = s.hens := rfl
@[simp] theorem State.setRouter_clus (s : State) (n r : Nat) (x : Router) : (s.setRouter n r x).clus = s.clus := rfl
@[simp] theorem State.setRouter_irq (s : State) (n r : Nat) (x : Router) : (s.setRouter n r x).irq = s.irq := rfl
@[simp] theorem State.setRouter_olm (s : State) (n r : Nat) (x : Router) : (s.setRouter n r x).olm = s.olm := rfl
@[simp] theorem State.setRouter_flt (s : State) (n r : Nat) (x : Router) : (s.setRouter n r x).flt = s.flt := rfl
@[simp] theorem State.setRouter_pwr (s : State) (n r : Nat) (x : Router) : (s.setRouter n r x).pwr = s.pwr := rfl
@[simp] theorem State.setRouter_dies (s : State) (n r : Nat) (x : Router) : (s.setRouter n r x).dies = s.dies := rfl
@[simp] theorem State.setRouter_jobs (s : State) (n r : Nat) (x : Router) : (s.setRouter n r x).jobs = s.jobs := rfl
@[simp] theorem State.setRouter_oxs (s : State) (n r : Nat) (x : Router) : (s.setRouter n r x).oxs = s.oxs := rfl
@[simp] theorem State.setRouter_fit (s : State) (n r : Nat) (x : Router) : (s.setRouter n r x).fit = s.fit := rfl
@[simp] theorem State.setRouter_arrs (s : State) (n r : Nat) (x : Router) : (s.setRouter n r x).arrs = s.arrs := rfl
@[simp] theorem State.setRouter_feed (s : State) (n r : Nat) (x : Router) : (s.setRouter n r x).feed = s.feed := rfl
@[simp] theorem State.setRouter_returns (s : State) (n r : Nat) (x : Router) : (s.setRouter n r x).returns = s.returns := rfl
@[simp] theorem State.setRouter_quants (s : State) (n r : Nat) (x : Router) : (s.setRouter n r x).quants = s.quants := rfl
@[simp] theorem State.setRouter_ports (s : State) (n r : Nat) (x : Router) : (s.setRouter n r x).ports = s.ports := rfl
@[simp] theorem State.setRouter_stamps (s : State) (n r : Nat) (x : Router) : (s.setRouter n r x).stamps = s.stamps := rfl
@[simp] theorem State.setRouter_credits (s : State) (n r : Nat) (x : Router) : (s.setRouter n r x).credits = s.credits := rfl
@[simp] theorem State.setRouter_segs (s : State) (n r : Nat) (x : Router) : (s.setRouter n r x).segs = s.segs := rfl
@[simp] theorem State.setRouter_histTap (s : State) (n r : Nat) (x : Router) : (s.setRouter n r x).histTap = s.histTap := rfl
@[simp] theorem State.setRouter_acqTap (s : State) (n r : Nat) (x : Router) : (s.setRouter n r x).acqTap = s.acqTap := rfl
@[simp] theorem State.setRouter_goats (s : State) (n r : Nat) (x : Router) : (s.setRouter n r x).goats = s.goats := rfl
@[simp] theorem State.setRouter_barriers (s : State) (n r : Nat) (x : Router) : (s.setRouter n r x).barriers = s.barriers := rfl
@[simp] theorem State.setRouter_hists (s : State) (n r : Nat) (x : Router) : (s.setRouter n r x).hists = s.hists := rfl
@[simp] theorem State.setRouter_dram (s : State) (n r : Nat) (x : Router) : (s.setRouter n r x).dram = s.dram := rfl
@[simp] theorem State.setRouter_tier2 (s : State) (n r : Nat) (x : Router) : (s.setRouter n r x).tier2 = s.tier2 := rfl
@[simp] theorem State.setRouter_tevents (s : State) (n r : Nat) (x : Router) : (s.setRouter n r x).tevents = s.tevents := rfl
@[simp] theorem State.setRouter_tpins (s : State) (n r : Nat) (x : Router) : (s.setRouter n r x).tpins = s.tpins := rfl
@[simp] theorem State.setRouter_pacer (s : State) (n r : Nat) (x : Router) : (s.setRouter n r x).pacer = s.pacer := rfl
@[simp] theorem State.setRouter_vote (s : State) (n r : Nat) (x : Router) : (s.setRouter n r x).vote = s.vote := rfl
@[simp] theorem State.setRouter_ckpts (s : State) (n r : Nat) (x : Router) : (s.setRouter n r x).ckpts = s.ckpts := rfl
@[simp] theorem State.setRouter_macs (s : State) (n r : Nat) (x : Router) : (s.setRouter n r x).macs = s.macs := rfl
@[simp] theorem State.setRouter_t1s (s : State) (n r : Nat) (x : Router) : (s.setRouter n r x).t1s = s.t1s := rfl
@[simp] theorem State.setRouter_injects (s : State) (n r : Nat) (x : Router) : (s.setRouter n r x).injects = s.injects := rfl
@[simp] theorem State.setRouter_ptp (s : State) (n r : Nat) (x : Router) : (s.setRouter n r x).ptp = s.ptp := rfl
@[simp] theorem State.setRouter_txts (s : State) (n r : Nat) (x : Router) : (s.setRouter n r x).txts = s.txts := rfl
@[simp] theorem State.setRouter_acq (s : State) (n r : Nat) (x : Router) : (s.setRouter n r x).acq = s.acq := rfl
@[simp] theorem State.setRouter_lastVec (s : State) (n r : Nat) (x : Router) : (s.setRouter n r x).lastVec = s.lastVec := rfl
@[simp] theorem State.setRouter_wins (s : State) (n r : Nat) (x : Router) : (s.setRouter n r x).wins = s.wins := rfl
@[simp] theorem State.setRouter_sec (s : State) (n r : Nat) (x : Router) : (s.setRouter n r x).sec = s.sec := rfl
@[simp] theorem State.setRouter_vault (s : State) (n r : Nat) (x : Router) : (s.setRouter n r x).vault = s.vault := rfl
@[simp] theorem State.setRouter_switches (s : State) (n r : Nat) (x : Router) : (s.setRouter n r x).switches = s.switches := rfl
@[simp] theorem State.setRouter_issued (s : State) (n r : Nat) (x : Router) : (s.setRouter n r x).issued = s.issued := rfl
@[simp] theorem State.setRouter_frozen (s : State) (n r : Nat) (x : Router) : (s.setRouter n r x).frozen = s.frozen := rfl
@[simp] theorem State.setRouter_installs (s : State) (n r : Nat) (x : Router) : (s.setRouter n r x).installs = s.installs := rfl
@[simp] theorem State.setRouter_tap (s : State) (n r : Nat) (x : Router) : (s.setRouter n r x).tap = s.tap := rfl
@[simp] theorem State.setRouter_boot (s : State) (n r : Nat) (x : Router) : (s.setRouter n r x).boot = s.boot := rfl
@[simp] theorem State.setDie_pending (s : State) (n : Nat) (x : Die) : (s.setDie n x).pending = s.pending := rfl
@[simp] theorem State.setDie_now (s : State) (n : Nat) (x : Die) : (s.setDie n x).now = s.now := rfl
@[simp] theorem State.setDie_fresh (s : State) (n : Nat) (x : Die) : (s.setDie n x).fresh = s.fresh := rfl
@[simp] theorem State.setDie_part (s : State) (n : Nat) (x : Die) : (s.setDie n x).part = s.part := rfl
@[simp] theorem State.setDie_straps (s : State) (n : Nat) (x : Die) : (s.setDie n x).straps = s.straps := rfl
@[simp] theorem State.setDie_regs (s : State) (n : Nat) (x : Die) : (s.setDie n x).regs = s.regs := rfl
@[simp] theorem State.setDie_inFlight (s : State) (n : Nat) (x : Die) : (s.setDie n x).inFlight = s.inFlight := rfl
@[simp] theorem State.setDie_creditsDue (s : State) (n : Nat) (x : Die) : (s.setDie n x).creditsDue = s.creditsDue := rfl
@[simp] theorem State.setDie_lastTok (s : State) (n : Nat) (x : Die) : (s.setDie n x).lastTok = s.lastTok := rfl
@[simp] theorem State.setDie_out (s : State) (n : Nat) (x : Die) : (s.setDie n x).out = s.out := rfl
@[simp] theorem State.setDie_gates (s : State) (n : Nat) (x : Die) : (s.setDie n x).gates = s.gates := rfl
@[simp] theorem State.setDie_releases (s : State) (n : Nat) (x : Die) : (s.setDie n x).releases = s.releases := rfl
@[simp] theorem State.setDie_hens (s : State) (n : Nat) (x : Die) : (s.setDie n x).hens = s.hens := rfl
@[simp] theorem State.setDie_clus (s : State) (n : Nat) (x : Die) : (s.setDie n x).clus = s.clus := rfl
@[simp] theorem State.setDie_routers (s : State) (n : Nat) (x : Die) : (s.setDie n x).routers = s.routers := rfl
@[simp] theorem State.setDie_irq (s : State) (n : Nat) (x : Die) : (s.setDie n x).irq = s.irq := rfl
@[simp] theorem State.setDie_olm (s : State) (n : Nat) (x : Die) : (s.setDie n x).olm = s.olm := rfl
@[simp] theorem State.setDie_flt (s : State) (n : Nat) (x : Die) : (s.setDie n x).flt = s.flt := rfl
@[simp] theorem State.setDie_pwr (s : State) (n : Nat) (x : Die) : (s.setDie n x).pwr = s.pwr := rfl
@[simp] theorem State.setDie_jobs (s : State) (n : Nat) (x : Die) : (s.setDie n x).jobs = s.jobs := rfl
@[simp] theorem State.setDie_oxs (s : State) (n : Nat) (x : Die) : (s.setDie n x).oxs = s.oxs := rfl
@[simp] theorem State.setDie_fit (s : State) (n : Nat) (x : Die) : (s.setDie n x).fit = s.fit := rfl
@[simp] theorem State.setDie_arrs (s : State) (n : Nat) (x : Die) : (s.setDie n x).arrs = s.arrs := rfl
@[simp] theorem State.setDie_feed (s : State) (n : Nat) (x : Die) : (s.setDie n x).feed = s.feed := rfl
@[simp] theorem State.setDie_returns (s : State) (n : Nat) (x : Die) : (s.setDie n x).returns = s.returns := rfl
@[simp] theorem State.setDie_quants (s : State) (n : Nat) (x : Die) : (s.setDie n x).quants = s.quants := rfl
@[simp] theorem State.setDie_ports (s : State) (n : Nat) (x : Die) : (s.setDie n x).ports = s.ports := rfl
@[simp] theorem State.setDie_stamps (s : State) (n : Nat) (x : Die) : (s.setDie n x).stamps = s.stamps := rfl
@[simp] theorem State.setDie_credits (s : State) (n : Nat) (x : Die) : (s.setDie n x).credits = s.credits := rfl
@[simp] theorem State.setDie_segs (s : State) (n : Nat) (x : Die) : (s.setDie n x).segs = s.segs := rfl
@[simp] theorem State.setDie_histTap (s : State) (n : Nat) (x : Die) : (s.setDie n x).histTap = s.histTap := rfl
@[simp] theorem State.setDie_acqTap (s : State) (n : Nat) (x : Die) : (s.setDie n x).acqTap = s.acqTap := rfl
@[simp] theorem State.setDie_goats (s : State) (n : Nat) (x : Die) : (s.setDie n x).goats = s.goats := rfl
@[simp] theorem State.setDie_barriers (s : State) (n : Nat) (x : Die) : (s.setDie n x).barriers = s.barriers := rfl
@[simp] theorem State.setDie_hists (s : State) (n : Nat) (x : Die) : (s.setDie n x).hists = s.hists := rfl
@[simp] theorem State.setDie_dram (s : State) (n : Nat) (x : Die) : (s.setDie n x).dram = s.dram := rfl
@[simp] theorem State.setDie_tier2 (s : State) (n : Nat) (x : Die) : (s.setDie n x).tier2 = s.tier2 := rfl
@[simp] theorem State.setDie_tevents (s : State) (n : Nat) (x : Die) : (s.setDie n x).tevents = s.tevents := rfl
@[simp] theorem State.setDie_tpins (s : State) (n : Nat) (x : Die) : (s.setDie n x).tpins = s.tpins := rfl
@[simp] theorem State.setDie_pacer (s : State) (n : Nat) (x : Die) : (s.setDie n x).pacer = s.pacer := rfl
@[simp] theorem State.setDie_vote (s : State) (n : Nat) (x : Die) : (s.setDie n x).vote = s.vote := rfl
@[simp] theorem State.setDie_ckpts (s : State) (n : Nat) (x : Die) : (s.setDie n x).ckpts = s.ckpts := rfl
@[simp] theorem State.setDie_macs (s : State) (n : Nat) (x : Die) : (s.setDie n x).macs = s.macs := rfl
@[simp] theorem State.setDie_t1s (s : State) (n : Nat) (x : Die) : (s.setDie n x).t1s = s.t1s := rfl
@[simp] theorem State.setDie_injects (s : State) (n : Nat) (x : Die) : (s.setDie n x).injects = s.injects := rfl
@[simp] theorem State.setDie_ptp (s : State) (n : Nat) (x : Die) : (s.setDie n x).ptp = s.ptp := rfl
@[simp] theorem State.setDie_txts (s : State) (n : Nat) (x : Die) : (s.setDie n x).txts = s.txts := rfl
@[simp] theorem State.setDie_acq (s : State) (n : Nat) (x : Die) : (s.setDie n x).acq = s.acq := rfl
@[simp] theorem State.setDie_lastVec (s : State) (n : Nat) (x : Die) : (s.setDie n x).lastVec = s.lastVec := rfl
@[simp] theorem State.setDie_wins (s : State) (n : Nat) (x : Die) : (s.setDie n x).wins = s.wins := rfl
@[simp] theorem State.setDie_sec (s : State) (n : Nat) (x : Die) : (s.setDie n x).sec = s.sec := rfl
@[simp] theorem State.setDie_vault (s : State) (n : Nat) (x : Die) : (s.setDie n x).vault = s.vault := rfl
@[simp] theorem State.setDie_switches (s : State) (n : Nat) (x : Die) : (s.setDie n x).switches = s.switches := rfl
@[simp] theorem State.setDie_issued (s : State) (n : Nat) (x : Die) : (s.setDie n x).issued = s.issued := rfl
@[simp] theorem State.setDie_frozen (s : State) (n : Nat) (x : Die) : (s.setDie n x).frozen = s.frozen := rfl
@[simp] theorem State.setDie_installs (s : State) (n : Nat) (x : Die) : (s.setDie n x).installs = s.installs := rfl
@[simp] theorem State.setDie_tap (s : State) (n : Nat) (x : Die) : (s.setDie n x).tap = s.tap := rfl
@[simp] theorem State.setDie_boot (s : State) (n : Nat) (x : Die) : (s.setDie n x).boot = s.boot := rfl
@[simp] theorem State.setQuant_pending (s : State) (n c : Nat) (x : Quant) : (s.setQuant n c x).pending = s.pending := rfl
@[simp] theorem State.setQuant_now (s : State) (n c : Nat) (x : Quant) : (s.setQuant n c x).now = s.now := rfl
@[simp] theorem State.setQuant_fresh (s : State) (n c : Nat) (x : Quant) : (s.setQuant n c x).fresh = s.fresh := rfl
@[simp] theorem State.setQuant_part (s : State) (n c : Nat) (x : Quant) : (s.setQuant n c x).part = s.part := rfl
@[simp] theorem State.setQuant_straps (s : State) (n c : Nat) (x : Quant) : (s.setQuant n c x).straps = s.straps := rfl
@[simp] theorem State.setQuant_regs (s : State) (n c : Nat) (x : Quant) : (s.setQuant n c x).regs = s.regs := rfl
@[simp] theorem State.setQuant_inFlight (s : State) (n c : Nat) (x : Quant) : (s.setQuant n c x).inFlight = s.inFlight := rfl
@[simp] theorem State.setQuant_creditsDue (s : State) (n c : Nat) (x : Quant) : (s.setQuant n c x).creditsDue = s.creditsDue := rfl
@[simp] theorem State.setQuant_lastTok (s : State) (n c : Nat) (x : Quant) : (s.setQuant n c x).lastTok = s.lastTok := rfl
@[simp] theorem State.setQuant_out (s : State) (n c : Nat) (x : Quant) : (s.setQuant n c x).out = s.out := rfl
@[simp] theorem State.setQuant_gates (s : State) (n c : Nat) (x : Quant) : (s.setQuant n c x).gates = s.gates := rfl
@[simp] theorem State.setQuant_releases (s : State) (n c : Nat) (x : Quant) : (s.setQuant n c x).releases = s.releases := rfl
@[simp] theorem State.setQuant_hens (s : State) (n c : Nat) (x : Quant) : (s.setQuant n c x).hens = s.hens := rfl
@[simp] theorem State.setQuant_clus (s : State) (n c : Nat) (x : Quant) : (s.setQuant n c x).clus = s.clus := rfl
@[simp] theorem State.setQuant_routers (s : State) (n c : Nat) (x : Quant) : (s.setQuant n c x).routers = s.routers := rfl
@[simp] theorem State.setQuant_irq (s : State) (n c : Nat) (x : Quant) : (s.setQuant n c x).irq = s.irq := rfl
@[simp] theorem State.setQuant_olm (s : State) (n c : Nat) (x : Quant) : (s.setQuant n c x).olm = s.olm := rfl
@[simp] theorem State.setQuant_flt (s : State) (n c : Nat) (x : Quant) : (s.setQuant n c x).flt = s.flt := rfl
@[simp] theorem State.setQuant_pwr (s : State) (n c : Nat) (x : Quant) : (s.setQuant n c x).pwr = s.pwr := rfl
@[simp] theorem State.setQuant_dies (s : State) (n c : Nat) (x : Quant) : (s.setQuant n c x).dies = s.dies := rfl
@[simp] theorem State.setQuant_jobs (s : State) (n c : Nat) (x : Quant) : (s.setQuant n c x).jobs = s.jobs := rfl
@[simp] theorem State.setQuant_oxs (s : State) (n c : Nat) (x : Quant) : (s.setQuant n c x).oxs = s.oxs := rfl
@[simp] theorem State.setQuant_fit (s : State) (n c : Nat) (x : Quant) : (s.setQuant n c x).fit = s.fit := rfl
@[simp] theorem State.setQuant_arrs (s : State) (n c : Nat) (x : Quant) : (s.setQuant n c x).arrs = s.arrs := rfl
@[simp] theorem State.setQuant_feed (s : State) (n c : Nat) (x : Quant) : (s.setQuant n c x).feed = s.feed := rfl
@[simp] theorem State.setQuant_returns (s : State) (n c : Nat) (x : Quant) : (s.setQuant n c x).returns = s.returns := rfl
@[simp] theorem State.setQuant_ports (s : State) (n c : Nat) (x : Quant) : (s.setQuant n c x).ports = s.ports := rfl
@[simp] theorem State.setQuant_stamps (s : State) (n c : Nat) (x : Quant) : (s.setQuant n c x).stamps = s.stamps := rfl
@[simp] theorem State.setQuant_credits (s : State) (n c : Nat) (x : Quant) : (s.setQuant n c x).credits = s.credits := rfl
@[simp] theorem State.setQuant_segs (s : State) (n c : Nat) (x : Quant) : (s.setQuant n c x).segs = s.segs := rfl
@[simp] theorem State.setQuant_histTap (s : State) (n c : Nat) (x : Quant) : (s.setQuant n c x).histTap = s.histTap := rfl
@[simp] theorem State.setQuant_acqTap (s : State) (n c : Nat) (x : Quant) : (s.setQuant n c x).acqTap = s.acqTap := rfl
@[simp] theorem State.setQuant_goats (s : State) (n c : Nat) (x : Quant) : (s.setQuant n c x).goats = s.goats := rfl
@[simp] theorem State.setQuant_barriers (s : State) (n c : Nat) (x : Quant) : (s.setQuant n c x).barriers = s.barriers := rfl
@[simp] theorem State.setQuant_hists (s : State) (n c : Nat) (x : Quant) : (s.setQuant n c x).hists = s.hists := rfl
@[simp] theorem State.setQuant_dram (s : State) (n c : Nat) (x : Quant) : (s.setQuant n c x).dram = s.dram := rfl
@[simp] theorem State.setQuant_tier2 (s : State) (n c : Nat) (x : Quant) : (s.setQuant n c x).tier2 = s.tier2 := rfl
@[simp] theorem State.setQuant_tevents (s : State) (n c : Nat) (x : Quant) : (s.setQuant n c x).tevents = s.tevents := rfl
@[simp] theorem State.setQuant_tpins (s : State) (n c : Nat) (x : Quant) : (s.setQuant n c x).tpins = s.tpins := rfl
@[simp] theorem State.setQuant_pacer (s : State) (n c : Nat) (x : Quant) : (s.setQuant n c x).pacer = s.pacer := rfl
@[simp] theorem State.setQuant_vote (s : State) (n c : Nat) (x : Quant) : (s.setQuant n c x).vote = s.vote := rfl
@[simp] theorem State.setQuant_ckpts (s : State) (n c : Nat) (x : Quant) : (s.setQuant n c x).ckpts = s.ckpts := rfl
@[simp] theorem State.setQuant_macs (s : State) (n c : Nat) (x : Quant) : (s.setQuant n c x).macs = s.macs := rfl
@[simp] theorem State.setQuant_t1s (s : State) (n c : Nat) (x : Quant) : (s.setQuant n c x).t1s = s.t1s := rfl
@[simp] theorem State.setQuant_injects (s : State) (n c : Nat) (x : Quant) : (s.setQuant n c x).injects = s.injects := rfl
@[simp] theorem State.setQuant_ptp (s : State) (n c : Nat) (x : Quant) : (s.setQuant n c x).ptp = s.ptp := rfl
@[simp] theorem State.setQuant_txts (s : State) (n c : Nat) (x : Quant) : (s.setQuant n c x).txts = s.txts := rfl
@[simp] theorem State.setQuant_acq (s : State) (n c : Nat) (x : Quant) : (s.setQuant n c x).acq = s.acq := rfl
@[simp] theorem State.setQuant_lastVec (s : State) (n c : Nat) (x : Quant) : (s.setQuant n c x).lastVec = s.lastVec := rfl
@[simp] theorem State.setQuant_wins (s : State) (n c : Nat) (x : Quant) : (s.setQuant n c x).wins = s.wins := rfl
@[simp] theorem State.setQuant_sec (s : State) (n c : Nat) (x : Quant) : (s.setQuant n c x).sec = s.sec := rfl
@[simp] theorem State.setQuant_vault (s : State) (n c : Nat) (x : Quant) : (s.setQuant n c x).vault = s.vault := rfl
@[simp] theorem State.setQuant_switches (s : State) (n c : Nat) (x : Quant) : (s.setQuant n c x).switches = s.switches := rfl
@[simp] theorem State.setQuant_issued (s : State) (n c : Nat) (x : Quant) : (s.setQuant n c x).issued = s.issued := rfl
@[simp] theorem State.setQuant_frozen (s : State) (n c : Nat) (x : Quant) : (s.setQuant n c x).frozen = s.frozen := rfl
@[simp] theorem State.setQuant_installs (s : State) (n c : Nat) (x : Quant) : (s.setQuant n c x).installs = s.installs := rfl
@[simp] theorem State.setQuant_tap (s : State) (n c : Nat) (x : Quant) : (s.setQuant n c x).tap = s.tap := rfl
@[simp] theorem State.setQuant_boot (s : State) (n c : Nat) (x : Quant) : (s.setQuant n c x).boot = s.boot := rfl
@[simp] theorem State.setPort_pending (s : State) (n i : Nat) (x : Port) : (s.setPort n i x).pending = s.pending := rfl
@[simp] theorem State.setPort_now (s : State) (n i : Nat) (x : Port) : (s.setPort n i x).now = s.now := rfl
@[simp] theorem State.setPort_fresh (s : State) (n i : Nat) (x : Port) : (s.setPort n i x).fresh = s.fresh := rfl
@[simp] theorem State.setPort_part (s : State) (n i : Nat) (x : Port) : (s.setPort n i x).part = s.part := rfl
@[simp] theorem State.setPort_straps (s : State) (n i : Nat) (x : Port) : (s.setPort n i x).straps = s.straps := rfl
@[simp] theorem State.setPort_regs (s : State) (n i : Nat) (x : Port) : (s.setPort n i x).regs = s.regs := rfl
@[simp] theorem State.setPort_inFlight (s : State) (n i : Nat) (x : Port) : (s.setPort n i x).inFlight = s.inFlight := rfl
@[simp] theorem State.setPort_creditsDue (s : State) (n i : Nat) (x : Port) : (s.setPort n i x).creditsDue = s.creditsDue := rfl
@[simp] theorem State.setPort_lastTok (s : State) (n i : Nat) (x : Port) : (s.setPort n i x).lastTok = s.lastTok := rfl
@[simp] theorem State.setPort_out (s : State) (n i : Nat) (x : Port) : (s.setPort n i x).out = s.out := rfl
@[simp] theorem State.setPort_gates (s : State) (n i : Nat) (x : Port) : (s.setPort n i x).gates = s.gates := rfl
@[simp] theorem State.setPort_releases (s : State) (n i : Nat) (x : Port) : (s.setPort n i x).releases = s.releases := rfl
@[simp] theorem State.setPort_hens (s : State) (n i : Nat) (x : Port) : (s.setPort n i x).hens = s.hens := rfl
@[simp] theorem State.setPort_clus (s : State) (n i : Nat) (x : Port) : (s.setPort n i x).clus = s.clus := rfl
@[simp] theorem State.setPort_routers (s : State) (n i : Nat) (x : Port) : (s.setPort n i x).routers = s.routers := rfl
@[simp] theorem State.setPort_irq (s : State) (n i : Nat) (x : Port) : (s.setPort n i x).irq = s.irq := rfl
@[simp] theorem State.setPort_olm (s : State) (n i : Nat) (x : Port) : (s.setPort n i x).olm = s.olm := rfl
@[simp] theorem State.setPort_flt (s : State) (n i : Nat) (x : Port) : (s.setPort n i x).flt = s.flt := rfl
@[simp] theorem State.setPort_pwr (s : State) (n i : Nat) (x : Port) : (s.setPort n i x).pwr = s.pwr := rfl
@[simp] theorem State.setPort_dies (s : State) (n i : Nat) (x : Port) : (s.setPort n i x).dies = s.dies := rfl
@[simp] theorem State.setPort_jobs (s : State) (n i : Nat) (x : Port) : (s.setPort n i x).jobs = s.jobs := rfl
@[simp] theorem State.setPort_oxs (s : State) (n i : Nat) (x : Port) : (s.setPort n i x).oxs = s.oxs := rfl
@[simp] theorem State.setPort_fit (s : State) (n i : Nat) (x : Port) : (s.setPort n i x).fit = s.fit := rfl
@[simp] theorem State.setPort_arrs (s : State) (n i : Nat) (x : Port) : (s.setPort n i x).arrs = s.arrs := rfl
@[simp] theorem State.setPort_feed (s : State) (n i : Nat) (x : Port) : (s.setPort n i x).feed = s.feed := rfl
@[simp] theorem State.setPort_returns (s : State) (n i : Nat) (x : Port) : (s.setPort n i x).returns = s.returns := rfl
@[simp] theorem State.setPort_quants (s : State) (n i : Nat) (x : Port) : (s.setPort n i x).quants = s.quants := rfl
@[simp] theorem State.setPort_stamps (s : State) (n i : Nat) (x : Port) : (s.setPort n i x).stamps = s.stamps := rfl
@[simp] theorem State.setPort_credits (s : State) (n i : Nat) (x : Port) : (s.setPort n i x).credits = s.credits := rfl
@[simp] theorem State.setPort_segs (s : State) (n i : Nat) (x : Port) : (s.setPort n i x).segs = s.segs := rfl
@[simp] theorem State.setPort_histTap (s : State) (n i : Nat) (x : Port) : (s.setPort n i x).histTap = s.histTap := rfl
@[simp] theorem State.setPort_acqTap (s : State) (n i : Nat) (x : Port) : (s.setPort n i x).acqTap = s.acqTap := rfl
@[simp] theorem State.setPort_goats (s : State) (n i : Nat) (x : Port) : (s.setPort n i x).goats = s.goats := rfl
@[simp] theorem State.setPort_barriers (s : State) (n i : Nat) (x : Port) : (s.setPort n i x).barriers = s.barriers := rfl
@[simp] theorem State.setPort_hists (s : State) (n i : Nat) (x : Port) : (s.setPort n i x).hists = s.hists := rfl
@[simp] theorem State.setPort_dram (s : State) (n i : Nat) (x : Port) : (s.setPort n i x).dram = s.dram := rfl
@[simp] theorem State.setPort_tier2 (s : State) (n i : Nat) (x : Port) : (s.setPort n i x).tier2 = s.tier2 := rfl
@[simp] theorem State.setPort_tevents (s : State) (n i : Nat) (x : Port) : (s.setPort n i x).tevents = s.tevents := rfl
@[simp] theorem State.setPort_tpins (s : State) (n i : Nat) (x : Port) : (s.setPort n i x).tpins = s.tpins := rfl
@[simp] theorem State.setPort_pacer (s : State) (n i : Nat) (x : Port) : (s.setPort n i x).pacer = s.pacer := rfl
@[simp] theorem State.setPort_vote (s : State) (n i : Nat) (x : Port) : (s.setPort n i x).vote = s.vote := rfl
@[simp] theorem State.setPort_ckpts (s : State) (n i : Nat) (x : Port) : (s.setPort n i x).ckpts = s.ckpts := rfl
@[simp] theorem State.setPort_macs (s : State) (n i : Nat) (x : Port) : (s.setPort n i x).macs = s.macs := rfl
@[simp] theorem State.setPort_t1s (s : State) (n i : Nat) (x : Port) : (s.setPort n i x).t1s = s.t1s := rfl
@[simp] theorem State.setPort_injects (s : State) (n i : Nat) (x : Port) : (s.setPort n i x).injects = s.injects := rfl
@[simp] theorem State.setPort_ptp (s : State) (n i : Nat) (x : Port) : (s.setPort n i x).ptp = s.ptp := rfl
@[simp] theorem State.setPort_txts (s : State) (n i : Nat) (x : Port) : (s.setPort n i x).txts = s.txts := rfl
@[simp] theorem State.setPort_acq (s : State) (n i : Nat) (x : Port) : (s.setPort n i x).acq = s.acq := rfl
@[simp] theorem State.setPort_lastVec (s : State) (n i : Nat) (x : Port) : (s.setPort n i x).lastVec = s.lastVec := rfl
@[simp] theorem State.setPort_wins (s : State) (n i : Nat) (x : Port) : (s.setPort n i x).wins = s.wins := rfl
@[simp] theorem State.setPort_sec (s : State) (n i : Nat) (x : Port) : (s.setPort n i x).sec = s.sec := rfl
@[simp] theorem State.setPort_vault (s : State) (n i : Nat) (x : Port) : (s.setPort n i x).vault = s.vault := rfl
@[simp] theorem State.setPort_switches (s : State) (n i : Nat) (x : Port) : (s.setPort n i x).switches = s.switches := rfl
@[simp] theorem State.setPort_issued (s : State) (n i : Nat) (x : Port) : (s.setPort n i x).issued = s.issued := rfl
@[simp] theorem State.setPort_frozen (s : State) (n i : Nat) (x : Port) : (s.setPort n i x).frozen = s.frozen := rfl
@[simp] theorem State.setPort_installs (s : State) (n i : Nat) (x : Port) : (s.setPort n i x).installs = s.installs := rfl
@[simp] theorem State.setPort_tap (s : State) (n i : Nat) (x : Port) : (s.setPort n i x).tap = s.tap := rfl
@[simp] theorem State.setPort_boot (s : State) (n i : Nat) (x : Port) : (s.setPort n i x).boot = s.boot := rfl
@[simp] theorem State.setTier1_pending (s : State) (n : Nat) (m : Sparse Byte) : (s.setTier1 n m).pending = s.pending := rfl
@[simp] theorem State.setTier1_now (s : State) (n : Nat) (m : Sparse Byte) : (s.setTier1 n m).now = s.now := rfl
@[simp] theorem State.setTier1_fresh (s : State) (n : Nat) (m : Sparse Byte) : (s.setTier1 n m).fresh = s.fresh := rfl
@[simp] theorem State.setTier1_part (s : State) (n : Nat) (m : Sparse Byte) : (s.setTier1 n m).part = s.part := rfl
@[simp] theorem State.setTier1_straps (s : State) (n : Nat) (m : Sparse Byte) : (s.setTier1 n m).straps = s.straps := rfl
@[simp] theorem State.setTier1_regs (s : State) (n : Nat) (m : Sparse Byte) : (s.setTier1 n m).regs = s.regs := rfl
@[simp] theorem State.setTier1_inFlight (s : State) (n : Nat) (m : Sparse Byte) : (s.setTier1 n m).inFlight = s.inFlight := rfl
@[simp] theorem State.setTier1_creditsDue (s : State) (n : Nat) (m : Sparse Byte) : (s.setTier1 n m).creditsDue = s.creditsDue := rfl
@[simp] theorem State.setTier1_lastTok (s : State) (n : Nat) (m : Sparse Byte) : (s.setTier1 n m).lastTok = s.lastTok := rfl
@[simp] theorem State.setTier1_out (s : State) (n : Nat) (m : Sparse Byte) : (s.setTier1 n m).out = s.out := rfl
@[simp] theorem State.setTier1_gates (s : State) (n : Nat) (m : Sparse Byte) : (s.setTier1 n m).gates = s.gates := rfl
@[simp] theorem State.setTier1_releases (s : State) (n : Nat) (m : Sparse Byte) : (s.setTier1 n m).releases = s.releases := rfl
@[simp] theorem State.setTier1_hens (s : State) (n : Nat) (m : Sparse Byte) : (s.setTier1 n m).hens = s.hens := rfl
@[simp] theorem State.setTier1_clus (s : State) (n : Nat) (m : Sparse Byte) : (s.setTier1 n m).clus = s.clus := rfl
@[simp] theorem State.setTier1_routers (s : State) (n : Nat) (m : Sparse Byte) : (s.setTier1 n m).routers = s.routers := rfl
@[simp] theorem State.setTier1_irq (s : State) (n : Nat) (m : Sparse Byte) : (s.setTier1 n m).irq = s.irq := rfl
@[simp] theorem State.setTier1_olm (s : State) (n : Nat) (m : Sparse Byte) : (s.setTier1 n m).olm = s.olm := rfl
@[simp] theorem State.setTier1_flt (s : State) (n : Nat) (m : Sparse Byte) : (s.setTier1 n m).flt = s.flt := rfl
@[simp] theorem State.setTier1_pwr (s : State) (n : Nat) (m : Sparse Byte) : (s.setTier1 n m).pwr = s.pwr := rfl
@[simp] theorem State.setTier1_dies (s : State) (n : Nat) (m : Sparse Byte) : (s.setTier1 n m).dies = s.dies := rfl
@[simp] theorem State.setTier1_jobs (s : State) (n : Nat) (m : Sparse Byte) : (s.setTier1 n m).jobs = s.jobs := rfl
@[simp] theorem State.setTier1_oxs (s : State) (n : Nat) (m : Sparse Byte) : (s.setTier1 n m).oxs = s.oxs := rfl
@[simp] theorem State.setTier1_fit (s : State) (n : Nat) (m : Sparse Byte) : (s.setTier1 n m).fit = s.fit := rfl
@[simp] theorem State.setTier1_arrs (s : State) (n : Nat) (m : Sparse Byte) : (s.setTier1 n m).arrs = s.arrs := rfl
@[simp] theorem State.setTier1_feed (s : State) (n : Nat) (m : Sparse Byte) : (s.setTier1 n m).feed = s.feed := rfl
@[simp] theorem State.setTier1_returns (s : State) (n : Nat) (m : Sparse Byte) : (s.setTier1 n m).returns = s.returns := rfl
@[simp] theorem State.setTier1_quants (s : State) (n : Nat) (m : Sparse Byte) : (s.setTier1 n m).quants = s.quants := rfl
@[simp] theorem State.setTier1_ports (s : State) (n : Nat) (m : Sparse Byte) : (s.setTier1 n m).ports = s.ports := rfl
@[simp] theorem State.setTier1_stamps (s : State) (n : Nat) (m : Sparse Byte) : (s.setTier1 n m).stamps = s.stamps := rfl
@[simp] theorem State.setTier1_credits (s : State) (n : Nat) (m : Sparse Byte) : (s.setTier1 n m).credits = s.credits := rfl
@[simp] theorem State.setTier1_segs (s : State) (n : Nat) (m : Sparse Byte) : (s.setTier1 n m).segs = s.segs := rfl
@[simp] theorem State.setTier1_histTap (s : State) (n : Nat) (m : Sparse Byte) : (s.setTier1 n m).histTap = s.histTap := rfl
@[simp] theorem State.setTier1_acqTap (s : State) (n : Nat) (m : Sparse Byte) : (s.setTier1 n m).acqTap = s.acqTap := rfl
@[simp] theorem State.setTier1_goats (s : State) (n : Nat) (m : Sparse Byte) : (s.setTier1 n m).goats = s.goats := rfl
@[simp] theorem State.setTier1_barriers (s : State) (n : Nat) (m : Sparse Byte) : (s.setTier1 n m).barriers = s.barriers := rfl
@[simp] theorem State.setTier1_hists (s : State) (n : Nat) (m : Sparse Byte) : (s.setTier1 n m).hists = s.hists := rfl
@[simp] theorem State.setTier1_tier2 (s : State) (n : Nat) (m : Sparse Byte) : (s.setTier1 n m).tier2 = s.tier2 := rfl
@[simp] theorem State.setTier1_tevents (s : State) (n : Nat) (m : Sparse Byte) : (s.setTier1 n m).tevents = s.tevents := rfl
@[simp] theorem State.setTier1_tpins (s : State) (n : Nat) (m : Sparse Byte) : (s.setTier1 n m).tpins = s.tpins := rfl
@[simp] theorem State.setTier1_pacer (s : State) (n : Nat) (m : Sparse Byte) : (s.setTier1 n m).pacer = s.pacer := rfl
@[simp] theorem State.setTier1_vote (s : State) (n : Nat) (m : Sparse Byte) : (s.setTier1 n m).vote = s.vote := rfl
@[simp] theorem State.setTier1_ckpts (s : State) (n : Nat) (m : Sparse Byte) : (s.setTier1 n m).ckpts = s.ckpts := rfl
@[simp] theorem State.setTier1_macs (s : State) (n : Nat) (m : Sparse Byte) : (s.setTier1 n m).macs = s.macs := rfl
@[simp] theorem State.setTier1_t1s (s : State) (n : Nat) (m : Sparse Byte) : (s.setTier1 n m).t1s = s.t1s := rfl
@[simp] theorem State.setTier1_injects (s : State) (n : Nat) (m : Sparse Byte) : (s.setTier1 n m).injects = s.injects := rfl
@[simp] theorem State.setTier1_ptp (s : State) (n : Nat) (m : Sparse Byte) : (s.setTier1 n m).ptp = s.ptp := rfl
@[simp] theorem State.setTier1_txts (s : State) (n : Nat) (m : Sparse Byte) : (s.setTier1 n m).txts = s.txts := rfl
@[simp] theorem State.setTier1_acq (s : State) (n : Nat) (m : Sparse Byte) : (s.setTier1 n m).acq = s.acq := rfl
@[simp] theorem State.setTier1_lastVec (s : State) (n : Nat) (m : Sparse Byte) : (s.setTier1 n m).lastVec = s.lastVec := rfl
@[simp] theorem State.setTier1_wins (s : State) (n : Nat) (m : Sparse Byte) : (s.setTier1 n m).wins = s.wins := rfl
@[simp] theorem State.setTier1_sec (s : State) (n : Nat) (m : Sparse Byte) : (s.setTier1 n m).sec = s.sec := rfl
@[simp] theorem State.setTier1_vault (s : State) (n : Nat) (m : Sparse Byte) : (s.setTier1 n m).vault = s.vault := rfl
@[simp] theorem State.setTier1_switches (s : State) (n : Nat) (m : Sparse Byte) : (s.setTier1 n m).switches = s.switches := rfl
@[simp] theorem State.setTier1_issued (s : State) (n : Nat) (m : Sparse Byte) : (s.setTier1 n m).issued = s.issued := rfl
@[simp] theorem State.setTier1_frozen (s : State) (n : Nat) (m : Sparse Byte) : (s.setTier1 n m).frozen = s.frozen := rfl
@[simp] theorem State.setTier1_installs (s : State) (n : Nat) (m : Sparse Byte) : (s.setTier1 n m).installs = s.installs := rfl
@[simp] theorem State.setTier1_tap (s : State) (n : Nat) (m : Sparse Byte) : (s.setTier1 n m).tap = s.tap := rfl
@[simp] theorem State.setTier1_boot (s : State) (n : Nat) (m : Sparse Byte) : (s.setTier1 n m).boot = s.boot := rfl
@[simp] theorem State.fltNote_pending (s : State) (a b c d : Nat) (k : Bool) : (s.fltNote a b c d k).pending = s.pending := rfl
@[simp] theorem State.fltNote_now (s : State) (a b c d : Nat) (k : Bool) : (s.fltNote a b c d k).now = s.now := rfl
@[simp] theorem State.fltNote_fresh (s : State) (a b c d : Nat) (k : Bool) : (s.fltNote a b c d k).fresh = s.fresh := rfl
@[simp] theorem State.fltNote_part (s : State) (a b c d : Nat) (k : Bool) : (s.fltNote a b c d k).part = s.part := rfl
@[simp] theorem State.fltNote_straps (s : State) (a b c d : Nat) (k : Bool) : (s.fltNote a b c d k).straps = s.straps := rfl
@[simp] theorem State.fltNote_regs (s : State) (a b c d : Nat) (k : Bool) : (s.fltNote a b c d k).regs = s.regs := rfl
@[simp] theorem State.fltNote_inFlight (s : State) (a b c d : Nat) (k : Bool) : (s.fltNote a b c d k).inFlight = s.inFlight := rfl
@[simp] theorem State.fltNote_creditsDue (s : State) (a b c d : Nat) (k : Bool) : (s.fltNote a b c d k).creditsDue = s.creditsDue := rfl
@[simp] theorem State.fltNote_lastTok (s : State) (a b c d : Nat) (k : Bool) : (s.fltNote a b c d k).lastTok = s.lastTok := rfl
@[simp] theorem State.fltNote_out (s : State) (a b c d : Nat) (k : Bool) : (s.fltNote a b c d k).out = s.out := rfl
@[simp] theorem State.fltNote_gates (s : State) (a b c d : Nat) (k : Bool) : (s.fltNote a b c d k).gates = s.gates := rfl
@[simp] theorem State.fltNote_releases (s : State) (a b c d : Nat) (k : Bool) : (s.fltNote a b c d k).releases = s.releases := rfl
@[simp] theorem State.fltNote_hens (s : State) (a b c d : Nat) (k : Bool) : (s.fltNote a b c d k).hens = s.hens := rfl
@[simp] theorem State.fltNote_clus (s : State) (a b c d : Nat) (k : Bool) : (s.fltNote a b c d k).clus = s.clus := rfl
@[simp] theorem State.fltNote_routers (s : State) (a b c d : Nat) (k : Bool) : (s.fltNote a b c d k).routers = s.routers := rfl
@[simp] theorem State.fltNote_irq (s : State) (a b c d : Nat) (k : Bool) : (s.fltNote a b c d k).irq = s.irq := rfl
@[simp] theorem State.fltNote_olm (s : State) (a b c d : Nat) (k : Bool) : (s.fltNote a b c d k).olm = s.olm := rfl
@[simp] theorem State.fltNote_pwr (s : State) (a b c d : Nat) (k : Bool) : (s.fltNote a b c d k).pwr = s.pwr := rfl
@[simp] theorem State.fltNote_dies (s : State) (a b c d : Nat) (k : Bool) : (s.fltNote a b c d k).dies = s.dies := rfl
@[simp] theorem State.fltNote_jobs (s : State) (a b c d : Nat) (k : Bool) : (s.fltNote a b c d k).jobs = s.jobs := rfl
@[simp] theorem State.fltNote_oxs (s : State) (a b c d : Nat) (k : Bool) : (s.fltNote a b c d k).oxs = s.oxs := rfl
@[simp] theorem State.fltNote_fit (s : State) (a b c d : Nat) (k : Bool) : (s.fltNote a b c d k).fit = s.fit := rfl
@[simp] theorem State.fltNote_arrs (s : State) (a b c d : Nat) (k : Bool) : (s.fltNote a b c d k).arrs = s.arrs := rfl
@[simp] theorem State.fltNote_feed (s : State) (a b c d : Nat) (k : Bool) : (s.fltNote a b c d k).feed = s.feed := rfl
@[simp] theorem State.fltNote_returns (s : State) (a b c d : Nat) (k : Bool) : (s.fltNote a b c d k).returns = s.returns := rfl
@[simp] theorem State.fltNote_quants (s : State) (a b c d : Nat) (k : Bool) : (s.fltNote a b c d k).quants = s.quants := rfl
@[simp] theorem State.fltNote_ports (s : State) (a b c d : Nat) (k : Bool) : (s.fltNote a b c d k).ports = s.ports := rfl
@[simp] theorem State.fltNote_stamps (s : State) (a b c d : Nat) (k : Bool) : (s.fltNote a b c d k).stamps = s.stamps := rfl
@[simp] theorem State.fltNote_credits (s : State) (a b c d : Nat) (k : Bool) : (s.fltNote a b c d k).credits = s.credits := rfl
@[simp] theorem State.fltNote_segs (s : State) (a b c d : Nat) (k : Bool) : (s.fltNote a b c d k).segs = s.segs := rfl
@[simp] theorem State.fltNote_histTap (s : State) (a b c d : Nat) (k : Bool) : (s.fltNote a b c d k).histTap = s.histTap := rfl
@[simp] theorem State.fltNote_acqTap (s : State) (a b c d : Nat) (k : Bool) : (s.fltNote a b c d k).acqTap = s.acqTap := rfl
@[simp] theorem State.fltNote_goats (s : State) (a b c d : Nat) (k : Bool) : (s.fltNote a b c d k).goats = s.goats := rfl
@[simp] theorem State.fltNote_barriers (s : State) (a b c d : Nat) (k : Bool) : (s.fltNote a b c d k).barriers = s.barriers := rfl
@[simp] theorem State.fltNote_hists (s : State) (a b c d : Nat) (k : Bool) : (s.fltNote a b c d k).hists = s.hists := rfl
@[simp] theorem State.fltNote_dram (s : State) (a b c d : Nat) (k : Bool) : (s.fltNote a b c d k).dram = s.dram := rfl
@[simp] theorem State.fltNote_tier2 (s : State) (a b c d : Nat) (k : Bool) : (s.fltNote a b c d k).tier2 = s.tier2 := rfl
@[simp] theorem State.fltNote_tevents (s : State) (a b c d : Nat) (k : Bool) : (s.fltNote a b c d k).tevents = s.tevents := rfl
@[simp] theorem State.fltNote_tpins (s : State) (a b c d : Nat) (k : Bool) : (s.fltNote a b c d k).tpins = s.tpins := rfl
@[simp] theorem State.fltNote_pacer (s : State) (a b c d : Nat) (k : Bool) : (s.fltNote a b c d k).pacer = s.pacer := rfl
@[simp] theorem State.fltNote_vote (s : State) (a b c d : Nat) (k : Bool) : (s.fltNote a b c d k).vote = s.vote := rfl
@[simp] theorem State.fltNote_ckpts (s : State) (a b c d : Nat) (k : Bool) : (s.fltNote a b c d k).ckpts = s.ckpts := rfl
@[simp] theorem State.fltNote_macs (s : State) (a b c d : Nat) (k : Bool) : (s.fltNote a b c d k).macs = s.macs := rfl
@[simp] theorem State.fltNote_t1s (s : State) (a b c d : Nat) (k : Bool) : (s.fltNote a b c d k).t1s = s.t1s := rfl
@[simp] theorem State.fltNote_injects (s : State) (a b c d : Nat) (k : Bool) : (s.fltNote a b c d k).injects = s.injects := rfl
@[simp] theorem State.fltNote_ptp (s : State) (a b c d : Nat) (k : Bool) : (s.fltNote a b c d k).ptp = s.ptp := rfl
@[simp] theorem State.fltNote_txts (s : State) (a b c d : Nat) (k : Bool) : (s.fltNote a b c d k).txts = s.txts := rfl
@[simp] theorem State.fltNote_acq (s : State) (a b c d : Nat) (k : Bool) : (s.fltNote a b c d k).acq = s.acq := rfl
@[simp] theorem State.fltNote_lastVec (s : State) (a b c d : Nat) (k : Bool) : (s.fltNote a b c d k).lastVec = s.lastVec := rfl
@[simp] theorem State.fltNote_wins (s : State) (a b c d : Nat) (k : Bool) : (s.fltNote a b c d k).wins = s.wins := rfl
@[simp] theorem State.fltNote_sec (s : State) (a b c d : Nat) (k : Bool) : (s.fltNote a b c d k).sec = s.sec := rfl
@[simp] theorem State.fltNote_vault (s : State) (a b c d : Nat) (k : Bool) : (s.fltNote a b c d k).vault = s.vault := rfl
@[simp] theorem State.fltNote_switches (s : State) (a b c d : Nat) (k : Bool) : (s.fltNote a b c d k).switches = s.switches := rfl
@[simp] theorem State.fltNote_issued (s : State) (a b c d : Nat) (k : Bool) : (s.fltNote a b c d k).issued = s.issued := rfl
@[simp] theorem State.fltNote_frozen (s : State) (a b c d : Nat) (k : Bool) : (s.fltNote a b c d k).frozen = s.frozen := rfl
@[simp] theorem State.fltNote_installs (s : State) (a b c d : Nat) (k : Bool) : (s.fltNote a b c d k).installs = s.installs := rfl
@[simp] theorem State.fltNote_tap (s : State) (a b c d : Nat) (k : Bool) : (s.fltNote a b c d k).tap = s.tap := rfl
@[simp] theorem State.fltNote_boot (s : State) (a b c d : Nat) (k : Bool) : (s.fltNote a b c d k).boot = s.boot := rfl
@[simp] theorem State.setBucket_pending (s : State) (c : Nat) (b : Bucket) : (s.setBucket c b).pending = s.pending := rfl
@[simp] theorem State.setBucket_now (s : State) (c : Nat) (b : Bucket) : (s.setBucket c b).now = s.now := rfl
@[simp] theorem State.setBucket_fresh (s : State) (c : Nat) (b : Bucket) : (s.setBucket c b).fresh = s.fresh := rfl
@[simp] theorem State.setBucket_part (s : State) (c : Nat) (b : Bucket) : (s.setBucket c b).part = s.part := rfl
@[simp] theorem State.setBucket_straps (s : State) (c : Nat) (b : Bucket) : (s.setBucket c b).straps = s.straps := rfl
@[simp] theorem State.setBucket_regs (s : State) (c : Nat) (b : Bucket) : (s.setBucket c b).regs = s.regs := rfl
@[simp] theorem State.setBucket_inFlight (s : State) (c : Nat) (b : Bucket) : (s.setBucket c b).inFlight = s.inFlight := rfl
@[simp] theorem State.setBucket_creditsDue (s : State) (c : Nat) (b : Bucket) : (s.setBucket c b).creditsDue = s.creditsDue := rfl
@[simp] theorem State.setBucket_lastTok (s : State) (c : Nat) (b : Bucket) : (s.setBucket c b).lastTok = s.lastTok := rfl
@[simp] theorem State.setBucket_out (s : State) (c : Nat) (b : Bucket) : (s.setBucket c b).out = s.out := rfl
@[simp] theorem State.setBucket_gates (s : State) (c : Nat) (b : Bucket) : (s.setBucket c b).gates = s.gates := rfl
@[simp] theorem State.setBucket_releases (s : State) (c : Nat) (b : Bucket) : (s.setBucket c b).releases = s.releases := rfl
@[simp] theorem State.setBucket_hens (s : State) (c : Nat) (b : Bucket) : (s.setBucket c b).hens = s.hens := rfl
@[simp] theorem State.setBucket_clus (s : State) (c : Nat) (b : Bucket) : (s.setBucket c b).clus = s.clus := rfl
@[simp] theorem State.setBucket_routers (s : State) (c : Nat) (b : Bucket) : (s.setBucket c b).routers = s.routers := rfl
@[simp] theorem State.setBucket_irq (s : State) (c : Nat) (b : Bucket) : (s.setBucket c b).irq = s.irq := rfl
@[simp] theorem State.setBucket_flt (s : State) (c : Nat) (b : Bucket) : (s.setBucket c b).flt = s.flt := rfl
@[simp] theorem State.setBucket_pwr (s : State) (c : Nat) (b : Bucket) : (s.setBucket c b).pwr = s.pwr := rfl
@[simp] theorem State.setBucket_dies (s : State) (c : Nat) (b : Bucket) : (s.setBucket c b).dies = s.dies := rfl
@[simp] theorem State.setBucket_jobs (s : State) (c : Nat) (b : Bucket) : (s.setBucket c b).jobs = s.jobs := rfl
@[simp] theorem State.setBucket_oxs (s : State) (c : Nat) (b : Bucket) : (s.setBucket c b).oxs = s.oxs := rfl
@[simp] theorem State.setBucket_fit (s : State) (c : Nat) (b : Bucket) : (s.setBucket c b).fit = s.fit := rfl
@[simp] theorem State.setBucket_arrs (s : State) (c : Nat) (b : Bucket) : (s.setBucket c b).arrs = s.arrs := rfl
@[simp] theorem State.setBucket_feed (s : State) (c : Nat) (b : Bucket) : (s.setBucket c b).feed = s.feed := rfl
@[simp] theorem State.setBucket_returns (s : State) (c : Nat) (b : Bucket) : (s.setBucket c b).returns = s.returns := rfl
@[simp] theorem State.setBucket_quants (s : State) (c : Nat) (b : Bucket) : (s.setBucket c b).quants = s.quants := rfl
@[simp] theorem State.setBucket_ports (s : State) (c : Nat) (b : Bucket) : (s.setBucket c b).ports = s.ports := rfl
@[simp] theorem State.setBucket_stamps (s : State) (c : Nat) (b : Bucket) : (s.setBucket c b).stamps = s.stamps := rfl
@[simp] theorem State.setBucket_credits (s : State) (c : Nat) (b : Bucket) : (s.setBucket c b).credits = s.credits := rfl
@[simp] theorem State.setBucket_segs (s : State) (c : Nat) (b : Bucket) : (s.setBucket c b).segs = s.segs := rfl
@[simp] theorem State.setBucket_histTap (s : State) (c : Nat) (b : Bucket) : (s.setBucket c b).histTap = s.histTap := rfl
@[simp] theorem State.setBucket_acqTap (s : State) (c : Nat) (b : Bucket) : (s.setBucket c b).acqTap = s.acqTap := rfl
@[simp] theorem State.setBucket_goats (s : State) (c : Nat) (b : Bucket) : (s.setBucket c b).goats = s.goats := rfl
@[simp] theorem State.setBucket_barriers (s : State) (c : Nat) (b : Bucket) : (s.setBucket c b).barriers = s.barriers := rfl
@[simp] theorem State.setBucket_hists (s : State) (c : Nat) (b : Bucket) : (s.setBucket c b).hists = s.hists := rfl
@[simp] theorem State.setBucket_dram (s : State) (c : Nat) (b : Bucket) : (s.setBucket c b).dram = s.dram := rfl
@[simp] theorem State.setBucket_tier2 (s : State) (c : Nat) (b : Bucket) : (s.setBucket c b).tier2 = s.tier2 := rfl
@[simp] theorem State.setBucket_tevents (s : State) (c : Nat) (b : Bucket) : (s.setBucket c b).tevents = s.tevents := rfl
@[simp] theorem State.setBucket_tpins (s : State) (c : Nat) (b : Bucket) : (s.setBucket c b).tpins = s.tpins := rfl
@[simp] theorem State.setBucket_pacer (s : State) (c : Nat) (b : Bucket) : (s.setBucket c b).pacer = s.pacer := rfl
@[simp] theorem State.setBucket_vote (s : State) (c : Nat) (b : Bucket) : (s.setBucket c b).vote = s.vote := rfl
@[simp] theorem State.setBucket_ckpts (s : State) (c : Nat) (b : Bucket) : (s.setBucket c b).ckpts = s.ckpts := rfl
@[simp] theorem State.setBucket_macs (s : State) (c : Nat) (b : Bucket) : (s.setBucket c b).macs = s.macs := rfl
@[simp] theorem State.setBucket_t1s (s : State) (c : Nat) (b : Bucket) : (s.setBucket c b).t1s = s.t1s := rfl
@[simp] theorem State.setBucket_injects (s : State) (c : Nat) (b : Bucket) : (s.setBucket c b).injects = s.injects := rfl
@[simp] theorem State.setBucket_ptp (s : State) (c : Nat) (b : Bucket) : (s.setBucket c b).ptp = s.ptp := rfl
@[simp] theorem State.setBucket_txts (s : State) (c : Nat) (b : Bucket) : (s.setBucket c b).txts = s.txts := rfl
@[simp] theorem State.setBucket_acq (s : State) (c : Nat) (b : Bucket) : (s.setBucket c b).acq = s.acq := rfl
@[simp] theorem State.setBucket_lastVec (s : State) (c : Nat) (b : Bucket) : (s.setBucket c b).lastVec = s.lastVec := rfl
@[simp] theorem State.setBucket_wins (s : State) (c : Nat) (b : Bucket) : (s.setBucket c b).wins = s.wins := rfl
@[simp] theorem State.setBucket_sec (s : State) (c : Nat) (b : Bucket) : (s.setBucket c b).sec = s.sec := rfl
@[simp] theorem State.setBucket_vault (s : State) (c : Nat) (b : Bucket) : (s.setBucket c b).vault = s.vault := rfl
@[simp] theorem State.setBucket_switches (s : State) (c : Nat) (b : Bucket) : (s.setBucket c b).switches = s.switches := rfl
@[simp] theorem State.setBucket_issued (s : State) (c : Nat) (b : Bucket) : (s.setBucket c b).issued = s.issued := rfl
@[simp] theorem State.setBucket_frozen (s : State) (c : Nat) (b : Bucket) : (s.setBucket c b).frozen = s.frozen := rfl
@[simp] theorem State.setBucket_installs (s : State) (c : Nat) (b : Bucket) : (s.setBucket c b).installs = s.installs := rfl
@[simp] theorem State.setBucket_tap (s : State) (c : Nat) (b : Bucket) : (s.setBucket c b).tap = s.tap := rfl
@[simp] theorem State.setBucket_boot (s : State) (c : Nat) (b : Bucket) : (s.setBucket c b).boot = s.boot := rfl
@[simp] theorem State.upTo_pending (t : Nat) (s : State) : (s.upTo t).pending = s.pending := rfl
@[simp] theorem State.draw_pending (s : State) : s.draw.2.pending = s.pending := rfl
@[simp] theorem State.draw_now (s : State) : s.draw.2.now = s.now := rfl
@[simp] theorem State.upTo_fresh (t : Nat) (s : State) : (s.upTo t).fresh = s.fresh := rfl
@[simp] theorem State.upTo_part (t : Nat) (s : State) : (s.upTo t).part = s.part := rfl
@[simp] theorem State.draw_part (s : State) : s.draw.2.part = s.part := rfl
@[simp] theorem State.upTo_straps (t : Nat) (s : State) : (s.upTo t).straps = s.straps := rfl
@[simp] theorem State.draw_straps (s : State) : s.draw.2.straps = s.straps := rfl
@[simp] theorem State.upTo_regs (t : Nat) (s : State) : (s.upTo t).regs = s.regs := rfl
@[simp] theorem State.draw_regs (s : State) : s.draw.2.regs = s.regs := rfl
@[simp] theorem State.upTo_inFlight (t : Nat) (s : State) : (s.upTo t).inFlight = s.inFlight := rfl
@[simp] theorem State.draw_inFlight (s : State) : s.draw.2.inFlight = s.inFlight := rfl
@[simp] theorem State.upTo_creditsDue (t : Nat) (s : State) : (s.upTo t).creditsDue = s.creditsDue := rfl
@[simp] theorem State.draw_creditsDue (s : State) : s.draw.2.creditsDue = s.creditsDue := rfl
@[simp] theorem State.upTo_lastTok (t : Nat) (s : State) : (s.upTo t).lastTok = s.lastTok := rfl
@[simp] theorem State.draw_lastTok (s : State) : s.draw.2.lastTok = s.lastTok := rfl
@[simp] theorem State.upTo_out (t : Nat) (s : State) : (s.upTo t).out = s.out := rfl
@[simp] theorem State.draw_out (s : State) : s.draw.2.out = s.out := rfl
@[simp] theorem State.upTo_gates (t : Nat) (s : State) : (s.upTo t).gates = s.gates := rfl
@[simp] theorem State.draw_gates (s : State) : s.draw.2.gates = s.gates := rfl
@[simp] theorem State.upTo_releases (t : Nat) (s : State) : (s.upTo t).releases = s.releases := rfl
@[simp] theorem State.draw_releases (s : State) : s.draw.2.releases = s.releases := rfl
@[simp] theorem State.upTo_hens (t : Nat) (s : State) : (s.upTo t).hens = s.hens := rfl
@[simp] theorem State.draw_hens (s : State) : s.draw.2.hens = s.hens := rfl
@[simp] theorem State.upTo_clus (t : Nat) (s : State) : (s.upTo t).clus = s.clus := rfl
@[simp] theorem State.draw_clus (s : State) : s.draw.2.clus = s.clus := rfl
@[simp] theorem State.upTo_routers (t : Nat) (s : State) : (s.upTo t).routers = s.routers := rfl
@[simp] theorem State.draw_routers (s : State) : s.draw.2.routers = s.routers := rfl
@[simp] theorem State.upTo_irq (t : Nat) (s : State) : (s.upTo t).irq = s.irq := rfl
@[simp] theorem State.draw_irq (s : State) : s.draw.2.irq = s.irq := rfl
@[simp] theorem State.upTo_olm (t : Nat) (s : State) : (s.upTo t).olm = s.olm := rfl
@[simp] theorem State.draw_olm (s : State) : s.draw.2.olm = s.olm := rfl
@[simp] theorem State.upTo_flt (t : Nat) (s : State) : (s.upTo t).flt = s.flt := rfl
@[simp] theorem State.draw_flt (s : State) : s.draw.2.flt = s.flt := rfl
@[simp] theorem State.upTo_pwr (t : Nat) (s : State) : (s.upTo t).pwr = s.pwr := rfl
@[simp] theorem State.draw_pwr (s : State) : s.draw.2.pwr = s.pwr := rfl
@[simp] theorem State.upTo_dies (t : Nat) (s : State) : (s.upTo t).dies = s.dies := rfl
@[simp] theorem State.draw_dies (s : State) : s.draw.2.dies = s.dies := rfl
@[simp] theorem State.upTo_jobs (t : Nat) (s : State) : (s.upTo t).jobs = s.jobs := rfl
@[simp] theorem State.draw_jobs (s : State) : s.draw.2.jobs = s.jobs := rfl
@[simp] theorem State.upTo_oxs (t : Nat) (s : State) : (s.upTo t).oxs = s.oxs := rfl
@[simp] theorem State.draw_oxs (s : State) : s.draw.2.oxs = s.oxs := rfl
@[simp] theorem State.upTo_fit (t : Nat) (s : State) : (s.upTo t).fit = s.fit := rfl
@[simp] theorem State.draw_fit (s : State) : s.draw.2.fit = s.fit := rfl
@[simp] theorem State.upTo_arrs (t : Nat) (s : State) : (s.upTo t).arrs = s.arrs := rfl
@[simp] theorem State.draw_arrs (s : State) : s.draw.2.arrs = s.arrs := rfl
@[simp] theorem State.upTo_feed (t : Nat) (s : State) : (s.upTo t).feed = s.feed := rfl
@[simp] theorem State.draw_feed (s : State) : s.draw.2.feed = s.feed := rfl
@[simp] theorem State.upTo_returns (t : Nat) (s : State) : (s.upTo t).returns = s.returns := rfl
@[simp] theorem State.draw_returns (s : State) : s.draw.2.returns = s.returns := rfl
@[simp] theorem State.upTo_quants (t : Nat) (s : State) : (s.upTo t).quants = s.quants := rfl
@[simp] theorem State.draw_quants (s : State) : s.draw.2.quants = s.quants := rfl
@[simp] theorem State.upTo_ports (t : Nat) (s : State) : (s.upTo t).ports = s.ports := rfl
@[simp] theorem State.draw_ports (s : State) : s.draw.2.ports = s.ports := rfl
@[simp] theorem State.upTo_stamps (t : Nat) (s : State) : (s.upTo t).stamps = s.stamps := rfl
@[simp] theorem State.draw_stamps (s : State) : s.draw.2.stamps = s.stamps := rfl
@[simp] theorem State.upTo_credits (t : Nat) (s : State) : (s.upTo t).credits = s.credits := rfl
@[simp] theorem State.draw_credits (s : State) : s.draw.2.credits = s.credits := rfl
@[simp] theorem State.upTo_segs (t : Nat) (s : State) : (s.upTo t).segs = s.segs := rfl
@[simp] theorem State.draw_segs (s : State) : s.draw.2.segs = s.segs := rfl
@[simp] theorem State.upTo_histTap (t : Nat) (s : State) : (s.upTo t).histTap = s.histTap := rfl
@[simp] theorem State.draw_histTap (s : State) : s.draw.2.histTap = s.histTap := rfl
@[simp] theorem State.upTo_acqTap (t : Nat) (s : State) : (s.upTo t).acqTap = s.acqTap := rfl
@[simp] theorem State.draw_acqTap (s : State) : s.draw.2.acqTap = s.acqTap := rfl
@[simp] theorem State.upTo_goats (t : Nat) (s : State) : (s.upTo t).goats = s.goats := rfl
@[simp] theorem State.draw_goats (s : State) : s.draw.2.goats = s.goats := rfl
@[simp] theorem State.upTo_barriers (t : Nat) (s : State) : (s.upTo t).barriers = s.barriers := rfl
@[simp] theorem State.draw_barriers (s : State) : s.draw.2.barriers = s.barriers := rfl
@[simp] theorem State.upTo_hists (t : Nat) (s : State) : (s.upTo t).hists = s.hists := rfl
@[simp] theorem State.draw_hists (s : State) : s.draw.2.hists = s.hists := rfl
@[simp] theorem State.upTo_dram (t : Nat) (s : State) : (s.upTo t).dram = s.dram := rfl
@[simp] theorem State.draw_dram (s : State) : s.draw.2.dram = s.dram := rfl
@[simp] theorem State.upTo_tier2 (t : Nat) (s : State) : (s.upTo t).tier2 = s.tier2 := rfl
@[simp] theorem State.draw_tier2 (s : State) : s.draw.2.tier2 = s.tier2 := rfl
@[simp] theorem State.upTo_tevents (t : Nat) (s : State) : (s.upTo t).tevents = s.tevents := rfl
@[simp] theorem State.draw_tevents (s : State) : s.draw.2.tevents = s.tevents := rfl
@[simp] theorem State.upTo_tpins (t : Nat) (s : State) : (s.upTo t).tpins = s.tpins := rfl
@[simp] theorem State.draw_tpins (s : State) : s.draw.2.tpins = s.tpins := rfl
@[simp] theorem State.upTo_pacer (t : Nat) (s : State) : (s.upTo t).pacer = s.pacer := rfl
@[simp] theorem State.draw_pacer (s : State) : s.draw.2.pacer = s.pacer := rfl
@[simp] theorem State.upTo_vote (t : Nat) (s : State) : (s.upTo t).vote = s.vote := rfl
@[simp] theorem State.draw_vote (s : State) : s.draw.2.vote = s.vote := rfl
@[simp] theorem State.upTo_ckpts (t : Nat) (s : State) : (s.upTo t).ckpts = s.ckpts := rfl
@[simp] theorem State.draw_ckpts (s : State) : s.draw.2.ckpts = s.ckpts := rfl
@[simp] theorem State.upTo_macs (t : Nat) (s : State) : (s.upTo t).macs = s.macs := rfl
@[simp] theorem State.draw_macs (s : State) : s.draw.2.macs = s.macs := rfl
@[simp] theorem State.upTo_t1s (t : Nat) (s : State) : (s.upTo t).t1s = s.t1s := rfl
@[simp] theorem State.draw_t1s (s : State) : s.draw.2.t1s = s.t1s := rfl
@[simp] theorem State.upTo_injects (t : Nat) (s : State) : (s.upTo t).injects = s.injects := rfl
@[simp] theorem State.draw_injects (s : State) : s.draw.2.injects = s.injects := rfl
@[simp] theorem State.upTo_ptp (t : Nat) (s : State) : (s.upTo t).ptp = s.ptp := rfl
@[simp] theorem State.draw_ptp (s : State) : s.draw.2.ptp = s.ptp := rfl
@[simp] theorem State.upTo_txts (t : Nat) (s : State) : (s.upTo t).txts = s.txts := rfl
@[simp] theorem State.draw_txts (s : State) : s.draw.2.txts = s.txts := rfl
@[simp] theorem State.upTo_acq (t : Nat) (s : State) : (s.upTo t).acq = s.acq := rfl
@[simp] theorem State.draw_acq (s : State) : s.draw.2.acq = s.acq := rfl
@[simp] theorem State.upTo_lastVec (t : Nat) (s : State) : (s.upTo t).lastVec = s.lastVec := rfl
@[simp] theorem State.draw_lastVec (s : State) : s.draw.2.lastVec = s.lastVec := rfl
@[simp] theorem State.upTo_wins (t : Nat) (s : State) : (s.upTo t).wins = s.wins := rfl
@[simp] theorem State.draw_wins (s : State) : s.draw.2.wins = s.wins := rfl
@[simp] theorem State.upTo_sec (t : Nat) (s : State) : (s.upTo t).sec = s.sec := rfl
@[simp] theorem State.draw_sec (s : State) : s.draw.2.sec = s.sec := rfl
@[simp] theorem State.upTo_vault (t : Nat) (s : State) : (s.upTo t).vault = s.vault := rfl
@[simp] theorem State.draw_vault (s : State) : s.draw.2.vault = s.vault := rfl
@[simp] theorem State.upTo_switches (t : Nat) (s : State) : (s.upTo t).switches = s.switches := rfl
@[simp] theorem State.draw_switches (s : State) : s.draw.2.switches = s.switches := rfl
@[simp] theorem State.upTo_issued (t : Nat) (s : State) : (s.upTo t).issued = s.issued := rfl
@[simp] theorem State.draw_issued (s : State) : s.draw.2.issued = s.issued := rfl
@[simp] theorem State.upTo_frozen (t : Nat) (s : State) : (s.upTo t).frozen = s.frozen := rfl
@[simp] theorem State.draw_frozen (s : State) : s.draw.2.frozen = s.frozen := rfl
@[simp] theorem State.upTo_installs (t : Nat) (s : State) : (s.upTo t).installs = s.installs := rfl
@[simp] theorem State.draw_installs (s : State) : s.draw.2.installs = s.installs := rfl
@[simp] theorem State.upTo_tap (t : Nat) (s : State) : (s.upTo t).tap = s.tap := rfl
@[simp] theorem State.draw_tap (s : State) : s.draw.2.tap = s.tap := rfl
@[simp] theorem State.upTo_boot (t : Nat) (s : State) : (s.upTo t).boot = s.boot := rfl
@[simp] theorem State.draw_boot (s : State) : s.draw.2.boot = s.boot := rfl

/-! ### What each operation does to its own field -/

@[simp] theorem State.wr_regs (s : State) (x : Fld) (idx : List Nat) (v : Nat) : (s.wr x idx v).regs = s.regs.wr x idx v := rfl
@[simp] theorem State.add_regs (s : State) (x : Fld) (idx : List Nat) (n : Nat) : (s.add x idx n).regs = s.regs.add x idx n := rfl
@[simp] theorem State.bump_regs (s : State) (x : Fld) (idx : List Nat) : (s.bump x idx).regs = s.regs.add x idx 1 := rfl
@[simp] theorem State.addWrap_regs (s : State) (x : Fld) (idx : List Nat) (n : Nat) : (s.addWrap x idx n).regs = s.regs.addWrap x idx n := rfl
@[simp] theorem State.setRaw_regs (s : State) (r : Reg) (idx : List Nat) (v : Nat) :
    (s.setRaw r idx v).regs = s.regs.setRaw r idx (BitVec.ofNat 64 v) := rfl
@[simp] theorem State.emit_out (s : State) (o : Out) : (s.emit o).out = s.out ++ [o] := rfl
@[simp] theorem State.send_inFlight (s : State) (f : Flit) : (s.send f).inFlight = s.inFlight ++ [f] := rfl
@[simp] theorem State.sendAll_inFlight (s : State) (fs : List Flit) : (s.sendAll fs).inFlight = s.inFlight ++ fs := rfl
@[simp] theorem State.upTo_now (t : Nat) (s : State) : (s.upTo t).now = max s.now t := rfl
@[simp] theorem State.draw_fresh (s : State) : s.draw.2.fresh = s.fresh + 1 := rfl
@[simp] theorem State.setTier1_dram (s : State) (n : Nat) (m : Sparse Byte) : (s.setTier1 n m).dram = Sparse.set [] s.dram n m := rfl

/-! ### Reading back the field just set -/

theorem State.rd_eq (s : State) (x : Fld) (idx : List Nat) : s.rd x idx = s.regs.rd x idx := rfl
theorem State.flag_eq (s : State) (x : Fld) (idx : List Nat) : s.flag x idx = (s.regs.rd x idx == 1) := rfl


/-- A field just set reads back, cut to its width. -/
theorem State.rd_wr_same {s : State} (x : Fld) (idx : List Nat) (v : Nat) (h : Sparse.sorted s.regs = true) (hw : x.lo + x.w ≤ 64) :
    (s.wr x idx v).rd x idx = v % 2 ^ x.w := RegFile.rd_wr_same x idx v h hw

/-- A field of a register at another address stands. -/
theorem State.rd_wr_other (s : State) (x y : Fld) (idx jdx : List Nat) (v : Nat) (h : y.reg.addr jdx ≠ x.reg.addr idx) :
    (s.wr x idx v).rd y jdx = s.rd y jdx := RegFile.rd_wr_other _ x y idx jdx v h

/-- A counter just raised reads one more, until all ones. -/
theorem State.rd_bump_same {s : State} (x : Fld) (idx : List Nat) (h : Sparse.sorted s.regs = true) (hw : x.lo + x.w ≤ 64) :
    (s.bump x idx).rd x idx = min (s.rd x idx + 1) (2 ^ x.w - 1) := by
  have e : (s.bump x idx).rd x idx = min (s.rd x idx + 1) (2 ^ x.w - 1) % 2 ^ x.w :=
    RegFile.rd_wr_same x idx (min (s.regs.rd x idx + 1) (2 ^ x.w - 1)) h hw
  rw [e, Nat.mod_eq_of_lt]
  have := Nat.two_pow_pos x.w
  omega

theorem State.sorted_wr {s : State} (x : Fld) (idx : List Nat) (v : Nat) (h : Sparse.sorted s.regs = true) :
    Sparse.sorted (s.wr x idx v).regs = true := RegFile.sorted_wr x idx v h

end Sys2Proof.Machine
end

