-- ==== Sys2Proof/Laws/Hens.lean ====
section
/-!
SUPPORT. Lanes of a 64-bit register, and what the shared operations of a hen's contexts can do.
-/
namespace Sys2Proof.Machine

/-! ### Lanes -/

/-- The word that `mapLanes` builds, lane by lane from the lowest. -/
def laneSum (b : Nat) (f : Nat → Nat) : Nat → Nat
  | 0 => 0
  | n + 1 => laneSum b f n + f n % 2 ^ b * 2 ^ (n * b)

theorem foldr_laneSum (b : Nat) (f : Nat → Nat) (n a : Nat) :
    (List.range n).foldr (fun j acc => acc + f j % 2 ^ b * 2 ^ (j * b)) a = a + laneSum b f n := by
  induction n generalizing a with
  | zero => rfl
  | succ n ih => rw [List.range_succ, List.foldr_append, List.foldr_cons, List.foldr_nil, ih, laneSum]; omega

theorem laneSum_lt (b : Nat) (f : Nat → Nat) (n : Nat) : laneSum b f n < 2 ^ (n * b) := by
  induction n with
  | zero => simp [laneSum]
  | succ n ih =>
    have h1 : f n % 2 ^ b < 2 ^ b := Nat.mod_lt _ (Nat.two_pow_pos b)
    have h2 : f n % 2 ^ b * 2 ^ (n * b) + 2 ^ (n * b) ≤ 2 ^ ((n + 1) * b) := by
      rw [Nat.add_mul, Nat.one_mul, Nat.pow_add, Nat.mul_comm (2 ^ (n * b))]
      calc f n % 2 ^ b * 2 ^ (n * b) + 2 ^ (n * b) = (f n % 2 ^ b + 1) * 2 ^ (n * b) := by rw [Nat.add_mul, Nat.one_mul]
        _ ≤ _ := Nat.mul_le_mul_right _ h1
    rw [laneSum]; omega

theorem lane_laneSum (b : Nat) (f : Nat → Nat) (n j : Nat) (h : j < n) : lane b j (laneSum b f n) = f j % 2 ^ b := by
  induction n with
  | zero => omega
  | succ n ih =>
    rw [laneSum]
    unfold lane bitsOf
    by_cases hj : j = n
    · subst hj
      rw [Nat.add_mul_div_right _ _ (Nat.two_pow_pos _), Nat.div_eq_of_lt (laneSum_lt b f j), Nat.zero_add, Nat.mod_mod]
    · have hjn : j < n := by omega
      have e : 2 ^ (n * b) = 2 ^ ((n - j - 1) * b) * 2 ^ b * 2 ^ (j * b) := by
        rw [← Nat.pow_add, ← Nat.pow_add]; congr 1
        have : n = (n - j - 1) + 1 + j := by omega
        conv => lhs; rw [this]
        rw [Nat.add_mul, Nat.add_mul, Nat.one_mul]
      rw [e, ← Nat.mul_assoc, Nat.add_mul_div_right _ _ (Nat.two_pow_pos _), ← Nat.mul_assoc, Nat.add_mul_mod_self_right]
      exact ih hjn

/-- A lane of a word built lane by lane. -/
theorem lane_mapLanes (b : Nat) (f : Nat → Nat) (j : Nat) (h : j < 64 / b) : lane b j ((BitVec.ofNat 64 (mapLanes b f)).toNat) = f j % 2 ^ b := by
  have e : mapLanes b f = laneSum b f (64 / b) := by unfold mapLanes; rw [foldr_laneSum]; omega
  have hb : 64 / b * b ≤ 64 := Nat.div_mul_le_self 64 b
  have hlt : laneSum b f (64 / b) < 2 ^ 64 := Nat.lt_of_lt_of_le (laneSum_lt b f _) (Nat.pow_le_pow_right (by decide) hb)
  rw [BitVec.toNat_ofNat, e, Nat.mod_eq_of_lt hlt, lane_laneSum _ _ _ _ h]

theorem lane_lt (b j x : Nat) : lane b j x < 2 ^ b := bitsOf_lt _ _ _


/-! ### Fields of one register -/

theorem setBits_parts (n lo w v : Nat) :
    setBits n lo w v = n / 2 ^ (lo + w) * 2 ^ (lo + w) + v % 2 ^ w * 2 ^ lo + n % 2 ^ lo := by
  unfold setBits bitsOf
  have h1 := Nat.div_add_mod n (2 ^ lo)
  have h2 := Nat.div_add_mod (n / 2 ^ lo) (2 ^ w)
  rw [Nat.div_div_eq_div_mul, ← Nat.pow_add] at h2
  rw [← h2, Nat.mul_add, ← Nat.mul_assoc, ← Nat.pow_add] at h1
  rw [Nat.mul_comm (n / 2 ^ (lo + w)), Nat.mul_comm (n / 2 ^ lo % 2 ^ w) (2 ^ lo)]
  omega

theorem bitsOf_mod {n l k lo : Nat} (h : l + k ≤ lo) : bitsOf (n % 2 ^ lo) l k = bitsOf n l k := by
  unfold bitsOf
  have e : 2 ^ lo = 2 ^ l * 2 ^ (lo - l) := by rw [← Nat.pow_add]; congr 1; omega
  rw [e, Nat.mod_mul_right_div_self]
  exact Nat.mod_mod_of_dvd _ (Nat.pow_dvd_pow 2 (by omega))

theorem bitsOf_div {n l k h : Nat} (e : h ≤ l) : bitsOf (n / 2 ^ h) (l - h) k = bitsOf n l k := by
  unfold bitsOf
  rw [Nat.div_div_eq_div_mul, ← Nat.pow_add]
  congr 3; omega

/-- A field that lies apart from the one set stands. -/
theorem bitsOf_setBits_apart {n lo w v l k : Nat} (h : l + k ≤ lo ∨ lo + w ≤ l) :
    bitsOf (setBits n lo w v) l k = bitsOf n l k := by
  rcases h with h | h
  · rw [← bitsOf_mod h, ← bitsOf_mod (n := n) h]
    congr 1
    rw [setBits_parts, Nat.pow_add]
    have : n / (2 ^ lo * 2 ^ w) * (2 ^ lo * 2 ^ w) + v % 2 ^ w * 2 ^ lo + n % 2 ^ lo
        = 2 ^ lo * (n / (2 ^ lo * 2 ^ w) * 2 ^ w + v % 2 ^ w) + n % 2 ^ lo := by
      rw [Nat.mul_add, Nat.mul_comm (v % 2 ^ w), ← Nat.mul_assoc, Nat.mul_left_comm, ← Nat.mul_assoc]
    rw [this, Nat.mul_add_mod, Nat.mod_mod]
  · rw [← bitsOf_div h, ← bitsOf_div (n := n) h]
    congr 1
    rw [setBits_parts, Nat.add_assoc]
    have hlt : v % 2 ^ w * 2 ^ lo + n % 2 ^ lo < 2 ^ (lo + w) := by
      have h1 : v % 2 ^ w < 2 ^ w := Nat.mod_lt _ (Nat.two_pow_pos w)
      have h2 : n % 2 ^ lo < 2 ^ lo := Nat.mod_lt _ (Nat.two_pow_pos lo)
      have h3 : (v % 2 ^ w + 1) * 2 ^ lo ≤ 2 ^ w * 2 ^ lo := Nat.mul_le_mul_right _ h1
      rw [Nat.add_mul, Nat.one_mul] at h3
      rw [Nat.pow_add, Nat.mul_comm (2 ^ lo)]
      omega
    rw [Nat.mul_comm, Nat.mul_add_div (Nat.two_pow_pos _), Nat.div_eq_of_lt hlt, Nat.add_zero]

/-- A field of the same register that lies apart from the one set stands. -/
theorem RegFile.rd_wr_apart {f : RegFile} (x y : Fld) (idx : List Nat) (v : Nat) (hs : Sparse.sorted f = true)
    (hr : y.reg = x.reg) (hx : x.lo + x.w ≤ 64) (h : y.lo + y.w ≤ x.lo ∨ x.lo + x.w ≤ y.lo) :
    (f.wr x idx v).rd y idx = f.rd y idx := by
  unfold RegFile.rd RegFile.wr
  rw [hr, RegFile.raw_setRaw_same x.reg idx _ hs, BitVec.toNat_ofNat, Nat.mod_eq_of_lt (setBits_lt (BitVec.isLt _) hx),
    bitsOf_setBits_apart h]

/-! ### Contexts -/

theorem Sparse.insert_ne_nil {α : Type} (m : Sparse α) (k : Nat) (v : α) : Sparse.insert m k v ≠ [] := by
  cases m with
  | nil => simp [Sparse.insert]
  | cons p m => obtain ⟨a, w⟩ := p; simp only [Sparse.insert]; split <;> (try split) <;> simp

/-- What is set reads back, whatever the order of the table, unless it is the value of an unlisted key. -/
theorem Sparse.get_set_ne {α : Type} [DecidableEq α] {d v : α} (m : Sparse α) (k : Nat) (h : v ≠ d) :
    Sparse.get d (Sparse.set d m k v) k = v := by
  unfold Sparse.set; rw [if_neg h]; exact Sparse.get_insert_same _ _ _ _

/-- A stored context: its hen holds it, and nothing else of the hen differs. -/
theorem State.putCtx_hen (s : State) (x : CtxRef) (c : Ctx) :
    (s.putCtx x c).hen x.hen = { s.hen x.hen with ctxs := Sparse.insert (s.hen x.hen).ctxs x.ctx c } := by
  unfold State.putCtx State.putHen State.hen
  simp only [State.wr_hens]
  unfold State.setHen
  exact Sparse.get_set_ne _ _ (fun h => Sparse.insert_ne_nil _ _ _ (congrArg Hen.ctxs h))

/-- A stored context reads back. -/
theorem State.putCtx_find (s : State) (x : CtxRef) (c : Ctx) :
    Sparse.find ((s.putCtx x c).hen x.hen).ctxs x.ctx = some c := by
  rw [State.putCtx_hen]; exact Sparse.find_insert_same _ _ _

/-- Other contexts of the hen stand. -/
theorem State.putCtx_find_other (s : State) (x : CtxRef) (c : Ctx) {j : Nat} (h : j ≠ x.ctx) :
    Sparse.find ((s.putCtx x c).hen x.hen).ctxs j = Sparse.find (s.hen x.hen).ctxs j := by
  rw [State.putCtx_hen]; exact Sparse.find_insert_other _ _ h

/-- Other hens stand. -/
theorem State.putCtx_hen_other (s : State) (x : CtxRef) (c : Ctx) {g : HenRef} (h : henKey g ≠ henKey x.hen) :
    (s.putCtx x c).hen g = s.hen g := by
  unfold State.putCtx State.putHen State.hen State.setHen
  exact Sparse.get_set_other _ _ _ _ h

/-- A stored context changes hens and registers alone. -/
theorem State.putCtx_rest (s : State) (x : CtxRef) (c : Ctx) :
    s.putCtx x c = { s with hens := (s.putCtx x c).hens, regs := (s.putCtx x c).regs } := rfl

theorem State.putCtx_regs (s : State) (x : CtxRef) (c : Ctx) :
    (s.putCtx x c).regs = s.regs.wr HSTAT.live [x.hen.die, x.hen.clu, x.hen.hen] (Sparse.insert (s.hen x.hen).ctxs x.ctx c).length := rfl

/-- Away from the end of the instruction memory a context goes on at the next word. -/
theorem State.stepCtx_eq (s : State) (x : CtxRef) {c : Ctx} (h : c.pc ≠ 1023) :
    s.stepCtx x c = s.putCtx x { c with pc := c.pc + 1, wait := .ready } := by
  unfold State.stepCtx; rw [if_neg h]

/-- A ready context whose word is wanted, runnable and admitted issues: the issue is counted and the instruction acts. -/
theorem State.issue_ready {s : State} {x : CtxRef} {c : Ctx} {want : W32 → Bool} (act : Hen → Ctx → W32 → State → State)
    (h1 : s.readyCtx x = some c) (h2 : (s.hen x.hen).runnable c.pc = true) (h3 : want ((s.hen x.hen).word c.pc) = true)
    (h4 : s.mayIssue x.hen = true) :
    s.issue x want act = act (s.hen x.hen) c ((s.hen x.hen).word c.pc)
      (s.addWrap HCNT_ISSUE.issued [x.hen.die, x.hen.clu, x.hen.hen] 1) := by
  unfold State.issue
  rw [h1]
  simp only [h2, h3, h4, Bool.and_self, if_true]

end Sys2Proof.Machine
end

