-- ==== Sys2Proof/Laws/RegNames.lean ====
section
/-!
SUPPORT. Of every register its address, and of every field the register it lies in and its place.
-/
namespace Sys2Proof.Machine

theorem DIESTAT.addr_eq (a : Nat) : DIESTAT.addr [a] = 16777220 + a * 1048576 := by simp [Reg.addr, DIESTAT, Reg.allDims, Blk.dims, Blk.base, dimOffset]; try omega
theorem PARTCFG.addr_eq (a : Nat) : PARTCFG.addr [a] = 16777232 + a * 1048576 := by simp [Reg.addr, PARTCFG, Reg.allDims, Blk.dims, Blk.base, dimOffset]; try omega
theorem HSMON_CFG.addr_eq (a : Nat) : HSMON_CFG.addr [a] = 16777472 + a * 1048576 := by simp [Reg.addr, HSMON_CFG, Reg.allDims, Blk.dims, Blk.base, dimOffset]; try omega
theorem HSMON_LAST.addr_eq (a : Nat) : HSMON_LAST.addr [a] = 16777480 + a * 1048576 := by simp [Reg.addr, HSMON_LAST, Reg.allDims, Blk.dims, Blk.base, dimOffset]; try omega
theorem HSMON_CNT.addr_eq (a : Nat) : HSMON_CNT.addr [a] = 16777488 + a * 1048576 := by simp [Reg.addr, HSMON_CNT, Reg.allDims, Blk.dims, Blk.base, dimOffset]; try omega
theorem GATEPRES.addr_eq (a : Nat) : GATEPRES.addr [a] = 17629184 + a * 1048576 := by simp [Reg.addr, GATEPRES, Reg.allDims, Blk.dims, Blk.base, dimOffset]; try omega
theorem GEPOCH.addr_eq (a : Nat) : GEPOCH.addr [a] = 17629192 + a * 1048576 := by simp [Reg.addr, GEPOCH, Reg.allDims, Blk.dims, Blk.base, dimOffset]; try omega
theorem GCFG.addr_eq (a b : Nat) : GCFG.addr [a, b] = 17633280 + a * 1048576 + b * 256 := by simp [Reg.addr, GCFG, Reg.allDims, Blk.dims, Blk.base, dimOffset]; try omega
theorem GDEADLINE.addr_eq (a b : Nat) : GDEADLINE.addr [a, b] = 17633284 + a * 1048576 + b * 256 := by simp [Reg.addr, GDEADLINE, Reg.allDims, Blk.dims, Blk.base, dimOffset]; try omega
theorem GSCHED_BASE.addr_eq (a b : Nat) : GSCHED_BASE.addr [a, b] = 17633288 + a * 1048576 + b * 256 := by simp [Reg.addr, GSCHED_BASE, Reg.allDims, Blk.dims, Blk.base, dimOffset]; try omega
theorem GSCHED_PERIOD.addr_eq (a b : Nat) : GSCHED_PERIOD.addr [a, b] = 17633296 + a * 1048576 + b * 256 := by simp [Reg.addr, GSCHED_PERIOD, Reg.allDims, Blk.dims, Blk.base, dimOffset]; try omega
theorem GSTAT.addr_eq (a b : Nat) : GSTAT.addr [a, b] = 17633304 + a * 1048576 + b * 256 := by simp [Reg.addr, GSTAT, Reg.allDims, Blk.dims, Blk.base, dimOffset]; try omega
theorem GSLACK_MIN.addr_eq (a b : Nat) : GSLACK_MIN.addr [a, b] = 17633308 + a * 1048576 + b * 256 := by simp [Reg.addr, GSLACK_MIN, Reg.allDims, Blk.dims, Blk.base, dimOffset]; try omega
theorem GACCEPT.addr_eq (a b : Nat) : GACCEPT.addr [a, b] = 17633312 + a * 1048576 + b * 256 := by simp [Reg.addr, GACCEPT, Reg.allDims, Blk.dims, Blk.base, dimOffset]; try omega
theorem GREJECT.addr_eq (a b : Nat) : GREJECT.addr [a, b] = 17633320 + a * 1048576 + b * 256 := by simp [Reg.addr, GREJECT, Reg.allDims, Blk.dims, Blk.base, dimOffset]; try omega
theorem HENCFG.addr_eq (a b : Nat) : HENCFG.addr [a, b] = 16975360 + a * 1048576 + b * 8192 := by simp [Reg.addr, HENCFG, Reg.allDims, Blk.dims, Blk.base, dimOffset]; try omega
theorem HSTAT.addr_eq (a b c : Nat) : HSTAT.addr [a, b, c] = 16975872 + a * 1048576 + b * 8192 + c * 32 := by simp [Reg.addr, HSTAT, Reg.allDims, Blk.dims, Blk.base, dimOffset]; try omega
theorem HCNT_ISSUE.addr_eq (a b c : Nat) : HCNT_ISSUE.addr [a, b, c] = 16975880 + a * 1048576 + b * 8192 + c * 32 := by simp [Reg.addr, HCNT_ISSUE, Reg.allDims, Blk.dims, Blk.base, dimOffset]; try omega
theorem HCNT_TOKEN.addr_eq (a b c : Nat) : HCNT_TOKEN.addr [a, b, c] = 16975888 + a * 1048576 + b * 8192 + c * 32 := by simp [Reg.addr, HCNT_TOKEN, Reg.allDims, Blk.dims, Blk.base, dimOffset]; try omega
theorem HCNT_FAULT.addr_eq (a b c : Nat) : HCNT_FAULT.addr [a, b, c] = 16975892 + a * 1048576 + b * 8192 + c * 32 := by simp [Reg.addr, HCNT_FAULT, Reg.allDims, Blk.dims, Blk.base, dimOffset]; try omega
theorem HCNT_AGE.addr_eq (a b c : Nat) : HCNT_AGE.addr [a, b, c] = 16975896 + a * 1048576 + b * 8192 + c * 32 := by simp [Reg.addr, HCNT_AGE, Reg.allDims, Blk.dims, Blk.base, dimOffset]; try omega
theorem CLUSTAT.addr_eq (a b : Nat) : CLUSTAT.addr [a, b] = 16973824 + a * 1048576 + b * 8192 := by simp [Reg.addr, CLUSTAT, Reg.allDims, Blk.dims, Blk.base, dimOffset]; try omega
theorem CLUCFG.addr_eq (a b : Nat) : CLUCFG.addr [a, b] = 16973828 + a * 1048576 + b * 8192 := by simp [Reg.addr, CLUCFG, Reg.allDims, Blk.dims, Blk.base, dimOffset]; try omega
theorem SRAMWAIT.addr_eq (a b : Nat) : SRAMWAIT.addr [a, b] = 16973840 + a * 1048576 + b * 8192 := by simp [Reg.addr, SRAMWAIT, Reg.allDims, Blk.dims, Blk.base, dimOffset]; try omega
theorem SRAMECC.addr_eq (a b : Nat) : SRAMECC.addr [a, b] = 16973848 + a * 1048576 + b * 8192 := by simp [Reg.addr, SRAMECC, Reg.allDims, Blk.dims, Blk.base, dimOffset]; try omega
theorem SRAMREPAIR.addr_eq (a b : Nat) : SRAMREPAIR.addr [a, b] = 16973852 + a * 1048576 + b * 8192 := by simp [Reg.addr, SRAMREPAIR, Reg.allDims, Blk.dims, Blk.base, dimOffset]; try omega
theorem SCRUBCFG.addr_eq (a b : Nat) : SCRUBCFG.addr [a, b] = 16973856 + a * 1048576 + b * 8192 := by simp [Reg.addr, SCRUBCFG, Reg.allDims, Blk.dims, Blk.base, dimOffset]; try omega
theorem STEERSTAT.addr_eq (a b : Nat) : STEERSTAT.addr [a, b] = 16973888 + a * 1048576 + b * 8192 := by simp [Reg.addr, STEERSTAT, Reg.allDims, Blk.dims, Blk.base, dimOffset]; try omega
theorem STEERCNT.addr_eq (a b : Nat) : STEERCNT.addr [a, b] = 16973896 + a * 1048576 + b * 8192 := by simp [Reg.addr, STEERCNT, Reg.allDims, Blk.dims, Blk.base, dimOffset]; try omega
theorem STEERCFG.addr_eq (a b : Nat) : STEERCFG.addr [a, b] = 16973904 + a * 1048576 + b * 8192 := by simp [Reg.addr, STEERCFG, Reg.allDims, Blk.dims, Blk.base, dimOffset]; try omega
theorem HCREDIT_LO.addr_eq (a b c : Nat) : HCREDIT_LO.addr [a, b, c] = 16978176 + a * 1048576 + b * 8192 + c * 16 := by simp [Reg.addr, HCREDIT_LO, Reg.allDims, Blk.dims, Blk.base, dimOffset]; try omega
theorem HCREDIT_HI.addr_eq (a b c : Nat) : HCREDIT_HI.addr [a, b, c] = 16978184 + a * 1048576 + b * 8192 + c * 16 := by simp [Reg.addr, HCREDIT_HI, Reg.allDims, Blk.dims, Blk.base, dimOffset]; try omega
theorem GALCFG.addr_eq (a : Nat) : GALCFG.addr [a] = 16777728 + a * 1048576 := by simp [Reg.addr, GALCFG, Reg.allDims, Blk.dims, Blk.base, dimOffset]; try omega
theorem SLOTTAB.addr_eq (a b c e : Nat) : SLOTTAB.addr [a, b, c, e] = 16781312 + a * 1048576 + b * 256 + c * 32 + e * 4 := by simp [Reg.addr, SLOTTAB, Reg.allDims, Blk.dims, Blk.base, dimOffset]; try omega
theorem RCNT.addr_eq (a b : Nat) : RCNT.addr [a, b] = 16781536 + a * 1048576 + b * 256 := by simp [Reg.addr, RCNT, Reg.allDims, Blk.dims, Blk.base, dimOffset]; try omega
theorem ASTAT.addr_eq (a b : Nat) : ASTAT.addr [a, b] = 17563648 + a * 1048576 + b * 16384 := by simp [Reg.addr, ASTAT, Reg.allDims, Blk.dims, Blk.base, dimOffset]; try omega
theorem AFEED.addr_eq (a b : Nat) : AFEED.addr [a, b] = 17563652 + a * 1048576 + b * 16384 := by simp [Reg.addr, AFEED, Reg.allDims, Blk.dims, Blk.base, dimOffset]; try omega
theorem ASPARE.addr_eq (a b : Nat) : ASPARE.addr [a, b] = 17563656 + a * 1048576 + b * 16384 := by simp [Reg.addr, ASPARE, Reg.allDims, Blk.dims, Blk.base, dimOffset]; try omega
theorem ABALLAST.addr_eq (a b : Nat) : ABALLAST.addr [a, b] = 17563664 + a * 1048576 + b * 16384 := by simp [Reg.addr, ABALLAST, Reg.allDims, Blk.dims, Blk.base, dimOffset]; try omega
theorem ASCRUB.addr_eq (a b : Nat) : ASCRUB.addr [a, b] = 17563668 + a * 1048576 + b * 16384 := by simp [Reg.addr, ASCRUB, Reg.allDims, Blk.dims, Blk.base, dimOffset]; try omega
theorem AREPAIR.addr_eq (a b : Nat) : AREPAIR.addr [a, b] = 17563672 + a * 1048576 + b * 16384 := by simp [Reg.addr, AREPAIR, Reg.allDims, Blk.dims, Blk.base, dimOffset]; try omega
theorem ACNT_VEC.addr_eq (a b : Nat) : ACNT_VEC.addr [a, b] = 17563680 + a * 1048576 + b * 16384 := by simp [Reg.addr, ACNT_VEC, Reg.allDims, Blk.dims, Blk.base, dimOffset]; try omega
theorem ACNT_ERR.addr_eq (a b : Nat) : ACNT_ERR.addr [a, b] = 17563688 + a * 1048576 + b * 16384 := by simp [Reg.addr, ACNT_ERR, Reg.allDims, Blk.dims, Blk.base, dimOffset]; try omega
theorem ACNT_INEXACT.addr_eq (a b : Nat) : ACNT_INEXACT.addr [a, b] = 17563696 + a * 1048576 + b * 16384 := by simp [Reg.addr, ACNT_INEXACT, Reg.allDims, Blk.dims, Blk.base, dimOffset]; try omega
theorem ACNT_SAT.addr_eq (a b : Nat) : ACNT_SAT.addr [a, b] = 17563704 + a * 1048576 + b * 16384 := by simp [Reg.addr, ACNT_SAT, Reg.allDims, Blk.dims, Blk.base, dimOffset]; try omega
theorem ACNT_NAN.addr_eq (a b : Nat) : ACNT_NAN.addr [a, b] = 17563708 + a * 1048576 + b * 16384 := by simp [Reg.addr, ACNT_NAN, Reg.allDims, Blk.dims, Blk.base, dimOffset]; try omega
theorem AECC.addr_eq (a b : Nat) : AECC.addr [a, b] = 17563712 + a * 1048576 + b * 16384 := by simp [Reg.addr, AECC, Reg.allDims, Blk.dims, Blk.base, dimOffset]; try omega
theorem ACNT_BALLAST.addr_eq (a b : Nat) : ACNT_BALLAST.addr [a, b] = 17563720 + a * 1048576 + b * 16384 := by simp [Reg.addr, ACNT_BALLAST, Reg.allDims, Blk.dims, Blk.base, dimOffset]; try omega
theorem AODESC.addr_eq (a b c : Nat) : AODESC.addr [a, b, c] = 17564160 + a * 1048576 + b * 16384 + c * 8 := by simp [Reg.addr, AODESC, Reg.allDims, Blk.dims, Blk.base, dimOffset]; try omega
theorem ASETDESC.addr_eq (a b c : Nat) : ASETDESC.addr [a, b, c] = 17564672 + a * 1048576 + b * 16384 + c * 8 := by simp [Reg.addr, ASETDESC, Reg.allDims, Blk.dims, Blk.base, dimOffset]; try omega
theorem ASETMAP.addr_eq (a b c e : Nat) : ASETMAP.addr [a, b, c, e] = 17565696 + a * 1048576 + b * 16384 + c * 64 + e * 4 := by simp [Reg.addr, ASETMAP, Reg.allDims, Blk.dims, Blk.base, dimOffset]; try omega
theorem QSTAT.addr_eq (a b : Nat) : QSTAT.addr [a, b] = 16979968 + a * 1048576 + b * 8192 := by simp [Reg.addr, QSTAT, Reg.allDims, Blk.dims, Blk.base, dimOffset]; try omega
theorem QCNT.addr_eq (a b : Nat) : QCNT.addr [a, b] = 16979976 + a * 1048576 + b * 8192 := by simp [Reg.addr, QCNT, Reg.allDims, Blk.dims, Blk.base, dimOffset]; try omega
theorem QSNAP.addr_eq (a b : Nat) : QSNAP.addr [a, b] = 16981504 + a * 1048576 + b * 8192 := by simp [Reg.addr, QSNAP, Reg.allDims, Blk.dims, Blk.base, dimOffset]; try omega
theorem RCFGSTAT.addr_eq (a : Nat) : RCFGSTAT.addr [a] = 16777984 + a * 1048576 := by simp [Reg.addr, RCFGSTAT, Reg.allDims, Blk.dims, Blk.base, dimOffset]; try omega
theorem RCFGTIME.addr_eq (a : Nat) : RCFGTIME.addr [a] = 16777992 + a * 1048576 := by simp [Reg.addr, RCFGTIME, Reg.allDims, Blk.dims, Blk.base, dimOffset]; try omega
theorem PCFG.addr_eq (a b : Nat) : PCFG.addr [a, b] = 16842752 + a * 1048576 + b * 8192 := by simp [Reg.addr, PCFG, Reg.allDims, Blk.dims, Blk.base, dimOffset]; try omega
theorem PSTAT.addr_eq (a b : Nat) : PSTAT.addr [a, b] = 16842760 + a * 1048576 + b * 8192 := by simp [Reg.addr, PSTAT, Reg.allDims, Blk.dims, Blk.base, dimOffset]; try omega
theorem PTXSEQ.addr_eq (a b : Nat) : PTXSEQ.addr [a, b] = 16842768 + a * 1048576 + b * 8192 := by simp [Reg.addr, PTXSEQ, Reg.allDims, Blk.dims, Blk.base, dimOffset]; try omega
theorem PLINK_BASE.addr_eq (a b : Nat) : PLINK_BASE.addr [a, b] = 16842776 + a * 1048576 + b * 8192 := by simp [Reg.addr, PLINK_BASE, Reg.allDims, Blk.dims, Blk.base, dimOffset]; try omega
theorem PLINK_CFG.addr_eq (a b : Nat) : PLINK_CFG.addr [a, b] = 16842784 + a * 1048576 + b * 8192 := by simp [Reg.addr, PLINK_CFG, Reg.allDims, Blk.dims, Blk.base, dimOffset]; try omega
theorem PCREDIT.addr_eq (a b c : Nat) : PCREDIT.addr [a, b, c] = 16843008 + a * 1048576 + b * 8192 + c * 8 := by simp [Reg.addr, PCREDIT, Reg.allDims, Blk.dims, Blk.base, dimOffset]; try omega
theorem GTCFG.addr_eq (a b c : Nat) : GTCFG.addr [a, b, c] = 16979456 + a * 1048576 + b * 8192 + c * 128 := by simp [Reg.addr, GTCFG, Reg.allDims, Blk.dims, Blk.base, dimOffset]; try omega
theorem GTSTAT.addr_eq (a b c : Nat) : GTSTAT.addr [a, b, c] = 16979460 + a * 1048576 + b * 8192 + c * 128 := by simp [Reg.addr, GTSTAT, Reg.allDims, Blk.dims, Blk.base, dimOffset]; try omega
theorem GTCNT_RD.addr_eq (a b c : Nat) : GTCNT_RD.addr [a, b, c] = 16979464 + a * 1048576 + b * 8192 + c * 128 := by simp [Reg.addr, GTCNT_RD, Reg.allDims, Blk.dims, Blk.base, dimOffset]; try omega
theorem GTCNT_WR.addr_eq (a b c : Nat) : GTCNT_WR.addr [a, b, c] = 16979472 + a * 1048576 + b * 8192 + c * 128 := by simp [Reg.addr, GTCNT_WR, Reg.allDims, Blk.dims, Blk.base, dimOffset]; try omega
theorem GTCNT_ERR.addr_eq (a b c : Nat) : GTCNT_ERR.addr [a, b, c] = 16979480 + a * 1048576 + b * 8192 + c * 128 := by simp [Reg.addr, GTCNT_ERR, Reg.allDims, Blk.dims, Blk.base, dimOffset]; try omega
theorem GTQ.addr_eq (a b c e : Nat) : GTQ.addr [a, b, c, e] = 16979488 + a * 1048576 + b * 8192 + c * 128 + e * 4 := by simp [Reg.addr, GTQ, Reg.allDims, Blk.dims, Blk.base, dimOffset]; try omega
theorem BPACE.addr_eq (a : Nat) : BPACE.addr [a] = 16778240 + a * 1048576 := by simp [Reg.addr, BPACE, Reg.allDims, Blk.dims, Blk.base, dimOffset]; try omega
theorem T1STAT.addr_eq (a : Nat) : T1STAT.addr [a] = 17760256 + a * 1048576 := by simp [Reg.addr, T1STAT, Reg.allDims, Blk.dims, Blk.base, dimOffset]; try omega
theorem T1ECC.addr_eq (a : Nat) : T1ECC.addr [a] = 17760264 + a * 1048576 := by simp [Reg.addr, T1ECC, Reg.allDims, Blk.dims, Blk.base, dimOffset]; try omega
theorem T1ERRADDR.addr_eq (a : Nat) : T1ERRADDR.addr [a] = 17760272 + a * 1048576 := by simp [Reg.addr, T1ERRADDR, Reg.allDims, Blk.dims, Blk.base, dimOffset]; try omega
theorem T1SCRUB.addr_eq (a : Nat) : T1SCRUB.addr [a] = 17760280 + a * 1048576 := by simp [Reg.addr, T1SCRUB, Reg.allDims, Blk.dims, Blk.base, dimOffset]; try omega
theorem HISTCFG.addr_eq (a : Nat) : HISTCFG.addr [a] = 17764352 + a * 1048576 := by simp [Reg.addr, HISTCFG, Reg.allDims, Blk.dims, Blk.base, dimOffset]; try omega
theorem HISTPTR.addr_eq (a : Nat) : HISTPTR.addr [a] = 17764360 + a * 1048576 := by simp [Reg.addr, HISTPTR, Reg.allDims, Blk.dims, Blk.base, dimOffset]; try omega
theorem HISTSEQ.addr_eq (a : Nat) : HISTSEQ.addr [a] = 17764368 + a * 1048576 := by simp [Reg.addr, HISTSEQ, Reg.allDims, Blk.dims, Blk.base, dimOffset]; try omega
theorem HISTQ.addr_eq (a : Nat) : HISTQ.addr [a] = 17764376 + a * 1048576 := by simp [Reg.addr, HISTQ, Reg.allDims, Blk.dims, Blk.base, dimOffset]; try omega
theorem BARSTAT.addr_eq (a : Nat) : BARSTAT.addr [a] = 198656 + a * 8 := by simp [Reg.addr, BARSTAT, Reg.allDims, Blk.dims, Blk.base, dimOffset]; try omega
theorem BARTIMEOUT.addr_eq : BARTIMEOUT.addr [] = 198784 := by simp [Reg.addr, BARTIMEOUT, Reg.allDims, Blk.dims, Blk.base, dimOffset]; try omega
theorem BSTRAG.addr_eq : BSTRAG.addr [] = 198800 := by simp [Reg.addr, BSTRAG, Reg.allDims, Blk.dims, Blk.base, dimOffset]; try omega
theorem BSTRAG_T.addr_eq : BSTRAG_T.addr [] = 198808 := by simp [Reg.addr, BSTRAG_T, Reg.allDims, Blk.dims, Blk.base, dimOffset]; try omega
theorem DETSTAT.addr_eq : DETSTAT.addr [] = 590080 := by simp [Reg.addr, DETSTAT, Reg.allDims, Blk.dims, Blk.base, dimOffset]; try omega
theorem PROVSEQ.addr_eq : PROVSEQ.addr [] = 590088 := by simp [Reg.addr, PROVSEQ, Reg.allDims, Blk.dims, Blk.base, dimOffset]; try omega
theorem PROVRSEQ.addr_eq : PROVRSEQ.addr [] = 590096 := by simp [Reg.addr, PROVRSEQ, Reg.allDims, Blk.dims, Blk.base, dimOffset]; try omega
theorem PROVLAST.addr_eq (a : Nat) : PROVLAST.addr [a] = 590112 + a * 4 := by simp [Reg.addr, PROVLAST, Reg.allDims, Blk.dims, Blk.base, dimOffset]; try omega
theorem PROVBULK.addr_eq (a : Nat) : PROVBULK.addr [a] = 590144 + a * 4 := by simp [Reg.addr, PROVBULK, Reg.allDims, Blk.dims, Blk.base, dimOffset]; try omega
theorem HISTDIG.addr_eq (a b : Nat) : HISTDIG.addr [a, b] = 17764384 + a * 1048576 + b * 4 := by simp [Reg.addr, HISTDIG, Reg.allDims, Blk.dims, Blk.base, dimOffset]; try omega
theorem HISTDCNT.addr_eq (a : Nat) : HISTDCNT.addr [a] = 17764416 + a * 1048576 := by simp [Reg.addr, HISTDCNT, Reg.allDims, Blk.dims, Blk.base, dimOffset]; try omega
theorem TCFG.addr_eq : TCFG.addr [] = 131072 := by simp [Reg.addr, TCFG, Reg.allDims, Blk.dims, Blk.base, dimOffset]; try omega
theorem TSTAT.addr_eq : TSTAT.addr [] = 131076 := by simp [Reg.addr, TSTAT, Reg.allDims, Blk.dims, Blk.base, dimOffset]; try omega
theorem TPTP.addr_eq : TPTP.addr [] = 131328 := by simp [Reg.addr, TPTP, Reg.allDims, Blk.dims, Blk.base, dimOffset]; try omega
theorem VCFG.addr_eq : VCFG.addr [] = 196608 := by simp [Reg.addr, VCFG, Reg.allDims, Blk.dims, Blk.base, dimOffset]; try omega
theorem VSTAT.addr_eq : VSTAT.addr [] = 196612 := by simp [Reg.addr, VSTAT, Reg.allDims, Blk.dims, Blk.base, dimOffset]; try omega
theorem VTIME.addr_eq : VTIME.addr [] = 196616 := by simp [Reg.addr, VTIME, Reg.allDims, Blk.dims, Blk.base, dimOffset]; try omega
theorem VFIRE.addr_eq : VFIRE.addr [] = 196620 := by simp [Reg.addr, VFIRE, Reg.allDims, Blk.dims, Blk.base, dimOffset]; try omega
theorem VHOP0.addr_eq : VHOP0.addr [] = 196624 := by simp [Reg.addr, VHOP0, Reg.allDims, Blk.dims, Blk.base, dimOffset]; try omega
theorem VHOP1.addr_eq : VHOP1.addr [] = 196632 := by simp [Reg.addr, VHOP1, Reg.allDims, Blk.dims, Blk.base, dimOffset]; try omega
theorem VARM.addr_eq : VARM.addr [] = 196640 := by simp [Reg.addr, VARM, Reg.allDims, Blk.dims, Blk.base, dimOffset]; try omega
theorem VVOTE.addr_eq : VVOTE.addr [] = 196648 := by simp [Reg.addr, VVOTE, Reg.allDims, Blk.dims, Blk.base, dimOffset]; try omega
theorem VVMASK.addr_eq : VVMASK.addr [] = 196656 := by simp [Reg.addr, VVMASK, Reg.allDims, Blk.dims, Blk.base, dimOffset]; try omega
theorem VACT.addr_eq : VACT.addr [] = 196664 := by simp [Reg.addr, VACT, Reg.allDims, Blk.dims, Blk.base, dimOffset]; try omega
theorem VNODE.addr_eq (a : Nat) : VNODE.addr [a] = 197632 + a * 8 := by simp [Reg.addr, VNODE, Reg.allDims, Blk.dims, Blk.base, dimOffset]; try omega
theorem ACQCTL.addr_eq : ACQCTL.addr [] = 262144 := by simp [Reg.addr, ACQCTL, Reg.allDims, Blk.dims, Blk.base, dimOffset]; try omega
theorem ACQSTAT.addr_eq : ACQSTAT.addr [] = 262148 := by simp [Reg.addr, ACQSTAT, Reg.allDims, Blk.dims, Blk.base, dimOffset]; try omega
theorem ACQRATE.addr_eq : ACQRATE.addr [] = 262152 := by simp [Reg.addr, ACQRATE, Reg.allDims, Blk.dims, Blk.base, dimOffset]; try omega
theorem GWSTAT.addr_eq (a : Nat) : GWSTAT.addr [a] = 33554432 + a * 65536 := by simp [Reg.addr, GWSTAT, Reg.allDims, Blk.dims, Blk.base, dimOffset]; try omega
theorem GWLASER.addr_eq (a : Nat) : GWLASER.addr [a] = 33554440 + a * 65536 := by simp [Reg.addr, GWLASER, Reg.allDims, Blk.dims, Blk.base, dimOffset]; try omega
theorem LCFG.addr_eq (a b : Nat) : LCFG.addr [a, b] = 33587200 + a * 65536 + b * 1024 := by simp [Reg.addr, LCFG, Reg.allDims, Blk.dims, Blk.base, dimOffset]; try omega
theorem LSTAT.addr_eq (a b : Nat) : LSTAT.addr [a, b] = 33587204 + a * 65536 + b * 1024 := by simp [Reg.addr, LSTAT, Reg.allDims, Blk.dims, Blk.base, dimOffset]; try omega
theorem LOPT.addr_eq (a b : Nat) : LOPT.addr [a, b] = 33587208 + a * 65536 + b * 1024 := by simp [Reg.addr, LOPT, Reg.allDims, Blk.dims, Blk.base, dimOffset]; try omega
theorem LINJ.addr_eq (a b : Nat) : LINJ.addr [a, b] = 33587232 + a * 65536 + b * 1024 := by simp [Reg.addr, LINJ, Reg.allDims, Blk.dims, Blk.base, dimOffset]; try omega
theorem MCFG.addr_eq (a b : Nat) : MCFG.addr [a, b] = 16843776 + a * 1048576 + b * 8192 := by simp [Reg.addr, MCFG, Reg.allDims, Blk.dims, Blk.base, dimOffset]; try omega
theorem MWM.addr_eq (a b : Nat) : MWM.addr [a, b] = 16843784 + a * 1048576 + b * 8192 := by simp [Reg.addr, MWM, Reg.allDims, Blk.dims, Blk.base, dimOffset]; try omega
theorem MFILT.addr_eq (a b c : Nat) : MFILT.addr [a, b, c] = 16843840 + a * 1048576 + b * 8192 + c * 8 := by simp [Reg.addr, MFILT, Reg.allDims, Blk.dims, Blk.base, dimOffset]; try omega
theorem MRQ.addr_eq (a b c : Nat) : MRQ.addr [a, b, c] = 16844032 + a * 1048576 + b * 8192 + c * 8 := by simp [Reg.addr, MRQ, Reg.allDims, Blk.dims, Blk.base, dimOffset]; try omega
theorem MTQ.addr_eq (a b c : Nat) : MTQ.addr [a, b, c] = 16844160 + a * 1048576 + b * 8192 + c * 8 := by simp [Reg.addr, MTQ, Reg.allDims, Blk.dims, Blk.base, dimOffset]; try omega
theorem MOCC.addr_eq (a b : Nat) : MOCC.addr [a, b] = 16844416 + a * 1048576 + b * 8192 := by simp [Reg.addr, MOCC, Reg.allDims, Blk.dims, Blk.base, dimOffset]; try omega
theorem MACPAUSE.addr_eq (a : Nat) : MACPAUSE.addr [a] = 34620416 + a * 65536 := by simp [Reg.addr, MACPAUSE, Reg.allDims, Blk.dims, Blk.base, dimOffset]; try omega
theorem HOSTSTAT.addr_eq : HOSTSTAT.addr [] = 34652160 := by simp [Reg.addr, HOSTSTAT, Reg.allDims, Blk.dims, Blk.base, dimOffset]; try omega
theorem HOSTCNT.addr_eq : HOSTCNT.addr [] = 34652168 := by simp [Reg.addr, HOSTCNT, Reg.allDims, Blk.dims, Blk.base, dimOffset]; try omega
theorem CWSTATE.addr_eq (a : Nat) : CWSTATE.addr [a] = 4295024624 + a * 65536 := by simp [Reg.addr, CWSTATE, Reg.allDims, Blk.dims, Blk.base, dimOffset]; try omega
theorem CWCOMP.addr_eq (a : Nat) : CWCOMP.addr [a] = 4295024628 + a * 65536 := by simp [Reg.addr, CWCOMP, Reg.allDims, Blk.dims, Blk.base, dimOffset]; try omega
theorem CWCNT.addr_eq (a : Nat) : CWCNT.addr [a] = 4295024632 + a * 65536 := by simp [Reg.addr, CWCNT, Reg.allDims, Blk.dims, Blk.base, dimOffset]; try omega
theorem SECSTAT.addr_eq : SECSTAT.addr [] = 589824 := by simp [Reg.addr, SECSTAT, Reg.allDims, Blk.dims, Blk.base, dimOffset]; try omega
theorem SECPOLICY.addr_eq : SECPOLICY.addr [] = 589828 := by simp [Reg.addr, SECPOLICY, Reg.allDims, Blk.dims, Blk.base, dimOffset]; try omega
theorem SECFW.addr_eq : SECFW.addr [] = 589832 := by simp [Reg.addr, SECFW, Reg.allDims, Blk.dims, Blk.base, dimOffset]; try omega
theorem SECCNT.addr_eq : SECCNT.addr [] = 589840 := by simp [Reg.addr, SECCNT, Reg.allDims, Blk.dims, Blk.base, dimOffset]; try omega
theorem SECSESS.addr_eq (a : Nat) : SECSESS.addr [a] = 589856 + a * 8 := by simp [Reg.addr, SECSESS, Reg.allDims, Blk.dims, Blk.base, dimOffset]; try omega
theorem SECKEY.addr_eq (a : Nat) : SECKEY.addr [a] = 590336 + a * 8 := by simp [Reg.addr, SECKEY, Reg.allDims, Blk.dims, Blk.base, dimOffset]; try omega
theorem IPEND.addr_eq (a : Nat) : IPEND.addr [a] = 65536 + a * 4 := by simp [Reg.addr, IPEND, Reg.allDims, Blk.dims, Blk.base, dimOffset]; try omega
theorem IACTIVE.addr_eq (a : Nat) : IACTIVE.addr [a] = 66048 + a * 4 := by simp [Reg.addr, IACTIVE, Reg.allDims, Blk.dims, Blk.base, dimOffset]; try omega
theorem IMASK_HUB.addr_eq (a : Nat) : IMASK_HUB.addr [a] = 65792 + a * 4 := by simp [Reg.addr, IMASK_HUB, Reg.allDims, Blk.dims, Blk.base, dimOffset]; try omega
theorem IMASK_HOST.addr_eq (a : Nat) : IMASK_HOST.addr [a] = 65920 + a * 4 := by simp [Reg.addr, IMASK_HOST, Reg.allDims, Blk.dims, Blk.base, dimOffset]; try omega
theorem IHOLD.addr_eq (a : Nat) : IHOLD.addr [a] = 66304 + a * 4 := by simp [Reg.addr, IHOLD, Reg.allDims, Blk.dims, Blk.base, dimOffset]; try omega
theorem ICLAIM.addr_eq (a : Nat) : ICLAIM.addr [a] = 66560 + a * 8 := by simp [Reg.addr, ICLAIM, Reg.allDims, Blk.dims, Blk.base, dimOffset]; try omega
theorem ICOMPLETE.addr_eq (a : Nat) : ICOMPLETE.addr [a] = 66564 + a * 8 := by simp [Reg.addr, ICOMPLETE, Reg.allDims, Blk.dims, Blk.base, dimOffset]; try omega
theorem ISTRAY.addr_eq : ISTRAY.addr [] = 67072 := by simp [Reg.addr, ISTRAY, Reg.allDims, Blk.dims, Blk.base, dimOffset]; try omega
theorem ITGT.addr_eq (a : Nat) : ITGT.addr [a] = 69632 + a * 8 := by simp [Reg.addr, ITGT, Reg.allDims, Blk.dims, Blk.base, dimOffset]; try omega
theorem OLMSTAT.addr_eq : OLMSTAT.addr [] = 327680 := by simp [Reg.addr, OLMSTAT, Reg.allDims, Blk.dims, Blk.base, dimOffset]; try omega
theorem OLMSEL.addr_eq : OLMSEL.addr [] = 327688 := by simp [Reg.addr, OLMSEL, Reg.allDims, Blk.dims, Blk.base, dimOffset]; try omega
theorem OLMHEAD.addr_eq : OLMHEAD.addr [] = 327696 := by simp [Reg.addr, OLMHEAD, Reg.allDims, Blk.dims, Blk.base, dimOffset]; try omega
theorem OLMTAIL.addr_eq : OLMTAIL.addr [] = 327704 := by simp [Reg.addr, OLMTAIL, Reg.allDims, Blk.dims, Blk.base, dimOffset]; try omega
theorem OLMCLOCK.addr_eq : OLMCLOCK.addr [] = 327712 := by simp [Reg.addr, OLMCLOCK, Reg.allDims, Blk.dims, Blk.base, dimOffset]; try omega
theorem OLMRATE.addr_eq : OLMRATE.addr [] = 327720 := by simp [Reg.addr, OLMRATE, Reg.allDims, Blk.dims, Blk.base, dimOffset]; try omega
theorem OLMSUPP.addr_eq : OLMSUPP.addr [] = 327728 := by simp [Reg.addr, OLMSUPP, Reg.allDims, Blk.dims, Blk.base, dimOffset]; try omega
theorem OLMOVR.addr_eq (a : Nat) : OLMOVR.addr [a] = 327936 + a * 4 := by simp [Reg.addr, OLMOVR, Reg.allDims, Blk.dims, Blk.base, dimOffset]; try omega
theorem PWRSTAT.addr_eq : PWRSTAT.addr [] = 393216 := by simp [Reg.addr, PWRSTAT, Reg.allDims, Blk.dims, Blk.base, dimOffset]; try omega
theorem PWRIN.addr_eq : PWRIN.addr [] = 393224 := by simp [Reg.addr, PWRIN, Reg.allDims, Blk.dims, Blk.base, dimOffset]; try omega
theorem PWRCAP.addr_eq : PWRCAP.addr [] = 393232 := by simp [Reg.addr, PWRCAP, Reg.allDims, Blk.dims, Blk.base, dimOffset]; try omega
theorem PWRSLOPE.addr_eq : PWRSLOPE.addr [] = 393236 := by simp [Reg.addr, PWRSLOPE, Reg.allDims, Blk.dims, Blk.base, dimOffset]; try omega
theorem PWRTHERM.addr_eq : PWRTHERM.addr [] = 393248 := by simp [Reg.addr, PWRTHERM, Reg.allDims, Blk.dims, Blk.base, dimOffset]; try omega
theorem PWRDIE.addr_eq (a : Nat) : PWRDIE.addr [a] = 393472 + a * 16 := by simp [Reg.addr, PWRDIE, Reg.allDims, Blk.dims, Blk.base, dimOffset]; try omega
theorem PWRDCNT.addr_eq (a : Nat) : PWRDCNT.addr [a] = 393480 + a * 16 := by simp [Reg.addr, PWRDCNT, Reg.allDims, Blk.dims, Blk.base, dimOffset]; try omega
theorem FLTSTAT.addr_eq : FLTSTAT.addr [] = 458752 := by simp [Reg.addr, FLTSTAT, Reg.allDims, Blk.dims, Blk.base, dimOffset]; try omega
theorem FLTREP_LO.addr_eq : FLTREP_LO.addr [] = 458760 := by simp [Reg.addr, FLTREP_LO, Reg.allDims, Blk.dims, Blk.base, dimOffset]; try omega
theorem FLTREP_HI.addr_eq : FLTREP_HI.addr [] = 458764 := by simp [Reg.addr, FLTREP_HI, Reg.allDims, Blk.dims, Blk.base, dimOffset]; try omega
theorem FLTDIE.addr_eq : FLTDIE.addr [] = 458768 := by simp [Reg.addr, FLTDIE, Reg.allDims, Blk.dims, Blk.base, dimOffset]; try omega
theorem FLTCNT.addr_eq : FLTCNT.addr [] = 458776 := by simp [Reg.addr, FLTCNT, Reg.allDims, Blk.dims, Blk.base, dimOffset]; try omega
theorem FLTCMAP.addr_eq (a b : Nat) : FLTCMAP.addr [a, b] = 462848 + a * 64 + b * 4 := by simp [Reg.addr, FLTCMAP, Reg.allDims, Blk.dims, Blk.base, dimOffset]; try omega
theorem TPSEL.addr_eq (a : Nat) : TPSEL.addr [a] = 524288 + a * 8 := by simp [Reg.addr, TPSEL, Reg.allDims, Blk.dims, Blk.base, dimOffset]; try omega
theorem BOOTSTAT.addr_eq : BOOTSTAT.addr [] = 524544 := by simp [Reg.addr, BOOTSTAT, Reg.allDims, Blk.dims, Blk.base, dimOffset]; try omega
theorem RSTCAUSE.addr_eq : RSTCAUSE.addr [] = 524552 := by simp [Reg.addr, RSTCAUSE, Reg.allDims, Blk.dims, Blk.base, dimOffset]; try omega
theorem SSCCFG.addr_eq : SSCCFG.addr [] = 524800 := by simp [Reg.addr, SSCCFG, Reg.allDims, Blk.dims, Blk.base, dimOffset]; try omega
theorem GCNT_RELEASED.addr_eq (a b : Nat) : GCNT_RELEASED.addr [a, b] = 17633344 + a * 1048576 + b * 256 := by simp [Reg.addr, GCNT_RELEASED, Reg.allDims, Blk.dims, Blk.base, dimOffset]; try omega
theorem GCNT_LATE.addr_eq (a b : Nat) : GCNT_LATE.addr [a, b] = 17633352 + a * 1048576 + b * 256 := by simp [Reg.addr, GCNT_LATE, Reg.allDims, Blk.dims, Blk.base, dimOffset]; try omega
theorem GCNT_FAULT.addr_eq (a b : Nat) : GCNT_FAULT.addr [a, b] = 17633356 + a * 1048576 + b * 256 := by simp [Reg.addr, GCNT_FAULT, Reg.allDims, Blk.dims, Blk.base, dimOffset]; try omega
theorem GCNT_MASKED.addr_eq (a b : Nat) : GCNT_MASKED.addr [a, b] = 17633360 + a * 1048576 + b * 256 := by simp [Reg.addr, GCNT_MASKED, Reg.allDims, Blk.dims, Blk.base, dimOffset]; try omega
theorem GCNT_DISCARD.addr_eq (a b : Nat) : GCNT_DISCARD.addr [a, b] = 17633364 + a * 1048576 + b * 256 := by simp [Reg.addr, GCNT_DISCARD, Reg.allDims, Blk.dims, Blk.base, dimOffset]; try omega
theorem GCNT_OVERRUN.addr_eq (a b : Nat) : GCNT_OVERRUN.addr [a, b] = 17633368 + a * 1048576 + b * 256 := by simp [Reg.addr, GCNT_OVERRUN, Reg.allDims, Blk.dims, Blk.base, dimOffset]; try omega
theorem QDESC0.addr_eq (a b c : Nat) : QDESC0.addr [a, b, c] = 16980224 + a * 1048576 + b * 8192 + c * 64 := by simp [Reg.addr, QDESC0, Reg.allDims, Blk.dims, Blk.base, dimOffset]; try omega
theorem QDESC1.addr_eq (a b c : Nat) : QDESC1.addr [a, b, c] = 16980232 + a * 1048576 + b * 8192 + c * 64 := by simp [Reg.addr, QDESC1, Reg.allDims, Blk.dims, Blk.base, dimOffset]; try omega
theorem QDESC2.addr_eq (a b c : Nat) : QDESC2.addr [a, b, c] = 16980240 + a * 1048576 + b * 8192 + c * 64 := by simp [Reg.addr, QDESC2, Reg.allDims, Blk.dims, Blk.base, dimOffset]; try omega
theorem QDESC3.addr_eq (a b c : Nat) : QDESC3.addr [a, b, c] = 16980248 + a * 1048576 + b * 8192 + c * 64 := by simp [Reg.addr, QDESC3, Reg.allDims, Blk.dims, Blk.base, dimOffset]; try omega
theorem QDESC4.addr_eq (a b c : Nat) : QDESC4.addr [a, b, c] = 16980256 + a * 1048576 + b * 8192 + c * 64 := by simp [Reg.addr, QDESC4, Reg.allDims, Blk.dims, Blk.base, dimOffset]; try omega
theorem QDESC5.addr_eq (a b c : Nat) : QDESC5.addr [a, b, c] = 16980264 + a * 1048576 + b * 8192 + c * 64 := by simp [Reg.addr, QDESC5, Reg.allDims, Blk.dims, Blk.base, dimOffset]; try omega
theorem QDESC6.addr_eq (a b c : Nat) : QDESC6.addr [a, b, c] = 16980272 + a * 1048576 + b * 8192 + c * 64 := by simp [Reg.addr, QDESC6, Reg.allDims, Blk.dims, Blk.base, dimOffset]; try omega
theorem QDESC7.addr_eq (a b c : Nat) : QDESC7.addr [a, b, c] = 16980280 + a * 1048576 + b * 8192 + c * 64 := by simp [Reg.addr, QDESC7, Reg.allDims, Blk.dims, Blk.base, dimOffset]; try omega
theorem VRULE0.addr_eq (a : Nat) : VRULE0.addr [a] = 196864 + a * 32 := by simp [Reg.addr, VRULE0, Reg.allDims, Blk.dims, Blk.base, dimOffset]; try omega
theorem VRULE1.addr_eq (a : Nat) : VRULE1.addr [a] = 196872 + a * 32 := by simp [Reg.addr, VRULE1, Reg.allDims, Blk.dims, Blk.base, dimOffset]; try omega
theorem VRULE2.addr_eq (a : Nat) : VRULE2.addr [a] = 196880 + a * 32 := by simp [Reg.addr, VRULE2, Reg.allDims, Blk.dims, Blk.base, dimOffset]; try omega
theorem QSSE.addr_eq (a b c : Nat) : QSSE.addr [a, b, c] = 16981512 + a * 1048576 + b * 8192 + c * 8 := by simp [Reg.addr, QSSE, Reg.allDims, Blk.dims, Blk.base, dimOffset]; try omega
theorem QSCOUNT.addr_eq (a b : Nat) : QSCOUNT.addr [a, b] = 16981592 + a * 1048576 + b * 8192 := by simp [Reg.addr, QSCOUNT, Reg.allDims, Blk.dims, Blk.base, dimOffset]; try omega
theorem QSMAXERR.addr_eq (a b : Nat) : QSMAXERR.addr [a, b] = 16981600 + a * 1048576 + b * 8192 := by simp [Reg.addr, QSMAXERR, Reg.allDims, Blk.dims, Blk.base, dimOffset]; try omega
theorem QSSAT.addr_eq (a b : Nat) : QSSAT.addr [a, b] = 16981604 + a * 1048576 + b * 8192 := by simp [Reg.addr, QSSAT, Reg.allDims, Blk.dims, Blk.base, dimOffset]; try omega
theorem QSDEGEN.addr_eq (a b : Nat) : QSDEGEN.addr [a, b] = 16981608 + a * 1048576 + b * 8192 := by simp [Reg.addr, QSDEGEN, Reg.allDims, Blk.dims, Blk.base, dimOffset]; try omega
theorem QSNAN.addr_eq (a b : Nat) : QSNAN.addr [a, b] = 16981612 + a * 1048576 + b * 8192 := by simp [Reg.addr, QSNAN, Reg.allDims, Blk.dims, Blk.base, dimOffset]; try omega
theorem QSTENSOR.addr_eq (a b : Nat) : QSTENSOR.addr [a, b] = 16981616 + a * 1048576 + b * 8192 := by simp [Reg.addr, QSTENSOR, Reg.allDims, Blk.dims, Blk.base, dimOffset]; try omega
theorem QSSEED.addr_eq (a b : Nat) : QSSEED.addr [a, b] = 16981624 + a * 1048576 + b * 8192 := by simp [Reg.addr, QSSEED, Reg.allDims, Blk.dims, Blk.base, dimOffset]; try omega
theorem QSMIN.addr_eq (a b : Nat) : QSMIN.addr [a, b] = 16981632 + a * 1048576 + b * 8192 := by simp [Reg.addr, QSMIN, Reg.allDims, Blk.dims, Blk.base, dimOffset]; try omega
theorem QSMAX.addr_eq (a b : Nat) : QSMAX.addr [a, b] = 16981636 + a * 1048576 + b * 8192 := by simp [Reg.addr, QSMAX, Reg.allDims, Blk.dims, Blk.base, dimOffset]; try omega
theorem PCNT_FRAMES.addr_eq (a b : Nat) : PCNT_FRAMES.addr [a, b] = 16842816 + a * 1048576 + b * 8192 := by simp [Reg.addr, PCNT_FRAMES, Reg.allDims, Blk.dims, Blk.base, dimOffset]; try omega
theorem PCNT_VFAIL.addr_eq (a b : Nat) : PCNT_VFAIL.addr [a, b] = 16842824 + a * 1048576 + b * 8192 := by simp [Reg.addr, PCNT_VFAIL, Reg.allDims, Blk.dims, Blk.base, dimOffset]; try omega
theorem PCNT_HBLK.addr_eq (a b : Nat) : PCNT_HBLK.addr [a, b] = 16842832 + a * 1048576 + b * 8192 := by simp [Reg.addr, PCNT_HBLK, Reg.allDims, Blk.dims, Blk.base, dimOffset]; try omega
theorem PCNT_NOCRED.addr_eq (a b : Nat) : PCNT_NOCRED.addr [a, b] = 16842836 + a * 1048576 + b * 8192 := by simp [Reg.addr, PCNT_NOCRED, Reg.allDims, Blk.dims, Blk.base, dimOffset]; try omega
theorem PCNT_REPLY.addr_eq (a b : Nat) : PCNT_REPLY.addr [a, b] = 16842840 + a * 1048576 + b * 8192 := by simp [Reg.addr, PCNT_REPLY, Reg.allDims, Blk.dims, Blk.base, dimOffset]; try omega
theorem PCNT_PROV.addr_eq (a b : Nat) : PCNT_PROV.addr [a, b] = 16842848 + a * 1048576 + b * 8192 := by simp [Reg.addr, PCNT_PROV, Reg.allDims, Blk.dims, Blk.base, dimOffset]; try omega
theorem PCNT_STOMP.addr_eq (a b : Nat) : PCNT_STOMP.addr [a, b] = 16842852 + a * 1048576 + b * 8192 := by simp [Reg.addr, PCNT_STOMP, Reg.allDims, Blk.dims, Blk.base, dimOffset]; try omega
theorem PCNT_CANCEL.addr_eq (a b : Nat) : PCNT_CANCEL.addr [a, b] = 16842856 + a * 1048576 + b * 8192 := by simp [Reg.addr, PCNT_CANCEL, Reg.allDims, Blk.dims, Blk.base, dimOffset]; try omega
theorem PCNT_CDROP.addr_eq (a b : Nat) : PCNT_CDROP.addr [a, b] = 16842860 + a * 1048576 + b * 8192 := by simp [Reg.addr, PCNT_CDROP, Reg.allDims, Blk.dims, Blk.base, dimOffset]; try omega
theorem PCNT_SUPPR.addr_eq (a b : Nat) : PCNT_SUPPR.addr [a, b] = 16842864 + a * 1048576 + b * 8192 := by simp [Reg.addr, PCNT_SUPPR, Reg.allDims, Blk.dims, Blk.base, dimOffset]; try omega
theorem PCNT_HOLD.addr_eq (a b : Nat) : PCNT_HOLD.addr [a, b] = 16842868 + a * 1048576 + b * 8192 := by simp [Reg.addr, PCNT_HOLD, Reg.allDims, Blk.dims, Blk.base, dimOffset]; try omega
theorem PCNT_COLLIDE.addr_eq (a b : Nat) : PCNT_COLLIDE.addr [a, b] = 16842872 + a * 1048576 + b * 8192 := by simp [Reg.addr, PCNT_COLLIDE, Reg.allDims, Blk.dims, Blk.base, dimOffset]; try omega
theorem PCNT_TAPDROP.addr_eq (a b : Nat) : PCNT_TAPDROP.addr [a, b] = 16842880 + a * 1048576 + b * 8192 := by simp [Reg.addr, PCNT_TAPDROP, Reg.allDims, Blk.dims, Blk.base, dimOffset]; try omega
theorem PCNT_HCORR.addr_eq (a b : Nat) : PCNT_HCORR.addr [a, b] = 16842884 + a * 1048576 + b * 8192 := by simp [Reg.addr, PCNT_HCORR, Reg.allDims, Blk.dims, Blk.base, dimOffset]; try omega
theorem PCNT_CUT.addr_eq (a b : Nat) : PCNT_CUT.addr [a, b] = 16842828 + a * 1048576 + b * 8192 := by simp [Reg.addr, PCNT_CUT, Reg.allDims, Blk.dims, Blk.base, dimOffset]; try omega
theorem PCNT_LINK.addr_eq (a b : Nat) : PCNT_LINK.addr [a, b] = 16842876 + a * 1048576 + b * 8192 := by simp [Reg.addr, PCNT_LINK, Reg.allDims, Blk.dims, Blk.base, dimOffset]; try omega
theorem T2STAT.addr_eq (a b : Nat) : T2STAT.addr [a, b] = 34603008 + a * 65536 + b * 2048 := by simp [Reg.addr, T2STAT, Reg.allDims, Blk.dims, Blk.base, dimOffset]; try omega
theorem T2ECC.addr_eq (a b : Nat) : T2ECC.addr [a, b] = 34603016 + a * 65536 + b * 2048 := by simp [Reg.addr, T2ECC, Reg.allDims, Blk.dims, Blk.base, dimOffset]; try omega
theorem T2ERRADDR.addr_eq (a b : Nat) : T2ERRADDR.addr [a, b] = 34603024 + a * 65536 + b * 2048 := by simp [Reg.addr, T2ERRADDR, Reg.allDims, Blk.dims, Blk.base, dimOffset]; try omega
theorem TRAW.addr_eq : TRAW.addr [] = 131080 := by simp [Reg.addr, TRAW, Reg.allDims, Blk.dims, Blk.base, dimOffset]; try omega
theorem TREF.addr_eq : TREF.addr [] = 131088 := by simp [Reg.addr, TREF, Reg.allDims, Blk.dims, Blk.base, dimOffset]; try omega
theorem TBASE_LO.addr_eq : TBASE_LO.addr [] = 131096 := by simp [Reg.addr, TBASE_LO, Reg.allDims, Blk.dims, Blk.base, dimOffset]; try omega
theorem TBASE_HI.addr_eq : TBASE_HI.addr [] = 131104 := by simp [Reg.addr, TBASE_HI, Reg.allDims, Blk.dims, Blk.base, dimOffset]; try omega
theorem TADJ.addr_eq : TADJ.addr [] = 131120 := by simp [Reg.addr, TADJ, Reg.allDims, Blk.dims, Blk.base, dimOffset]; try omega
theorem TJUMP.addr_eq : TJUMP.addr [] = 131128 := by simp [Reg.addr, TJUMP, Reg.allDims, Blk.dims, Blk.base, dimOffset]; try omega
theorem TSET_LO.addr_eq : TSET_LO.addr [] = 131136 := by simp [Reg.addr, TSET_LO, Reg.allDims, Blk.dims, Blk.base, dimOffset]; try omega
theorem TSET_HI.addr_eq : TSET_HI.addr [] = 131144 := by simp [Reg.addr, TSET_HI, Reg.allDims, Blk.dims, Blk.base, dimOffset]; try omega
theorem TSNAP_RAW.addr_eq : TSNAP_RAW.addr [] = 131152 := by simp [Reg.addr, TSNAP_RAW, Reg.allDims, Blk.dims, Blk.base, dimOffset]; try omega
theorem TSNAP_LO.addr_eq : TSNAP_LO.addr [] = 131160 := by simp [Reg.addr, TSNAP_LO, Reg.allDims, Blk.dims, Blk.base, dimOffset]; try omega
theorem TSNAP_HI.addr_eq : TSNAP_HI.addr [] = 131168 := by simp [Reg.addr, TSNAP_HI, Reg.allDims, Blk.dims, Blk.base, dimOffset]; try omega
theorem TINC.addr_eq : TINC.addr [] = 131112 := by simp [Reg.addr, TINC, Reg.allDims, Blk.dims, Blk.base, dimOffset]; try omega
theorem TCNT.addr_eq : TCNT.addr [] = 131176 := by simp [Reg.addr, TCNT, Reg.allDims, Blk.dims, Blk.base, dimOffset]; try omega
theorem TECFG.addr_eq (a : Nat) : TECFG.addr [a] = 132096 + a * 32 := by simp [Reg.addr, TECFG, Reg.allDims, Blk.dims, Blk.base, dimOffset]; try omega
theorem TEBASE.addr_eq (a : Nat) : TEBASE.addr [a] = 132104 + a * 32 := by simp [Reg.addr, TEBASE, Reg.allDims, Blk.dims, Blk.base, dimOffset]; try omega
theorem TEPER.addr_eq (a : Nat) : TEPER.addr [a] = 132112 + a * 32 := by simp [Reg.addr, TEPER, Reg.allDims, Blk.dims, Blk.base, dimOffset]; try omega
theorem TEOCC.addr_eq (a : Nat) : TEOCC.addr [a] = 132120 + a * 32 := by simp [Reg.addr, TEOCC, Reg.allDims, Blk.dims, Blk.base, dimOffset]; try omega
theorem TIOCFG.addr_eq (a : Nat) : TIOCFG.addr [a] = 133120 + a * 32 := by simp [Reg.addr, TIOCFG, Reg.allDims, Blk.dims, Blk.base, dimOffset]; try omega
theorem TIOACT.addr_eq (a : Nat) : TIOACT.addr [a] = 133124 + a * 32 := by simp [Reg.addr, TIOACT, Reg.allDims, Blk.dims, Blk.base, dimOffset]; try omega
theorem TIOCAP.addr_eq (a : Nat) : TIOCAP.addr [a] = 133128 + a * 32 := by simp [Reg.addr, TIOCAP, Reg.allDims, Blk.dims, Blk.base, dimOffset]; try omega
theorem TIOCNT.addr_eq (a : Nat) : TIOCNT.addr [a] = 133136 + a * 32 := by simp [Reg.addr, TIOCNT, Reg.allDims, Blk.dims, Blk.base, dimOffset]; try omega
theorem TXTS_LO.addr_eq (a b : Nat) : TXTS_LO.addr [a, b] = 16843264 + a * 1048576 + b * 8192 := by simp [Reg.addr, TXTS_LO, Reg.allDims, Blk.dims, Blk.base, dimOffset]; try omega
theorem TXTS_HI.addr_eq (a b : Nat) : TXTS_HI.addr [a, b] = 16843272 + a * 1048576 + b * 8192 := by simp [Reg.addr, TXTS_HI, Reg.allDims, Blk.dims, Blk.base, dimOffset]; try omega
theorem TXTSSTAT.addr_eq (a b : Nat) : TXTSSTAT.addr [a, b] = 16843280 + a * 1048576 + b * 8192 := by simp [Reg.addr, TXTSSTAT, Reg.allDims, Blk.dims, Blk.base, dimOffset]; try omega
theorem TXTSDROP.addr_eq (a b : Nat) : TXTSDROP.addr [a, b] = 16843284 + a * 1048576 + b * 8192 := by simp [Reg.addr, TXTSDROP, Reg.allDims, Blk.dims, Blk.base, dimOffset]; try omega
theorem T1S_TXTS_LO.addr_eq : T1S_TXTS_LO.addr [] = 34636288 := by simp [Reg.addr, T1S_TXTS_LO, Reg.allDims, Blk.dims, Blk.base, dimOffset]; try omega
theorem T1S_TXTS_HI.addr_eq : T1S_TXTS_HI.addr [] = 34636296 := by simp [Reg.addr, T1S_TXTS_HI, Reg.allDims, Blk.dims, Blk.base, dimOffset]; try omega
theorem T1S_TXTSSTAT.addr_eq : T1S_TXTSSTAT.addr [] = 34636304 := by simp [Reg.addr, T1S_TXTSSTAT, Reg.allDims, Blk.dims, Blk.base, dimOffset]; try omega
theorem T1S_TXTSDROP.addr_eq : T1S_TXTSDROP.addr [] = 34636308 := by simp [Reg.addr, T1S_TXTSDROP, Reg.allDims, Blk.dims, Blk.base, dimOffset]; try omega
theorem VCNT_BAD.addr_eq : VCNT_BAD.addr [] = 196672 := by simp [Reg.addr, VCNT_BAD, Reg.allDims, Blk.dims, Blk.base, dimOffset]; try omega
theorem VCNT_UNKNOWN.addr_eq : VCNT_UNKNOWN.addr [] = 196676 := by simp [Reg.addr, VCNT_UNKNOWN, Reg.allDims, Blk.dims, Blk.base, dimOffset]; try omega
theorem VCNT_DISARMED.addr_eq : VCNT_DISARMED.addr [] = 196680 := by simp [Reg.addr, VCNT_DISARMED, Reg.allDims, Blk.dims, Blk.base, dimOffset]; try omega
theorem VCNT_STATUS_DROP.addr_eq : VCNT_STATUS_DROP.addr [] = 196684 := by simp [Reg.addr, VCNT_STATUS_DROP, Reg.allDims, Blk.dims, Blk.base, dimOffset]; try omega
theorem VCNT_QUEUE_DROP.addr_eq : VCNT_QUEUE_DROP.addr [] = 196688 := by simp [Reg.addr, VCNT_QUEUE_DROP, Reg.allDims, Blk.dims, Blk.base, dimOffset]; try omega
theorem VCNT_LATE_ACT.addr_eq : VCNT_LATE_ACT.addr [] = 196692 := by simp [Reg.addr, VCNT_LATE_ACT, Reg.allDims, Blk.dims, Blk.base, dimOffset]; try omega
theorem VCNT_LATE_VOTE.addr_eq : VCNT_LATE_VOTE.addr [] = 196696 := by simp [Reg.addr, VCNT_LATE_VOTE, Reg.allDims, Blk.dims, Blk.base, dimOffset]; try omega
theorem VCNT_ACT_LOST.addr_eq : VCNT_ACT_LOST.addr [] = 196704 := by simp [Reg.addr, VCNT_ACT_LOST, Reg.allDims, Blk.dims, Blk.base, dimOffset]; try omega
theorem VCNT_RETRACT.addr_eq : VCNT_RETRACT.addr [] = 196700 := by simp [Reg.addr, VCNT_RETRACT, Reg.allDims, Blk.dims, Blk.base, dimOffset]; try omega
theorem ACQDCFG.addr_eq (a : Nat) : ACQDCFG.addr [a] = 262400 + a * 64 := by simp [Reg.addr, ACQDCFG, Reg.allDims, Blk.dims, Blk.base, dimOffset]; try omega
theorem ACQDBASE.addr_eq (a : Nat) : ACQDBASE.addr [a] = 262408 + a * 64 := by simp [Reg.addr, ACQDBASE, Reg.allDims, Blk.dims, Blk.base, dimOffset]; try omega
theorem ACQDSIZE.addr_eq (a : Nat) : ACQDSIZE.addr [a] = 262416 + a * 64 := by simp [Reg.addr, ACQDSIZE, Reg.allDims, Blk.dims, Blk.base, dimOffset]; try omega
theorem ACQDRES.addr_eq (a : Nat) : ACQDRES.addr [a] = 262420 + a * 64 := by simp [Reg.addr, ACQDRES, Reg.allDims, Blk.dims, Blk.base, dimOffset]; try omega
theorem ACQDTAIL.addr_eq (a : Nat) : ACQDTAIL.addr [a] = 262424 + a * 64 := by simp [Reg.addr, ACQDTAIL, Reg.allDims, Blk.dims, Blk.base, dimOffset]; try omega
theorem ACQDETH.addr_eq (a : Nat) : ACQDETH.addr [a] = 262432 + a * 64 := by simp [Reg.addr, ACQDETH, Reg.allDims, Blk.dims, Blk.base, dimOffset]; try omega
theorem ACQDSEQ.addr_eq (a : Nat) : ACQDSEQ.addr [a] = 262440 + a * 64 := by simp [Reg.addr, ACQDSEQ, Reg.allDims, Blk.dims, Blk.base, dimOffset]; try omega
theorem ACQDPTR.addr_eq (a : Nat) : ACQDPTR.addr [a] = 262448 + a * 64 := by simp [Reg.addr, ACQDPTR, Reg.allDims, Blk.dims, Blk.base, dimOffset]; try omega
theorem ACQDCNT.addr_eq (a : Nat) : ACQDCNT.addr [a] = 262456 + a * 64 := by simp [Reg.addr, ACQDCNT, Reg.allDims, Blk.dims, Blk.base, dimOffset]; try omega
theorem ACQSCFG.addr_eq (a : Nat) : ACQSCFG.addr [a] = 266240 + a * 64 := by simp [Reg.addr, ACQSCFG, Reg.allDims, Blk.dims, Blk.base, dimOffset]; try omega
theorem ACQSWIN.addr_eq (a : Nat) : ACQSWIN.addr [a] = 266248 + a * 64 := by simp [Reg.addr, ACQSWIN, Reg.allDims, Blk.dims, Blk.base, dimOffset]; try omega
theorem ACQSTHR.addr_eq (a : Nat) : ACQSTHR.addr [a] = 266256 + a * 64 := by simp [Reg.addr, ACQSTHR, Reg.allDims, Blk.dims, Blk.base, dimOffset]; try omega
theorem ACQSSEG.addr_eq (a : Nat) : ACQSSEG.addr [a] = 266264 + a * 64 := by simp [Reg.addr, ACQSSEG, Reg.allDims, Blk.dims, Blk.base, dimOffset]; try omega
theorem ACQSSTAT.addr_eq (a : Nat) : ACQSSTAT.addr [a] = 266272 + a * 64 := by simp [Reg.addr, ACQSSTAT, Reg.allDims, Blk.dims, Blk.base, dimOffset]; try omega
theorem ACQSCNT.addr_eq (a : Nat) : ACQSCNT.addr [a] = 266280 + a * 64 := by simp [Reg.addr, ACQSCNT, Reg.allDims, Blk.dims, Blk.base, dimOffset]; try omega
theorem ACQSRATE.addr_eq (a : Nat) : ACQSRATE.addr [a] = 266288 + a * 64 := by simp [Reg.addr, ACQSRATE, Reg.allDims, Blk.dims, Blk.base, dimOffset]; try omega
theorem ACQSSHORT.addr_eq (a : Nat) : ACQSSHORT.addr [a] = 266292 + a * 64 := by simp [Reg.addr, ACQSSHORT, Reg.allDims, Blk.dims, Blk.base, dimOffset]; try omega
theorem ACQTMPL.addr_eq (a b : Nat) : ACQTMPL.addr [a, b] = 294912 + a * 128 + b * 4 := by simp [Reg.addr, ACQTMPL, Reg.allDims, Blk.dims, Blk.base, dimOffset]; try omega
theorem LPRBSBITS.addr_eq (a b : Nat) : LPRBSBITS.addr [a, b] = 33587216 + a * 65536 + b * 1024 := by simp [Reg.addr, LPRBSBITS, Reg.allDims, Blk.dims, Blk.base, dimOffset]; try omega
theorem LPRBSERR.addr_eq (a b : Nat) : LPRBSERR.addr [a, b] = 33587224 + a * 65536 + b * 1024 := by simp [Reg.addr, LPRBSERR, Reg.allDims, Blk.dims, Blk.base, dimOffset]; try omega
theorem LINJCNT.addr_eq (a b : Nat) : LINJCNT.addr [a, b] = 33587240 + a * 65536 + b * 1024 := by simp [Reg.addr, LINJCNT, Reg.allDims, Blk.dims, Blk.base, dimOffset]; try omega
theorem MRQSEQ.addr_eq (a b c : Nat) : MRQSEQ.addr [a, b, c] = 16844288 + a * 1048576 + b * 8192 + c * 8 := by simp [Reg.addr, MRQSEQ, Reg.allDims, Blk.dims, Blk.base, dimOffset]; try omega
theorem MCNT_RX.addr_eq (a b : Nat) : MCNT_RX.addr [a, b] = 16844544 + a * 1048576 + b * 8192 := by simp [Reg.addr, MCNT_RX, Reg.allDims, Blk.dims, Blk.base, dimOffset]; try omega
theorem MCNT_TX.addr_eq (a b : Nat) : MCNT_TX.addr [a, b] = 16844552 + a * 1048576 + b * 8192 := by simp [Reg.addr, MCNT_TX, Reg.allDims, Blk.dims, Blk.base, dimOffset]; try omega
theorem MCNT_FCS.addr_eq (a b : Nat) : MCNT_FCS.addr [a, b] = 16844560 + a * 1048576 + b * 8192 := by simp [Reg.addr, MCNT_FCS, Reg.allDims, Blk.dims, Blk.base, dimOffset]; try omega
theorem MCNT_SIZE.addr_eq (a b : Nat) : MCNT_SIZE.addr [a, b] = 16844564 + a * 1048576 + b * 8192 := by simp [Reg.addr, MCNT_SIZE, Reg.allDims, Blk.dims, Blk.base, dimOffset]; try omega
theorem MCNT_FILTERED.addr_eq (a b : Nat) : MCNT_FILTERED.addr [a, b] = 16844568 + a * 1048576 + b * 8192 := by simp [Reg.addr, MCNT_FILTERED, Reg.allDims, Blk.dims, Blk.base, dimOffset]; try omega
theorem MCNT_NOMEM.addr_eq (a b : Nat) : MCNT_NOMEM.addr [a, b] = 16844572 + a * 1048576 + b * 8192 := by simp [Reg.addr, MCNT_NOMEM, Reg.allDims, Blk.dims, Blk.base, dimOffset]; try omega
theorem MCNT_PAUSETX.addr_eq (a b : Nat) : MCNT_PAUSETX.addr [a, b] = 16844576 + a * 1048576 + b * 8192 := by simp [Reg.addr, MCNT_PAUSETX, Reg.allDims, Blk.dims, Blk.base, dimOffset]; try omega
theorem MCNT_PAUSERX.addr_eq (a b : Nat) : MCNT_PAUSERX.addr [a, b] = 16844580 + a * 1048576 + b * 8192 := by simp [Reg.addr, MCNT_PAUSERX, Reg.allDims, Blk.dims, Blk.base, dimOffset]; try omega
theorem MCNT_TXERR.addr_eq (a b : Nat) : MCNT_TXERR.addr [a, b] = 16844584 + a * 1048576 + b * 8192 := by simp [Reg.addr, MCNT_TXERR, Reg.allDims, Blk.dims, Blk.base, dimOffset]; try omega
theorem MCNT_RELERR.addr_eq (a b : Nat) : MCNT_RELERR.addr [a, b] = 16844588 + a * 1048576 + b * 8192 := by simp [Reg.addr, MCNT_RELERR, Reg.allDims, Blk.dims, Blk.base, dimOffset]; try omega
theorem MACADDR.addr_eq (a b : Nat) : MACADDR.addr [a, b] = 34619392 + a * 65536 + b * 8 := by simp [Reg.addr, MACADDR, Reg.allDims, Blk.dims, Blk.base, dimOffset]; try omega
theorem T1SCFG.addr_eq : T1SCFG.addr [] = 34635776 := by simp [Reg.addr, T1SCFG, Reg.allDims, Blk.dims, Blk.base, dimOffset]; try omega
theorem T1SADDR.addr_eq : T1SADDR.addr [] = 34635784 := by simp [Reg.addr, T1SADDR, Reg.allDims, Blk.dims, Blk.base, dimOffset]; try omega
theorem T1SSTAT.addr_eq : T1SSTAT.addr [] = 34635792 := by simp [Reg.addr, T1SSTAT, Reg.allDims, Blk.dims, Blk.base, dimOffset]; try omega
theorem T1SCNT.addr_eq : T1SCNT.addr [] = 34635800 := by simp [Reg.addr, T1SCNT, Reg.allDims, Blk.dims, Blk.base, dimOffset]; try omega
theorem OLMWIN.addr_eq (a : Nat) : OLMWIN.addr [a] = 328704 + a * 4 := by simp [Reg.addr, OLMWIN, Reg.allDims, Blk.dims, Blk.base, dimOffset]; try omega
theorem MSIXADDR.addr_eq (a : Nat) : MSIXADDR.addr [a] = 34660352 + a * 16 := by simp [Reg.addr, MSIXADDR, Reg.allDims, Blk.dims, Blk.base, dimOffset]; try omega
theorem MSIXDATA.addr_eq (a : Nat) : MSIXDATA.addr [a] = 34660360 + a * 16 := by simp [Reg.addr, MSIXDATA, Reg.allDims, Blk.dims, Blk.base, dimOffset]; try omega
theorem MSIXCTL.addr_eq (a : Nat) : MSIXCTL.addr [a] = 34660364 + a * 16 := by simp [Reg.addr, MSIXCTL, Reg.allDims, Blk.dims, Blk.base, dimOffset]; try omega
theorem MSIXPBA.addr_eq : MSIXPBA.addr [] = 34664448 := by simp [Reg.addr, MSIXPBA, Reg.allDims, Blk.dims, Blk.base, dimOffset]; try omega
@[simp] theorem DIESTAT.state_reg : DIESTAT.state.reg = DIESTAT := rfl
@[simp] theorem DIESTAT.state_w : DIESTAT.state.w = 2 := rfl
@[simp] theorem DIESTAT.state_lo : DIESTAT.state.lo = 0 := rfl
@[simp] theorem DIESTAT.spare_cluster_used_reg : DIESTAT.spare_cluster_used.reg = DIESTAT := rfl
@[simp] theorem DIESTAT.spare_cluster_used_w : DIESTAT.spare_cluster_used.w = 1 := rfl
@[simp] theorem DIESTAT.spare_cluster_used_lo : DIESTAT.spare_cluster_used.lo = 2 := rfl
@[simp] theorem DIESTAT.part_write_refused_reg : DIESTAT.part_write_refused.reg = DIESTAT := rfl
@[simp] theorem DIESTAT.part_write_refused_w : DIESTAT.part_write_refused.w = 1 := rfl
@[simp] theorem DIESTAT.part_write_refused_lo : DIESTAT.part_write_refused.lo = 3 := rfl
@[simp] theorem PARTCFG.prompt_clusters_reg : PARTCFG.prompt_clusters.reg = PARTCFG := rfl
@[simp] theorem PARTCFG.prompt_clusters_w : PARTCFG.prompt_clusters.w = 7 := rfl
@[simp] theorem PARTCFG.prompt_clusters_lo : PARTCFG.prompt_clusters.lo = 0 := rfl
@[simp] theorem PARTCFG.prompt_arrays_reg : PARTCFG.prompt_arrays.reg = PARTCFG := rfl
@[simp] theorem PARTCFG.prompt_arrays_w : PARTCFG.prompt_arrays.w = 3 := rfl
@[simp] theorem PARTCFG.prompt_arrays_lo : PARTCFG.prompt_arrays.lo = 7 := rfl
@[simp] theorem PARTCFG.ox_prompt_reg : PARTCFG.ox_prompt.reg = PARTCFG := rfl
@[simp] theorem PARTCFG.ox_prompt_w : PARTCFG.ox_prompt.w = 8 := rfl
@[simp] theorem PARTCFG.ox_prompt_lo : PARTCFG.ox_prompt.lo = 16 := rfl
@[simp] theorem PARTCFG.prompt_ports_reg : PARTCFG.prompt_ports.reg = PARTCFG := rfl
@[simp] theorem PARTCFG.prompt_ports_w : PARTCFG.prompt_ports.w = 16 := rfl
@[simp] theorem PARTCFG.prompt_ports_lo : PARTCFG.prompt_ports.lo = 32 := rfl
@[simp] theorem HSMON_CFG.prompt_limit_reg : HSMON_CFG.prompt_limit.reg = HSMON_CFG := rfl
@[simp] theorem HSMON_CFG.prompt_limit_w : HSMON_CFG.prompt_limit.w = 12 := rfl
@[simp] theorem HSMON_CFG.prompt_limit_lo : HSMON_CFG.prompt_limit.lo = 0 := rfl
@[simp] theorem HSMON_CFG.bulk_limit_reg : HSMON_CFG.bulk_limit.reg = HSMON_CFG := rfl
@[simp] theorem HSMON_CFG.bulk_limit_w : HSMON_CFG.bulk_limit.w = 11 := rfl
@[simp] theorem HSMON_CFG.bulk_limit_lo : HSMON_CFG.bulk_limit.lo = 16 := rfl
@[simp] theorem HSMON_CFG.lock_reg : HSMON_CFG.lock.reg = HSMON_CFG := rfl
@[simp] theorem HSMON_CFG.lock_w : HSMON_CFG.lock.w = 1 := rfl
@[simp] theorem HSMON_CFG.lock_lo : HSMON_CFG.lock.lo = 31 := rfl
@[simp] theorem HSMON_LAST.unit_class_reg : HSMON_LAST.unit_class.reg = HSMON_LAST := rfl
@[simp] theorem HSMON_LAST.unit_class_w : HSMON_LAST.unit_class.w = 8 := rfl
@[simp] theorem HSMON_LAST.unit_class_lo : HSMON_LAST.unit_class.lo = 0 := rfl
@[simp] theorem HSMON_LAST.unit_reg : HSMON_LAST.unit.reg = HSMON_LAST := rfl
@[simp] theorem HSMON_LAST.unit_w : HSMON_LAST.unit.w = 16 := rfl
@[simp] theorem HSMON_LAST.unit_lo : HSMON_LAST.unit.lo = 8 := rfl
@[simp] theorem HSMON_LAST.kind_reg : HSMON_LAST.kind.reg = HSMON_LAST := rfl
@[simp] theorem HSMON_LAST.kind_w : HSMON_LAST.kind.w = 3 := rfl
@[simp] theorem HSMON_LAST.kind_lo : HSMON_LAST.kind.lo = 24 := rfl
@[simp] theorem HSMON_LAST.prompt_reg : HSMON_LAST.prompt.reg = HSMON_LAST := rfl
@[simp] theorem HSMON_LAST.prompt_w : HSMON_LAST.prompt.w = 1 := rfl
@[simp] theorem HSMON_LAST.prompt_lo : HSMON_LAST.prompt.lo = 27 := rfl
@[simp] theorem HSMON_LAST.valid_reg : HSMON_LAST.valid.reg = HSMON_LAST := rfl
@[simp] theorem HSMON_LAST.valid_w : HSMON_LAST.valid.w = 1 := rfl
@[simp] theorem HSMON_LAST.valid_lo : HSMON_LAST.valid.lo = 31 := rfl
@[simp] theorem HSMON_LAST.when_reg : HSMON_LAST.when.reg = HSMON_LAST := rfl
@[simp] theorem HSMON_LAST.when_w : HSMON_LAST.when.w = 32 := rfl
@[simp] theorem HSMON_LAST.when_lo : HSMON_LAST.when.lo = 32 := rfl
@[simp] theorem HSMON_CNT.stalls_reg : HSMON_CNT.stalls.reg = HSMON_CNT := rfl
@[simp] theorem HSMON_CNT.stalls_w : HSMON_CNT.stalls.w = 16 := rfl
@[simp] theorem HSMON_CNT.stalls_lo : HSMON_CNT.stalls.lo = 0 := rfl
@[simp] theorem HSMON_CNT.codes_reg : HSMON_CNT.codes.reg = HSMON_CNT := rfl
@[simp] theorem HSMON_CNT.codes_w : HSMON_CNT.codes.w = 16 := rfl
@[simp] theorem HSMON_CNT.codes_lo : HSMON_CNT.codes.lo = 16 := rfl
@[simp] theorem GATEPRES.enabled_reg : GATEPRES.enabled.reg = GATEPRES := rfl
@[simp] theorem GATEPRES.enabled_w : GATEPRES.enabled.w = 64 := rfl
@[simp] theorem GATEPRES.enabled_lo : GATEPRES.enabled.lo = 0 := rfl
@[simp] theorem GEPOCH.epoch_reg : GEPOCH.epoch.reg = GEPOCH := rfl
@[simp] theorem GEPOCH.epoch_w : GEPOCH.epoch.w = 2 := rfl
@[simp] theorem GEPOCH.epoch_lo : GEPOCH.epoch.lo = 0 := rfl
@[simp] theorem GCFG.enable_reg : GCFG.enable.reg = GCFG := rfl
@[simp] theorem GCFG.enable_w : GCFG.enable.w = 1 := rfl
@[simp] theorem GCFG.enable_lo : GCFG.enable.lo = 0 := rfl
@[simp] theorem GCFG.mode_reg : GCFG.mode.reg = GCFG := rfl
@[simp] theorem GCFG.mode_w : GCFG.mode.w = 1 := rfl
@[simp] theorem GCFG.mode_lo : GCFG.mode.lo = 1 := rfl
@[simp] theorem GCFG.fallback_reg : GCFG.fallback.reg = GCFG := rfl
@[simp] theorem GCFG.fallback_w : GCFG.fallback.w = 2 := rfl
@[simp] theorem GCFG.fallback_lo : GCFG.fallback.lo = 2 := rfl
@[simp] theorem GCFG.redundancy_reg : GCFG.redundancy.reg = GCFG := rfl
@[simp] theorem GCFG.redundancy_w : GCFG.redundancy.w = 2 := rfl
@[simp] theorem GCFG.redundancy_lo : GCFG.redundancy.lo = 4 := rfl
@[simp] theorem GCFG.tokens_reg : GCFG.tokens.reg = GCFG := rfl
@[simp] theorem GCFG.tokens_w : GCFG.tokens.w = 3 := rfl
@[simp] theorem GCFG.tokens_lo : GCFG.tokens.lo = 6 := rfl
@[simp] theorem GCFG.port_reg : GCFG.port.reg = GCFG := rfl
@[simp] theorem GCFG.port_w : GCFG.port.w = 4 := rfl
@[simp] theorem GCFG.port_lo : GCFG.port.lo = 9 := rfl
@[simp] theorem GCFG.target_reg : GCFG.target.reg = GCFG := rfl
@[simp] theorem GCFG.target_w : GCFG.target.w = 1 := rfl
@[simp] theorem GCFG.target_lo : GCFG.target.lo = 13 := rfl
@[simp] theorem GCFG.dest_reg : GCFG.dest.reg = GCFG := rfl
@[simp] theorem GCFG.dest_w : GCFG.dest.w = 4 := rfl
@[simp] theorem GCFG.dest_lo : GCFG.dest.lo = 14 := rfl
@[simp] theorem GCFG.irq_reg : GCFG.irq.reg = GCFG := rfl
@[simp] theorem GCFG.irq_w : GCFG.irq.w = 1 := rfl
@[simp] theorem GCFG.irq_lo : GCFG.irq.lo = 18 := rfl
@[simp] theorem GDEADLINE.deadline_reg : GDEADLINE.deadline.reg = GDEADLINE := rfl
@[simp] theorem GDEADLINE.deadline_w : GDEADLINE.deadline.w = 16 := rfl
@[simp] theorem GDEADLINE.deadline_lo : GDEADLINE.deadline.lo = 0 := rfl
@[simp] theorem GDEADLINE.offset_reg : GDEADLINE.offset.reg = GDEADLINE := rfl
@[simp] theorem GDEADLINE.offset_w : GDEADLINE.offset.w = 11 := rfl
@[simp] theorem GDEADLINE.offset_lo : GDEADLINE.offset.lo = 16 := rfl
@[simp] theorem GSCHED_BASE.vernier_reg : GSCHED_BASE.vernier.reg = GSCHED_BASE := rfl
@[simp] theorem GSCHED_BASE.vernier_w : GSCHED_BASE.vernier.w = 3 := rfl
@[simp] theorem GSCHED_BASE.vernier_lo : GSCHED_BASE.vernier.lo = 0 := rfl
@[simp] theorem GSCHED_BASE.tick_reg : GSCHED_BASE.tick.reg = GSCHED_BASE := rfl
@[simp] theorem GSCHED_BASE.tick_w : GSCHED_BASE.tick.w = 61 := rfl
@[simp] theorem GSCHED_BASE.tick_lo : GSCHED_BASE.tick.lo = 3 := rfl
@[simp] theorem GSCHED_PERIOD.period_reg : GSCHED_PERIOD.period.reg = GSCHED_PERIOD := rfl
@[simp] theorem GSCHED_PERIOD.period_w : GSCHED_PERIOD.period.w = 32 := rfl
@[simp] theorem GSCHED_PERIOD.period_lo : GSCHED_PERIOD.period.lo = 0 := rfl
@[simp] theorem GSTAT.pending_reg : GSTAT.pending.reg = GSTAT := rfl
@[simp] theorem GSTAT.pending_w : GSTAT.pending.w = 7 := rfl
@[simp] theorem GSTAT.pending_lo : GSTAT.pending.lo = 0 := rfl
@[simp] theorem GSTAT.late_reg : GSTAT.late.reg = GSTAT := rfl
@[simp] theorem GSTAT.late_w : GSTAT.late.w = 1 := rfl
@[simp] theorem GSTAT.late_lo : GSTAT.late.lo = 7 := rfl
@[simp] theorem GSTAT.fault_reg : GSTAT.fault.reg = GSTAT := rfl
@[simp] theorem GSTAT.fault_w : GSTAT.fault.w = 1 := rfl
@[simp] theorem GSTAT.fault_lo : GSTAT.fault.lo = 8 := rfl
@[simp] theorem GSTAT.overrun_reg : GSTAT.overrun.reg = GSTAT := rfl
@[simp] theorem GSTAT.overrun_w : GSTAT.overrun.w = 1 := rfl
@[simp] theorem GSTAT.overrun_lo : GSTAT.overrun.lo = 9 := rfl
@[simp] theorem GSTAT.window_reg : GSTAT.window.reg = GSTAT := rfl
@[simp] theorem GSTAT.window_w : GSTAT.window.w = 1 := rfl
@[simp] theorem GSTAT.window_lo : GSTAT.window.lo = 10 := rfl
@[simp] theorem GSTAT.last_beat_reg : GSTAT.last_beat.reg = GSTAT := rfl
@[simp] theorem GSTAT.last_beat_w : GSTAT.last_beat.w = 16 := rfl
@[simp] theorem GSTAT.last_beat_lo : GSTAT.last_beat.lo = 16 := rfl
@[simp] theorem GSLACK_MIN.slack_reg : GSLACK_MIN.slack.reg = GSLACK_MIN := rfl
@[simp] theorem GSLACK_MIN.slack_w : GSLACK_MIN.slack.w = 16 := rfl
@[simp] theorem GSLACK_MIN.slack_lo : GSLACK_MIN.slack.lo = 0 := rfl
@[simp] theorem GACCEPT.value_reg : GACCEPT.value.reg = GACCEPT := rfl
@[simp] theorem GACCEPT.value_w : GACCEPT.value.w = 64 := rfl
@[simp] theorem GACCEPT.value_lo : GACCEPT.value.lo = 0 := rfl
@[simp] theorem GREJECT.value_reg : GREJECT.value.reg = GREJECT := rfl
@[simp] theorem GREJECT.value_w : GREJECT.value.w = 64 := rfl
@[simp] theorem GREJECT.value_lo : GREJECT.value.lo = 0 := rfl
@[simp] theorem HENCFG.age_prompt_reg : HENCFG.age_prompt.reg = HENCFG := rfl
@[simp] theorem HENCFG.age_prompt_w : HENCFG.age_prompt.w = 8 := rfl
@[simp] theorem HENCFG.age_prompt_lo : HENCFG.age_prompt.lo = 0 := rfl
@[simp] theorem HENCFG.age_bulk_reg : HENCFG.age_bulk.reg = HENCFG := rfl
@[simp] theorem HENCFG.age_bulk_w : HENCFG.age_bulk.w = 16 := rfl
@[simp] theorem HENCFG.age_bulk_lo : HENCFG.age_bulk.lo = 8 := rfl
@[simp] theorem HENCFG.lock_reg : HENCFG.lock.reg = HENCFG := rfl
@[simp] theorem HENCFG.lock_w : HENCFG.lock.w = 1 := rfl
@[simp] theorem HENCFG.lock_lo : HENCFG.lock.lo = 31 := rfl
@[simp] theorem HSTAT.live_reg : HSTAT.live.reg = HSTAT := rfl
@[simp] theorem HSTAT.live_w : HSTAT.live.w = 6 := rfl
@[simp] theorem HSTAT.live_lo : HSTAT.live.lo = 0 := rfl
@[simp] theorem HSTAT.failed_reg : HSTAT.failed.reg = HSTAT := rfl
@[simp] theorem HSTAT.failed_w : HSTAT.failed.w = 1 := rfl
@[simp] theorem HSTAT.failed_lo : HSTAT.failed.lo = 6 := rfl
@[simp] theorem HSTAT.standing_in_reg : HSTAT.standing_in.reg = HSTAT := rfl
@[simp] theorem HSTAT.standing_in_w : HSTAT.standing_in.w = 1 := rfl
@[simp] theorem HSTAT.standing_in_lo : HSTAT.standing_in.lo = 7 := rfl
@[simp] theorem HSTAT.logical_reg : HSTAT.logical.reg = HSTAT := rfl
@[simp] theorem HSTAT.logical_w : HSTAT.logical.w = 6 := rfl
@[simp] theorem HSTAT.logical_lo : HSTAT.logical.lo = 8 := rfl
@[simp] theorem HSTAT.epoch_reg : HSTAT.epoch.reg = HSTAT := rfl
@[simp] theorem HSTAT.epoch_w : HSTAT.epoch.w = 2 := rfl
@[simp] theorem HSTAT.epoch_lo : HSTAT.epoch.lo = 14 := rfl
@[simp] theorem HSTAT.fault_seen_reg : HSTAT.fault_seen.reg = HSTAT := rfl
@[simp] theorem HSTAT.fault_seen_w : HSTAT.fault_seen.w = 1 := rfl
@[simp] theorem HSTAT.fault_seen_lo : HSTAT.fault_seen.lo = 16 := rfl
@[simp] theorem HSTAT.age_drop_reg : HSTAT.age_drop.reg = HSTAT := rfl
@[simp] theorem HSTAT.age_drop_w : HSTAT.age_drop.w = 1 := rfl
@[simp] theorem HSTAT.age_drop_lo : HSTAT.age_drop.lo = 17 := rfl
@[simp] theorem HSTAT.illegal_reg : HSTAT.illegal.reg = HSTAT := rfl
@[simp] theorem HSTAT.illegal_w : HSTAT.illegal.w = 1 := rfl
@[simp] theorem HSTAT.illegal_lo : HSTAT.illegal.lo = 18 := rfl
@[simp] theorem HCNT_ISSUE.issued_reg : HCNT_ISSUE.issued.reg = HCNT_ISSUE := rfl
@[simp] theorem HCNT_ISSUE.issued_w : HCNT_ISSUE.issued.w = 64 := rfl
@[simp] theorem HCNT_ISSUE.issued_lo : HCNT_ISSUE.issued.lo = 0 := rfl
@[simp] theorem HCNT_TOKEN.discard_reg : HCNT_TOKEN.discard.reg = HCNT_TOKEN := rfl
@[simp] theorem HCNT_TOKEN.discard_w : HCNT_TOKEN.discard.w = 16 := rfl
@[simp] theorem HCNT_TOKEN.discard_lo : HCNT_TOKEN.discard.lo = 0 := rfl
@[simp] theorem HCNT_TOKEN.dup_reg : HCNT_TOKEN.dup.reg = HCNT_TOKEN := rfl
@[simp] theorem HCNT_TOKEN.dup_w : HCNT_TOKEN.dup.w = 16 := rfl
@[simp] theorem HCNT_TOKEN.dup_lo : HCNT_TOKEN.dup.lo = 16 := rfl
@[simp] theorem HCNT_FAULT.access_reg : HCNT_FAULT.access.reg = HCNT_FAULT := rfl
@[simp] theorem HCNT_FAULT.access_w : HCNT_FAULT.access.w = 16 := rfl
@[simp] theorem HCNT_FAULT.access_lo : HCNT_FAULT.access.lo = 0 := rfl
@[simp] theorem HCNT_FAULT.illegal_reg : HCNT_FAULT.illegal.reg = HCNT_FAULT := rfl
@[simp] theorem HCNT_FAULT.illegal_w : HCNT_FAULT.illegal.w = 16 := rfl
@[simp] theorem HCNT_FAULT.illegal_lo : HCNT_FAULT.illegal.lo = 16 := rfl
@[simp] theorem HCNT_AGE.drops_reg : HCNT_AGE.drops.reg = HCNT_AGE := rfl
@[simp] theorem HCNT_AGE.drops_w : HCNT_AGE.drops.w = 16 := rfl
@[simp] theorem HCNT_AGE.drops_lo : HCNT_AGE.drops.lo = 0 := rfl
@[simp] theorem HCNT_AGE.tlate_reg : HCNT_AGE.tlate.reg = HCNT_AGE := rfl
@[simp] theorem HCNT_AGE.tlate_w : HCNT_AGE.tlate.w = 16 := rfl
@[simp] theorem HCNT_AGE.tlate_lo : HCNT_AGE.tlate.lo = 16 := rfl
@[simp] theorem CLUSTAT.logical_reg : CLUSTAT.logical.reg = CLUSTAT := rfl
@[simp] theorem CLUSTAT.logical_w : CLUSTAT.logical.w = 6 := rfl
@[simp] theorem CLUSTAT.logical_lo : CLUSTAT.logical.lo = 0 := rfl
@[simp] theorem CLUSTAT.failed_reg : CLUSTAT.failed.reg = CLUSTAT := rfl
@[simp] theorem CLUSTAT.failed_w : CLUSTAT.failed.w = 1 := rfl
@[simp] theorem CLUSTAT.failed_lo : CLUSTAT.failed.lo = 6 := rfl
@[simp] theorem CLUSTAT.standing_in_reg : CLUSTAT.standing_in.reg = CLUSTAT := rfl
@[simp] theorem CLUSTAT.standing_in_w : CLUSTAT.standing_in.w = 1 := rfl
@[simp] theorem CLUSTAT.standing_in_lo : CLUSTAT.standing_in.lo = 7 := rfl
@[simp] theorem CLUSTAT.prompt_reg : CLUSTAT.prompt.reg = CLUSTAT := rfl
@[simp] theorem CLUSTAT.prompt_w : CLUSTAT.prompt.w = 1 := rfl
@[simp] theorem CLUSTAT.prompt_lo : CLUSTAT.prompt.lo = 8 := rfl
@[simp] theorem CLUSTAT.spare_hen_used_reg : CLUSTAT.spare_hen_used.reg = CLUSTAT := rfl
@[simp] theorem CLUSTAT.spare_hen_used_w : CLUSTAT.spare_hen_used.w = 1 := rfl
@[simp] theorem CLUSTAT.spare_hen_used_lo : CLUSTAT.spare_hen_used.lo = 9 := rfl
@[simp] theorem CLUSTAT.spare_hen_logical_reg : CLUSTAT.spare_hen_logical.reg = CLUSTAT := rfl
@[simp] theorem CLUSTAT.spare_hen_logical_w : CLUSTAT.spare_hen_logical.w = 6 := rfl
@[simp] theorem CLUSTAT.spare_hen_logical_lo : CLUSTAT.spare_hen_logical.lo = 10 := rfl
@[simp] theorem CLUCFG.state_subst_reg : CLUCFG.state_subst.reg = CLUCFG := rfl
@[simp] theorem CLUCFG.state_subst_w : CLUCFG.state_subst.w = 1 := rfl
@[simp] theorem CLUCFG.state_subst_lo : CLUCFG.state_subst.lo = 0 := rfl
@[simp] theorem SRAMWAIT.waits_reg : SRAMWAIT.waits.reg = SRAMWAIT := rfl
@[simp] theorem SRAMWAIT.waits_w : SRAMWAIT.waits.w = 64 := rfl
@[simp] theorem SRAMWAIT.waits_lo : SRAMWAIT.waits.lo = 0 := rfl
@[simp] theorem SRAMECC.corrected_reg : SRAMECC.corrected.reg = SRAMECC := rfl
@[simp] theorem SRAMECC.corrected_w : SRAMECC.corrected.w = 16 := rfl
@[simp] theorem SRAMECC.corrected_lo : SRAMECC.corrected.lo = 0 := rfl
@[simp] theorem SRAMECC.uncorrected_reg : SRAMECC.uncorrected.reg = SRAMECC := rfl
@[simp] theorem SRAMECC.uncorrected_w : SRAMECC.uncorrected.w = 16 := rfl
@[simp] theorem SRAMECC.uncorrected_lo : SRAMECC.uncorrected.lo = 16 := rfl
@[simp] theorem SRAMREPAIR.pending_reg : SRAMREPAIR.pending.reg = SRAMREPAIR := rfl
@[simp] theorem SRAMREPAIR.pending_w : SRAMREPAIR.pending.w = 5 := rfl
@[simp] theorem SRAMREPAIR.pending_lo : SRAMREPAIR.pending.lo = 0 := rfl
@[simp] theorem SRAMREPAIR.overflow_reg : SRAMREPAIR.overflow.reg = SRAMREPAIR := rfl
@[simp] theorem SRAMREPAIR.overflow_w : SRAMREPAIR.overflow.w = 1 := rfl
@[simp] theorem SRAMREPAIR.overflow_lo : SRAMREPAIR.overflow.lo = 5 := rfl
@[simp] theorem SCRUBCFG.period_reg : SCRUBCFG.period.reg = SCRUBCFG := rfl
@[simp] theorem SCRUBCFG.period_w : SCRUBCFG.period.w = 8 := rfl
@[simp] theorem SCRUBCFG.period_lo : SCRUBCFG.period.lo = 0 := rfl
@[simp] theorem SCRUBCFG.enable_reg : SCRUBCFG.enable.reg = SCRUBCFG := rfl
@[simp] theorem SCRUBCFG.enable_w : SCRUBCFG.enable.w = 1 := rfl
@[simp] theorem SCRUBCFG.enable_lo : SCRUBCFG.enable.lo = 31 := rfl
@[simp] theorem STEERSTAT.in_use_reg : STEERSTAT.in_use.reg = STEERSTAT := rfl
@[simp] theorem STEERSTAT.in_use_w : STEERSTAT.in_use.w = 7 := rfl
@[simp] theorem STEERSTAT.in_use_lo : STEERSTAT.in_use.lo = 0 := rfl
@[simp] theorem STEERSTAT.ahead_reg : STEERSTAT.ahead.reg = STEERSTAT := rfl
@[simp] theorem STEERSTAT.ahead_w : STEERSTAT.ahead.w = 7 := rfl
@[simp] theorem STEERSTAT.ahead_lo : STEERSTAT.ahead.lo = 8 := rfl
@[simp] theorem STEERSTAT.unmatched_reg : STEERSTAT.unmatched.reg = STEERSTAT := rfl
@[simp] theorem STEERSTAT.unmatched_w : STEERSTAT.unmatched.w = 7 := rfl
@[simp] theorem STEERSTAT.unmatched_lo : STEERSTAT.unmatched.lo = 16 := rfl
@[simp] theorem STEERSTAT.peak_reg : STEERSTAT.peak.reg = STEERSTAT := rfl
@[simp] theorem STEERSTAT.peak_w : STEERSTAT.peak.w = 7 := rfl
@[simp] theorem STEERSTAT.peak_lo : STEERSTAT.peak.lo = 24 := rfl
@[simp] theorem STEERCNT.discard_reg : STEERCNT.discard.reg = STEERCNT := rfl
@[simp] theorem STEERCNT.discard_w : STEERCNT.discard.w = 16 := rfl
@[simp] theorem STEERCNT.discard_lo : STEERCNT.discard.lo = 0 := rfl
@[simp] theorem STEERCNT.aged_reg : STEERCNT.aged.reg = STEERCNT := rfl
@[simp] theorem STEERCNT.aged_w : STEERCNT.aged.w = 16 := rfl
@[simp] theorem STEERCNT.aged_lo : STEERCNT.aged.lo = 16 := rfl
@[simp] theorem STEERCFG.channels_reg : STEERCFG.channels.reg = STEERCFG := rfl
@[simp] theorem STEERCFG.channels_w : STEERCFG.channels.w = 16 := rfl
@[simp] theorem STEERCFG.channels_lo : STEERCFG.channels.lo = 0 := rfl
@[simp] theorem HCREDIT_LO.credit0_reg : HCREDIT_LO.credit0.reg = HCREDIT_LO := rfl
@[simp] theorem HCREDIT_LO.credit0_w : HCREDIT_LO.credit0.w = 7 := rfl
@[simp] theorem HCREDIT_LO.credit0_lo : HCREDIT_LO.credit0.lo = 0 := rfl
@[simp] theorem HCREDIT_LO.credit1_reg : HCREDIT_LO.credit1.reg = HCREDIT_LO := rfl
@[simp] theorem HCREDIT_LO.credit1_w : HCREDIT_LO.credit1.w = 7 := rfl
@[simp] theorem HCREDIT_LO.credit1_lo : HCREDIT_LO.credit1.lo = 8 := rfl
@[simp] theorem HCREDIT_LO.credit2_reg : HCREDIT_LO.credit2.reg = HCREDIT_LO := rfl
@[simp] theorem HCREDIT_LO.credit2_w : HCREDIT_LO.credit2.w = 7 := rfl
@[simp] theorem HCREDIT_LO.credit2_lo : HCREDIT_LO.credit2.lo = 16 := rfl
@[simp] theorem HCREDIT_LO.credit3_reg : HCREDIT_LO.credit3.reg = HCREDIT_LO := rfl
@[simp] theorem HCREDIT_LO.credit3_w : HCREDIT_LO.credit3.w = 7 := rfl
@[simp] theorem HCREDIT_LO.credit3_lo : HCREDIT_LO.credit3.lo = 24 := rfl
@[simp] theorem HCREDIT_LO.credit4_reg : HCREDIT_LO.credit4.reg = HCREDIT_LO := rfl
@[simp] theorem HCREDIT_LO.credit4_w : HCREDIT_LO.credit4.w = 7 := rfl
@[simp] theorem HCREDIT_LO.credit4_lo : HCREDIT_LO.credit4.lo = 32 := rfl
@[simp] theorem HCREDIT_LO.credit5_reg : HCREDIT_LO.credit5.reg = HCREDIT_LO := rfl
@[simp] theorem HCREDIT_LO.credit5_w : HCREDIT_LO.credit5.w = 7 := rfl
@[simp] theorem HCREDIT_LO.credit5_lo : HCREDIT_LO.credit5.lo = 40 := rfl
@[simp] theorem HCREDIT_LO.credit6_reg : HCREDIT_LO.credit6.reg = HCREDIT_LO := rfl
@[simp] theorem HCREDIT_LO.credit6_w : HCREDIT_LO.credit6.w = 7 := rfl
@[simp] theorem HCREDIT_LO.credit6_lo : HCREDIT_LO.credit6.lo = 48 := rfl
@[simp] theorem HCREDIT_LO.credit7_reg : HCREDIT_LO.credit7.reg = HCREDIT_LO := rfl
@[simp] theorem HCREDIT_LO.credit7_w : HCREDIT_LO.credit7.w = 7 := rfl
@[simp] theorem HCREDIT_LO.credit7_lo : HCREDIT_LO.credit7.lo = 56 := rfl
@[simp] theorem HCREDIT_HI.credit0_reg : HCREDIT_HI.credit0.reg = HCREDIT_HI := rfl
@[simp] theorem HCREDIT_HI.credit0_w : HCREDIT_HI.credit0.w = 7 := rfl
@[simp] theorem HCREDIT_HI.credit0_lo : HCREDIT_HI.credit0.lo = 0 := rfl
@[simp] theorem HCREDIT_HI.credit1_reg : HCREDIT_HI.credit1.reg = HCREDIT_HI := rfl
@[simp] theorem HCREDIT_HI.credit1_w : HCREDIT_HI.credit1.w = 7 := rfl
@[simp] theorem HCREDIT_HI.credit1_lo : HCREDIT_HI.credit1.lo = 8 := rfl
@[simp] theorem HCREDIT_HI.credit2_reg : HCREDIT_HI.credit2.reg = HCREDIT_HI := rfl
@[simp] theorem HCREDIT_HI.credit2_w : HCREDIT_HI.credit2.w = 7 := rfl
@[simp] theorem HCREDIT_HI.credit2_lo : HCREDIT_HI.credit2.lo = 16 := rfl
@[simp] theorem HCREDIT_HI.credit3_reg : HCREDIT_HI.credit3.reg = HCREDIT_HI := rfl
@[simp] theorem HCREDIT_HI.credit3_w : HCREDIT_HI.credit3.w = 7 := rfl
@[simp] theorem HCREDIT_HI.credit3_lo : HCREDIT_HI.credit3.lo = 24 := rfl
@[simp] theorem HCREDIT_HI.credit4_reg : HCREDIT_HI.credit4.reg = HCREDIT_HI := rfl
@[simp] theorem HCREDIT_HI.credit4_w : HCREDIT_HI.credit4.w = 7 := rfl
@[simp] theorem HCREDIT_HI.credit4_lo : HCREDIT_HI.credit4.lo = 32 := rfl
@[simp] theorem HCREDIT_HI.credit5_reg : HCREDIT_HI.credit5.reg = HCREDIT_HI := rfl
@[simp] theorem HCREDIT_HI.credit5_w : HCREDIT_HI.credit5.w = 7 := rfl
@[simp] theorem HCREDIT_HI.credit5_lo : HCREDIT_HI.credit5.lo = 40 := rfl
@[simp] theorem HCREDIT_HI.credit6_reg : HCREDIT_HI.credit6.reg = HCREDIT_HI := rfl
@[simp] theorem HCREDIT_HI.credit6_w : HCREDIT_HI.credit6.w = 7 := rfl
@[simp] theorem HCREDIT_HI.credit6_lo : HCREDIT_HI.credit6.lo = 48 := rfl
@[simp] theorem HCREDIT_HI.credit7_reg : HCREDIT_HI.credit7.reg = HCREDIT_HI := rfl
@[simp] theorem HCREDIT_HI.credit7_w : HCREDIT_HI.credit7.w = 7 := rfl
@[simp] theorem HCREDIT_HI.credit7_lo : HCREDIT_HI.credit7.lo = 56 := rfl
@[simp] theorem GALCFG.adaptive_reg : GALCFG.adaptive.reg = GALCFG := rfl
@[simp] theorem GALCFG.adaptive_w : GALCFG.adaptive.w = 1 := rfl
@[simp] theorem GALCFG.adaptive_lo : GALCFG.adaptive.lo = 0 := rfl
@[simp] theorem GALCFG.adaptive_active_reg : GALCFG.adaptive_active.reg = GALCFG := rfl
@[simp] theorem GALCFG.adaptive_active_w : GALCFG.adaptive_active.w = 1 := rfl
@[simp] theorem GALCFG.adaptive_active_lo : GALCFG.adaptive_active.lo = 1 := rfl
@[simp] theorem SLOTTAB.owner0_reg : SLOTTAB.owner0.reg = SLOTTAB := rfl
@[simp] theorem SLOTTAB.owner0_w : SLOTTAB.owner0.w = 4 := rfl
@[simp] theorem SLOTTAB.owner0_lo : SLOTTAB.owner0.lo = 0 := rfl
@[simp] theorem SLOTTAB.owner1_reg : SLOTTAB.owner1.reg = SLOTTAB := rfl
@[simp] theorem SLOTTAB.owner1_w : SLOTTAB.owner1.w = 4 := rfl
@[simp] theorem SLOTTAB.owner1_lo : SLOTTAB.owner1.lo = 4 := rfl
@[simp] theorem SLOTTAB.owner2_reg : SLOTTAB.owner2.reg = SLOTTAB := rfl
@[simp] theorem SLOTTAB.owner2_w : SLOTTAB.owner2.w = 4 := rfl
@[simp] theorem SLOTTAB.owner2_lo : SLOTTAB.owner2.lo = 8 := rfl
@[simp] theorem SLOTTAB.owner3_reg : SLOTTAB.owner3.reg = SLOTTAB := rfl
@[simp] theorem SLOTTAB.owner3_w : SLOTTAB.owner3.w = 4 := rfl
@[simp] theorem SLOTTAB.owner3_lo : SLOTTAB.owner3.lo = 12 := rfl
@[simp] theorem SLOTTAB.owner4_reg : SLOTTAB.owner4.reg = SLOTTAB := rfl
@[simp] theorem SLOTTAB.owner4_w : SLOTTAB.owner4.w = 4 := rfl
@[simp] theorem SLOTTAB.owner4_lo : SLOTTAB.owner4.lo = 16 := rfl
@[simp] theorem SLOTTAB.owner5_reg : SLOTTAB.owner5.reg = SLOTTAB := rfl
@[simp] theorem SLOTTAB.owner5_w : SLOTTAB.owner5.w = 4 := rfl
@[simp] theorem SLOTTAB.owner5_lo : SLOTTAB.owner5.lo = 20 := rfl
@[simp] theorem SLOTTAB.owner6_reg : SLOTTAB.owner6.reg = SLOTTAB := rfl
@[simp] theorem SLOTTAB.owner6_w : SLOTTAB.owner6.w = 4 := rfl
@[simp] theorem SLOTTAB.owner6_lo : SLOTTAB.owner6.lo = 24 := rfl
@[simp] theorem SLOTTAB.owner7_reg : SLOTTAB.owner7.reg = SLOTTAB := rfl
@[simp] theorem SLOTTAB.owner7_w : SLOTTAB.owner7.w = 4 := rfl
@[simp] theorem SLOTTAB.owner7_lo : SLOTTAB.owner7.lo = 28 := rfl
@[simp] theorem RCNT.pdrop_reg : RCNT.pdrop.reg = RCNT := rfl
@[simp] theorem RCNT.pdrop_w : RCNT.pdrop.w = 32 := rfl
@[simp] theorem RCNT.pdrop_lo : RCNT.pdrop.lo = 0 := rfl
@[simp] theorem RCNT.bulk_empty_reg : RCNT.bulk_empty.reg = RCNT := rfl
@[simp] theorem RCNT.bulk_empty_w : RCNT.bulk_empty.w = 32 := rfl
@[simp] theorem RCNT.bulk_empty_lo : RCNT.bulk_empty.lo = 32 := rfl
@[simp] theorem ASTAT.failed_reg : ASTAT.failed.reg = ASTAT := rfl
@[simp] theorem ASTAT.failed_w : ASTAT.failed.w = 1 := rfl
@[simp] theorem ASTAT.failed_lo : ASTAT.failed.lo = 0 := rfl
@[simp] theorem ASTAT.fill_busy_reg : ASTAT.fill_busy.reg = ASTAT := rfl
@[simp] theorem ASTAT.fill_busy_w : ASTAT.fill_busy.w = 1 := rfl
@[simp] theorem ASTAT.fill_busy_lo : ASTAT.fill_busy.lo = 1 := rfl
@[simp] theorem ASTAT.a_valid_reg : ASTAT.a_valid.reg = ASTAT := rfl
@[simp] theorem ASTAT.a_valid_w : ASTAT.a_valid.w = 1 := rfl
@[simp] theorem ASTAT.a_valid_lo : ASTAT.a_valid.lo = 2 := rfl
@[simp] theorem ASTAT.b_valid_reg : ASTAT.b_valid.reg = ASTAT := rfl
@[simp] theorem ASTAT.b_valid_w : ASTAT.b_valid.w = 1 := rfl
@[simp] theorem ASTAT.b_valid_lo : ASTAT.b_valid.lo = 3 := rfl
@[simp] theorem ASTAT.a_fault_reg : ASTAT.a_fault.reg = ASTAT := rfl
@[simp] theorem ASTAT.a_fault_w : ASTAT.a_fault.w = 1 := rfl
@[simp] theorem ASTAT.a_fault_lo : ASTAT.a_fault.lo = 4 := rfl
@[simp] theorem ASTAT.b_fault_reg : ASTAT.b_fault.reg = ASTAT := rfl
@[simp] theorem ASTAT.b_fault_w : ASTAT.b_fault.w = 1 := rfl
@[simp] theorem ASTAT.b_fault_lo : ASTAT.b_fault.lo = 5 := rfl
@[simp] theorem ASTAT.a_set_reg : ASTAT.a_set.reg = ASTAT := rfl
@[simp] theorem ASTAT.a_set_w : ASTAT.a_set.w = 6 := rfl
@[simp] theorem ASTAT.a_set_lo : ASTAT.a_set.lo = 6 := rfl
@[simp] theorem ASTAT.b_set_reg : ASTAT.b_set.reg = ASTAT := rfl
@[simp] theorem ASTAT.b_set_w : ASTAT.b_set.w = 6 := rfl
@[simp] theorem ASTAT.b_set_lo : ASTAT.b_set.lo = 12 := rfl
@[simp] theorem ASTAT.epoch_reg : ASTAT.epoch.reg = ASTAT := rfl
@[simp] theorem ASTAT.epoch_w : ASTAT.epoch.w = 2 := rfl
@[simp] theorem ASTAT.epoch_lo : ASTAT.epoch.lo = 18 := rfl
@[simp] theorem ASTAT.prompt_reg : ASTAT.prompt.reg = ASTAT := rfl
@[simp] theorem ASTAT.prompt_w : ASTAT.prompt.w = 1 := rfl
@[simp] theorem ASTAT.prompt_lo : ASTAT.prompt.lo = 20 := rfl
@[simp] theorem AFEED.cluster_reg : AFEED.cluster.reg = AFEED := rfl
@[simp] theorem AFEED.cluster_w : AFEED.cluster.w = 6 := rfl
@[simp] theorem AFEED.cluster_lo : AFEED.cluster.lo = 0 := rfl
@[simp] theorem AFEED.enable_reg : AFEED.enable.reg = AFEED := rfl
@[simp] theorem AFEED.enable_w : AFEED.enable.w = 1 := rfl
@[simp] theorem AFEED.enable_lo : AFEED.enable.lo = 6 := rfl
@[simp] theorem ASPARE.row0_reg : ASPARE.row0.reg = ASPARE := rfl
@[simp] theorem ASPARE.row0_w : ASPARE.row0.w = 8 := rfl
@[simp] theorem ASPARE.row0_lo : ASPARE.row0.lo = 0 := rfl
@[simp] theorem ASPARE.row0_used_reg : ASPARE.row0_used.reg = ASPARE := rfl
@[simp] theorem ASPARE.row0_used_w : ASPARE.row0_used.w = 1 := rfl
@[simp] theorem ASPARE.row0_used_lo : ASPARE.row0_used.lo = 8 := rfl
@[simp] theorem ASPARE.row1_reg : ASPARE.row1.reg = ASPARE := rfl
@[simp] theorem ASPARE.row1_w : ASPARE.row1.w = 8 := rfl
@[simp] theorem ASPARE.row1_lo : ASPARE.row1.lo = 9 := rfl
@[simp] theorem ASPARE.row1_used_reg : ASPARE.row1_used.reg = ASPARE := rfl
@[simp] theorem ASPARE.row1_used_w : ASPARE.row1_used.w = 1 := rfl
@[simp] theorem ASPARE.row1_used_lo : ASPARE.row1_used.lo = 17 := rfl
@[simp] theorem ASPARE.col0_reg : ASPARE.col0.reg = ASPARE := rfl
@[simp] theorem ASPARE.col0_w : ASPARE.col0.w = 10 := rfl
@[simp] theorem ASPARE.col0_lo : ASPARE.col0.lo = 18 := rfl
@[simp] theorem ASPARE.col1_reg : ASPARE.col1.reg = ASPARE := rfl
@[simp] theorem ASPARE.col1_w : ASPARE.col1.w = 10 := rfl
@[simp] theorem ASPARE.col1_lo : ASPARE.col1.lo = 28 := rfl
@[simp] theorem ASPARE.col2_reg : ASPARE.col2.reg = ASPARE := rfl
@[simp] theorem ASPARE.col2_w : ASPARE.col2.w = 10 := rfl
@[simp] theorem ASPARE.col2_lo : ASPARE.col2.lo = 38 := rfl
@[simp] theorem ASPARE.col3_reg : ASPARE.col3.reg = ASPARE := rfl
@[simp] theorem ASPARE.col3_w : ASPARE.col3.w = 10 := rfl
@[simp] theorem ASPARE.col3_lo : ASPARE.col3.lo = 48 := rfl
@[simp] theorem ABALLAST.level_reg : ABALLAST.level.reg = ABALLAST := rfl
@[simp] theorem ABALLAST.level_w : ABALLAST.level.w = 5 := rfl
@[simp] theorem ABALLAST.level_lo : ABALLAST.level.lo = 0 := rfl
@[simp] theorem ABALLAST.ceiling_reg : ABALLAST.ceiling.reg = ABALLAST := rfl
@[simp] theorem ABALLAST.ceiling_w : ABALLAST.ceiling.w = 5 := rfl
@[simp] theorem ABALLAST.ceiling_lo : ABALLAST.ceiling.lo = 5 := rfl
@[simp] theorem ASCRUB.period_reg : ASCRUB.period.reg = ASCRUB := rfl
@[simp] theorem ASCRUB.period_w : ASCRUB.period.w = 8 := rfl
@[simp] theorem ASCRUB.period_lo : ASCRUB.period.lo = 0 := rfl
@[simp] theorem ASCRUB.enable_reg : ASCRUB.enable.reg = ASCRUB := rfl
@[simp] theorem ASCRUB.enable_w : ASCRUB.enable.w = 1 := rfl
@[simp] theorem ASCRUB.enable_lo : ASCRUB.enable.lo = 31 := rfl
@[simp] theorem AREPAIR.pending_reg : AREPAIR.pending.reg = AREPAIR := rfl
@[simp] theorem AREPAIR.pending_w : AREPAIR.pending.w = 5 := rfl
@[simp] theorem AREPAIR.pending_lo : AREPAIR.pending.lo = 0 := rfl
@[simp] theorem AREPAIR.overflow_reg : AREPAIR.overflow.reg = AREPAIR := rfl
@[simp] theorem AREPAIR.overflow_w : AREPAIR.overflow.w = 1 := rfl
@[simp] theorem AREPAIR.overflow_lo : AREPAIR.overflow.lo = 5 := rfl
@[simp] theorem ACNT_VEC.vectors_reg : ACNT_VEC.vectors.reg = ACNT_VEC := rfl
@[simp] theorem ACNT_VEC.vectors_w : ACNT_VEC.vectors.w = 64 := rfl
@[simp] theorem ACNT_VEC.vectors_lo : ACNT_VEC.vectors.lo = 0 := rfl
@[simp] theorem ACNT_ERR.discard_reg : ACNT_ERR.discard.reg = ACNT_ERR := rfl
@[simp] theorem ACNT_ERR.discard_w : ACNT_ERR.discard.w = 16 := rfl
@[simp] theorem ACNT_ERR.discard_lo : ACNT_ERR.discard.lo = 0 := rfl
@[simp] theorem ACNT_ERR.header_reg : ACNT_ERR.header.reg = ACNT_ERR := rfl
@[simp] theorem ACNT_ERR.header_w : ACNT_ERR.header.w = 16 := rfl
@[simp] theorem ACNT_ERR.header_lo : ACNT_ERR.header.lo = 16 := rfl
@[simp] theorem ACNT_ERR.window_reg : ACNT_ERR.window.reg = ACNT_ERR := rfl
@[simp] theorem ACNT_ERR.window_w : ACNT_ERR.window.w = 16 := rfl
@[simp] theorem ACNT_ERR.window_lo : ACNT_ERR.window.lo = 32 := rfl
@[simp] theorem ACNT_ERR.store_refused_reg : ACNT_ERR.store_refused.reg = ACNT_ERR := rfl
@[simp] theorem ACNT_ERR.store_refused_w : ACNT_ERR.store_refused.w = 16 := rfl
@[simp] theorem ACNT_ERR.store_refused_lo : ACNT_ERR.store_refused.lo = 48 := rfl
@[simp] theorem ACNT_INEXACT.products_reg : ACNT_INEXACT.products.reg = ACNT_INEXACT := rfl
@[simp] theorem ACNT_INEXACT.products_w : ACNT_INEXACT.products.w = 64 := rfl
@[simp] theorem ACNT_INEXACT.products_lo : ACNT_INEXACT.products.lo = 0 := rfl
@[simp] theorem ACNT_SAT.count_reg : ACNT_SAT.count.reg = ACNT_SAT := rfl
@[simp] theorem ACNT_SAT.count_w : ACNT_SAT.count.w = 32 := rfl
@[simp] theorem ACNT_SAT.count_lo : ACNT_SAT.count.lo = 0 := rfl
@[simp] theorem ACNT_NAN.count_reg : ACNT_NAN.count.reg = ACNT_NAN := rfl
@[simp] theorem ACNT_NAN.count_w : ACNT_NAN.count.w = 32 := rfl
@[simp] theorem ACNT_NAN.count_lo : ACNT_NAN.count.lo = 0 := rfl
@[simp] theorem AECC.corrected_reg : AECC.corrected.reg = AECC := rfl
@[simp] theorem AECC.corrected_w : AECC.corrected.w = 16 := rfl
@[simp] theorem AECC.corrected_lo : AECC.corrected.lo = 0 := rfl
@[simp] theorem AECC.uncorrected_reg : AECC.uncorrected.reg = AECC := rfl
@[simp] theorem AECC.uncorrected_w : AECC.uncorrected.w = 16 := rfl
@[simp] theorem AECC.uncorrected_lo : AECC.uncorrected.lo = 16 := rfl
@[simp] theorem ACNT_BALLAST.slots_reg : ACNT_BALLAST.slots.reg = ACNT_BALLAST := rfl
@[simp] theorem ACNT_BALLAST.slots_w : ACNT_BALLAST.slots.w = 64 := rfl
@[simp] theorem ACNT_BALLAST.slots_lo : ACNT_BALLAST.slots.lo = 0 := rfl
@[simp] theorem AODESC.kind_reg : AODESC.kind.reg = AODESC := rfl
@[simp] theorem AODESC.kind_w : AODESC.kind.w = 2 := rfl
@[simp] theorem AODESC.kind_lo : AODESC.kind.lo = 0 := rfl
@[simp] theorem AODESC.fmt_reg : AODESC.fmt.reg = AODESC := rfl
@[simp] theorem AODESC.fmt_w : AODESC.fmt.w = 4 := rfl
@[simp] theorem AODESC.fmt_lo : AODESC.fmt.lo = 2 := rfl
@[simp] theorem AODESC.first_reg : AODESC.first.reg = AODESC := rfl
@[simp] theorem AODESC.first_w : AODESC.first.w = 9 := rfl
@[simp] theorem AODESC.first_lo : AODESC.first.lo = 6 := rfl
@[simp] theorem AODESC.count_reg : AODESC.count.reg = AODESC := rfl
@[simp] theorem AODESC.count_w : AODESC.count.w = 10 := rfl
@[simp] theorem AODESC.count_lo : AODESC.count.lo = 15 := rfl
@[simp] theorem AODESC.place_reg : AODESC.place.reg = AODESC := rfl
@[simp] theorem AODESC.place_w : AODESC.place.w = 6 := rfl
@[simp] theorem AODESC.place_lo : AODESC.place.lo = 25 := rfl
@[simp] theorem AODESC.e5m2_ieee_reg : AODESC.e5m2_ieee.reg = AODESC := rfl
@[simp] theorem AODESC.e5m2_ieee_w : AODESC.e5m2_ieee.w = 1 := rfl
@[simp] theorem AODESC.e5m2_ieee_lo : AODESC.e5m2_ieee.lo = 31 := rfl
@[simp] theorem AODESC.pos_reg : AODESC.pos.reg = AODESC := rfl
@[simp] theorem AODESC.pos_w : AODESC.pos.w = 3 := rfl
@[simp] theorem AODESC.pos_lo : AODESC.pos.lo = 32 := rfl
@[simp] theorem ASETDESC.cls_reg : ASETDESC.cls.reg = ASETDESC := rfl
@[simp] theorem ASETDESC.cls_w : ASETDESC.cls.w = 2 := rfl
@[simp] theorem ASETDESC.cls_lo : ASETDESC.cls.lo = 0 := rfl
@[simp] theorem ASETDESC.wfmt_reg : ASETDESC.wfmt.reg = ASETDESC := rfl
@[simp] theorem ASETDESC.wfmt_w : ASETDESC.wfmt.w = 4 := rfl
@[simp] theorem ASETDESC.wfmt_lo : ASETDESC.wfmt.lo = 2 := rfl
@[simp] theorem ASETDESC.xfmt_reg : ASETDESC.xfmt.reg = ASETDESC := rfl
@[simp] theorem ASETDESC.xfmt_w : ASETDESC.xfmt.w = 4 := rfl
@[simp] theorem ASETDESC.xfmt_lo : ASETDESC.xfmt.lo = 6 := rfl
@[simp] theorem ASETDESC.L_reg : ASETDESC.L.reg = ASETDESC := rfl
@[simp] theorem ASETDESC.L_w : ASETDESC.L.w = 9 := rfl
@[simp] theorem ASETDESC.L_lo : ASETDESC.L.lo = 10 := rfl
@[simp] theorem ASETDESC.xwin_lo_reg : ASETDESC.xwin_lo.reg = ASETDESC := rfl
@[simp] theorem ASETDESC.xwin_lo_w : ASETDESC.xwin_lo.w = 8 := rfl
@[simp] theorem ASETDESC.xwin_lo_lo : ASETDESC.xwin_lo.lo = 19 := rfl
@[simp] theorem ASETDESC.xwin_span_reg : ASETDESC.xwin_span.reg = ASETDESC := rfl
@[simp] theorem ASETDESC.xwin_span_w : ASETDESC.xwin_span.w = 5 := rfl
@[simp] theorem ASETDESC.xwin_span_lo : ASETDESC.xwin_span.lo = 27 := rfl
@[simp] theorem ASETDESC.valid_reg : ASETDESC.valid.reg = ASETDESC := rfl
@[simp] theorem ASETDESC.valid_w : ASETDESC.valid.w = 1 := rfl
@[simp] theorem ASETDESC.valid_lo : ASETDESC.valid.lo = 32 := rfl
@[simp] theorem ASETDESC.colmask_reg : ASETDESC.colmask.reg = ASETDESC := rfl
@[simp] theorem ASETDESC.colmask_w : ASETDESC.colmask.w = 16 := rfl
@[simp] theorem ASETDESC.colmask_lo : ASETDESC.colmask.lo = 33 := rfl
@[simp] theorem ASETMAP.set0_reg : ASETMAP.set0.reg = ASETMAP := rfl
@[simp] theorem ASETMAP.set0_w : ASETMAP.set0.w = 6 := rfl
@[simp] theorem ASETMAP.set0_lo : ASETMAP.set0.lo = 0 := rfl
@[simp] theorem ASETMAP.set1_reg : ASETMAP.set1.reg = ASETMAP := rfl
@[simp] theorem ASETMAP.set1_w : ASETMAP.set1.w = 6 := rfl
@[simp] theorem ASETMAP.set1_lo : ASETMAP.set1.lo = 8 := rfl
@[simp] theorem ASETMAP.set2_reg : ASETMAP.set2.reg = ASETMAP := rfl
@[simp] theorem ASETMAP.set2_w : ASETMAP.set2.w = 6 := rfl
@[simp] theorem ASETMAP.set2_lo : ASETMAP.set2.lo = 16 := rfl
@[simp] theorem ASETMAP.set3_reg : ASETMAP.set3.reg = ASETMAP := rfl
@[simp] theorem ASETMAP.set3_w : ASETMAP.set3.w = 6 := rfl
@[simp] theorem ASETMAP.set3_lo : ASETMAP.set3.lo = 24 := rfl
@[simp] theorem QSTAT.active_reg : QSTAT.active.reg = QSTAT := rfl
@[simp] theorem QSTAT.active_w : QSTAT.active.w = 16 := rfl
@[simp] theorem QSTAT.active_lo : QSTAT.active.lo = 0 := rfl
@[simp] theorem QSTAT.epoch_reg : QSTAT.epoch.reg = QSTAT := rfl
@[simp] theorem QSTAT.epoch_w : QSTAT.epoch.w = 2 := rfl
@[simp] theorem QSTAT.epoch_lo : QSTAT.epoch.lo = 16 := rfl
@[simp] theorem QSTAT.cfg_error_reg : QSTAT.cfg_error.reg = QSTAT := rfl
@[simp] theorem QSTAT.cfg_error_w : QSTAT.cfg_error.w = 1 := rfl
@[simp] theorem QSTAT.cfg_error_lo : QSTAT.cfg_error.lo = 18 := rfl
@[simp] theorem QSTAT.order_fault_reg : QSTAT.order_fault.reg = QSTAT := rfl
@[simp] theorem QSTAT.order_fault_w : QSTAT.order_fault.w = 1 := rfl
@[simp] theorem QSTAT.order_fault_lo : QSTAT.order_fault.lo = 19 := rfl
@[simp] theorem QSTAT.strict_forced_reg : QSTAT.strict_forced.reg = QSTAT := rfl
@[simp] theorem QSTAT.strict_forced_w : QSTAT.strict_forced.w = 1 := rfl
@[simp] theorem QSTAT.strict_forced_lo : QSTAT.strict_forced.lo = 20 := rfl
@[simp] theorem QSTAT.pass_fault_reg : QSTAT.pass_fault.reg = QSTAT := rfl
@[simp] theorem QSTAT.pass_fault_w : QSTAT.pass_fault.w = 1 := rfl
@[simp] theorem QSTAT.pass_fault_lo : QSTAT.pass_fault.lo = 21 := rfl
@[simp] theorem QCNT.discard_reg : QCNT.discard.reg = QCNT := rfl
@[simp] theorem QCNT.discard_w : QCNT.discard.w = 32 := rfl
@[simp] theorem QCNT.discard_lo : QCNT.discard.lo = 0 := rfl
@[simp] theorem QCNT.order_reg : QCNT.order.reg = QCNT := rfl
@[simp] theorem QCNT.order_w : QCNT.order.w = 32 := rfl
@[simp] theorem QCNT.order_lo : QCNT.order.lo = 32 := rfl
@[simp] theorem QSNAP.slot_reg : QSNAP.slot.reg = QSNAP := rfl
@[simp] theorem QSNAP.slot_w : QSNAP.slot.w = 4 := rfl
@[simp] theorem QSNAP.slot_lo : QSNAP.slot.lo = 0 := rfl
@[simp] theorem QSNAP.take_reg : QSNAP.take.reg = QSNAP := rfl
@[simp] theorem QSNAP.take_w : QSNAP.take.w = 1 := rfl
@[simp] theorem QSNAP.take_lo : QSNAP.take.lo = 4 := rfl
@[simp] theorem QSNAP.clear_reg : QSNAP.clear.reg = QSNAP := rfl
@[simp] theorem QSNAP.clear_w : QSNAP.clear.w = 1 := rfl
@[simp] theorem QSNAP.clear_lo : QSNAP.clear.lo = 5 := rfl
@[simp] theorem RCFGSTAT.state_reg : RCFGSTAT.state.reg = RCFGSTAT := rfl
@[simp] theorem RCFGSTAT.state_w : RCFGSTAT.state.w = 3 := rfl
@[simp] theorem RCFGSTAT.state_lo : RCFGSTAT.state.lo = 0 := rfl
@[simp] theorem RCFGSTAT.target_reg : RCFGSTAT.target.reg = RCFGSTAT := rfl
@[simp] theorem RCFGSTAT.target_w : RCFGSTAT.target.w = 2 := rfl
@[simp] theorem RCFGSTAT.target_lo : RCFGSTAT.target.lo = 4 := rfl
@[simp] theorem RCFGSTAT.forced_reg : RCFGSTAT.forced.reg = RCFGSTAT := rfl
@[simp] theorem RCFGSTAT.forced_w : RCFGSTAT.forced.w = 1 := rfl
@[simp] theorem RCFGSTAT.forced_lo : RCFGSTAT.forced.lo = 6 := rfl
@[simp] theorem RCFGSTAT.q_valid_reg : RCFGSTAT.q_valid.reg = RCFGSTAT := rfl
@[simp] theorem RCFGSTAT.q_valid_w : RCFGSTAT.q_valid.w = 1 := rfl
@[simp] theorem RCFGSTAT.q_valid_lo : RCFGSTAT.q_valid.lo = 7 := rfl
@[simp] theorem RCFGSTAT.q_epoch_reg : RCFGSTAT.q_epoch.reg = RCFGSTAT := rfl
@[simp] theorem RCFGSTAT.q_epoch_w : RCFGSTAT.q_epoch.w = 2 := rfl
@[simp] theorem RCFGSTAT.q_epoch_lo : RCFGSTAT.q_epoch.lo = 8 := rfl
@[simp] theorem RCFGSTAT.pending_reg : RCFGSTAT.pending.reg = RCFGSTAT := rfl
@[simp] theorem RCFGSTAT.pending_w : RCFGSTAT.pending.w = 16 := rfl
@[simp] theorem RCFGSTAT.pending_lo : RCFGSTAT.pending.lo = 16 := rfl
@[simp] theorem RCFGSTAT.done_at_reg : RCFGSTAT.done_at.reg = RCFGSTAT := rfl
@[simp] theorem RCFGSTAT.done_at_w : RCFGSTAT.done_at.w = 32 := rfl
@[simp] theorem RCFGSTAT.done_at_lo : RCFGSTAT.done_at.lo = 32 := rfl
@[simp] theorem RCFGTIME.t_reg : RCFGTIME.t.reg = RCFGTIME := rfl
@[simp] theorem RCFGTIME.t_w : RCFGTIME.t.w = 64 := rfl
@[simp] theorem RCFGTIME.t_lo : RCFGTIME.t.lo = 0 := rfl
@[simp] theorem PCFG.mode_reg : PCFG.mode.reg = PCFG := rfl
@[simp] theorem PCFG.mode_w : PCFG.mode.w = 2 := rfl
@[simp] theorem PCFG.mode_lo : PCFG.mode.lo = 0 := rfl
@[simp] theorem PCFG.width_reg : PCFG.width.reg = PCFG := rfl
@[simp] theorem PCFG.width_w : PCFG.width.w = 2 := rfl
@[simp] theorem PCFG.width_lo : PCFG.width.lo = 2 := rfl
@[simp] theorem PCFG.policy_reg : PCFG.policy.reg = PCFG := rfl
@[simp] theorem PCFG.policy_w : PCFG.policy.w = 1 := rfl
@[simp] theorem PCFG.policy_lo : PCFG.policy.lo = 4 := rfl
@[simp] theorem PCFG.link_reg : PCFG.link.reg = PCFG := rfl
@[simp] theorem PCFG.link_w : PCFG.link.w = 1 := rfl
@[simp] theorem PCFG.link_lo : PCFG.link.lo = 5 := rfl
@[simp] theorem PCFG.subst_reg : PCFG.subst.reg = PCFG := rfl
@[simp] theorem PCFG.subst_w : PCFG.subst.w = 1 := rfl
@[simp] theorem PCFG.subst_lo : PCFG.subst.lo = 6 := rfl
@[simp] theorem PCFG.hold_tail_reg : PCFG.hold_tail.reg = PCFG := rfl
@[simp] theorem PCFG.hold_tail_w : PCFG.hold_tail.w = 14 := rfl
@[simp] theorem PCFG.hold_tail_lo : PCFG.hold_tail.lo = 8 := rfl
@[simp] theorem PCFG.cancel_limit_reg : PCFG.cancel_limit.reg = PCFG := rfl
@[simp] theorem PCFG.cancel_limit_w : PCFG.cancel_limit.w = 10 := rfl
@[simp] theorem PCFG.cancel_limit_lo : PCFG.cancel_limit.lo = 22 := rfl
@[simp] theorem PSTAT.lock_reg : PSTAT.lock.reg = PSTAT := rfl
@[simp] theorem PSTAT.lock_w : PSTAT.lock.w = 1 := rfl
@[simp] theorem PSTAT.lock_lo : PSTAT.lock.lo = 0 := rfl
@[simp] theorem PSTAT.prompt_reg : PSTAT.prompt.reg = PSTAT := rfl
@[simp] theorem PSTAT.prompt_w : PSTAT.prompt.w = 1 := rfl
@[simp] theorem PSTAT.prompt_lo : PSTAT.prompt.lo = 1 := rfl
@[simp] theorem PSTAT.member_reg : PSTAT.member.reg = PSTAT := rfl
@[simp] theorem PSTAT.member_w : PSTAT.member.w = 1 := rfl
@[simp] theorem PSTAT.member_lo : PSTAT.member.lo = 2 := rfl
@[simp] theorem PSTAT.cancel_full_reg : PSTAT.cancel_full.reg = PSTAT := rfl
@[simp] theorem PSTAT.cancel_full_w : PSTAT.cancel_full.w = 1 := rfl
@[simp] theorem PSTAT.cancel_full_lo : PSTAT.cancel_full.lo = 3 := rfl
@[simp] theorem PSTAT.cut_reg : PSTAT.cut.reg = PSTAT := rfl
@[simp] theorem PSTAT.cut_w : PSTAT.cut.w = 1 := rfl
@[simp] theorem PSTAT.cut_lo : PSTAT.cut.lo = 4 := rfl
@[simp] theorem PSTAT.nocredit_reg : PSTAT.nocredit.reg = PSTAT := rfl
@[simp] theorem PSTAT.nocredit_w : PSTAT.nocredit.w = 1 := rfl
@[simp] theorem PSTAT.nocredit_lo : PSTAT.nocredit.lo = 5 := rfl
@[simp] theorem PSTAT.cancels_reg : PSTAT.cancels.reg = PSTAT := rfl
@[simp] theorem PSTAT.cancels_w : PSTAT.cancels.w = 5 := rfl
@[simp] theorem PSTAT.cancels_lo : PSTAT.cancels.lo = 6 := rfl
@[simp] theorem PSTAT.beat_reg : PSTAT.beat.reg = PSTAT := rfl
@[simp] theorem PSTAT.beat_w : PSTAT.beat.w = 16 := rfl
@[simp] theorem PSTAT.beat_lo : PSTAT.beat.lo = 16 := rfl
@[simp] theorem PTXSEQ.seq_reg : PTXSEQ.seq.reg = PTXSEQ := rfl
@[simp] theorem PTXSEQ.seq_w : PTXSEQ.seq.w = 48 := rfl
@[simp] theorem PTXSEQ.seq_lo : PTXSEQ.seq.lo = 0 := rfl
@[simp] theorem PLINK_BASE.vernier_reg : PLINK_BASE.vernier.reg = PLINK_BASE := rfl
@[simp] theorem PLINK_BASE.vernier_w : PLINK_BASE.vernier.w = 3 := rfl
@[simp] theorem PLINK_BASE.vernier_lo : PLINK_BASE.vernier.lo = 0 := rfl
@[simp] theorem PLINK_BASE.tick_reg : PLINK_BASE.tick.reg = PLINK_BASE := rfl
@[simp] theorem PLINK_BASE.tick_w : PLINK_BASE.tick.w = 61 := rfl
@[simp] theorem PLINK_BASE.tick_lo : PLINK_BASE.tick.lo = 3 := rfl
@[simp] theorem PLINK_CFG.period_reg : PLINK_CFG.period.reg = PLINK_CFG := rfl
@[simp] theorem PLINK_CFG.period_w : PLINK_CFG.period.w = 32 := rfl
@[simp] theorem PLINK_CFG.period_lo : PLINK_CFG.period.lo = 0 := rfl
@[simp] theorem PLINK_CFG.job_reg : PLINK_CFG.job.reg = PLINK_CFG := rfl
@[simp] theorem PLINK_CFG.job_w : PLINK_CFG.job.w = 32 := rfl
@[simp] theorem PLINK_CFG.job_lo : PLINK_CFG.job.lo = 32 := rfl
@[simp] theorem PCREDIT.credit0_reg : PCREDIT.credit0.reg = PCREDIT := rfl
@[simp] theorem PCREDIT.credit0_w : PCREDIT.credit0.w = 7 := rfl
@[simp] theorem PCREDIT.credit0_lo : PCREDIT.credit0.lo = 0 := rfl
@[simp] theorem PCREDIT.credit1_reg : PCREDIT.credit1.reg = PCREDIT := rfl
@[simp] theorem PCREDIT.credit1_w : PCREDIT.credit1.w = 7 := rfl
@[simp] theorem PCREDIT.credit1_lo : PCREDIT.credit1.lo = 8 := rfl
@[simp] theorem PCREDIT.credit2_reg : PCREDIT.credit2.reg = PCREDIT := rfl
@[simp] theorem PCREDIT.credit2_w : PCREDIT.credit2.w = 7 := rfl
@[simp] theorem PCREDIT.credit2_lo : PCREDIT.credit2.lo = 16 := rfl
@[simp] theorem PCREDIT.credit3_reg : PCREDIT.credit3.reg = PCREDIT := rfl
@[simp] theorem PCREDIT.credit3_w : PCREDIT.credit3.w = 7 := rfl
@[simp] theorem PCREDIT.credit3_lo : PCREDIT.credit3.lo = 24 := rfl
@[simp] theorem PCREDIT.credit4_reg : PCREDIT.credit4.reg = PCREDIT := rfl
@[simp] theorem PCREDIT.credit4_w : PCREDIT.credit4.w = 7 := rfl
@[simp] theorem PCREDIT.credit4_lo : PCREDIT.credit4.lo = 32 := rfl
@[simp] theorem PCREDIT.credit5_reg : PCREDIT.credit5.reg = PCREDIT := rfl
@[simp] theorem PCREDIT.credit5_w : PCREDIT.credit5.w = 7 := rfl
@[simp] theorem PCREDIT.credit5_lo : PCREDIT.credit5.lo = 40 := rfl
@[simp] theorem PCREDIT.credit6_reg : PCREDIT.credit6.reg = PCREDIT := rfl
@[simp] theorem PCREDIT.credit6_w : PCREDIT.credit6.w = 7 := rfl
@[simp] theorem PCREDIT.credit6_lo : PCREDIT.credit6.lo = 48 := rfl
@[simp] theorem PCREDIT.credit7_reg : PCREDIT.credit7.reg = PCREDIT := rfl
@[simp] theorem PCREDIT.credit7_w : PCREDIT.credit7.w = 7 := rfl
@[simp] theorem PCREDIT.credit7_lo : PCREDIT.credit7.lo = 56 := rfl
@[simp] theorem GTCFG.enable_reg : GTCFG.enable.reg = GTCFG := rfl
@[simp] theorem GTCFG.enable_w : GTCFG.enable.w = 1 := rfl
@[simp] theorem GTCFG.enable_lo : GTCFG.enable.lo = 0 := rfl
@[simp] theorem GTCFG.reorder_reg : GTCFG.reorder.reg = GTCFG := rfl
@[simp] theorem GTCFG.reorder_w : GTCFG.reorder.w = 1 := rfl
@[simp] theorem GTCFG.reorder_lo : GTCFG.reorder.lo = 1 := rfl
@[simp] theorem GTCFG.reorder_active_reg : GTCFG.reorder_active.reg = GTCFG := rfl
@[simp] theorem GTCFG.reorder_active_w : GTCFG.reorder_active.w = 1 := rfl
@[simp] theorem GTCFG.reorder_active_lo : GTCFG.reorder_active.lo = 2 := rfl
@[simp] theorem GTSTAT.active_reg : GTSTAT.active.reg = GTSTAT := rfl
@[simp] theorem GTSTAT.active_w : GTSTAT.active.w = 16 := rfl
@[simp] theorem GTSTAT.active_lo : GTSTAT.active.lo = 0 := rfl
@[simp] theorem GTSTAT.range_reg : GTSTAT.range.reg = GTSTAT := rfl
@[simp] theorem GTSTAT.range_w : GTSTAT.range.w = 1 := rfl
@[simp] theorem GTSTAT.range_lo : GTSTAT.range.lo = 16 := rfl
@[simp] theorem GTSTAT.overrun_reg : GTSTAT.overrun.reg = GTSTAT := rfl
@[simp] theorem GTSTAT.overrun_w : GTSTAT.overrun.w = 1 := rfl
@[simp] theorem GTSTAT.overrun_lo : GTSTAT.overrun.lo = 17 := rfl
@[simp] theorem GTSTAT.ecc_reg : GTSTAT.ecc.reg = GTSTAT := rfl
@[simp] theorem GTSTAT.ecc_w : GTSTAT.ecc.w = 1 := rfl
@[simp] theorem GTSTAT.ecc_lo : GTSTAT.ecc.lo = 18 := rfl
@[simp] theorem GTSTAT.excess_reg : GTSTAT.excess.reg = GTSTAT := rfl
@[simp] theorem GTSTAT.excess_w : GTSTAT.excess.w = 1 := rfl
@[simp] theorem GTSTAT.excess_lo : GTSTAT.excess.lo = 19 := rfl
@[simp] theorem GTCNT_RD.lines_reg : GTCNT_RD.lines.reg = GTCNT_RD := rfl
@[simp] theorem GTCNT_RD.lines_w : GTCNT_RD.lines.w = 64 := rfl
@[simp] theorem GTCNT_RD.lines_lo : GTCNT_RD.lines.lo = 0 := rfl
@[simp] theorem GTCNT_WR.lines_reg : GTCNT_WR.lines.reg = GTCNT_WR := rfl
@[simp] theorem GTCNT_WR.lines_w : GTCNT_WR.lines.w = 64 := rfl
@[simp] theorem GTCNT_WR.lines_lo : GTCNT_WR.lines.lo = 0 := rfl
@[simp] theorem GTCNT_ERR.range_reg : GTCNT_ERR.range.reg = GTCNT_ERR := rfl
@[simp] theorem GTCNT_ERR.range_w : GTCNT_ERR.range.w = 16 := rfl
@[simp] theorem GTCNT_ERR.range_lo : GTCNT_ERR.range.lo = 0 := rfl
@[simp] theorem GTCNT_ERR.overrun_reg : GTCNT_ERR.overrun.reg = GTCNT_ERR := rfl
@[simp] theorem GTCNT_ERR.overrun_w : GTCNT_ERR.overrun.w = 16 := rfl
@[simp] theorem GTCNT_ERR.overrun_lo : GTCNT_ERR.overrun.lo = 16 := rfl
@[simp] theorem GTQ.fill_reg : GTQ.fill.reg = GTQ := rfl
@[simp] theorem GTQ.fill_w : GTQ.fill.w = 7 := rfl
@[simp] theorem GTQ.fill_lo : GTQ.fill.lo = 0 := rfl
@[simp] theorem GTQ.reserved_reg : GTQ.reserved.reg = GTQ := rfl
@[simp] theorem GTQ.reserved_w : GTQ.reserved.w = 7 := rfl
@[simp] theorem GTQ.reserved_lo : GTQ.reserved.lo = 8 := rfl
@[simp] theorem GTQ.dir_reg : GTQ.dir.reg = GTQ := rfl
@[simp] theorem GTQ.dir_w : GTQ.dir.w = 1 := rfl
@[simp] theorem GTQ.dir_lo : GTQ.dir.lo = 15 := rfl
@[simp] theorem GTQ.bound_reg : GTQ.bound.reg = GTQ := rfl
@[simp] theorem GTQ.bound_w : GTQ.bound.w = 1 := rfl
@[simp] theorem GTQ.bound_lo : GTQ.bound.lo = 16 := rfl
@[simp] theorem BPACE.step_reg : BPACE.step.reg = BPACE := rfl
@[simp] theorem BPACE.step_w : BPACE.step.w = 4 := rfl
@[simp] theorem BPACE.step_lo : BPACE.step.lo = 0 := rfl
@[simp] theorem BPACE.paused_reg : BPACE.paused.reg = BPACE := rfl
@[simp] theorem BPACE.paused_w : BPACE.paused.w = 1 := rfl
@[simp] theorem BPACE.paused_lo : BPACE.paused.lo = 4 := rfl
@[simp] theorem T1STAT.present_reg : T1STAT.present.reg = T1STAT := rfl
@[simp] theorem T1STAT.present_w : T1STAT.present.w = 2 := rfl
@[simp] theorem T1STAT.present_lo : T1STAT.present.lo = 0 := rfl
@[simp] theorem T1STAT.ready_reg : T1STAT.ready.reg = T1STAT := rfl
@[simp] theorem T1STAT.ready_w : T1STAT.ready.w = 1 := rfl
@[simp] theorem T1STAT.ready_lo : T1STAT.ready.lo = 2 := rfl
@[simp] theorem T1STAT.hot_reg : T1STAT.hot.reg = T1STAT := rfl
@[simp] theorem T1STAT.hot_w : T1STAT.hot.w = 1 := rfl
@[simp] theorem T1STAT.hot_lo : T1STAT.hot.lo = 3 := rfl
@[simp] theorem T1ECC.corrected_reg : T1ECC.corrected.reg = T1ECC := rfl
@[simp] theorem T1ECC.corrected_w : T1ECC.corrected.w = 32 := rfl
@[simp] theorem T1ECC.corrected_lo : T1ECC.corrected.lo = 0 := rfl
@[simp] theorem T1ECC.uncorrected_reg : T1ECC.uncorrected.reg = T1ECC := rfl
@[simp] theorem T1ECC.uncorrected_w : T1ECC.uncorrected.w = 32 := rfl
@[simp] theorem T1ECC.uncorrected_lo : T1ECC.uncorrected.lo = 32 := rfl
@[simp] theorem T1ERRADDR.address_reg : T1ERRADDR.address.reg = T1ERRADDR := rfl
@[simp] theorem T1ERRADDR.address_w : T1ERRADDR.address.w = 41 := rfl
@[simp] theorem T1ERRADDR.address_lo : T1ERRADDR.address.lo = 0 := rfl
@[simp] theorem T1ERRADDR.scrub_reg : T1ERRADDR.scrub.reg = T1ERRADDR := rfl
@[simp] theorem T1ERRADDR.scrub_w : T1ERRADDR.scrub.w = 1 := rfl
@[simp] theorem T1ERRADDR.scrub_lo : T1ERRADDR.scrub.lo = 41 := rfl
@[simp] theorem T1ERRADDR.valid_reg : T1ERRADDR.valid.reg = T1ERRADDR := rfl
@[simp] theorem T1ERRADDR.valid_w : T1ERRADDR.valid.w = 1 := rfl
@[simp] theorem T1ERRADDR.valid_lo : T1ERRADDR.valid.lo = 63 := rfl
@[simp] theorem T1SCRUB.period_reg : T1SCRUB.period.reg = T1SCRUB := rfl
@[simp] theorem T1SCRUB.period_w : T1SCRUB.period.w = 8 := rfl
@[simp] theorem T1SCRUB.period_lo : T1SCRUB.period.lo = 0 := rfl
@[simp] theorem T1SCRUB.enable_reg : T1SCRUB.enable.reg = T1SCRUB := rfl
@[simp] theorem T1SCRUB.enable_w : T1SCRUB.enable.w = 1 := rfl
@[simp] theorem T1SCRUB.enable_lo : T1SCRUB.enable.lo = 31 := rfl
@[simp] theorem HISTCFG.active_reg : HISTCFG.active.reg = HISTCFG := rfl
@[simp] theorem HISTCFG.active_w : HISTCFG.active.w = 1 := rfl
@[simp] theorem HISTCFG.active_lo : HISTCFG.active.lo = 0 := rfl
@[simp] theorem HISTCFG.decisions_reg : HISTCFG.decisions.reg = HISTCFG := rfl
@[simp] theorem HISTCFG.decisions_w : HISTCFG.decisions.w = 1 := rfl
@[simp] theorem HISTCFG.decisions_lo : HISTCFG.decisions.lo = 1 := rfl
@[simp] theorem HISTPTR.value_reg : HISTPTR.value.reg = HISTPTR := rfl
@[simp] theorem HISTPTR.value_w : HISTPTR.value.w = 64 := rfl
@[simp] theorem HISTPTR.value_lo : HISTPTR.value.lo = 0 := rfl
@[simp] theorem HISTSEQ.value_reg : HISTSEQ.value.reg = HISTSEQ := rfl
@[simp] theorem HISTSEQ.value_w : HISTSEQ.value.w = 64 := rfl
@[simp] theorem HISTSEQ.value_lo : HISTSEQ.value.lo = 0 := rfl
@[simp] theorem HISTQ.in_use_reg : HISTQ.in_use.reg = HISTQ := rfl
@[simp] theorem HISTQ.in_use_w : HISTQ.in_use.w = 7 := rfl
@[simp] theorem HISTQ.in_use_lo : HISTQ.in_use.lo = 0 := rfl
@[simp] theorem HISTQ.peak_reg : HISTQ.peak.reg = HISTQ := rfl
@[simp] theorem HISTQ.peak_w : HISTQ.peak.w = 7 := rfl
@[simp] theorem HISTQ.peak_lo : HISTQ.peak.lo = 8 := rfl
@[simp] theorem BARSTAT.generation_reg : BARSTAT.generation.reg = BARSTAT := rfl
@[simp] theorem BARSTAT.generation_w : BARSTAT.generation.w = 12 := rfl
@[simp] theorem BARSTAT.generation_lo : BARSTAT.generation.lo = 0 := rfl
@[simp] theorem BARSTAT.arrived_reg : BARSTAT.arrived.reg = BARSTAT := rfl
@[simp] theorem BARSTAT.arrived_w : BARSTAT.arrived.w = 8 := rfl
@[simp] theorem BARSTAT.arrived_lo : BARSTAT.arrived.lo = 16 := rfl
@[simp] theorem BARSTAT.expected_reg : BARSTAT.expected.reg = BARSTAT := rfl
@[simp] theorem BARSTAT.expected_w : BARSTAT.expected.w = 8 := rfl
@[simp] theorem BARSTAT.expected_lo : BARSTAT.expected.lo = 24 := rfl
@[simp] theorem BARSTAT.held_reg : BARSTAT.held.reg = BARSTAT := rfl
@[simp] theorem BARSTAT.held_w : BARSTAT.held.w = 1 := rfl
@[simp] theorem BARSTAT.held_lo : BARSTAT.held.lo = 32 := rfl
@[simp] theorem BARTIMEOUT.limit_reg : BARTIMEOUT.limit.reg = BARTIMEOUT := rfl
@[simp] theorem BARTIMEOUT.limit_w : BARTIMEOUT.limit.w = 16 := rfl
@[simp] theorem BARTIMEOUT.limit_lo : BARTIMEOUT.limit.lo = 0 := rfl
@[simp] theorem BSTRAG.node_reg : BSTRAG.node.reg = BSTRAG := rfl
@[simp] theorem BSTRAG.node_w : BSTRAG.node.w = 6 := rfl
@[simp] theorem BSTRAG.node_lo : BSTRAG.node.lo = 0 := rfl
@[simp] theorem BSTRAG.die_reg : BSTRAG.die.reg = BSTRAG := rfl
@[simp] theorem BSTRAG.die_w : BSTRAG.die.w = 4 := rfl
@[simp] theorem BSTRAG.die_lo : BSTRAG.die.lo = 6 := rfl
@[simp] theorem BSTRAG.cluster_reg : BSTRAG.cluster.reg = BSTRAG := rfl
@[simp] theorem BSTRAG.cluster_w : BSTRAG.cluster.w = 6 := rfl
@[simp] theorem BSTRAG.cluster_lo : BSTRAG.cluster.lo = 10 := rfl
@[simp] theorem BSTRAG.barrier_reg : BSTRAG.barrier.reg = BSTRAG := rfl
@[simp] theorem BSTRAG.barrier_w : BSTRAG.barrier.w = 4 := rfl
@[simp] theorem BSTRAG.barrier_lo : BSTRAG.barrier.lo = 16 := rfl
@[simp] theorem BSTRAG.generation_reg : BSTRAG.generation.reg = BSTRAG := rfl
@[simp] theorem BSTRAG.generation_w : BSTRAG.generation.w = 12 := rfl
@[simp] theorem BSTRAG.generation_lo : BSTRAG.generation.lo = 20 := rfl
@[simp] theorem BSTRAG.valid_reg : BSTRAG.valid.reg = BSTRAG := rfl
@[simp] theorem BSTRAG.valid_w : BSTRAG.valid.w = 1 := rfl
@[simp] theorem BSTRAG.valid_lo : BSTRAG.valid.lo = 63 := rfl
@[simp] theorem BSTRAG_T.gap_reg : BSTRAG_T.gap.reg = BSTRAG_T := rfl
@[simp] theorem BSTRAG_T.gap_w : BSTRAG_T.gap.w = 32 := rfl
@[simp] theorem BSTRAG_T.gap_lo : BSTRAG_T.gap.lo = 0 := rfl
@[simp] theorem BSTRAG_T.spread_reg : BSTRAG_T.spread.reg = BSTRAG_T := rfl
@[simp] theorem BSTRAG_T.spread_w : BSTRAG_T.spread.w = 32 := rfl
@[simp] theorem BSTRAG_T.spread_lo : BSTRAG_T.spread.lo = 32 := rfl
@[simp] theorem DETSTAT.strict_reg : DETSTAT.strict.reg = DETSTAT := rfl
@[simp] theorem DETSTAT.strict_w : DETSTAT.strict.w = 1 := rfl
@[simp] theorem DETSTAT.strict_lo : DETSTAT.strict.lo = 0 := rfl
@[simp] theorem DETSTAT.locked_reg : DETSTAT.locked.reg = DETSTAT := rfl
@[simp] theorem DETSTAT.locked_w : DETSTAT.locked.w = 1 := rfl
@[simp] theorem DETSTAT.locked_lo : DETSTAT.locked.lo = 1 := rfl
@[simp] theorem DETSTAT.source_reg : DETSTAT.source.reg = DETSTAT := rfl
@[simp] theorem DETSTAT.source_w : DETSTAT.source.w = 1 := rfl
@[simp] theorem DETSTAT.source_lo : DETSTAT.source.lo = 2 := rfl
@[simp] theorem DETSTAT.exit_armed_reg : DETSTAT.exit_armed.reg = DETSTAT := rfl
@[simp] theorem DETSTAT.exit_armed_w : DETSTAT.exit_armed.w = 1 := rfl
@[simp] theorem DETSTAT.exit_armed_lo : DETSTAT.exit_armed.lo = 3 := rfl
@[simp] theorem DETSTAT.stream_reg : DETSTAT.stream.reg = DETSTAT := rfl
@[simp] theorem DETSTAT.stream_w : DETSTAT.stream.w = 2 := rfl
@[simp] theorem DETSTAT.stream_lo : DETSTAT.stream.lo = 4 := rfl
@[simp] theorem DETSTAT.start_reg : DETSTAT.start.reg = DETSTAT := rfl
@[simp] theorem DETSTAT.start_w : DETSTAT.start.w = 3 := rfl
@[simp] theorem DETSTAT.start_lo : DETSTAT.start.lo = 6 := rfl
@[simp] theorem DETSTAT.nonstrict_seen_reg : DETSTAT.nonstrict_seen.reg = DETSTAT := rfl
@[simp] theorem DETSTAT.nonstrict_seen_w : DETSTAT.nonstrict_seen.w = 1 := rfl
@[simp] theorem DETSTAT.nonstrict_seen_lo : DETSTAT.nonstrict_seen.lo = 9 := rfl
@[simp] theorem PROVSEQ.epoch_reg : PROVSEQ.epoch.reg = PROVSEQ := rfl
@[simp] theorem PROVSEQ.epoch_w : PROVSEQ.epoch.w = 64 := rfl
@[simp] theorem PROVSEQ.epoch_lo : PROVSEQ.epoch.lo = 0 := rfl
@[simp] theorem PROVRSEQ.result_reg : PROVRSEQ.result.reg = PROVRSEQ := rfl
@[simp] theorem PROVRSEQ.result_w : PROVRSEQ.result.w = 64 := rfl
@[simp] theorem PROVRSEQ.result_lo : PROVRSEQ.result.lo = 0 := rfl
@[simp] theorem PROVLAST.digest_reg : PROVLAST.digest.reg = PROVLAST := rfl
@[simp] theorem PROVLAST.digest_w : PROVLAST.digest.w = 32 := rfl
@[simp] theorem PROVLAST.digest_lo : PROVLAST.digest.lo = 0 := rfl
@[simp] theorem PROVBULK.digest_reg : PROVBULK.digest.reg = PROVBULK := rfl
@[simp] theorem PROVBULK.digest_w : PROVBULK.digest.w = 32 := rfl
@[simp] theorem PROVBULK.digest_lo : PROVBULK.digest.lo = 0 := rfl
@[simp] theorem HISTDIG.chain_reg : HISTDIG.chain.reg = HISTDIG := rfl
@[simp] theorem HISTDIG.chain_w : HISTDIG.chain.w = 32 := rfl
@[simp] theorem HISTDIG.chain_lo : HISTDIG.chain.lo = 0 := rfl
@[simp] theorem HISTDCNT.records_reg : HISTDCNT.records.reg = HISTDCNT := rfl
@[simp] theorem HISTDCNT.records_w : HISTDCNT.records.w = 64 := rfl
@[simp] theorem HISTDCNT.records_lo : HISTDCNT.records.lo = 0 := rfl
@[simp] theorem TCFG.source_reg : TCFG.source.reg = TCFG := rfl
@[simp] theorem TCFG.source_w : TCFG.source.w = 2 := rfl
@[simp] theorem TCFG.source_lo : TCFG.source.lo = 0 := rfl
@[simp] theorem TCFG.snap_reg : TCFG.snap.reg = TCFG := rfl
@[simp] theorem TCFG.snap_w : TCFG.snap.w = 1 := rfl
@[simp] theorem TCFG.snap_lo : TCFG.snap.lo = 2 := rfl
@[simp] theorem TSTAT.locked_reg : TSTAT.locked.reg = TSTAT := rfl
@[simp] theorem TSTAT.locked_w : TSTAT.locked.w = 1 := rfl
@[simp] theorem TSTAT.locked_lo : TSTAT.locked.lo = 0 := rfl
@[simp] theorem TSTAT.jump_refused_reg : TSTAT.jump_refused.reg = TSTAT := rfl
@[simp] theorem TSTAT.jump_refused_w : TSTAT.jump_refused.w = 1 := rfl
@[simp] theorem TSTAT.jump_refused_lo : TSTAT.jump_refused.lo = 1 := rfl
@[simp] theorem TSTAT.set_refused_reg : TSTAT.set_refused.reg = TSTAT := rfl
@[simp] theorem TSTAT.set_refused_w : TSTAT.set_refused.w = 1 := rfl
@[simp] theorem TSTAT.set_refused_lo : TSTAT.set_refused.lo = 2 := rfl
@[simp] theorem TSTAT.gm_reg : TSTAT.gm.reg = TSTAT := rfl
@[simp] theorem TSTAT.gm_w : TSTAT.gm.w = 1 := rfl
@[simp] theorem TSTAT.gm_lo : TSTAT.gm.lo = 3 := rfl
@[simp] theorem TPTP.port_reg : TPTP.port.reg = TPTP := rfl
@[simp] theorem TPTP.port_w : TPTP.port.w = 9 := rfl
@[simp] theorem TPTP.port_lo : TPTP.port.lo = 0 := rfl
@[simp] theorem TPTP.udp_reg : TPTP.udp.reg = TPTP := rfl
@[simp] theorem TPTP.udp_w : TPTP.udp.w = 1 := rfl
@[simp] theorem TPTP.udp_lo : TPTP.udp.lo = 9 := rfl
@[simp] theorem TPTP.p2p_reg : TPTP.p2p.reg = TPTP := rfl
@[simp] theorem TPTP.p2p_w : TPTP.p2p.w = 1 := rfl
@[simp] theorem TPTP.p2p_lo : TPTP.p2p.lo = 10 := rfl
@[simp] theorem TPTP.domain_reg : TPTP.domain.reg = TPTP := rfl
@[simp] theorem TPTP.domain_w : TPTP.domain.w = 8 := rfl
@[simp] theorem TPTP.domain_lo : TPTP.domain.lo = 11 := rfl
@[simp] theorem TPTP.priority1_reg : TPTP.priority1.reg = TPTP := rfl
@[simp] theorem TPTP.priority1_w : TPTP.priority1.w = 8 := rfl
@[simp] theorem TPTP.priority1_lo : TPTP.priority1.lo = 19 := rfl
@[simp] theorem TPTP.priority2_reg : TPTP.priority2.reg = TPTP := rfl
@[simp] theorem TPTP.priority2_w : TPTP.priority2.w = 8 := rfl
@[simp] theorem TPTP.priority2_lo : TPTP.priority2.lo = 27 := rfl
@[simp] theorem TPTP.enable_reg : TPTP.enable.reg = TPTP := rfl
@[simp] theorem TPTP.enable_w : TPTP.enable.w = 1 := rfl
@[simp] theorem TPTP.enable_lo : TPTP.enable.lo = 35 := rfl
@[simp] theorem VCFG.enable_reg : VCFG.enable.reg = VCFG := rfl
@[simp] theorem VCFG.enable_w : VCFG.enable.w = 1 := rfl
@[simp] theorem VCFG.enable_lo : VCFG.enable.lo = 0 := rfl
@[simp] theorem VCFG.star_reg : VCFG.star.reg = VCFG := rfl
@[simp] theorem VCFG.star_w : VCFG.star.w = 1 := rfl
@[simp] theorem VCFG.star_lo : VCFG.star.lo = 1 := rfl
@[simp] theorem VCFG.master_reg : VCFG.master.reg = VCFG := rfl
@[simp] theorem VCFG.master_w : VCFG.master.w = 1 := rfl
@[simp] theorem VCFG.master_lo : VCFG.master.lo = 2 := rfl
@[simp] theorem VCFG.node_reg : VCFG.node.reg = VCFG := rfl
@[simp] theorem VCFG.node_w : VCFG.node.w = 6 := rfl
@[simp] theorem VCFG.node_lo : VCFG.node.lo = 3 := rfl
@[simp] theorem VCFG.nodes_reg : VCFG.nodes.reg = VCFG := rfl
@[simp] theorem VCFG.nodes_w : VCFG.nodes.w = 7 := rfl
@[simp] theorem VCFG.nodes_lo : VCFG.nodes.lo = 9 := rfl
@[simp] theorem VSTAT.lock_a_reg : VSTAT.lock_a.reg = VSTAT := rfl
@[simp] theorem VSTAT.lock_a_w : VSTAT.lock_a.w = 1 := rfl
@[simp] theorem VSTAT.lock_a_lo : VSTAT.lock_a.lo = 0 := rfl
@[simp] theorem VSTAT.lock_b_reg : VSTAT.lock_b.reg = VSTAT := rfl
@[simp] theorem VSTAT.lock_b_w : VSTAT.lock_b.w = 1 := rfl
@[simp] theorem VSTAT.lock_b_lo : VSTAT.lock_b.lo = 1 := rfl
@[simp] theorem VSTAT.armed_reg : VSTAT.armed.reg = VSTAT := rfl
@[simp] theorem VSTAT.armed_w : VSTAT.armed.w = 1 := rfl
@[simp] theorem VSTAT.armed_lo : VSTAT.armed.lo = 2 := rfl
@[simp] theorem VSTAT.master_conflict_reg : VSTAT.master_conflict.reg = VSTAT := rfl
@[simp] theorem VSTAT.master_conflict_w : VSTAT.master_conflict.w = 1 := rfl
@[simp] theorem VSTAT.master_conflict_lo : VSTAT.master_conflict.lo = 3 := rfl
@[simp] theorem VSTAT.dup_node_reg : VSTAT.dup_node.reg = VSTAT := rfl
@[simp] theorem VSTAT.dup_node_w : VSTAT.dup_node.w = 1 := rfl
@[simp] theorem VSTAT.dup_node_lo : VSTAT.dup_node.lo = 4 := rfl
@[simp] theorem VSTAT.vote_mismatch_reg : VSTAT.vote_mismatch.reg = VSTAT := rfl
@[simp] theorem VSTAT.vote_mismatch_w : VSTAT.vote_mismatch.w = 1 := rfl
@[simp] theorem VSTAT.vote_mismatch_lo : VSTAT.vote_mismatch.lo = 5 := rfl
@[simp] theorem VSTAT.arm_refused_reg : VSTAT.arm_refused.reg = VSTAT := rfl
@[simp] theorem VSTAT.arm_refused_w : VSTAT.arm_refused.w = 1 := rfl
@[simp] theorem VSTAT.arm_refused_lo : VSTAT.arm_refused.lo = 6 := rfl
@[simp] theorem VSTAT.long_hop_reg : VSTAT.long_hop.reg = VSTAT := rfl
@[simp] theorem VSTAT.long_hop_w : VSTAT.long_hop.w = 1 := rfl
@[simp] theorem VSTAT.long_hop_lo : VSTAT.long_hop.lo = 7 := rfl
@[simp] theorem VSTAT.node_missing_reg : VSTAT.node_missing.reg = VSTAT := rfl
@[simp] theorem VSTAT.node_missing_w : VSTAT.node_missing.w = 1 := rfl
@[simp] theorem VSTAT.node_missing_lo : VSTAT.node_missing.lo = 8 := rfl
@[simp] theorem VSTAT.nodes_mismatch_reg : VSTAT.nodes_mismatch.reg = VSTAT := rfl
@[simp] theorem VSTAT.nodes_mismatch_w : VSTAT.nodes_mismatch.w = 1 := rfl
@[simp] theorem VSTAT.nodes_mismatch_lo : VSTAT.nodes_mismatch.lo = 9 := rfl
@[simp] theorem VSTAT.master_node_reg : VSTAT.master_node.reg = VSTAT := rfl
@[simp] theorem VSTAT.master_node_w : VSTAT.master_node.w = 6 := rfl
@[simp] theorem VSTAT.master_node_lo : VSTAT.master_node.lo = 16 := rfl
@[simp] theorem VTIME.sync_period_reg : VTIME.sync_period.reg = VTIME := rfl
@[simp] theorem VTIME.sync_period_w : VTIME.sync_period.w = 10 := rfl
@[simp] theorem VTIME.sync_period_lo : VTIME.sync_period.lo = 0 := rfl
@[simp] theorem VTIME.status_period_reg : VTIME.status_period.reg = VTIME := rfl
@[simp] theorem VTIME.status_period_w : VTIME.status_period.w = 10 := rfl
@[simp] theorem VTIME.status_period_lo : VTIME.status_period.lo = 10 := rfl
@[simp] theorem VTIME.delay_period_reg : VTIME.delay_period.reg = VTIME := rfl
@[simp] theorem VTIME.delay_period_w : VTIME.delay_period.w = 10 := rfl
@[simp] theorem VTIME.delay_period_lo : VTIME.delay_period.lo = 20 := rfl
@[simp] theorem VFIRE.delay_reg : VFIRE.delay.reg = VFIRE := rfl
@[simp] theorem VFIRE.delay_w : VFIRE.delay.w = 16 := rfl
@[simp] theorem VFIRE.delay_lo : VFIRE.delay.lo = 0 := rfl
@[simp] theorem VFIRE.bound_reg : VFIRE.bound.reg = VFIRE := rfl
@[simp] theorem VFIRE.bound_w : VFIRE.bound.w = 16 := rfl
@[simp] theorem VFIRE.bound_lo : VFIRE.bound.lo = 16 := rfl
@[simp] theorem VHOP0.delay_reg : VHOP0.delay.reg = VHOP0 := rfl
@[simp] theorem VHOP0.delay_w : VHOP0.delay.w = 32 := rfl
@[simp] theorem VHOP0.delay_lo : VHOP0.delay.lo = 0 := rfl
@[simp] theorem VHOP0.asym_reg : VHOP0.asym.reg = VHOP0 := rfl
@[simp] theorem VHOP0.asym_w : VHOP0.asym.w = 16 := rfl
@[simp] theorem VHOP0.asym_lo : VHOP0.asym.lo = 32 := rfl
@[simp] theorem VHOP1.delay_reg : VHOP1.delay.reg = VHOP1 := rfl
@[simp] theorem VHOP1.delay_w : VHOP1.delay.w = 32 := rfl
@[simp] theorem VHOP1.delay_lo : VHOP1.delay.lo = 0 := rfl
@[simp] theorem VHOP1.asym_reg : VHOP1.asym.reg = VHOP1 := rfl
@[simp] theorem VHOP1.asym_w : VHOP1.asym.w = 16 := rfl
@[simp] theorem VHOP1.asym_lo : VHOP1.asym.lo = 32 := rfl
@[simp] theorem VARM.armed_reg : VARM.armed.reg = VARM := rfl
@[simp] theorem VARM.armed_w : VARM.armed.w = 1 := rfl
@[simp] theorem VARM.armed_lo : VARM.armed.lo = 0 := rfl
@[simp] theorem VARM.effective_reg : VARM.effective.reg = VARM := rfl
@[simp] theorem VARM.effective_w : VARM.effective.w = 48 := rfl
@[simp] theorem VARM.effective_lo : VARM.effective.lo = 8 := rfl
@[simp] theorem VVOTE.k_reg : VVOTE.k.reg = VVOTE := rfl
@[simp] theorem VVOTE.k_w : VVOTE.k.w = 7 := rfl
@[simp] theorem VVOTE.k_lo : VVOTE.k.lo = 0 := rfl
@[simp] theorem VVOTE.window_reg : VVOTE.window.reg = VVOTE := rfl
@[simp] theorem VVOTE.window_w : VVOTE.window.w = 24 := rfl
@[simp] theorem VVOTE.window_lo : VVOTE.window.lo = 8 := rfl
@[simp] theorem VVOTE.check_reg : VVOTE.check.reg = VVOTE := rfl
@[simp] theorem VVOTE.check_w : VVOTE.check.w = 32 := rfl
@[simp] theorem VVOTE.check_lo : VVOTE.check.lo = 32 := rfl
@[simp] theorem VVMASK.voters_reg : VVMASK.voters.reg = VVMASK := rfl
@[simp] theorem VVMASK.voters_w : VVMASK.voters.w = 64 := rfl
@[simp] theorem VVMASK.voters_lo : VVMASK.voters.lo = 0 := rfl
@[simp] theorem VACT.time_reg : VACT.time.reg = VACT := rfl
@[simp] theorem VACT.time_w : VACT.time.w = 48 := rfl
@[simp] theorem VACT.time_lo : VACT.time.lo = 0 := rfl
@[simp] theorem VACT.origin_reg : VACT.origin.reg = VACT := rfl
@[simp] theorem VACT.origin_w : VACT.origin.w = 6 := rfl
@[simp] theorem VACT.origin_lo : VACT.origin.lo = 48 := rfl
@[simp] theorem VACT.rule_reg : VACT.rule.reg = VACT := rfl
@[simp] theorem VACT.rule_w : VACT.rule.w = 4 := rfl
@[simp] theorem VACT.rule_lo : VACT.rule.lo = 54 := rfl
@[simp] theorem VACT.kind_reg : VACT.kind.reg = VACT := rfl
@[simp] theorem VACT.kind_w : VACT.kind.w = 2 := rfl
@[simp] theorem VACT.kind_lo : VACT.kind.lo = 58 := rfl
@[simp] theorem VACT.valid_reg : VACT.valid.reg = VACT := rfl
@[simp] theorem VACT.valid_w : VACT.valid.w = 1 := rfl
@[simp] theorem VACT.valid_lo : VACT.valid.lo = 63 := rfl
@[simp] theorem VNODE.late_reg : VNODE.late.reg = VNODE := rfl
@[simp] theorem VNODE.late_w : VNODE.late.w = 32 := rfl
@[simp] theorem VNODE.late_lo : VNODE.late.lo = 0 := rfl
@[simp] theorem VNODE.fault_reg : VNODE.fault.reg = VNODE := rfl
@[simp] theorem VNODE.fault_w : VNODE.fault.w = 16 := rfl
@[simp] theorem VNODE.fault_lo : VNODE.fault.lo = 32 := rfl
@[simp] theorem VNODE.step_reg : VNODE.step.reg = VNODE := rfl
@[simp] theorem VNODE.step_w : VNODE.step.w = 4 := rfl
@[simp] theorem VNODE.step_lo : VNODE.step.lo = 48 := rfl
@[simp] theorem VNODE.failover_reg : VNODE.failover.reg = VNODE := rfl
@[simp] theorem VNODE.failover_w : VNODE.failover.w = 1 := rfl
@[simp] theorem VNODE.failover_lo : VNODE.failover.lo = 52 := rfl
@[simp] theorem VNODE.present_reg : VNODE.present.reg = VNODE := rfl
@[simp] theorem VNODE.present_w : VNODE.present.w = 1 := rfl
@[simp] theorem VNODE.present_lo : VNODE.present.lo = 53 := rfl
@[simp] theorem VNODE.clear_reg : VNODE.clear.reg = VNODE := rfl
@[simp] theorem VNODE.clear_w : VNODE.clear.w = 1 := rfl
@[simp] theorem VNODE.clear_lo : VNODE.clear.lo = 63 := rfl
@[simp] theorem ACQCTL.commit_reg : ACQCTL.commit.reg = ACQCTL := rfl
@[simp] theorem ACQCTL.commit_w : ACQCTL.commit.w = 1 := rfl
@[simp] theorem ACQCTL.commit_lo : ACQCTL.commit.lo = 0 := rfl
@[simp] theorem ACQCTL.stop_reg : ACQCTL.stop.reg = ACQCTL := rfl
@[simp] theorem ACQCTL.stop_w : ACQCTL.stop.w = 1 := rfl
@[simp] theorem ACQCTL.stop_lo : ACQCTL.stop.lo = 1 := rfl
@[simp] theorem ACQSTAT.running_reg : ACQSTAT.running.reg = ACQSTAT := rfl
@[simp] theorem ACQSTAT.running_w : ACQSTAT.running.w = 1 := rfl
@[simp] theorem ACQSTAT.running_lo : ACQSTAT.running.lo = 0 := rfl
@[simp] theorem ACQSTAT.code_reg : ACQSTAT.code.reg = ACQSTAT := rfl
@[simp] theorem ACQSTAT.code_w : ACQSTAT.code.w = 3 := rfl
@[simp] theorem ACQSTAT.code_lo : ACQSTAT.code.lo = 1 := rfl
@[simp] theorem ACQSTAT.refused_reg : ACQSTAT.refused.reg = ACQSTAT := rfl
@[simp] theorem ACQSTAT.refused_w : ACQSTAT.refused.w = 1 := rfl
@[simp] theorem ACQSTAT.refused_lo : ACQSTAT.refused.lo = 4 := rfl
@[simp] theorem ACQSTAT.loss_reg : ACQSTAT.loss.reg = ACQSTAT := rfl
@[simp] theorem ACQSTAT.loss_w : ACQSTAT.loss.w = 1 := rfl
@[simp] theorem ACQSTAT.loss_lo : ACQSTAT.loss.lo = 5 := rfl
@[simp] theorem ACQRATE.total_reg : ACQRATE.total.reg = ACQRATE := rfl
@[simp] theorem ACQRATE.total_w : ACQRATE.total.w = 32 := rfl
@[simp] theorem ACQRATE.total_lo : ACQRATE.total.lo = 0 := rfl
@[simp] theorem GWSTAT.present_reg : GWSTAT.present.reg = GWSTAT := rfl
@[simp] theorem GWSTAT.present_w : GWSTAT.present.w = 1 := rfl
@[simp] theorem GWSTAT.present_lo : GWSTAT.present.lo = 0 := rfl
@[simp] theorem GWSTAT.failed_reg : GWSTAT.failed.reg = GWSTAT := rfl
@[simp] theorem GWSTAT.failed_w : GWSTAT.failed.w = 1 := rfl
@[simp] theorem GWSTAT.failed_lo : GWSTAT.failed.lo = 1 := rfl
@[simp] theorem GWSTAT.ring_reg : GWSTAT.ring.reg = GWSTAT := rfl
@[simp] theorem GWSTAT.ring_w : GWSTAT.ring.w = 1 := rfl
@[simp] theorem GWSTAT.ring_lo : GWSTAT.ring.lo = 2 := rfl
@[simp] theorem GWSTAT.temp_reg : GWSTAT.temp.reg = GWSTAT := rfl
@[simp] theorem GWSTAT.temp_w : GWSTAT.temp.w = 8 := rfl
@[simp] theorem GWSTAT.temp_lo : GWSTAT.temp.lo = 8 := rfl
@[simp] theorem GWLASER.power_a_reg : GWLASER.power_a.reg = GWLASER := rfl
@[simp] theorem GWLASER.power_a_w : GWLASER.power_a.w = 10 := rfl
@[simp] theorem GWLASER.power_a_lo : GWLASER.power_a.lo = 0 := rfl
@[simp] theorem GWLASER.power_b_reg : GWLASER.power_b.reg = GWLASER := rfl
@[simp] theorem GWLASER.power_b_w : GWLASER.power_b.w = 10 := rfl
@[simp] theorem GWLASER.power_b_lo : GWLASER.power_b.lo = 10 := rfl
@[simp] theorem GWLASER.a_failed_reg : GWLASER.a_failed.reg = GWLASER := rfl
@[simp] theorem GWLASER.a_failed_w : GWLASER.a_failed.w = 1 := rfl
@[simp] theorem GWLASER.a_failed_lo : GWLASER.a_failed.lo = 20 := rfl
@[simp] theorem GWLASER.b_failed_reg : GWLASER.b_failed.reg = GWLASER := rfl
@[simp] theorem GWLASER.b_failed_w : GWLASER.b_failed.w = 1 := rfl
@[simp] theorem GWLASER.b_failed_lo : GWLASER.b_failed.lo = 21 := rfl
@[simp] theorem LCFG.peaking_reg : LCFG.peaking.reg = LCFG := rfl
@[simp] theorem LCFG.peaking_w : LCFG.peaking.w = 4 := rfl
@[simp] theorem LCFG.peaking_lo : LCFG.peaking.lo = 0 := rfl
@[simp] theorem LCFG.adapt_reg : LCFG.adapt.reg = LCFG := rfl
@[simp] theorem LCFG.adapt_w : LCFG.adapt.w = 1 := rfl
@[simp] theorem LCFG.adapt_lo : LCFG.adapt.lo = 4 := rfl
@[simp] theorem LCFG.prbs_tx_reg : LCFG.prbs_tx.reg = LCFG := rfl
@[simp] theorem LCFG.prbs_tx_w : LCFG.prbs_tx.w = 3 := rfl
@[simp] theorem LCFG.prbs_tx_lo : LCFG.prbs_tx.lo = 5 := rfl
@[simp] theorem LCFG.prbs_rx_reg : LCFG.prbs_rx.reg = LCFG := rfl
@[simp] theorem LCFG.prbs_rx_w : LCFG.prbs_rx.w = 3 := rfl
@[simp] theorem LCFG.prbs_rx_lo : LCFG.prbs_rx.lo = 8 := rfl
@[simp] theorem LCFG.loop_reg : LCFG.loop.reg = LCFG := rfl
@[simp] theorem LCFG.loop_w : LCFG.loop.w = 1 := rfl
@[simp] theorem LCFG.loop_lo : LCFG.loop.lo = 11 := rfl
@[simp] theorem LCFG.tx_off_reg : LCFG.tx_off.reg = LCFG := rfl
@[simp] theorem LCFG.tx_off_w : LCFG.tx_off.w = 1 := rfl
@[simp] theorem LCFG.tx_off_lo : LCFG.tx_off.lo = 12 := rfl
@[simp] theorem LSTAT.signal_reg : LSTAT.signal.reg = LSTAT := rfl
@[simp] theorem LSTAT.signal_w : LSTAT.signal.w = 1 := rfl
@[simp] theorem LSTAT.signal_lo : LSTAT.signal.lo = 0 := rfl
@[simp] theorem LSTAT.cdr_lock_reg : LSTAT.cdr_lock.reg = LSTAT := rfl
@[simp] theorem LSTAT.cdr_lock_w : LSTAT.cdr_lock.w = 1 := rfl
@[simp] theorem LSTAT.cdr_lock_lo : LSTAT.cdr_lock.lo = 1 := rfl
@[simp] theorem LSTAT.prbs_lock_reg : LSTAT.prbs_lock.reg = LSTAT := rfl
@[simp] theorem LSTAT.prbs_lock_w : LSTAT.prbs_lock.w = 1 := rfl
@[simp] theorem LSTAT.prbs_lock_lo : LSTAT.prbs_lock.lo = 2 := rfl
@[simp] theorem LSTAT.lock_lost_reg : LSTAT.lock_lost.reg = LSTAT := rfl
@[simp] theorem LSTAT.lock_lost_w : LSTAT.lock_lost.w = 1 := rfl
@[simp] theorem LSTAT.lock_lost_lo : LSTAT.lock_lost.lo = 3 := rfl
@[simp] theorem LSTAT.peaking_now_reg : LSTAT.peaking_now.reg = LSTAT := rfl
@[simp] theorem LSTAT.peaking_now_w : LSTAT.peaking_now.w = 4 := rfl
@[simp] theorem LSTAT.peaking_now_lo : LSTAT.peaking_now.lo = 4 := rfl
@[simp] theorem LOPT.rx_oma_reg : LOPT.rx_oma.reg = LOPT := rfl
@[simp] theorem LOPT.rx_oma_w : LOPT.rx_oma.w = 16 := rfl
@[simp] theorem LOPT.rx_oma_lo : LOPT.rx_oma.lo = 0 := rfl
@[simp] theorem LOPT.tx_oma_reg : LOPT.tx_oma.reg = LOPT := rfl
@[simp] theorem LOPT.tx_oma_w : LOPT.tx_oma.w = 16 := rfl
@[simp] theorem LOPT.tx_oma_lo : LOPT.tx_oma.lo = 16 := rfl
@[simp] theorem LINJ.kind_reg : LINJ.kind.reg = LINJ := rfl
@[simp] theorem LINJ.kind_w : LINJ.kind.w = 2 := rfl
@[simp] theorem LINJ.kind_lo : LINJ.kind.lo = 0 := rfl
@[simp] theorem LINJ.length_reg : LINJ.length.reg = LINJ := rfl
@[simp] theorem LINJ.length_w : LINJ.length.w = 6 := rfl
@[simp] theorem LINJ.length_lo : LINJ.length.lo = 2 := rfl
@[simp] theorem LINJ.symbol_reg : LINJ.symbol.reg = LINJ := rfl
@[simp] theorem LINJ.symbol_w : LINJ.symbol.w = 2 := rfl
@[simp] theorem LINJ.symbol_lo : LINJ.symbol.lo = 8 := rfl
@[simp] theorem LINJ.count_reg : LINJ.count.reg = LINJ := rfl
@[simp] theorem LINJ.count_w : LINJ.count.w = 16 := rfl
@[simp] theorem LINJ.count_lo : LINJ.count.lo = 10 := rfl
@[simp] theorem LINJ.spacing_reg : LINJ.spacing.reg = LINJ := rfl
@[simp] theorem LINJ.spacing_w : LINJ.spacing.w = 16 := rfl
@[simp] theorem LINJ.spacing_lo : LINJ.spacing.lo = 26 := rfl
@[simp] theorem LINJ.offset_reg : LINJ.offset.reg = LINJ := rfl
@[simp] theorem LINJ.offset_w : LINJ.offset.w = 9 := rfl
@[simp] theorem LINJ.offset_lo : LINJ.offset.lo = 42 := rfl
@[simp] theorem LINJ.go_reg : LINJ.go.reg = LINJ := rfl
@[simp] theorem LINJ.go_w : LINJ.go.w = 1 := rfl
@[simp] theorem LINJ.go_lo : LINJ.go.lo = 51 := rfl
@[simp] theorem LINJ.busy_reg : LINJ.busy.reg = LINJ := rfl
@[simp] theorem LINJ.busy_w : LINJ.busy.w = 1 := rfl
@[simp] theorem LINJ.busy_lo : LINJ.busy.lo = 52 := rfl
@[simp] theorem MCFG.fc_reg : MCFG.fc.reg = MCFG := rfl
@[simp] theorem MCFG.fc_w : MCFG.fc.w = 2 := rfl
@[simp] theorem MCFG.fc_lo : MCFG.fc.lo = 0 := rfl
@[simp] theorem MCFG.pause_rx_reg : MCFG.pause_rx.reg = MCFG := rfl
@[simp] theorem MCFG.pause_rx_w : MCFG.pause_rx.w = 1 := rfl
@[simp] theorem MCFG.pause_rx_lo : MCFG.pause_rx.lo = 2 := rfl
@[simp] theorem MCFG.mcast_reg : MCFG.mcast.reg = MCFG := rfl
@[simp] theorem MCFG.mcast_w : MCFG.mcast.w = 1 := rfl
@[simp] theorem MCFG.mcast_lo : MCFG.mcast.lo = 3 := rfl
@[simp] theorem MCFG.promisc_reg : MCFG.promisc.reg = MCFG := rfl
@[simp] theorem MCFG.promisc_w : MCFG.promisc.w = 1 := rfl
@[simp] theorem MCFG.promisc_lo : MCFG.promisc.lo = 4 := rfl
@[simp] theorem MCFG.default_q_reg : MCFG.default_q.reg = MCFG := rfl
@[simp] theorem MCFG.default_q_w : MCFG.default_q.w = 4 := rfl
@[simp] theorem MCFG.default_q_lo : MCFG.default_q.lo = 5 := rfl
@[simp] theorem MCFG.untagged_pcp_reg : MCFG.untagged_pcp.reg = MCFG := rfl
@[simp] theorem MCFG.untagged_pcp_w : MCFG.untagged_pcp.w = 3 := rfl
@[simp] theorem MCFG.untagged_pcp_lo : MCFG.untagged_pcp.lo = 9 := rfl
@[simp] theorem MCFG.pfc_mask_reg : MCFG.pfc_mask.reg = MCFG := rfl
@[simp] theorem MCFG.pfc_mask_w : MCFG.pfc_mask.w = 8 := rfl
@[simp] theorem MCFG.pfc_mask_lo : MCFG.pfc_mask.lo = 12 := rfl
@[simp] theorem MWM.high_reg : MWM.high.reg = MWM := rfl
@[simp] theorem MWM.high_w : MWM.high.w = 16 := rfl
@[simp] theorem MWM.high_lo : MWM.high.lo = 0 := rfl
@[simp] theorem MWM.low_reg : MWM.low.reg = MWM := rfl
@[simp] theorem MWM.low_w : MWM.low.w = 16 := rfl
@[simp] theorem MWM.low_lo : MWM.low.lo = 16 := rfl
@[simp] theorem MFILT.vid_reg : MFILT.vid.reg = MFILT := rfl
@[simp] theorem MFILT.vid_w : MFILT.vid.w = 12 := rfl
@[simp] theorem MFILT.vid_lo : MFILT.vid.lo = 0 := rfl
@[simp] theorem MFILT.vid_en_reg : MFILT.vid_en.reg = MFILT := rfl
@[simp] theorem MFILT.vid_en_w : MFILT.vid_en.w = 1 := rfl
@[simp] theorem MFILT.vid_en_lo : MFILT.vid_en.lo = 12 := rfl
@[simp] theorem MFILT.pcp_reg : MFILT.pcp.reg = MFILT := rfl
@[simp] theorem MFILT.pcp_w : MFILT.pcp.w = 3 := rfl
@[simp] theorem MFILT.pcp_lo : MFILT.pcp.lo = 13 := rfl
@[simp] theorem MFILT.pcp_en_reg : MFILT.pcp_en.reg = MFILT := rfl
@[simp] theorem MFILT.pcp_en_w : MFILT.pcp_en.w = 1 := rfl
@[simp] theorem MFILT.pcp_en_lo : MFILT.pcp_en.lo = 16 := rfl
@[simp] theorem MFILT.ethertype_reg : MFILT.ethertype.reg = MFILT := rfl
@[simp] theorem MFILT.ethertype_w : MFILT.ethertype.w = 16 := rfl
@[simp] theorem MFILT.ethertype_lo : MFILT.ethertype.lo = 17 := rfl
@[simp] theorem MFILT.et_en_reg : MFILT.et_en.reg = MFILT := rfl
@[simp] theorem MFILT.et_en_w : MFILT.et_en.w = 1 := rfl
@[simp] theorem MFILT.et_en_lo : MFILT.et_en.lo = 33 := rfl
@[simp] theorem MFILT.queue_reg : MFILT.queue.reg = MFILT := rfl
@[simp] theorem MFILT.queue_w : MFILT.queue.w = 4 := rfl
@[simp] theorem MFILT.queue_lo : MFILT.queue.lo = 34 := rfl
@[simp] theorem MFILT.drop_reg : MFILT.drop.reg = MFILT := rfl
@[simp] theorem MFILT.drop_w : MFILT.drop.w = 1 := rfl
@[simp] theorem MFILT.drop_lo : MFILT.drop.lo = 38 := rfl
@[simp] theorem MFILT.valid_reg : MFILT.valid.reg = MFILT := rfl
@[simp] theorem MFILT.valid_w : MFILT.valid.w = 1 := rfl
@[simp] theorem MFILT.valid_lo : MFILT.valid.lo = 39 := rfl
@[simp] theorem MRQ.region_reg : MRQ.region.reg = MRQ := rfl
@[simp] theorem MRQ.region_w : MRQ.region.w = 8 := rfl
@[simp] theorem MRQ.region_lo : MRQ.region.lo = 0 := rfl
@[simp] theorem MRQ.enable_reg : MRQ.enable.reg = MRQ := rfl
@[simp] theorem MRQ.enable_w : MRQ.enable.w = 1 := rfl
@[simp] theorem MRQ.enable_lo : MRQ.enable.lo = 8 := rfl
@[simp] theorem MRQ.prio_reg : MRQ.prio.reg = MRQ := rfl
@[simp] theorem MRQ.prio_w : MRQ.prio.w = 3 := rfl
@[simp] theorem MRQ.prio_lo : MRQ.prio.lo = 9 := rfl
@[simp] theorem MRQ.credit_reg : MRQ.credit.reg = MRQ := rfl
@[simp] theorem MRQ.credit_w : MRQ.credit.w = 7 := rfl
@[simp] theorem MRQ.credit_lo : MRQ.credit.lo = 12 := rfl
@[simp] theorem MRQ.index_reg : MRQ.index.reg = MRQ := rfl
@[simp] theorem MRQ.index_w : MRQ.index.w = 4 := rfl
@[simp] theorem MRQ.index_lo : MRQ.index.lo = 19 := rfl
@[simp] theorem MRQ.notify_reg : MRQ.notify.reg = MRQ := rfl
@[simp] theorem MRQ.notify_w : MRQ.notify.w = 28 := rfl
@[simp] theorem MRQ.notify_lo : MRQ.notify.lo = 23 := rfl
@[simp] theorem MTQ.notify_reg : MTQ.notify.reg = MTQ := rfl
@[simp] theorem MTQ.notify_w : MTQ.notify.w = 28 := rfl
@[simp] theorem MTQ.notify_lo : MTQ.notify.lo = 0 := rfl
@[simp] theorem MTQ.index_reg : MTQ.index.reg = MTQ := rfl
@[simp] theorem MTQ.index_w : MTQ.index.w = 4 := rfl
@[simp] theorem MTQ.index_lo : MTQ.index.lo = 28 := rfl
@[simp] theorem MTQ.credit_reg : MTQ.credit.reg = MTQ := rfl
@[simp] theorem MTQ.credit_w : MTQ.credit.w = 7 := rfl
@[simp] theorem MTQ.credit_lo : MTQ.credit.lo = 32 := rfl
@[simp] theorem MTQ.enable_reg : MTQ.enable.reg = MTQ := rfl
@[simp] theorem MTQ.enable_w : MTQ.enable.w = 1 := rfl
@[simp] theorem MTQ.enable_lo : MTQ.enable.lo = 39 := rfl
@[simp] theorem MOCC.cells_reg : MOCC.cells.reg = MOCC := rfl
@[simp] theorem MOCC.cells_w : MOCC.cells.w = 16 := rfl
@[simp] theorem MOCC.cells_lo : MOCC.cells.lo = 0 := rfl
@[simp] theorem MOCC.pausing_reg : MOCC.pausing.reg = MOCC := rfl
@[simp] theorem MOCC.pausing_w : MOCC.pausing.w = 8 := rfl
@[simp] theorem MOCC.pausing_lo : MOCC.pausing.lo = 16 := rfl
@[simp] theorem MOCC.paused_reg : MOCC.paused.reg = MOCC := rfl
@[simp] theorem MOCC.paused_w : MOCC.paused.w = 8 := rfl
@[simp] theorem MOCC.paused_lo : MOCC.paused.lo = 24 := rfl
@[simp] theorem MACPAUSE.quanta_reg : MACPAUSE.quanta.reg = MACPAUSE := rfl
@[simp] theorem MACPAUSE.quanta_w : MACPAUSE.quanta.w = 16 := rfl
@[simp] theorem MACPAUSE.quanta_lo : MACPAUSE.quanta.lo = 0 := rfl
@[simp] theorem MACPAUSE.refresh_reg : MACPAUSE.refresh.reg = MACPAUSE := rfl
@[simp] theorem MACPAUSE.refresh_w : MACPAUSE.refresh.w = 16 := rfl
@[simp] theorem MACPAUSE.refresh_lo : MACPAUSE.refresh.lo = 16 := rfl
@[simp] theorem HOSTSTAT.up_reg : HOSTSTAT.up.reg = HOSTSTAT := rfl
@[simp] theorem HOSTSTAT.up_w : HOSTSTAT.up.w = 1 := rfl
@[simp] theorem HOSTSTAT.up_lo : HOSTSTAT.up.lo = 0 := rfl
@[simp] theorem HOSTSTAT.width_reg : HOSTSTAT.width.reg = HOSTSTAT := rfl
@[simp] theorem HOSTSTAT.width_w : HOSTSTAT.width.w = 5 := rfl
@[simp] theorem HOSTSTAT.width_lo : HOSTSTAT.width.lo = 1 := rfl
@[simp] theorem HOSTSTAT.degraded_reg : HOSTSTAT.degraded.reg = HOSTSTAT := rfl
@[simp] theorem HOSTSTAT.degraded_w : HOSTSTAT.degraded.w = 1 := rfl
@[simp] theorem HOSTSTAT.degraded_lo : HOSTSTAT.degraded.lo = 6 := rfl
@[simp] theorem HOSTSTAT.rate_reg : HOSTSTAT.rate.reg = HOSTSTAT := rfl
@[simp] theorem HOSTSTAT.rate_w : HOSTSTAT.rate.w = 8 := rfl
@[simp] theorem HOSTSTAT.rate_lo : HOSTSTAT.rate.lo = 8 := rfl
@[simp] theorem HOSTCNT.oor_read_reg : HOSTCNT.oor_read.reg = HOSTCNT := rfl
@[simp] theorem HOSTCNT.oor_read_w : HOSTCNT.oor_read.w = 16 := rfl
@[simp] theorem HOSTCNT.oor_read_lo : HOSTCNT.oor_read.lo = 0 := rfl
@[simp] theorem HOSTCNT.oor_write_reg : HOSTCNT.oor_write.reg = HOSTCNT := rfl
@[simp] theorem HOSTCNT.oor_write_w : HOSTCNT.oor_write.w = 16 := rfl
@[simp] theorem HOSTCNT.oor_write_lo : HOSTCNT.oor_write.lo = 16 := rfl
@[simp] theorem HOSTCNT.link_down_reg : HOSTCNT.link_down.reg = HOSTCNT := rfl
@[simp] theorem HOSTCNT.link_down_w : HOSTCNT.link_down.w = 16 := rfl
@[simp] theorem HOSTCNT.link_down_lo : HOSTCNT.link_down.lo = 32 := rfl
@[simp] theorem HOSTCNT.poison_reg : HOSTCNT.poison.reg = HOSTCNT := rfl
@[simp] theorem HOSTCNT.poison_w : HOSTCNT.poison.w = 16 := rfl
@[simp] theorem HOSTCNT.poison_lo : HOSTCNT.poison.lo = 48 := rfl
@[simp] theorem CWSTATE.state_reg : CWSTATE.state.reg = CWSTATE := rfl
@[simp] theorem CWSTATE.state_w : CWSTATE.state.w = 2 := rfl
@[simp] theorem CWSTATE.state_lo : CWSTATE.state.lo = 0 := rfl
@[simp] theorem CWSTATE.replies_reg : CWSTATE.replies.reg = CWSTATE := rfl
@[simp] theorem CWSTATE.replies_w : CWSTATE.replies.w = 16 := rfl
@[simp] theorem CWSTATE.replies_lo : CWSTATE.replies.lo = 16 := rfl
@[simp] theorem CWCOMP.written_reg : CWCOMP.written.reg = CWCOMP := rfl
@[simp] theorem CWCOMP.written_w : CWCOMP.written.w = 32 := rfl
@[simp] theorem CWCOMP.written_lo : CWCOMP.written.lo = 0 := rfl
@[simp] theorem CWCNT.ignored_reg : CWCNT.ignored.reg = CWCNT := rfl
@[simp] theorem CWCNT.ignored_w : CWCNT.ignored.w = 16 := rfl
@[simp] theorem CWCNT.ignored_lo : CWCNT.ignored.lo = 0 := rfl
@[simp] theorem CWCNT.length_reg : CWCNT.length.reg = CWCNT := rfl
@[simp] theorem CWCNT.length_w : CWCNT.length.w = 16 := rfl
@[simp] theorem CWCNT.length_lo : CWCNT.length.lo = 16 := rfl
@[simp] theorem SECSTAT.fw_verified_reg : SECSTAT.fw_verified.reg = SECSTAT := rfl
@[simp] theorem SECSTAT.fw_verified_w : SECSTAT.fw_verified.w = 1 := rfl
@[simp] theorem SECSTAT.fw_verified_lo : SECSTAT.fw_verified.lo = 0 := rfl
@[simp] theorem SECSTAT.boot_copy_reg : SECSTAT.boot_copy.reg = SECSTAT := rfl
@[simp] theorem SECSTAT.boot_copy_w : SECSTAT.boot_copy.w = 1 := rfl
@[simp] theorem SECSTAT.boot_copy_lo : SECSTAT.boot_copy.lo = 1 := rfl
@[simp] theorem SECSTAT.identity_ready_reg : SECSTAT.identity_ready.reg = SECSTAT := rfl
@[simp] theorem SECSTAT.identity_ready_w : SECSTAT.identity_ready.w = 1 := rfl
@[simp] theorem SECSTAT.identity_ready_lo : SECSTAT.identity_ready.lo = 2 := rfl
@[simp] theorem SECSTAT.maint_open_reg : SECSTAT.maint_open.reg = SECSTAT := rfl
@[simp] theorem SECSTAT.maint_open_w : SECSTAT.maint_open.w = 1 := rfl
@[simp] theorem SECSTAT.maint_open_lo : SECSTAT.maint_open.lo = 3 := rfl
@[simp] theorem SECSTAT.op_sessions_reg : SECSTAT.op_sessions.reg = SECSTAT := rfl
@[simp] theorem SECSTAT.op_sessions_w : SECSTAT.op_sessions.w = 3 := rfl
@[simp] theorem SECSTAT.op_sessions_lo : SECSTAT.op_sessions.lo = 4 := rfl
@[simp] theorem SECSTAT.locked_out_reg : SECSTAT.locked_out.reg = SECSTAT := rfl
@[simp] theorem SECSTAT.locked_out_w : SECSTAT.locked_out.w = 1 := rfl
@[simp] theorem SECSTAT.locked_out_lo : SECSTAT.locked_out.lo = 7 := rfl
@[simp] theorem SECSTAT.rollback_reg : SECSTAT.rollback.reg = SECSTAT := rfl
@[simp] theorem SECSTAT.rollback_w : SECSTAT.rollback.w = 6 := rfl
@[simp] theorem SECSTAT.rollback_lo : SECSTAT.rollback.lo = 8 := rfl
@[simp] theorem SECPOLICY.img_sig_reg : SECPOLICY.img_sig.reg = SECPOLICY := rfl
@[simp] theorem SECPOLICY.img_sig_w : SECPOLICY.img_sig.w = 2 := rfl
@[simp] theorem SECPOLICY.img_sig_lo : SECPOLICY.img_sig.lo = 0 := rfl
@[simp] theorem SECPOLICY.maint_ops_reg : SECPOLICY.maint_ops.reg = SECPOLICY := rfl
@[simp] theorem SECPOLICY.maint_ops_w : SECPOLICY.maint_ops.w = 1 := rfl
@[simp] theorem SECPOLICY.maint_ops_lo : SECPOLICY.maint_ops.lo = 2 := rfl
@[simp] theorem SECPOLICY.attest_open_reg : SECPOLICY.attest_open.reg = SECPOLICY := rfl
@[simp] theorem SECPOLICY.attest_open_w : SECPOLICY.attest_open.w = 1 := rfl
@[simp] theorem SECPOLICY.attest_open_lo : SECPOLICY.attest_open.lo = 3 := rfl
@[simp] theorem SECPOLICY.idle_reg : SECPOLICY.idle.reg = SECPOLICY := rfl
@[simp] theorem SECPOLICY.idle_w : SECPOLICY.idle.w = 14 := rfl
@[simp] theorem SECPOLICY.idle_lo : SECPOLICY.idle.lo = 4 := rfl
@[simp] theorem SECFW.version_reg : SECFW.version.reg = SECFW := rfl
@[simp] theorem SECFW.version_w : SECFW.version.w = 32 := rfl
@[simp] theorem SECFW.version_lo : SECFW.version.lo = 0 := rfl
@[simp] theorem SECFW.digest_reg : SECFW.digest.reg = SECFW := rfl
@[simp] theorem SECFW.digest_w : SECFW.digest.w = 32 := rfl
@[simp] theorem SECFW.digest_lo : SECFW.digest.lo = 32 := rfl
@[simp] theorem SECCNT.mac_bad_reg : SECCNT.mac_bad.reg = SECCNT := rfl
@[simp] theorem SECCNT.mac_bad_w : SECCNT.mac_bad.w = 16 := rfl
@[simp] theorem SECCNT.mac_bad_lo : SECCNT.mac_bad.lo = 0 := rfl
@[simp] theorem SECCNT.auth_failed_reg : SECCNT.auth_failed.reg = SECCNT := rfl
@[simp] theorem SECCNT.auth_failed_w : SECCNT.auth_failed.w = 16 := rfl
@[simp] theorem SECCNT.auth_failed_lo : SECCNT.auth_failed.lo = 16 := rfl
@[simp] theorem SECCNT.stale_reg : SECCNT.stale.reg = SECCNT := rfl
@[simp] theorem SECCNT.stale_w : SECCNT.stale.w = 16 := rfl
@[simp] theorem SECCNT.stale_lo : SECCNT.stale.lo = 32 := rfl
@[simp] theorem SECCNT.seq_bad_reg : SECCNT.seq_bad.reg = SECCNT := rfl
@[simp] theorem SECCNT.seq_bad_w : SECCNT.seq_bad.w = 16 := rfl
@[simp] theorem SECCNT.seq_bad_lo : SECCNT.seq_bad.lo = 48 := rfl
@[simp] theorem SECSESS.id_reg : SECSESS.id.reg = SECSESS := rfl
@[simp] theorem SECSESS.id_w : SECSESS.id.w = 16 := rfl
@[simp] theorem SECSESS.id_lo : SECSESS.id.lo = 0 := rfl
@[simp] theorem SECSESS.kind_reg : SECSESS.kind.reg = SECSESS := rfl
@[simp] theorem SECSESS.kind_w : SECSESS.kind.w = 2 := rfl
@[simp] theorem SECSESS.kind_lo : SECSESS.kind.lo = 16 := rfl
@[simp] theorem SECSESS.key_reg : SECSESS.key.reg = SECSESS := rfl
@[simp] theorem SECSESS.key_w : SECSESS.key.w = 4 := rfl
@[simp] theorem SECSESS.key_lo : SECSESS.key.lo = 18 := rfl
@[simp] theorem SECSESS.next_seq_reg : SECSESS.next_seq.reg = SECSESS := rfl
@[simp] theorem SECSESS.next_seq_w : SECSESS.next_seq.w = 32 := rfl
@[simp] theorem SECSESS.next_seq_lo : SECSESS.next_seq.lo = 32 := rfl
@[simp] theorem SECKEY.id_reg : SECKEY.id.reg = SECKEY := rfl
@[simp] theorem SECKEY.id_w : SECKEY.id.w = 32 := rfl
@[simp] theorem SECKEY.id_lo : SECKEY.id.lo = 0 := rfl
@[simp] theorem SECKEY.roles_reg : SECKEY.roles.reg = SECKEY := rfl
@[simp] theorem SECKEY.roles_w : SECKEY.roles.w = 3 := rfl
@[simp] theorem SECKEY.roles_lo : SECKEY.roles.lo = 32 := rfl
@[simp] theorem SECKEY.valid_reg : SECKEY.valid.reg = SECKEY := rfl
@[simp] theorem SECKEY.valid_w : SECKEY.valid.w = 1 := rfl
@[simp] theorem SECKEY.valid_lo : SECKEY.valid.lo = 35 := rfl
@[simp] theorem IPEND.pending_reg : IPEND.pending.reg = IPEND := rfl
@[simp] theorem IPEND.pending_w : IPEND.pending.w = 32 := rfl
@[simp] theorem IPEND.pending_lo : IPEND.pending.lo = 0 := rfl
@[simp] theorem IACTIVE.active_reg : IACTIVE.active.reg = IACTIVE := rfl
@[simp] theorem IACTIVE.active_w : IACTIVE.active.w = 32 := rfl
@[simp] theorem IACTIVE.active_lo : IACTIVE.active.lo = 0 := rfl
@[simp] theorem IMASK_HUB.mask_reg : IMASK_HUB.mask.reg = IMASK_HUB := rfl
@[simp] theorem IMASK_HUB.mask_w : IMASK_HUB.mask.w = 32 := rfl
@[simp] theorem IMASK_HUB.mask_lo : IMASK_HUB.mask.lo = 0 := rfl
@[simp] theorem IMASK_HOST.mask_reg : IMASK_HOST.mask.reg = IMASK_HOST := rfl
@[simp] theorem IMASK_HOST.mask_w : IMASK_HOST.mask.w = 32 := rfl
@[simp] theorem IMASK_HOST.mask_lo : IMASK_HOST.mask.lo = 0 := rfl
@[simp] theorem IHOLD.holdoff_reg : IHOLD.holdoff.reg = IHOLD := rfl
@[simp] theorem IHOLD.holdoff_w : IHOLD.holdoff.w = 16 := rfl
@[simp] theorem IHOLD.holdoff_lo : IHOLD.holdoff.lo = 0 := rfl
@[simp] theorem IHOLD.running_reg : IHOLD.running.reg = IHOLD := rfl
@[simp] theorem IHOLD.running_w : IHOLD.running.w = 1 := rfl
@[simp] theorem IHOLD.running_lo : IHOLD.running.lo = 16 := rfl
@[simp] theorem ICLAIM.id_reg : ICLAIM.id.reg = ICLAIM := rfl
@[simp] theorem ICLAIM.id_w : ICLAIM.id.w = 10 := rfl
@[simp] theorem ICLAIM.id_lo : ICLAIM.id.lo = 0 := rfl
@[simp] theorem ICLAIM.notified_reg : ICLAIM.notified.reg = ICLAIM := rfl
@[simp] theorem ICLAIM.notified_w : ICLAIM.notified.w = 1 := rfl
@[simp] theorem ICLAIM.notified_lo : ICLAIM.notified.lo = 10 := rfl
@[simp] theorem ICOMPLETE.id_reg : ICOMPLETE.id.reg = ICOMPLETE := rfl
@[simp] theorem ICOMPLETE.id_w : ICOMPLETE.id.w = 10 := rfl
@[simp] theorem ICOMPLETE.id_lo : ICOMPLETE.id.lo = 0 := rfl
@[simp] theorem ISTRAY.count_reg : ISTRAY.count.reg = ISTRAY := rfl
@[simp] theorem ISTRAY.count_w : ISTRAY.count.w = 32 := rfl
@[simp] theorem ISTRAY.count_lo : ISTRAY.count.lo = 0 := rfl
@[simp] theorem ITGT.hub_reg : ITGT.hub.reg = ITGT := rfl
@[simp] theorem ITGT.hub_w : ITGT.hub.w = 8 := rfl
@[simp] theorem ITGT.hub_lo : ITGT.hub.lo = 0 := rfl
@[simp] theorem ITGT.host_reg : ITGT.host.reg = ITGT := rfl
@[simp] theorem ITGT.host_w : ITGT.host.w = 32 := rfl
@[simp] theorem ITGT.host_lo : ITGT.host.lo = 32 := rfl
@[simp] theorem OLMSTAT.found_reg : OLMSTAT.found.reg = OLMSTAT := rfl
@[simp] theorem OLMSTAT.found_w : OLMSTAT.found.w = 1 := rfl
@[simp] theorem OLMSTAT.found_lo : OLMSTAT.found.lo = 0 := rfl
@[simp] theorem OLMSTAT.birth_reg : OLMSTAT.birth.reg = OLMSTAT := rfl
@[simp] theorem OLMSTAT.birth_w : OLMSTAT.birth.w = 1 := rfl
@[simp] theorem OLMSTAT.birth_lo : OLMSTAT.birth.lo = 1 := rfl
@[simp] theorem OLMSTAT.new_reg : OLMSTAT.new.reg = OLMSTAT := rfl
@[simp] theorem OLMSTAT.new_w : OLMSTAT.new.w = 1 := rfl
@[simp] theorem OLMSTAT.new_lo : OLMSTAT.new.lo = 2 := rfl
@[simp] theorem OLMSEL.seq_reg : OLMSEL.seq.reg = OLMSEL := rfl
@[simp] theorem OLMSEL.seq_w : OLMSEL.seq.w = 64 := rfl
@[simp] theorem OLMSEL.seq_lo : OLMSEL.seq.lo = 0 := rfl
@[simp] theorem OLMHEAD.seq_reg : OLMHEAD.seq.reg = OLMHEAD := rfl
@[simp] theorem OLMHEAD.seq_w : OLMHEAD.seq.w = 64 := rfl
@[simp] theorem OLMHEAD.seq_lo : OLMHEAD.seq.lo = 0 := rfl
@[simp] theorem OLMTAIL.seq_reg : OLMTAIL.seq.reg = OLMTAIL := rfl
@[simp] theorem OLMTAIL.seq_w : OLMTAIL.seq.w = 64 := rfl
@[simp] theorem OLMTAIL.seq_lo : OLMTAIL.seq.lo = 0 := rfl
@[simp] theorem OLMCLOCK.hours_reg : OLMCLOCK.hours.reg = OLMCLOCK := rfl
@[simp] theorem OLMCLOCK.hours_w : OLMCLOCK.hours.w = 40 := rfl
@[simp] theorem OLMCLOCK.hours_lo : OLMCLOCK.hours.lo = 0 := rfl
@[simp] theorem OLMCLOCK.cycles_reg : OLMCLOCK.cycles.reg = OLMCLOCK := rfl
@[simp] theorem OLMCLOCK.cycles_w : OLMCLOCK.cycles.w = 24 := rfl
@[simp] theorem OLMCLOCK.cycles_lo : OLMCLOCK.cycles.lo = 40 := rfl
@[simp] theorem OLMRATE.rate_reg : OLMRATE.rate.reg = OLMRATE := rfl
@[simp] theorem OLMRATE.rate_w : OLMRATE.rate.w = 8 := rfl
@[simp] theorem OLMRATE.rate_lo : OLMRATE.rate.lo = 0 := rfl
@[simp] theorem OLMRATE.burst_reg : OLMRATE.burst.reg = OLMRATE := rfl
@[simp] theorem OLMRATE.burst_w : OLMRATE.burst.w = 8 := rfl
@[simp] theorem OLMRATE.burst_lo : OLMRATE.burst.lo = 8 := rfl
@[simp] theorem OLMSUPP.count_reg : OLMSUPP.count.reg = OLMSUPP := rfl
@[simp] theorem OLMSUPP.count_w : OLMSUPP.count.w = 32 := rfl
@[simp] theorem OLMSUPP.count_lo : OLMSUPP.count.lo = 0 := rfl
@[simp] theorem OLMOVR.code_reg : OLMOVR.code.reg = OLMOVR := rfl
@[simp] theorem OLMOVR.code_w : OLMOVR.code.w = 16 := rfl
@[simp] theorem OLMOVR.code_lo : OLMOVR.code.lo = 0 := rfl
@[simp] theorem OLMOVR.rate_reg : OLMOVR.rate.reg = OLMOVR := rfl
@[simp] theorem OLMOVR.rate_w : OLMOVR.rate.w = 8 := rfl
@[simp] theorem OLMOVR.rate_lo : OLMOVR.rate.lo = 16 := rfl
@[simp] theorem OLMOVR.burst_reg : OLMOVR.burst.reg = OLMOVR := rfl
@[simp] theorem OLMOVR.burst_w : OLMOVR.burst.w = 8 := rfl
@[simp] theorem OLMOVR.burst_lo : OLMOVR.burst.lo = 24 := rfl
@[simp] theorem PWRSTAT.alert_mod_reg : PWRSTAT.alert_mod.reg = PWRSTAT := rfl
@[simp] theorem PWRSTAT.alert_mod_w : PWRSTAT.alert_mod.w = 1 := rfl
@[simp] theorem PWRSTAT.alert_mod_lo : PWRSTAT.alert_mod.lo = 0 := rfl
@[simp] theorem PWRSTAT.alert_rack_reg : PWRSTAT.alert_rack.reg = PWRSTAT := rfl
@[simp] theorem PWRSTAT.alert_rack_w : PWRSTAT.alert_rack.w = 1 := rfl
@[simp] theorem PWRSTAT.alert_rack_lo : PWRSTAT.alert_rack.lo = 1 := rfl
@[simp] theorem PWRSTAT.forced_reg : PWRSTAT.forced.reg = PWRSTAT := rfl
@[simp] theorem PWRSTAT.forced_w : PWRSTAT.forced.w = 1 := rfl
@[simp] theorem PWRSTAT.forced_lo : PWRSTAT.forced.lo = 2 := rfl
@[simp] theorem PWRSTAT.alert_seen_reg : PWRSTAT.alert_seen.reg = PWRSTAT := rfl
@[simp] theorem PWRSTAT.alert_seen_w : PWRSTAT.alert_seen.w = 1 := rfl
@[simp] theorem PWRSTAT.alert_seen_lo : PWRSTAT.alert_seen.lo = 3 := rfl
@[simp] theorem PWRSTAT.therm_seen_reg : PWRSTAT.therm_seen.reg = PWRSTAT := rfl
@[simp] theorem PWRSTAT.therm_seen_w : PWRSTAT.therm_seen.w = 1 := rfl
@[simp] theorem PWRSTAT.therm_seen_lo : PWRSTAT.therm_seen.lo = 4 := rfl
@[simp] theorem PWRSTAT.cap_unmet_reg : PWRSTAT.cap_unmet.reg = PWRSTAT := rfl
@[simp] theorem PWRSTAT.cap_unmet_w : PWRSTAT.cap_unmet.w = 1 := rfl
@[simp] theorem PWRSTAT.cap_unmet_lo : PWRSTAT.cap_unmet.lo = 5 := rfl
@[simp] theorem PWRSTAT.droop_long_reg : PWRSTAT.droop_long.reg = PWRSTAT := rfl
@[simp] theorem PWRSTAT.droop_long_w : PWRSTAT.droop_long.w = 1 := rfl
@[simp] theorem PWRSTAT.droop_long_lo : PWRSTAT.droop_long.lo = 6 := rfl
@[simp] theorem PWRIN.volts_reg : PWRIN.volts.reg = PWRIN := rfl
@[simp] theorem PWRIN.volts_w : PWRIN.volts.w = 16 := rfl
@[simp] theorem PWRIN.volts_lo : PWRIN.volts.lo = 0 := rfl
@[simp] theorem PWRIN.amps_reg : PWRIN.amps.reg = PWRIN := rfl
@[simp] theorem PWRIN.amps_w : PWRIN.amps.w = 16 := rfl
@[simp] theorem PWRIN.amps_lo : PWRIN.amps.lo = 16 := rfl
@[simp] theorem PWRIN.p10_reg : PWRIN.p10.reg = PWRIN := rfl
@[simp] theorem PWRIN.p10_w : PWRIN.p10.w = 16 := rfl
@[simp] theorem PWRIN.p10_lo : PWRIN.p10.lo = 32 := rfl
@[simp] theorem PWRIN.w_reg : PWRIN.w.reg = PWRIN := rfl
@[simp] theorem PWRIN.w_w : PWRIN.w.w = 16 := rfl
@[simp] theorem PWRIN.w_lo : PWRIN.w.lo = 48 := rfl
@[simp] theorem PWRCAP.cap_reg : PWRCAP.cap.reg = PWRCAP := rfl
@[simp] theorem PWRCAP.cap_w : PWRCAP.cap.w = 10 := rfl
@[simp] theorem PWRCAP.cap_lo : PWRCAP.cap.lo = 0 := rfl
@[simp] theorem PWRCAP.window_reg : PWRCAP.window.reg = PWRCAP := rfl
@[simp] theorem PWRCAP.window_w : PWRCAP.window.w = 7 := rfl
@[simp] theorem PWRCAP.window_lo : PWRCAP.window.lo = 10 := rfl
@[simp] theorem PWRCAP.peak_guard_reg : PWRCAP.peak_guard.reg = PWRCAP := rfl
@[simp] theorem PWRCAP.peak_guard_w : PWRCAP.peak_guard.w = 10 := rfl
@[simp] theorem PWRCAP.peak_guard_lo : PWRCAP.peak_guard.lo = 17 := rfl
@[simp] theorem PWRCAP.margin_reg : PWRCAP.margin.reg = PWRCAP := rfl
@[simp] theorem PWRCAP.margin_w : PWRCAP.margin.w = 5 := rfl
@[simp] theorem PWRCAP.margin_lo : PWRCAP.margin.lo = 27 := rfl
@[simp] theorem PWRSLOPE.interval_reg : PWRSLOPE.interval.reg = PWRSLOPE := rfl
@[simp] theorem PWRSLOPE.interval_w : PWRSLOPE.interval.w = 8 := rfl
@[simp] theorem PWRSLOPE.interval_lo : PWRSLOPE.interval.lo = 0 := rfl
@[simp] theorem PWRSLOPE.alert_hold_reg : PWRSLOPE.alert_hold.reg = PWRSLOPE := rfl
@[simp] theorem PWRSLOPE.alert_hold_w : PWRSLOPE.alert_hold.w = 8 := rfl
@[simp] theorem PWRSLOPE.alert_hold_lo : PWRSLOPE.alert_hold.lo = 8 := rfl
@[simp] theorem PWRSLOPE.droop_thresh_reg : PWRSLOPE.droop_thresh.reg = PWRSLOPE := rfl
@[simp] theorem PWRSLOPE.droop_thresh_w : PWRSLOPE.droop_thresh.w = 8 := rfl
@[simp] theorem PWRSLOPE.droop_thresh_lo : PWRSLOPE.droop_thresh.lo = 16 := rfl
@[simp] theorem PWRTHERM.throttle_reg : PWRTHERM.throttle.reg = PWRTHERM := rfl
@[simp] theorem PWRTHERM.throttle_w : PWRTHERM.throttle.w = 8 := rfl
@[simp] theorem PWRTHERM.throttle_lo : PWRTHERM.throttle.lo = 0 := rfl
@[simp] theorem PWRTHERM.limit_reg : PWRTHERM.limit.reg = PWRTHERM := rfl
@[simp] theorem PWRTHERM.limit_w : PWRTHERM.limit.w = 8 := rfl
@[simp] theorem PWRTHERM.limit_lo : PWRTHERM.limit.lo = 8 := rfl
@[simp] theorem PWRDIE.req_step_reg : PWRDIE.req_step.reg = PWRDIE := rfl
@[simp] theorem PWRDIE.req_step_w : PWRDIE.req_step.w = 4 := rfl
@[simp] theorem PWRDIE.req_step_lo : PWRDIE.req_step.lo = 0 := rfl
@[simp] theorem PWRDIE.step_reg : PWRDIE.step.reg = PWRDIE := rfl
@[simp] theorem PWRDIE.step_w : PWRDIE.step.w = 4 := rfl
@[simp] theorem PWRDIE.step_lo : PWRDIE.step.lo = 4 := rfl
@[simp] theorem PWRDIE.max_pacer_reg : PWRDIE.max_pacer.reg = PWRDIE := rfl
@[simp] theorem PWRDIE.max_pacer_w : PWRDIE.max_pacer.w = 4 := rfl
@[simp] theorem PWRDIE.max_pacer_lo : PWRDIE.max_pacer.lo = 8 := rfl
@[simp] theorem PWRDIE.pacer_reg : PWRDIE.pacer.reg = PWRDIE := rfl
@[simp] theorem PWRDIE.pacer_w : PWRDIE.pacer.w = 4 := rfl
@[simp] theorem PWRDIE.pacer_lo : PWRDIE.pacer.lo = 12 := rfl
@[simp] theorem PWRDIE.droop_reg : PWRDIE.droop.reg = PWRDIE := rfl
@[simp] theorem PWRDIE.droop_w : PWRDIE.droop.w = 1 := rfl
@[simp] theorem PWRDIE.droop_lo : PWRDIE.droop.lo = 16 := rfl
@[simp] theorem PWRDIE.forced_reg : PWRDIE.forced.reg = PWRDIE := rfl
@[simp] theorem PWRDIE.forced_w : PWRDIE.forced.w = 1 := rfl
@[simp] theorem PWRDIE.forced_lo : PWRDIE.forced.lo = 17 := rfl
@[simp] theorem PWRDIE.therm_limit_reg : PWRDIE.therm_limit.reg = PWRDIE := rfl
@[simp] theorem PWRDIE.therm_limit_w : PWRDIE.therm_limit.w = 1 := rfl
@[simp] theorem PWRDIE.therm_limit_lo : PWRDIE.therm_limit.lo = 18 := rfl
@[simp] theorem PWRDIE.throttle_reg : PWRDIE.throttle.reg = PWRDIE := rfl
@[simp] theorem PWRDIE.throttle_w : PWRDIE.throttle.w = 1 := rfl
@[simp] theorem PWRDIE.throttle_lo : PWRDIE.throttle.lo = 19 := rfl
@[simp] theorem PWRDIE.tj_reg : PWRDIE.tj.reg = PWRDIE := rfl
@[simp] theorem PWRDIE.tj_w : PWRDIE.tj.w = 8 := rfl
@[simp] theorem PWRDIE.tj_lo : PWRDIE.tj.lo = 20 := rfl
@[simp] theorem PWRDCNT.droops_reg : PWRDCNT.droops.reg = PWRDCNT := rfl
@[simp] theorem PWRDCNT.droops_w : PWRDCNT.droops.w = 16 := rfl
@[simp] theorem PWRDCNT.droops_lo : PWRDCNT.droops.lo = 0 := rfl
@[simp] theorem PWRDCNT.long_reg : PWRDCNT.long.reg = PWRDCNT := rfl
@[simp] theorem PWRDCNT.long_w : PWRDCNT.long.w = 16 := rfl
@[simp] theorem PWRDCNT.long_lo : PWRDCNT.long.lo = 16 := rfl
@[simp] theorem FLTSTAT.count_reg : FLTSTAT.count.reg = FLTSTAT := rfl
@[simp] theorem FLTSTAT.count_w : FLTSTAT.count.w = 6 := rfl
@[simp] theorem FLTSTAT.count_lo : FLTSTAT.count.lo = 0 := rfl
@[simp] theorem FLTSTAT.overflow_reg : FLTSTAT.overflow.reg = FLTSTAT := rfl
@[simp] theorem FLTSTAT.overflow_w : FLTSTAT.overflow.w = 1 := rfl
@[simp] theorem FLTSTAT.overflow_lo : FLTSTAT.overflow.lo = 6 := rfl
@[simp] theorem FLTSTAT.failover_reg : FLTSTAT.failover.reg = FLTSTAT := rfl
@[simp] theorem FLTSTAT.failover_w : FLTSTAT.failover.w = 1 := rfl
@[simp] theorem FLTSTAT.failover_lo : FLTSTAT.failover.lo = 7 := rfl
@[simp] theorem FLTSTAT.standby_lost_reg : FLTSTAT.standby_lost.reg = FLTSTAT := rfl
@[simp] theorem FLTSTAT.standby_lost_w : FLTSTAT.standby_lost.w = 1 := rfl
@[simp] theorem FLTSTAT.standby_lost_lo : FLTSTAT.standby_lost.lo = 8 := rfl
@[simp] theorem FLTSTAT.active_hub_reg : FLTSTAT.active_hub.reg = FLTSTAT := rfl
@[simp] theorem FLTSTAT.active_hub_w : FLTSTAT.active_hub.w = 1 := rfl
@[simp] theorem FLTSTAT.active_hub_lo : FLTSTAT.active_hub.lo = 9 := rfl
@[simp] theorem FLTREP_LO.when_reg : FLTREP_LO.when.reg = FLTREP_LO := rfl
@[simp] theorem FLTREP_LO.when_w : FLTREP_LO.when.w = 32 := rfl
@[simp] theorem FLTREP_LO.when_lo : FLTREP_LO.when.lo = 0 := rfl
@[simp] theorem FLTREP_HI.cls_reg : FLTREP_HI.cls.reg = FLTREP_HI := rfl
@[simp] theorem FLTREP_HI.cls_w : FLTREP_HI.cls.w = 8 := rfl
@[simp] theorem FLTREP_HI.cls_lo : FLTREP_HI.cls.lo = 0 := rfl
@[simp] theorem FLTREP_HI.die_reg : FLTREP_HI.die.reg = FLTREP_HI := rfl
@[simp] theorem FLTREP_HI.die_w : FLTREP_HI.die.w = 4 := rfl
@[simp] theorem FLTREP_HI.die_lo : FLTREP_HI.die.lo = 8 := rfl
@[simp] theorem FLTREP_HI.kind_reg : FLTREP_HI.kind.reg = FLTREP_HI := rfl
@[simp] theorem FLTREP_HI.kind_w : FLTREP_HI.kind.w = 3 := rfl
@[simp] theorem FLTREP_HI.kind_lo : FLTREP_HI.kind.lo = 12 := rfl
@[simp] theorem FLTREP_HI.outcome_reg : FLTREP_HI.outcome.reg = FLTREP_HI := rfl
@[simp] theorem FLTREP_HI.outcome_w : FLTREP_HI.outcome.w = 2 := rfl
@[simp] theorem FLTREP_HI.outcome_lo : FLTREP_HI.outcome.lo = 15 := rfl
@[simp] theorem FLTREP_HI.unit_reg : FLTREP_HI.unit.reg = FLTREP_HI := rfl
@[simp] theorem FLTREP_HI.unit_w : FLTREP_HI.unit.w = 14 := rfl
@[simp] theorem FLTREP_HI.unit_lo : FLTREP_HI.unit.lo = 17 := rfl
@[simp] theorem FLTREP_HI.valid_reg : FLTREP_HI.valid.reg = FLTREP_HI := rfl
@[simp] theorem FLTREP_HI.valid_w : FLTREP_HI.valid.w = 1 := rfl
@[simp] theorem FLTREP_HI.valid_lo : FLTREP_HI.valid.lo = 31 := rfl
@[simp] theorem FLTDIE.failed_reg : FLTDIE.failed.reg = FLTDIE := rfl
@[simp] theorem FLTDIE.failed_w : FLTDIE.failed.w = 16 := rfl
@[simp] theorem FLTDIE.failed_lo : FLTDIE.failed.lo = 0 := rfl
@[simp] theorem FLTCNT.masked_reg : FLTCNT.masked.reg = FLTCNT := rfl
@[simp] theorem FLTCNT.masked_w : FLTCNT.masked.w = 16 := rfl
@[simp] theorem FLTCNT.masked_lo : FLTCNT.masked.lo = 0 := rfl
@[simp] theorem FLTCNT.lost_reg : FLTCNT.lost.reg = FLTCNT := rfl
@[simp] theorem FLTCNT.lost_w : FLTCNT.lost.w = 16 := rfl
@[simp] theorem FLTCNT.lost_lo : FLTCNT.lost.lo = 16 := rfl
@[simp] theorem FLTCMAP.phys0_reg : FLTCMAP.phys0.reg = FLTCMAP := rfl
@[simp] theorem FLTCMAP.phys0_w : FLTCMAP.phys0.w = 7 := rfl
@[simp] theorem FLTCMAP.phys0_lo : FLTCMAP.phys0.lo = 0 := rfl
@[simp] theorem FLTCMAP.phys1_reg : FLTCMAP.phys1.reg = FLTCMAP := rfl
@[simp] theorem FLTCMAP.phys1_w : FLTCMAP.phys1.w = 7 := rfl
@[simp] theorem FLTCMAP.phys1_lo : FLTCMAP.phys1.lo = 8 := rfl
@[simp] theorem FLTCMAP.phys2_reg : FLTCMAP.phys2.reg = FLTCMAP := rfl
@[simp] theorem FLTCMAP.phys2_w : FLTCMAP.phys2.w = 7 := rfl
@[simp] theorem FLTCMAP.phys2_lo : FLTCMAP.phys2.lo = 16 := rfl
@[simp] theorem FLTCMAP.phys3_reg : FLTCMAP.phys3.reg = FLTCMAP := rfl
@[simp] theorem FLTCMAP.phys3_w : FLTCMAP.phys3.w = 7 := rfl
@[simp] theorem FLTCMAP.phys3_lo : FLTCMAP.phys3.lo = 24 := rfl
@[simp] theorem TPSEL.source_reg : TPSEL.source.reg = TPSEL := rfl
@[simp] theorem TPSEL.source_w : TPSEL.source.w = 4 := rfl
@[simp] theorem TPSEL.source_lo : TPSEL.source.lo = 0 := rfl
@[simp] theorem TPSEL.die_reg : TPSEL.die.reg = TPSEL := rfl
@[simp] theorem TPSEL.die_w : TPSEL.die.w = 4 := rfl
@[simp] theorem TPSEL.die_lo : TPSEL.die.lo = 4 := rfl
@[simp] theorem TPSEL.cls_reg : TPSEL.cls.reg = TPSEL := rfl
@[simp] theorem TPSEL.cls_w : TPSEL.cls.w = 8 := rfl
@[simp] theorem TPSEL.cls_lo : TPSEL.cls.lo = 8 := rfl
@[simp] theorem TPSEL.unit_reg : TPSEL.unit.reg = TPSEL := rfl
@[simp] theorem TPSEL.unit_w : TPSEL.unit.w = 16 := rfl
@[simp] theorem TPSEL.unit_lo : TPSEL.unit.lo = 16 := rfl
@[simp] theorem TPSEL.div_reg : TPSEL.div.reg = TPSEL := rfl
@[simp] theorem TPSEL.div_w : TPSEL.div.w = 4 := rfl
@[simp] theorem TPSEL.div_lo : TPSEL.div.lo = 32 := rfl
@[simp] theorem TPSEL.chan_reg : TPSEL.chan.reg = TPSEL := rfl
@[simp] theorem TPSEL.chan_w : TPSEL.chan.w = 4 := rfl
@[simp] theorem TPSEL.chan_lo : TPSEL.chan.lo = 36 := rfl
@[simp] theorem BOOTSTAT.stage_reg : BOOTSTAT.stage.reg = BOOTSTAT := rfl
@[simp] theorem BOOTSTAT.stage_w : BOOTSTAT.stage.w = 4 := rfl
@[simp] theorem BOOTSTAT.stage_lo : BOOTSTAT.stage.lo = 0 := rfl
@[simp] theorem BOOTSTAT.fallback_reg : BOOTSTAT.fallback.reg = BOOTSTAT := rfl
@[simp] theorem BOOTSTAT.fallback_w : BOOTSTAT.fallback.w = 1 := rfl
@[simp] theorem BOOTSTAT.fallback_lo : BOOTSTAT.fallback.lo = 4 := rfl
@[simp] theorem BOOTSTAT.recovery_reg : BOOTSTAT.recovery.reg = BOOTSTAT := rfl
@[simp] theorem BOOTSTAT.recovery_w : BOOTSTAT.recovery.w = 1 := rfl
@[simp] theorem BOOTSTAT.recovery_lo : BOOTSTAT.recovery.lo = 5 := rfl
@[simp] theorem BOOTSTAT.host_loaded_reg : BOOTSTAT.host_loaded.reg = BOOTSTAT := rfl
@[simp] theorem BOOTSTAT.host_loaded_w : BOOTSTAT.host_loaded.w = 1 := rfl
@[simp] theorem BOOTSTAT.host_loaded_lo : BOOTSTAT.host_loaded.lo = 6 := rfl
@[simp] theorem BOOTSTAT.elapsed_reg : BOOTSTAT.elapsed.reg = BOOTSTAT := rfl
@[simp] theorem BOOTSTAT.elapsed_w : BOOTSTAT.elapsed.w = 32 := rfl
@[simp] theorem BOOTSTAT.elapsed_lo : BOOTSTAT.elapsed.lo = 32 := rfl
@[simp] theorem RSTCAUSE.cause_reg : RSTCAUSE.cause.reg = RSTCAUSE := rfl
@[simp] theorem RSTCAUSE.cause_w : RSTCAUSE.cause.w = 3 := rfl
@[simp] theorem RSTCAUSE.cause_lo : RSTCAUSE.cause.lo = 0 := rfl
@[simp] theorem SSCCFG.lpddr_ssc_reg : SSCCFG.lpddr_ssc.reg = SSCCFG := rfl
@[simp] theorem SSCCFG.lpddr_ssc_w : SSCCFG.lpddr_ssc.w = 1 := rfl
@[simp] theorem SSCCFG.lpddr_ssc_lo : SSCCFG.lpddr_ssc.lo = 0 := rfl
@[simp] theorem GCNT_RELEASED.count_reg : GCNT_RELEASED.count.reg = GCNT_RELEASED := rfl
@[simp] theorem GCNT_RELEASED.count_w : GCNT_RELEASED.count.w = 64 := rfl
@[simp] theorem GCNT_RELEASED.count_lo : GCNT_RELEASED.count.lo = 0 := rfl
@[simp] theorem GCNT_LATE.count_reg : GCNT_LATE.count.reg = GCNT_LATE := rfl
@[simp] theorem GCNT_LATE.count_w : GCNT_LATE.count.w = 32 := rfl
@[simp] theorem GCNT_LATE.count_lo : GCNT_LATE.count.lo = 0 := rfl
@[simp] theorem GCNT_FAULT.count_reg : GCNT_FAULT.count.reg = GCNT_FAULT := rfl
@[simp] theorem GCNT_FAULT.count_w : GCNT_FAULT.count.w = 32 := rfl
@[simp] theorem GCNT_FAULT.count_lo : GCNT_FAULT.count.lo = 0 := rfl
@[simp] theorem GCNT_MASKED.count_reg : GCNT_MASKED.count.reg = GCNT_MASKED := rfl
@[simp] theorem GCNT_MASKED.count_w : GCNT_MASKED.count.w = 32 := rfl
@[simp] theorem GCNT_MASKED.count_lo : GCNT_MASKED.count.lo = 0 := rfl
@[simp] theorem GCNT_DISCARD.count_reg : GCNT_DISCARD.count.reg = GCNT_DISCARD := rfl
@[simp] theorem GCNT_DISCARD.count_w : GCNT_DISCARD.count.w = 32 := rfl
@[simp] theorem GCNT_DISCARD.count_lo : GCNT_DISCARD.count.lo = 0 := rfl
@[simp] theorem GCNT_OVERRUN.count_reg : GCNT_OVERRUN.count.reg = GCNT_OVERRUN := rfl
@[simp] theorem GCNT_OVERRUN.count_w : GCNT_OVERRUN.count.w = 32 := rfl
@[simp] theorem GCNT_OVERRUN.count_lo : GCNT_OVERRUN.count.lo = 0 := rfl
@[simp] theorem QDESC0.op_reg : QDESC0.op.reg = QDESC0 := rfl
@[simp] theorem QDESC0.op_w : QDESC0.op.w = 2 := rfl
@[simp] theorem QDESC0.op_lo : QDESC0.op.lo = 0 := rfl
@[simp] theorem QDESC0.src_reg : QDESC0.src.reg = QDESC0 := rfl
@[simp] theorem QDESC0.src_w : QDESC0.src.w = 2 := rfl
@[simp] theorem QDESC0.src_lo : QDESC0.src.lo = 2 := rfl
@[simp] theorem QDESC0.dst_reg : QDESC0.dst.reg = QDESC0 := rfl
@[simp] theorem QDESC0.dst_w : QDESC0.dst.w = 2 := rfl
@[simp] theorem QDESC0.dst_lo : QDESC0.dst.lo = 4 := rfl
@[simp] theorem QDESC0.sfmt_reg : QDESC0.sfmt.reg = QDESC0 := rfl
@[simp] theorem QDESC0.sfmt_w : QDESC0.sfmt.w = 5 := rfl
@[simp] theorem QDESC0.sfmt_lo : QDESC0.sfmt.lo = 6 := rfl
@[simp] theorem QDESC0.dfmt_reg : QDESC0.dfmt.reg = QDESC0 := rfl
@[simp] theorem QDESC0.dfmt_w : QDESC0.dfmt.w = 5 := rfl
@[simp] theorem QDESC0.dfmt_lo : QDESC0.dfmt.lo = 11 := rfl
@[simp] theorem QDESC0.scale_reg : QDESC0.scale.reg = QDESC0 := rfl
@[simp] theorem QDESC0.scale_w : QDESC0.scale.w = 2 := rfl
@[simp] theorem QDESC0.scale_lo : QDESC0.scale.lo = 16 := rfl
@[simp] theorem QDESC0.rot_reg : QDESC0.rot.reg = QDESC0 := rfl
@[simp] theorem QDESC0.rot_w : QDESC0.rot.w = 3 := rfl
@[simp] theorem QDESC0.rot_lo : QDESC0.rot.lo = 18 := rfl
@[simp] theorem QDESC0.rot_dir_reg : QDESC0.rot_dir.reg = QDESC0 := rfl
@[simp] theorem QDESC0.rot_dir_w : QDESC0.rot_dir.w = 1 := rfl
@[simp] theorem QDESC0.rot_dir_lo : QDESC0.rot_dir.lo = 21 := rfl
@[simp] theorem QDESC0.rnd_reg : QDESC0.rnd.reg = QDESC0 := rfl
@[simp] theorem QDESC0.rnd_w : QDESC0.rnd.w = 1 := rfl
@[simp] theorem QDESC0.rnd_lo : QDESC0.rnd.lo = 22 := rfl
@[simp] theorem QDESC0.seed_src_reg : QDESC0.seed_src.reg = QDESC0 := rfl
@[simp] theorem QDESC0.seed_src_w : QDESC0.seed_src.w = 1 := rfl
@[simp] theorem QDESC0.seed_src_lo : QDESC0.seed_src.lo = 23 := rfl
@[simp] theorem QDESC0.e5m2_ieee_reg : QDESC0.e5m2_ieee.reg = QDESC0 := rfl
@[simp] theorem QDESC0.e5m2_ieee_w : QDESC0.e5m2_ieee.w = 1 := rfl
@[simp] theorem QDESC0.e5m2_ieee_lo : QDESC0.e5m2_ieee.lo = 24 := rfl
@[simp] theorem QDESC0.stats_reg : QDESC0.stats.reg = QDESC0 := rfl
@[simp] theorem QDESC0.stats_w : QDESC0.stats.w = 1 := rfl
@[simp] theorem QDESC0.stats_lo : QDESC0.stats.lo = 25 := rfl
@[simp] theorem QDESC0.xlo_reg : QDESC0.xlo.reg = QDESC0 := rfl
@[simp] theorem QDESC0.xlo_w : QDESC0.xlo.w = 8 := rfl
@[simp] theorem QDESC0.xlo_lo : QDESC0.xlo.lo = 26 := rfl
@[simp] theorem QDESC0.xhi_reg : QDESC0.xhi.reg = QDESC0 := rfl
@[simp] theorem QDESC0.xhi_w : QDESC0.xhi.w = 8 := rfl
@[simp] theorem QDESC0.xhi_lo : QDESC0.xhi.lo = 34 := rfl
@[simp] theorem QDESC0.chan_len_reg : QDESC0.chan_len.reg = QDESC0 := rfl
@[simp] theorem QDESC0.chan_len_w : QDESC0.chan_len.w = 12 := rfl
@[simp] theorem QDESC0.chan_len_lo : QDESC0.chan_len.lo = 42 := rfl
@[simp] theorem QDESC0.gexp_reg : QDESC0.gexp.reg = QDESC0 := rfl
@[simp] theorem QDESC0.gexp_w : QDESC0.gexp.w = 8 := rfl
@[simp] theorem QDESC0.gexp_lo : QDESC0.gexp.lo = 54 := rfl
@[simp] theorem QDESC1.notify_reg : QDESC1.notify.reg = QDESC1 := rfl
@[simp] theorem QDESC1.notify_w : QDESC1.notify.w = 28 := rfl
@[simp] theorem QDESC1.notify_lo : QDESC1.notify.lo = 0 := rfl
@[simp] theorem QDESC1.notify_index_reg : QDESC1.notify_index.reg = QDESC1 := rfl
@[simp] theorem QDESC1.notify_index_w : QDESC1.notify_index.w = 4 := rfl
@[simp] theorem QDESC1.notify_index_lo : QDESC1.notify_index.lo = 28 := rfl
@[simp] theorem QDESC1.credit_reg : QDESC1.credit.reg = QDESC1 := rfl
@[simp] theorem QDESC1.credit_w : QDESC1.credit.w = 7 := rfl
@[simp] theorem QDESC1.credit_lo : QDESC1.credit.lo = 32 := rfl
@[simp] theorem QDESC2.S_reg : QDESC2.S.reg = QDESC2 := rfl
@[simp] theorem QDESC2.S_w : QDESC2.S.w = 32 := rfl
@[simp] theorem QDESC2.S_lo : QDESC2.S.lo = 0 := rfl
@[simp] theorem QDESC2.Z_reg : QDESC2.Z.reg = QDESC2 := rfl
@[simp] theorem QDESC2.Z_w : QDESC2.Z.w = 16 := rfl
@[simp] theorem QDESC2.Z_lo : QDESC2.Z.lo = 32 := rfl
@[simp] theorem QDESC3.header_reg : QDESC3.header.reg = QDESC3 := rfl
@[simp] theorem QDESC3.header_w : QDESC3.header.w = 42 := rfl
@[simp] theorem QDESC3.header_lo : QDESC3.header.lo = 0 := rfl
@[simp] theorem QDESC3.n_acc_reg : QDESC3.n_acc.reg = QDESC3 := rfl
@[simp] theorem QDESC3.n_acc_w : QDESC3.n_acc.w = 12 := rfl
@[simp] theorem QDESC3.n_acc_lo : QDESC3.n_acc.lo = 42 := rfl
@[simp] theorem QDESC4.seed_reg : QDESC4.seed.reg = QDESC4 := rfl
@[simp] theorem QDESC4.seed_w : QDESC4.seed.w = 64 := rfl
@[simp] theorem QDESC4.seed_lo : QDESC4.seed.lo = 0 := rfl
@[simp] theorem QDESC5.rseed_reg : QDESC5.rseed.reg = QDESC5 := rfl
@[simp] theorem QDESC5.rseed_w : QDESC5.rseed.w = 64 := rfl
@[simp] theorem QDESC5.rseed_lo : QDESC5.rseed.lo = 0 := rfl
@[simp] theorem QDESC6.tid_reg : QDESC6.tid.reg = QDESC6 := rfl
@[simp] theorem QDESC6.tid_w : QDESC6.tid.w = 24 := rfl
@[simp] theorem QDESC6.tid_lo : QDESC6.tid.lo = 0 := rfl
@[simp] theorem QDESC6.base_reg : QDESC6.base.reg = QDESC6 := rfl
@[simp] theorem QDESC6.base_w : QDESC6.base.w = 40 := rfl
@[simp] theorem QDESC6.base_lo : QDESC6.base.lo = 24 := rfl
@[simp] theorem VRULE0.enable_reg : VRULE0.enable.reg = VRULE0 := rfl
@[simp] theorem VRULE0.enable_w : VRULE0.enable.w = 1 := rfl
@[simp] theorem VRULE0.enable_lo : VRULE0.enable.lo = 0 := rfl
@[simp] theorem VRULE0.src_reg : VRULE0.src.reg = VRULE0 := rfl
@[simp] theorem VRULE0.src_w : VRULE0.src.w = 1 := rfl
@[simp] theorem VRULE0.src_lo : VRULE0.src.lo = 1 := rfl
@[simp] theorem VRULE0.die_reg : VRULE0.die.reg = VRULE0 := rfl
@[simp] theorem VRULE0.die_w : VRULE0.die.w = 4 := rfl
@[simp] theorem VRULE0.die_lo : VRULE0.die.lo = 2 := rfl
@[simp] theorem VRULE0.gate_reg : VRULE0.gate.reg = VRULE0 := rfl
@[simp] theorem VRULE0.gate_w : VRULE0.gate.w = 6 := rfl
@[simp] theorem VRULE0.gate_lo : VRULE0.gate.lo = 6 := rfl
@[simp] theorem VRULE0.pos_reg : VRULE0.pos.reg = VRULE0 := rfl
@[simp] theorem VRULE0.pos_w : VRULE0.pos.w = 3 := rfl
@[simp] theorem VRULE0.pos_lo : VRULE0.pos.lo = 12 := rfl
@[simp] theorem VRULE0.action_reg : VRULE0.action.reg = VRULE0 := rfl
@[simp] theorem VRULE0.action_w : VRULE0.action.w = 2 := rfl
@[simp] theorem VRULE0.action_lo : VRULE0.action.lo = 15 := rfl
@[simp] theorem VRULE0.prov_reg : VRULE0.prov.reg = VRULE0 := rfl
@[simp] theorem VRULE0.prov_w : VRULE0.prov.w = 1 := rfl
@[simp] theorem VRULE0.prov_lo : VRULE0.prov.lo = 17 := rfl
@[simp] theorem VRULE0.smask_reg : VRULE0.smask.reg = VRULE0 := rfl
@[simp] theorem VRULE0.smask_w : VRULE0.smask.w = 4 := rfl
@[simp] theorem VRULE0.smask_lo : VRULE0.smask.lo = 18 := rfl
@[simp] theorem VRULE1.mask_reg : VRULE1.mask.reg = VRULE1 := rfl
@[simp] theorem VRULE1.mask_w : VRULE1.mask.w = 64 := rfl
@[simp] theorem VRULE1.mask_lo : VRULE1.mask.lo = 0 := rfl
@[simp] theorem VRULE2.value_reg : VRULE2.value.reg = VRULE2 := rfl
@[simp] theorem VRULE2.value_w : VRULE2.value.w = 64 := rfl
@[simp] theorem VRULE2.value_lo : VRULE2.value.lo = 0 := rfl
@[simp] theorem QSSE.sum_reg : QSSE.sum.reg = QSSE := rfl
@[simp] theorem QSSE.sum_w : QSSE.sum.w = 64 := rfl
@[simp] theorem QSSE.sum_lo : QSSE.sum.lo = 0 := rfl
@[simp] theorem QSCOUNT.value_reg : QSCOUNT.value.reg = QSCOUNT := rfl
@[simp] theorem QSCOUNT.value_w : QSCOUNT.value.w = 64 := rfl
@[simp] theorem QSCOUNT.value_lo : QSCOUNT.value.lo = 0 := rfl
@[simp] theorem QSMAXERR.value_reg : QSMAXERR.value.reg = QSMAXERR := rfl
@[simp] theorem QSMAXERR.value_w : QSMAXERR.value.w = 32 := rfl
@[simp] theorem QSMAXERR.value_lo : QSMAXERR.value.lo = 0 := rfl
@[simp] theorem QSSAT.value_reg : QSSAT.value.reg = QSSAT := rfl
@[simp] theorem QSSAT.value_w : QSSAT.value.w = 32 := rfl
@[simp] theorem QSSAT.value_lo : QSSAT.value.lo = 0 := rfl
@[simp] theorem QSDEGEN.value_reg : QSDEGEN.value.reg = QSDEGEN := rfl
@[simp] theorem QSDEGEN.value_w : QSDEGEN.value.w = 32 := rfl
@[simp] theorem QSDEGEN.value_lo : QSDEGEN.value.lo = 0 := rfl
@[simp] theorem QSNAN.value_reg : QSNAN.value.reg = QSNAN := rfl
@[simp] theorem QSNAN.value_w : QSNAN.value.w = 32 := rfl
@[simp] theorem QSNAN.value_lo : QSNAN.value.lo = 0 := rfl
@[simp] theorem QSTENSOR.value_reg : QSTENSOR.value.reg = QSTENSOR := rfl
@[simp] theorem QSTENSOR.value_w : QSTENSOR.value.w = 24 := rfl
@[simp] theorem QSTENSOR.value_lo : QSTENSOR.value.lo = 0 := rfl
@[simp] theorem QSSEED.value_reg : QSSEED.value.reg = QSSEED := rfl
@[simp] theorem QSSEED.value_w : QSSEED.value.w = 64 := rfl
@[simp] theorem QSSEED.value_lo : QSSEED.value.lo = 0 := rfl
@[simp] theorem QSMIN.value_reg : QSMIN.value.reg = QSMIN := rfl
@[simp] theorem QSMIN.value_w : QSMIN.value.w = 32 := rfl
@[simp] theorem QSMIN.value_lo : QSMIN.value.lo = 0 := rfl
@[simp] theorem QSMAX.value_reg : QSMAX.value.reg = QSMAX := rfl
@[simp] theorem QSMAX.value_w : QSMAX.value.w = 32 := rfl
@[simp] theorem QSMAX.value_lo : QSMAX.value.lo = 0 := rfl
@[simp] theorem PCNT_FRAMES.count_reg : PCNT_FRAMES.count.reg = PCNT_FRAMES := rfl
@[simp] theorem PCNT_FRAMES.count_w : PCNT_FRAMES.count.w = 64 := rfl
@[simp] theorem PCNT_FRAMES.count_lo : PCNT_FRAMES.count.lo = 0 := rfl
@[simp] theorem PCNT_VFAIL.count_reg : PCNT_VFAIL.count.reg = PCNT_VFAIL := rfl
@[simp] theorem PCNT_VFAIL.count_w : PCNT_VFAIL.count.w = 32 := rfl
@[simp] theorem PCNT_VFAIL.count_lo : PCNT_VFAIL.count.lo = 0 := rfl
@[simp] theorem PCNT_HBLK.count_reg : PCNT_HBLK.count.reg = PCNT_HBLK := rfl
@[simp] theorem PCNT_HBLK.count_w : PCNT_HBLK.count.w = 32 := rfl
@[simp] theorem PCNT_HBLK.count_lo : PCNT_HBLK.count.lo = 0 := rfl
@[simp] theorem PCNT_NOCRED.count_reg : PCNT_NOCRED.count.reg = PCNT_NOCRED := rfl
@[simp] theorem PCNT_NOCRED.count_w : PCNT_NOCRED.count.w = 32 := rfl
@[simp] theorem PCNT_NOCRED.count_lo : PCNT_NOCRED.count.lo = 0 := rfl
@[simp] theorem PCNT_REPLY.count_reg : PCNT_REPLY.count.reg = PCNT_REPLY := rfl
@[simp] theorem PCNT_REPLY.count_w : PCNT_REPLY.count.w = 64 := rfl
@[simp] theorem PCNT_REPLY.count_lo : PCNT_REPLY.count.lo = 0 := rfl
@[simp] theorem PCNT_PROV.count_reg : PCNT_PROV.count.reg = PCNT_PROV := rfl
@[simp] theorem PCNT_PROV.count_w : PCNT_PROV.count.w = 32 := rfl
@[simp] theorem PCNT_PROV.count_lo : PCNT_PROV.count.lo = 0 := rfl
@[simp] theorem PCNT_STOMP.count_reg : PCNT_STOMP.count.reg = PCNT_STOMP := rfl
@[simp] theorem PCNT_STOMP.count_w : PCNT_STOMP.count.w = 32 := rfl
@[simp] theorem PCNT_STOMP.count_lo : PCNT_STOMP.count.lo = 0 := rfl
@[simp] theorem PCNT_CANCEL.count_reg : PCNT_CANCEL.count.reg = PCNT_CANCEL := rfl
@[simp] theorem PCNT_CANCEL.count_w : PCNT_CANCEL.count.w = 32 := rfl
@[simp] theorem PCNT_CANCEL.count_lo : PCNT_CANCEL.count.lo = 0 := rfl
@[simp] theorem PCNT_CDROP.count_reg : PCNT_CDROP.count.reg = PCNT_CDROP := rfl
@[simp] theorem PCNT_CDROP.count_w : PCNT_CDROP.count.w = 32 := rfl
@[simp] theorem PCNT_CDROP.count_lo : PCNT_CDROP.count.lo = 0 := rfl
@[simp] theorem PCNT_SUPPR.count_reg : PCNT_SUPPR.count.reg = PCNT_SUPPR := rfl
@[simp] theorem PCNT_SUPPR.count_w : PCNT_SUPPR.count.w = 32 := rfl
@[simp] theorem PCNT_SUPPR.count_lo : PCNT_SUPPR.count.lo = 0 := rfl
@[simp] theorem PCNT_HOLD.count_reg : PCNT_HOLD.count.reg = PCNT_HOLD := rfl
@[simp] theorem PCNT_HOLD.count_w : PCNT_HOLD.count.w = 32 := rfl
@[simp] theorem PCNT_HOLD.count_lo : PCNT_HOLD.count.lo = 0 := rfl
@[simp] theorem PCNT_COLLIDE.count_reg : PCNT_COLLIDE.count.reg = PCNT_COLLIDE := rfl
@[simp] theorem PCNT_COLLIDE.count_w : PCNT_COLLIDE.count.w = 32 := rfl
@[simp] theorem PCNT_COLLIDE.count_lo : PCNT_COLLIDE.count.lo = 0 := rfl
@[simp] theorem PCNT_TAPDROP.count_reg : PCNT_TAPDROP.count.reg = PCNT_TAPDROP := rfl
@[simp] theorem PCNT_TAPDROP.count_w : PCNT_TAPDROP.count.w = 32 := rfl
@[simp] theorem PCNT_TAPDROP.count_lo : PCNT_TAPDROP.count.lo = 0 := rfl
@[simp] theorem PCNT_HCORR.count_reg : PCNT_HCORR.count.reg = PCNT_HCORR := rfl
@[simp] theorem PCNT_HCORR.count_w : PCNT_HCORR.count.w = 32 := rfl
@[simp] theorem PCNT_HCORR.count_lo : PCNT_HCORR.count.lo = 0 := rfl
@[simp] theorem PCNT_CUT.short_reg : PCNT_CUT.short.reg = PCNT_CUT := rfl
@[simp] theorem PCNT_CUT.short_w : PCNT_CUT.short.w = 11 := rfl
@[simp] theorem PCNT_CUT.short_lo : PCNT_CUT.short.lo = 0 := rfl
@[simp] theorem PCNT_CUT.overlong_reg : PCNT_CUT.overlong.reg = PCNT_CUT := rfl
@[simp] theorem PCNT_CUT.overlong_w : PCNT_CUT.overlong.w = 11 := rfl
@[simp] theorem PCNT_CUT.overlong_lo : PCNT_CUT.overlong.lo = 11 := rfl
@[simp] theorem PCNT_CUT.absent_reg : PCNT_CUT.absent.reg = PCNT_CUT := rfl
@[simp] theorem PCNT_CUT.absent_w : PCNT_CUT.absent.w = 10 := rfl
@[simp] theorem PCNT_CUT.absent_lo : PCNT_CUT.absent.lo = 22 := rfl
@[simp] theorem PCNT_LINK.substituted_reg : PCNT_LINK.substituted.reg = PCNT_LINK := rfl
@[simp] theorem PCNT_LINK.substituted_w : PCNT_LINK.substituted.w = 16 := rfl
@[simp] theorem PCNT_LINK.substituted_lo : PCNT_LINK.substituted.lo = 0 := rfl
@[simp] theorem PCNT_LINK.discarded_reg : PCNT_LINK.discarded.reg = PCNT_LINK := rfl
@[simp] theorem PCNT_LINK.discarded_w : PCNT_LINK.discarded.w = 16 := rfl
@[simp] theorem PCNT_LINK.discarded_lo : PCNT_LINK.discarded.lo = 16 := rfl
@[simp] theorem T2STAT.present_reg : T2STAT.present.reg = T2STAT := rfl
@[simp] theorem T2STAT.present_w : T2STAT.present.w = 1 := rfl
@[simp] theorem T2STAT.present_lo : T2STAT.present.lo = 0 := rfl
@[simp] theorem T2STAT.ready_reg : T2STAT.ready.reg = T2STAT := rfl
@[simp] theorem T2STAT.ready_w : T2STAT.ready.w = 1 := rfl
@[simp] theorem T2STAT.ready_lo : T2STAT.ready.lo = 1 := rfl
@[simp] theorem T2ECC.corrected_reg : T2ECC.corrected.reg = T2ECC := rfl
@[simp] theorem T2ECC.corrected_w : T2ECC.corrected.w = 32 := rfl
@[simp] theorem T2ECC.corrected_lo : T2ECC.corrected.lo = 0 := rfl
@[simp] theorem T2ECC.uncorrected_reg : T2ECC.uncorrected.reg = T2ECC := rfl
@[simp] theorem T2ECC.uncorrected_w : T2ECC.uncorrected.w = 32 := rfl
@[simp] theorem T2ECC.uncorrected_lo : T2ECC.uncorrected.lo = 32 := rfl
@[simp] theorem T2ERRADDR.address_reg : T2ERRADDR.address.reg = T2ERRADDR := rfl
@[simp] theorem T2ERRADDR.address_w : T2ERRADDR.address.w = 41 := rfl
@[simp] theorem T2ERRADDR.address_lo : T2ERRADDR.address.lo = 0 := rfl
@[simp] theorem T2ERRADDR.scrub_reg : T2ERRADDR.scrub.reg = T2ERRADDR := rfl
@[simp] theorem T2ERRADDR.scrub_w : T2ERRADDR.scrub.w = 1 := rfl
@[simp] theorem T2ERRADDR.scrub_lo : T2ERRADDR.scrub.lo = 41 := rfl
@[simp] theorem T2ERRADDR.valid_reg : T2ERRADDR.valid.reg = T2ERRADDR := rfl
@[simp] theorem T2ERRADDR.valid_w : T2ERRADDR.valid.w = 1 := rfl
@[simp] theorem T2ERRADDR.valid_lo : T2ERRADDR.valid.lo = 63 := rfl
@[simp] theorem TRAW.value_reg : TRAW.value.reg = TRAW := rfl
@[simp] theorem TRAW.value_w : TRAW.value.w = 64 := rfl
@[simp] theorem TRAW.value_lo : TRAW.value.lo = 0 := rfl
@[simp] theorem TREF.value_reg : TREF.value.reg = TREF := rfl
@[simp] theorem TREF.value_w : TREF.value.w = 64 := rfl
@[simp] theorem TREF.value_lo : TREF.value.lo = 0 := rfl
@[simp] theorem TBASE_LO.value_reg : TBASE_LO.value.reg = TBASE_LO := rfl
@[simp] theorem TBASE_LO.value_w : TBASE_LO.value.w = 64 := rfl
@[simp] theorem TBASE_LO.value_lo : TBASE_LO.value.lo = 0 := rfl
@[simp] theorem TBASE_HI.value_reg : TBASE_HI.value.reg = TBASE_HI := rfl
@[simp] theorem TBASE_HI.value_w : TBASE_HI.value.w = 32 := rfl
@[simp] theorem TBASE_HI.value_lo : TBASE_HI.value.lo = 0 := rfl
@[simp] theorem TADJ.value_reg : TADJ.value.reg = TADJ := rfl
@[simp] theorem TADJ.value_w : TADJ.value.w = 64 := rfl
@[simp] theorem TADJ.value_lo : TADJ.value.lo = 0 := rfl
@[simp] theorem TJUMP.value_reg : TJUMP.value.reg = TJUMP := rfl
@[simp] theorem TJUMP.value_w : TJUMP.value.w = 32 := rfl
@[simp] theorem TJUMP.value_lo : TJUMP.value.lo = 0 := rfl
@[simp] theorem TSET_LO.value_reg : TSET_LO.value.reg = TSET_LO := rfl
@[simp] theorem TSET_LO.value_w : TSET_LO.value.w = 64 := rfl
@[simp] theorem TSET_LO.value_lo : TSET_LO.value.lo = 0 := rfl
@[simp] theorem TSET_HI.value_reg : TSET_HI.value.reg = TSET_HI := rfl
@[simp] theorem TSET_HI.value_w : TSET_HI.value.w = 32 := rfl
@[simp] theorem TSET_HI.value_lo : TSET_HI.value.lo = 0 := rfl
@[simp] theorem TSNAP_RAW.value_reg : TSNAP_RAW.value.reg = TSNAP_RAW := rfl
@[simp] theorem TSNAP_RAW.value_w : TSNAP_RAW.value.w = 64 := rfl
@[simp] theorem TSNAP_RAW.value_lo : TSNAP_RAW.value.lo = 0 := rfl
@[simp] theorem TSNAP_LO.value_reg : TSNAP_LO.value.reg = TSNAP_LO := rfl
@[simp] theorem TSNAP_LO.value_w : TSNAP_LO.value.w = 64 := rfl
@[simp] theorem TSNAP_LO.value_lo : TSNAP_LO.value.lo = 0 := rfl
@[simp] theorem TSNAP_HI.value_reg : TSNAP_HI.value.reg = TSNAP_HI := rfl
@[simp] theorem TSNAP_HI.value_w : TSNAP_HI.value.w = 32 := rfl
@[simp] theorem TSNAP_HI.value_lo : TSNAP_HI.value.lo = 0 := rfl
@[simp] theorem TINC.tinc_reg : TINC.tinc.reg = TINC := rfl
@[simp] theorem TINC.tinc_w : TINC.tinc.w = 48 := rfl
@[simp] theorem TINC.tinc_lo : TINC.tinc.lo = 0 := rfl
@[simp] theorem TCNT.steps_reg : TCNT.steps.reg = TCNT := rfl
@[simp] theorem TCNT.steps_w : TCNT.steps.w = 16 := rfl
@[simp] theorem TCNT.steps_lo : TCNT.steps.lo = 0 := rfl
@[simp] theorem TCNT.sets_reg : TCNT.sets.reg = TCNT := rfl
@[simp] theorem TCNT.sets_w : TCNT.sets.w = 16 := rfl
@[simp] theorem TCNT.sets_lo : TCNT.sets.lo = 16 := rfl
@[simp] theorem TECFG.enable_reg : TECFG.enable.reg = TECFG := rfl
@[simp] theorem TECFG.enable_w : TECFG.enable.w = 1 := rfl
@[simp] theorem TECFG.enable_lo : TECFG.enable.lo = 0 := rfl
@[simp] theorem TECFG.mode_reg : TECFG.mode.reg = TECFG := rfl
@[simp] theorem TECFG.mode_w : TECFG.mode.w = 1 := rfl
@[simp] theorem TECFG.mode_lo : TECFG.mode.lo = 1 := rfl
@[simp] theorem TECFG.rel_reg : TECFG.rel.reg = TECFG := rfl
@[simp] theorem TECFG.rel_w : TECFG.rel.w = 1 := rfl
@[simp] theorem TECFG.rel_lo : TECFG.rel.lo = 2 := rfl
@[simp] theorem TECFG.count_reg : TECFG.count.reg = TECFG := rfl
@[simp] theorem TECFG.count_w : TECFG.count.w = 24 := rfl
@[simp] theorem TECFG.count_lo : TECFG.count.lo = 8 := rfl
@[simp] theorem TEBASE.base_reg : TEBASE.base.reg = TEBASE := rfl
@[simp] theorem TEBASE.base_w : TEBASE.base.w = 64 := rfl
@[simp] theorem TEBASE.base_lo : TEBASE.base.lo = 0 := rfl
@[simp] theorem TEPER.period_reg : TEPER.period.reg = TEPER := rfl
@[simp] theorem TEPER.period_w : TEPER.period.w = 48 := rfl
@[simp] theorem TEPER.period_lo : TEPER.period.lo = 0 := rfl
@[simp] theorem TEOCC.occurred_reg : TEOCC.occurred.reg = TEOCC := rfl
@[simp] theorem TEOCC.occurred_w : TEOCC.occurred.w = 64 := rfl
@[simp] theorem TEOCC.occurred_lo : TEOCC.occurred.lo = 0 := rfl
@[simp] theorem TIOCFG.mode_reg : TIOCFG.mode.reg = TIOCFG := rfl
@[simp] theorem TIOCFG.mode_w : TIOCFG.mode.w = 3 := rfl
@[simp] theorem TIOCFG.mode_lo : TIOCFG.mode.lo = 0 := rfl
@[simp] theorem TIOCFG.event_reg : TIOCFG.event.reg = TIOCFG := rfl
@[simp] theorem TIOCFG.event_w : TIOCFG.event.w = 4 := rfl
@[simp] theorem TIOCFG.event_lo : TIOCFG.event.lo = 3 := rfl
@[simp] theorem TIOCFG.invert_reg : TIOCFG.invert.reg = TIOCFG := rfl
@[simp] theorem TIOCFG.invert_w : TIOCFG.invert.w = 1 := rfl
@[simp] theorem TIOCFG.invert_lo : TIOCFG.invert.lo = 7 := rfl
@[simp] theorem TIOCFG.width_reg : TIOCFG.width.reg = TIOCFG := rfl
@[simp] theorem TIOCFG.width_w : TIOCFG.width.w = 16 := rfl
@[simp] theorem TIOCFG.width_lo : TIOCFG.width.lo = 8 := rfl
@[simp] theorem TIOACT.rules_reg : TIOACT.rules.reg = TIOACT := rfl
@[simp] theorem TIOACT.rules_w : TIOACT.rules.w = 16 := rfl
@[simp] theorem TIOACT.rules_lo : TIOACT.rules.lo = 0 := rfl
@[simp] theorem TIOACT.rule_reg : TIOACT.rule.reg = TIOACT := rfl
@[simp] theorem TIOACT.rule_w : TIOACT.rule.w = 4 := rfl
@[simp] theorem TIOACT.rule_lo : TIOACT.rule.lo = 16 := rfl
@[simp] theorem TIOCAP.instant_reg : TIOCAP.instant.reg = TIOCAP := rfl
@[simp] theorem TIOCAP.instant_w : TIOCAP.instant.w = 63 := rfl
@[simp] theorem TIOCAP.instant_lo : TIOCAP.instant.lo = 0 := rfl
@[simp] theorem TIOCAP.valid_reg : TIOCAP.valid.reg = TIOCAP := rfl
@[simp] theorem TIOCAP.valid_w : TIOCAP.valid.w = 1 := rfl
@[simp] theorem TIOCAP.valid_lo : TIOCAP.valid.lo = 63 := rfl
@[simp] theorem TIOCNT.overflow_reg : TIOCNT.overflow.reg = TIOCNT := rfl
@[simp] theorem TIOCNT.overflow_w : TIOCNT.overflow.w = 16 := rfl
@[simp] theorem TIOCNT.overflow_lo : TIOCNT.overflow.lo = 0 := rfl
@[simp] theorem TIOCNT.overlap_reg : TIOCNT.overlap.reg = TIOCNT := rfl
@[simp] theorem TIOCNT.overlap_w : TIOCNT.overlap.w = 16 := rfl
@[simp] theorem TIOCNT.overlap_lo : TIOCNT.overlap.lo = 16 := rfl
@[simp] theorem TXTS_LO.time_reg : TXTS_LO.time.reg = TXTS_LO := rfl
@[simp] theorem TXTS_LO.time_w : TXTS_LO.time.w = 64 := rfl
@[simp] theorem TXTS_LO.time_lo : TXTS_LO.time.lo = 0 := rfl
@[simp] theorem TXTS_HI.time_reg : TXTS_HI.time.reg = TXTS_HI := rfl
@[simp] theorem TXTS_HI.time_w : TXTS_HI.time.w = 32 := rfl
@[simp] theorem TXTS_HI.time_lo : TXTS_HI.time.lo = 0 := rfl
@[simp] theorem TXTS_HI.id_reg : TXTS_HI.id.reg = TXTS_HI := rfl
@[simp] theorem TXTS_HI.id_w : TXTS_HI.id.w = 8 := rfl
@[simp] theorem TXTS_HI.id_lo : TXTS_HI.id.lo = 32 := rfl
@[simp] theorem TXTS_HI.nosend_reg : TXTS_HI.nosend.reg = TXTS_HI := rfl
@[simp] theorem TXTS_HI.nosend_w : TXTS_HI.nosend.w = 1 := rfl
@[simp] theorem TXTS_HI.nosend_lo : TXTS_HI.nosend.lo = 40 := rfl
@[simp] theorem TXTS_HI.valid_reg : TXTS_HI.valid.reg = TXTS_HI := rfl
@[simp] theorem TXTS_HI.valid_w : TXTS_HI.valid.w = 1 := rfl
@[simp] theorem TXTS_HI.valid_lo : TXTS_HI.valid.lo = 41 := rfl
@[simp] theorem TXTSSTAT.depth_reg : TXTSSTAT.depth.reg = TXTSSTAT := rfl
@[simp] theorem TXTSSTAT.depth_w : TXTSSTAT.depth.w = 6 := rfl
@[simp] theorem TXTSSTAT.depth_lo : TXTSSTAT.depth.lo = 0 := rfl
@[simp] theorem TXTSSTAT.overflow_reg : TXTSSTAT.overflow.reg = TXTSSTAT := rfl
@[simp] theorem TXTSSTAT.overflow_w : TXTSSTAT.overflow.w = 1 := rfl
@[simp] theorem TXTSSTAT.overflow_lo : TXTSSTAT.overflow.lo = 6 := rfl
@[simp] theorem TXTSDROP.dropped_reg : TXTSDROP.dropped.reg = TXTSDROP := rfl
@[simp] theorem TXTSDROP.dropped_w : TXTSDROP.dropped.w = 32 := rfl
@[simp] theorem TXTSDROP.dropped_lo : TXTSDROP.dropped.lo = 0 := rfl
@[simp] theorem T1S_TXTS_LO.time_reg : T1S_TXTS_LO.time.reg = T1S_TXTS_LO := rfl
@[simp] theorem T1S_TXTS_LO.time_w : T1S_TXTS_LO.time.w = 64 := rfl
@[simp] theorem T1S_TXTS_LO.time_lo : T1S_TXTS_LO.time.lo = 0 := rfl
@[simp] theorem T1S_TXTS_HI.time_reg : T1S_TXTS_HI.time.reg = T1S_TXTS_HI := rfl
@[simp] theorem T1S_TXTS_HI.time_w : T1S_TXTS_HI.time.w = 32 := rfl
@[simp] theorem T1S_TXTS_HI.time_lo : T1S_TXTS_HI.time.lo = 0 := rfl
@[simp] theorem T1S_TXTS_HI.id_reg : T1S_TXTS_HI.id.reg = T1S_TXTS_HI := rfl
@[simp] theorem T1S_TXTS_HI.id_w : T1S_TXTS_HI.id.w = 8 := rfl
@[simp] theorem T1S_TXTS_HI.id_lo : T1S_TXTS_HI.id.lo = 32 := rfl
@[simp] theorem T1S_TXTS_HI.nosend_reg : T1S_TXTS_HI.nosend.reg = T1S_TXTS_HI := rfl
@[simp] theorem T1S_TXTS_HI.nosend_w : T1S_TXTS_HI.nosend.w = 1 := rfl
@[simp] theorem T1S_TXTS_HI.nosend_lo : T1S_TXTS_HI.nosend.lo = 40 := rfl
@[simp] theorem T1S_TXTS_HI.valid_reg : T1S_TXTS_HI.valid.reg = T1S_TXTS_HI := rfl
@[simp] theorem T1S_TXTS_HI.valid_w : T1S_TXTS_HI.valid.w = 1 := rfl
@[simp] theorem T1S_TXTS_HI.valid_lo : T1S_TXTS_HI.valid.lo = 41 := rfl
@[simp] theorem T1S_TXTSSTAT.depth_reg : T1S_TXTSSTAT.depth.reg = T1S_TXTSSTAT := rfl
@[simp] theorem T1S_TXTSSTAT.depth_w : T1S_TXTSSTAT.depth.w = 6 := rfl
@[simp] theorem T1S_TXTSSTAT.depth_lo : T1S_TXTSSTAT.depth.lo = 0 := rfl
@[simp] theorem T1S_TXTSSTAT.overflow_reg : T1S_TXTSSTAT.overflow.reg = T1S_TXTSSTAT := rfl
@[simp] theorem T1S_TXTSSTAT.overflow_w : T1S_TXTSSTAT.overflow.w = 1 := rfl
@[simp] theorem T1S_TXTSSTAT.overflow_lo : T1S_TXTSSTAT.overflow.lo = 6 := rfl
@[simp] theorem T1S_TXTSDROP.dropped_reg : T1S_TXTSDROP.dropped.reg = T1S_TXTSDROP := rfl
@[simp] theorem T1S_TXTSDROP.dropped_w : T1S_TXTSDROP.dropped.w = 32 := rfl
@[simp] theorem T1S_TXTSDROP.dropped_lo : T1S_TXTSDROP.dropped.lo = 0 := rfl
@[simp] theorem VCNT_BAD.count_reg : VCNT_BAD.count.reg = VCNT_BAD := rfl
@[simp] theorem VCNT_BAD.count_w : VCNT_BAD.count.w = 32 := rfl
@[simp] theorem VCNT_BAD.count_lo : VCNT_BAD.count.lo = 0 := rfl
@[simp] theorem VCNT_UNKNOWN.count_reg : VCNT_UNKNOWN.count.reg = VCNT_UNKNOWN := rfl
@[simp] theorem VCNT_UNKNOWN.count_w : VCNT_UNKNOWN.count.w = 32 := rfl
@[simp] theorem VCNT_UNKNOWN.count_lo : VCNT_UNKNOWN.count.lo = 0 := rfl
@[simp] theorem VCNT_DISARMED.count_reg : VCNT_DISARMED.count.reg = VCNT_DISARMED := rfl
@[simp] theorem VCNT_DISARMED.count_w : VCNT_DISARMED.count.w = 32 := rfl
@[simp] theorem VCNT_DISARMED.count_lo : VCNT_DISARMED.count.lo = 0 := rfl
@[simp] theorem VCNT_STATUS_DROP.count_reg : VCNT_STATUS_DROP.count.reg = VCNT_STATUS_DROP := rfl
@[simp] theorem VCNT_STATUS_DROP.count_w : VCNT_STATUS_DROP.count.w = 32 := rfl
@[simp] theorem VCNT_STATUS_DROP.count_lo : VCNT_STATUS_DROP.count.lo = 0 := rfl
@[simp] theorem VCNT_QUEUE_DROP.count_reg : VCNT_QUEUE_DROP.count.reg = VCNT_QUEUE_DROP := rfl
@[simp] theorem VCNT_QUEUE_DROP.count_w : VCNT_QUEUE_DROP.count.w = 32 := rfl
@[simp] theorem VCNT_QUEUE_DROP.count_lo : VCNT_QUEUE_DROP.count.lo = 0 := rfl
@[simp] theorem VCNT_LATE_ACT.count_reg : VCNT_LATE_ACT.count.reg = VCNT_LATE_ACT := rfl
@[simp] theorem VCNT_LATE_ACT.count_w : VCNT_LATE_ACT.count.w = 32 := rfl
@[simp] theorem VCNT_LATE_ACT.count_lo : VCNT_LATE_ACT.count.lo = 0 := rfl
@[simp] theorem VCNT_LATE_VOTE.count_reg : VCNT_LATE_VOTE.count.reg = VCNT_LATE_VOTE := rfl
@[simp] theorem VCNT_LATE_VOTE.count_w : VCNT_LATE_VOTE.count.w = 32 := rfl
@[simp] theorem VCNT_LATE_VOTE.count_lo : VCNT_LATE_VOTE.count.lo = 0 := rfl
@[simp] theorem VCNT_ACT_LOST.count_reg : VCNT_ACT_LOST.count.reg = VCNT_ACT_LOST := rfl
@[simp] theorem VCNT_ACT_LOST.count_w : VCNT_ACT_LOST.count.w = 32 := rfl
@[simp] theorem VCNT_ACT_LOST.count_lo : VCNT_ACT_LOST.count.lo = 0 := rfl
@[simp] theorem VCNT_RETRACT.retracted_reg : VCNT_RETRACT.retracted.reg = VCNT_RETRACT := rfl
@[simp] theorem VCNT_RETRACT.retracted_w : VCNT_RETRACT.retracted.w = 16 := rfl
@[simp] theorem VCNT_RETRACT.retracted_lo : VCNT_RETRACT.retracted.lo = 0 := rfl
@[simp] theorem VCNT_RETRACT.retract_late_reg : VCNT_RETRACT.retract_late.reg = VCNT_RETRACT := rfl
@[simp] theorem VCNT_RETRACT.retract_late_w : VCNT_RETRACT.retract_late.w = 16 := rfl
@[simp] theorem VCNT_RETRACT.retract_late_lo : VCNT_RETRACT.retract_late.lo = 16 := rfl
@[simp] theorem ACQDCFG.kind_reg : ACQDCFG.kind.reg = ACQDCFG := rfl
@[simp] theorem ACQDCFG.kind_w : ACQDCFG.kind.w = 2 := rfl
@[simp] theorem ACQDCFG.kind_lo : ACQDCFG.kind.lo = 0 := rfl
@[simp] theorem ACQDCFG.marks_reg : ACQDCFG.marks.reg = ACQDCFG := rfl
@[simp] theorem ACQDCFG.marks_w : ACQDCFG.marks.w = 1 := rfl
@[simp] theorem ACQDCFG.marks_lo : ACQDCFG.marks.lo = 2 := rfl
@[simp] theorem ACQDCFG.mark_budget_reg : ACQDCFG.mark_budget.reg = ACQDCFG := rfl
@[simp] theorem ACQDCFG.mark_budget_w : ACQDCFG.mark_budget.w = 16 := rfl
@[simp] theorem ACQDCFG.mark_budget_lo : ACQDCFG.mark_budget.lo = 3 := rfl
@[simp] theorem ACQDCFG.eport_reg : ACQDCFG.eport.reg = ACQDCFG := rfl
@[simp] theorem ACQDCFG.eport_w : ACQDCFG.eport.w = 9 := rfl
@[simp] theorem ACQDCFG.eport_lo : ACQDCFG.eport.lo = 19 := rfl
@[simp] theorem ACQDBASE.base_reg : ACQDBASE.base.reg = ACQDBASE := rfl
@[simp] theorem ACQDBASE.base_w : ACQDBASE.base.w = 52 := rfl
@[simp] theorem ACQDBASE.base_lo : ACQDBASE.base.lo = 12 := rfl
@[simp] theorem ACQDSIZE.size_reg : ACQDSIZE.size.reg = ACQDSIZE := rfl
@[simp] theorem ACQDSIZE.size_w : ACQDSIZE.size.w = 6 := rfl
@[simp] theorem ACQDSIZE.size_lo : ACQDSIZE.size.lo = 0 := rfl
@[simp] theorem ACQDSIZE.tail_period_reg : ACQDSIZE.tail_period.reg = ACQDSIZE := rfl
@[simp] theorem ACQDSIZE.tail_period_w : ACQDSIZE.tail_period.w = 10 := rfl
@[simp] theorem ACQDSIZE.tail_period_lo : ACQDSIZE.tail_period.lo = 6 := rfl
@[simp] theorem ACQDRES.reserve_reg : ACQDRES.reserve.reg = ACQDRES := rfl
@[simp] theorem ACQDRES.reserve_w : ACQDRES.reserve.w = 16 := rfl
@[simp] theorem ACQDRES.reserve_lo : ACQDRES.reserve.lo = 0 := rfl
@[simp] theorem ACQDTAIL.tail_reg : ACQDTAIL.tail.reg = ACQDTAIL := rfl
@[simp] theorem ACQDTAIL.tail_w : ACQDTAIL.tail.w = 58 := rfl
@[simp] theorem ACQDTAIL.tail_lo : ACQDTAIL.tail.lo = 6 := rfl
@[simp] theorem ACQDETH.P_reg : ACQDETH.P.reg = ACQDETH := rfl
@[simp] theorem ACQDETH.P_w : ACQDETH.P.w = 14 := rfl
@[simp] theorem ACQDETH.P_lo : ACQDETH.P.lo = 0 := rfl
@[simp] theorem ACQDETH.flush_reg : ACQDETH.flush.reg = ACQDETH := rfl
@[simp] theorem ACQDETH.flush_w : ACQDETH.flush.w = 10 := rfl
@[simp] theorem ACQDETH.flush_lo : ACQDETH.flush.lo = 14 := rfl
@[simp] theorem ACQDSEQ.seq_reg : ACQDSEQ.seq.reg = ACQDSEQ := rfl
@[simp] theorem ACQDSEQ.seq_w : ACQDSEQ.seq.w = 64 := rfl
@[simp] theorem ACQDSEQ.seq_lo : ACQDSEQ.seq.lo = 0 := rfl
@[simp] theorem ACQDPTR.offset_reg : ACQDPTR.offset.reg = ACQDPTR := rfl
@[simp] theorem ACQDPTR.offset_w : ACQDPTR.offset.w = 64 := rfl
@[simp] theorem ACQDPTR.offset_lo : ACQDPTR.offset.lo = 0 := rfl
@[simp] theorem ACQDCNT.dropped_reg : ACQDCNT.dropped.reg = ACQDCNT := rfl
@[simp] theorem ACQDCNT.dropped_w : ACQDCNT.dropped.w = 32 := rfl
@[simp] theorem ACQDCNT.dropped_lo : ACQDCNT.dropped.lo = 0 := rfl
@[simp] theorem ACQDCNT.marks_dropped_reg : ACQDCNT.marks_dropped.reg = ACQDCNT := rfl
@[simp] theorem ACQDCNT.marks_dropped_w : ACQDCNT.marks_dropped.w = 32 := rfl
@[simp] theorem ACQDCNT.marks_dropped_lo : ACQDCNT.marks_dropped.lo = 32 := rfl
@[simp] theorem ACQSCFG.enable_reg : ACQSCFG.enable.reg = ACQSCFG := rfl
@[simp] theorem ACQSCFG.enable_w : ACQSCFG.enable.w = 1 := rfl
@[simp] theorem ACQSCFG.enable_lo : ACQSCFG.enable.lo = 0 := rfl
@[simp] theorem ACQSCFG.kind_reg : ACQSCFG.kind.reg = ACQSCFG := rfl
@[simp] theorem ACQSCFG.kind_w : ACQSCFG.kind.w = 1 := rfl
@[simp] theorem ACQSCFG.kind_lo : ACQSCFG.kind.lo = 1 := rfl
@[simp] theorem ACQSCFG.segment_reg : ACQSCFG.segment.reg = ACQSCFG := rfl
@[simp] theorem ACQSCFG.segment_w : ACQSCFG.segment.w = 1 := rfl
@[simp] theorem ACQSCFG.segment_lo : ACQSCFG.segment.lo = 2 := rfl
@[simp] theorem ACQSCFG.armed_only_reg : ACQSCFG.armed_only.reg = ACQSCFG := rfl
@[simp] theorem ACQSCFG.armed_only_w : ACQSCFG.armed_only.w = 1 := rfl
@[simp] theorem ACQSCFG.armed_only_lo : ACQSCFG.armed_only.lo = 3 := rfl
@[simp] theorem ACQSCFG.beats_only_reg : ACQSCFG.beats_only.reg = ACQSCFG := rfl
@[simp] theorem ACQSCFG.beats_only_w : ACQSCFG.beats_only.w = 1 := rfl
@[simp] theorem ACQSCFG.beats_only_lo : ACQSCFG.beats_only.lo = 4 := rfl
@[simp] theorem ACQSCFG.dest_reg : ACQSCFG.dest.reg = ACQSCFG := rfl
@[simp] theorem ACQSCFG.dest_w : ACQSCFG.dest.w = 2 := rfl
@[simp] theorem ACQSCFG.dest_lo : ACQSCFG.dest.lo = 5 := rfl
@[simp] theorem ACQSCFG.die_reg : ACQSCFG.die.reg = ACQSCFG := rfl
@[simp] theorem ACQSCFG.die_w : ACQSCFG.die.w = 4 := rfl
@[simp] theorem ACQSCFG.die_lo : ACQSCFG.die.lo = 7 := rfl
@[simp] theorem ACQSCFG.block_reg : ACQSCFG.block.reg = ACQSCFG := rfl
@[simp] theorem ACQSCFG.block_w : ACQSCFG.block.w = 4 := rfl
@[simp] theorem ACQSCFG.block_lo : ACQSCFG.block.lo = 11 := rfl
@[simp] theorem ACQSCFG.width_reg : ACQSCFG.width.reg = ACQSCFG := rfl
@[simp] theorem ACQSCFG.width_w : ACQSCFG.width.w = 2 := rfl
@[simp] theorem ACQSCFG.width_lo : ACQSCFG.width.lo = 15 := rfl
@[simp] theorem ACQSCFG.snap_reg : ACQSCFG.snap.reg = ACQSCFG := rfl
@[simp] theorem ACQSCFG.snap_w : ACQSCFG.snap.w = 11 := rfl
@[simp] theorem ACQSCFG.snap_lo : ACQSCFG.snap.lo = 17 := rfl
@[simp] theorem ACQSCFG.fmt_reg : ACQSCFG.fmt.reg = ACQSCFG := rfl
@[simp] theorem ACQSCFG.fmt_w : ACQSCFG.fmt.w = 4 := rfl
@[simp] theorem ACQSCFG.fmt_lo : ACQSCFG.fmt.lo = 28 := rfl
@[simp] theorem ACQSCFG.offset_reg : ACQSCFG.offset.reg = ACQSCFG := rfl
@[simp] theorem ACQSCFG.offset_w : ACQSCFG.offset.w = 14 := rfl
@[simp] theorem ACQSCFG.offset_lo : ACQSCFG.offset.lo = 32 := rfl
@[simp] theorem ACQSCFG.n_reg : ACQSCFG.n.reg = ACQSCFG := rfl
@[simp] theorem ACQSCFG.n_w : ACQSCFG.n.w = 10 := rfl
@[simp] theorem ACQSCFG.n_lo : ACQSCFG.n.lo = 46 := rfl
@[simp] theorem ACQSWIN.N_reg : ACQSWIN.N.reg = ACQSWIN := rfl
@[simp] theorem ACQSWIN.N_w : ACQSWIN.N.w = 24 := rfl
@[simp] theorem ACQSWIN.N_lo : ACQSWIN.N.lo = 0 := rfl
@[simp] theorem ACQSWIN.rules_reg : ACQSWIN.rules.reg = ACQSWIN := rfl
@[simp] theorem ACQSWIN.rules_w : ACQSWIN.rules.w = 16 := rfl
@[simp] theorem ACQSWIN.rules_lo : ACQSWIN.rules.lo = 24 := rfl
@[simp] theorem ACQSTHR.threshold_reg : ACQSTHR.threshold.reg = ACQSTHR := rfl
@[simp] theorem ACQSTHR.threshold_w : ACQSTHR.threshold.w = 64 := rfl
@[simp] theorem ACQSTHR.threshold_lo : ACQSTHR.threshold.lo = 0 := rfl
@[simp] theorem ACQSSEG.pre_reg : ACQSSEG.pre.reg = ACQSSEG := rfl
@[simp] theorem ACQSSEG.pre_w : ACQSSEG.pre.w = 10 := rfl
@[simp] theorem ACQSSEG.pre_lo : ACQSSEG.pre.lo = 0 := rfl
@[simp] theorem ACQSSEG.post_reg : ACQSSEG.post.reg = ACQSSEG := rfl
@[simp] theorem ACQSSEG.post_w : ACQSSEG.post.w = 16 := rfl
@[simp] theorem ACQSSEG.post_lo : ACQSSEG.post.lo = 10 := rfl
@[simp] theorem ACQSSTAT.running_reg : ACQSSTAT.running.reg = ACQSSTAT := rfl
@[simp] theorem ACQSSTAT.running_w : ACQSSTAT.running.w = 1 := rfl
@[simp] theorem ACQSSTAT.running_lo : ACQSSTAT.running.lo = 0 := rfl
@[simp] theorem ACQSSTAT.width_stop_reg : ACQSSTAT.width_stop.reg = ACQSSTAT := rfl
@[simp] theorem ACQSSTAT.width_stop_w : ACQSSTAT.width_stop.w = 1 := rfl
@[simp] theorem ACQSSTAT.width_stop_lo : ACQSSTAT.width_stop.lo = 1 := rfl
@[simp] theorem ACQSCNT.records_reg : ACQSCNT.records.reg = ACQSCNT := rfl
@[simp] theorem ACQSCNT.records_w : ACQSCNT.records.w = 64 := rfl
@[simp] theorem ACQSCNT.records_lo : ACQSCNT.records.lo = 0 := rfl
@[simp] theorem ACQSRATE.rate_reg : ACQSRATE.rate.reg = ACQSRATE := rfl
@[simp] theorem ACQSRATE.rate_w : ACQSRATE.rate.w = 32 := rfl
@[simp] theorem ACQSRATE.rate_lo : ACQSRATE.rate.lo = 0 := rfl
@[simp] theorem ACQSSHORT.short_reg : ACQSSHORT.short.reg = ACQSSHORT := rfl
@[simp] theorem ACQSSHORT.short_w : ACQSSHORT.short.w = 32 := rfl
@[simp] theorem ACQSSHORT.short_lo : ACQSSHORT.short.lo = 0 := rfl
@[simp] theorem ACQTMPL.bytes_reg : ACQTMPL.bytes.reg = ACQTMPL := rfl
@[simp] theorem ACQTMPL.bytes_w : ACQTMPL.bytes.w = 32 := rfl
@[simp] theorem ACQTMPL.bytes_lo : ACQTMPL.bytes.lo = 0 := rfl
@[simp] theorem LPRBSBITS.bits_reg : LPRBSBITS.bits.reg = LPRBSBITS := rfl
@[simp] theorem LPRBSBITS.bits_w : LPRBSBITS.bits.w = 64 := rfl
@[simp] theorem LPRBSBITS.bits_lo : LPRBSBITS.bits.lo = 0 := rfl
@[simp] theorem LPRBSERR.errors_reg : LPRBSERR.errors.reg = LPRBSERR := rfl
@[simp] theorem LPRBSERR.errors_w : LPRBSERR.errors.w = 32 := rfl
@[simp] theorem LPRBSERR.errors_lo : LPRBSERR.errors.lo = 0 := rfl
@[simp] theorem LINJCNT.made_reg : LINJCNT.made.reg = LINJCNT := rfl
@[simp] theorem LINJCNT.made_w : LINJCNT.made.w = 32 := rfl
@[simp] theorem LINJCNT.made_lo : LINJCNT.made.lo = 0 := rfl
@[simp] theorem MRQSEQ.seq_reg : MRQSEQ.seq.reg = MRQSEQ := rfl
@[simp] theorem MRQSEQ.seq_w : MRQSEQ.seq.w = 48 := rfl
@[simp] theorem MRQSEQ.seq_lo : MRQSEQ.seq.lo = 0 := rfl
@[simp] theorem MCNT_RX.count_reg : MCNT_RX.count.reg = MCNT_RX := rfl
@[simp] theorem MCNT_RX.count_w : MCNT_RX.count.w = 64 := rfl
@[simp] theorem MCNT_RX.count_lo : MCNT_RX.count.lo = 0 := rfl
@[simp] theorem MCNT_TX.count_reg : MCNT_TX.count.reg = MCNT_TX := rfl
@[simp] theorem MCNT_TX.count_w : MCNT_TX.count.w = 64 := rfl
@[simp] theorem MCNT_TX.count_lo : MCNT_TX.count.lo = 0 := rfl
@[simp] theorem MCNT_FCS.count_reg : MCNT_FCS.count.reg = MCNT_FCS := rfl
@[simp] theorem MCNT_FCS.count_w : MCNT_FCS.count.w = 32 := rfl
@[simp] theorem MCNT_FCS.count_lo : MCNT_FCS.count.lo = 0 := rfl
@[simp] theorem MCNT_SIZE.count_reg : MCNT_SIZE.count.reg = MCNT_SIZE := rfl
@[simp] theorem MCNT_SIZE.count_w : MCNT_SIZE.count.w = 32 := rfl
@[simp] theorem MCNT_SIZE.count_lo : MCNT_SIZE.count.lo = 0 := rfl
@[simp] theorem MCNT_FILTERED.count_reg : MCNT_FILTERED.count.reg = MCNT_FILTERED := rfl
@[simp] theorem MCNT_FILTERED.count_w : MCNT_FILTERED.count.w = 32 := rfl
@[simp] theorem MCNT_FILTERED.count_lo : MCNT_FILTERED.count.lo = 0 := rfl
@[simp] theorem MCNT_NOMEM.count_reg : MCNT_NOMEM.count.reg = MCNT_NOMEM := rfl
@[simp] theorem MCNT_NOMEM.count_w : MCNT_NOMEM.count.w = 32 := rfl
@[simp] theorem MCNT_NOMEM.count_lo : MCNT_NOMEM.count.lo = 0 := rfl
@[simp] theorem MCNT_PAUSETX.count_reg : MCNT_PAUSETX.count.reg = MCNT_PAUSETX := rfl
@[simp] theorem MCNT_PAUSETX.count_w : MCNT_PAUSETX.count.w = 32 := rfl
@[simp] theorem MCNT_PAUSETX.count_lo : MCNT_PAUSETX.count.lo = 0 := rfl
@[simp] theorem MCNT_PAUSERX.count_reg : MCNT_PAUSERX.count.reg = MCNT_PAUSERX := rfl
@[simp] theorem MCNT_PAUSERX.count_w : MCNT_PAUSERX.count.w = 32 := rfl
@[simp] theorem MCNT_PAUSERX.count_lo : MCNT_PAUSERX.count.lo = 0 := rfl
@[simp] theorem MCNT_TXERR.count_reg : MCNT_TXERR.count.reg = MCNT_TXERR := rfl
@[simp] theorem MCNT_TXERR.count_w : MCNT_TXERR.count.w = 32 := rfl
@[simp] theorem MCNT_TXERR.count_lo : MCNT_TXERR.count.lo = 0 := rfl
@[simp] theorem MCNT_RELERR.count_reg : MCNT_RELERR.count.reg = MCNT_RELERR := rfl
@[simp] theorem MCNT_RELERR.count_w : MCNT_RELERR.count.w = 32 := rfl
@[simp] theorem MCNT_RELERR.count_lo : MCNT_RELERR.count.lo = 0 := rfl
@[simp] theorem MACADDR.address_reg : MACADDR.address.reg = MACADDR := rfl
@[simp] theorem MACADDR.address_w : MACADDR.address.w = 48 := rfl
@[simp] theorem MACADDR.address_lo : MACADDR.address.lo = 0 := rfl
@[simp] theorem T1SCFG.enable_reg : T1SCFG.enable.reg = T1SCFG := rfl
@[simp] theorem T1SCFG.enable_w : T1SCFG.enable.w = 1 := rfl
@[simp] theorem T1SCFG.enable_lo : T1SCFG.enable.lo = 0 := rfl
@[simp] theorem T1SCFG.promisc_reg : T1SCFG.promisc.reg = T1SCFG := rfl
@[simp] theorem T1SCFG.promisc_w : T1SCFG.promisc.w = 1 := rfl
@[simp] theorem T1SCFG.promisc_lo : T1SCFG.promisc.lo = 1 := rfl
@[simp] theorem T1SCFG.mcast_reg : T1SCFG.mcast.reg = T1SCFG := rfl
@[simp] theorem T1SCFG.mcast_w : T1SCFG.mcast.w = 1 := rfl
@[simp] theorem T1SCFG.mcast_lo : T1SCFG.mcast.lo = 2 := rfl
@[simp] theorem T1SADDR.address_reg : T1SADDR.address.reg = T1SADDR := rfl
@[simp] theorem T1SADDR.address_w : T1SADDR.address.w = 48 := rfl
@[simp] theorem T1SADDR.address_lo : T1SADDR.address.lo = 0 := rfl
@[simp] theorem T1SSTAT.carrier_reg : T1SSTAT.carrier.reg = T1SSTAT := rfl
@[simp] theorem T1SSTAT.carrier_w : T1SSTAT.carrier.w = 1 := rfl
@[simp] theorem T1SSTAT.carrier_lo : T1SSTAT.carrier.lo = 0 := rfl
@[simp] theorem T1SSTAT.tx_busy_reg : T1SSTAT.tx_busy.reg = T1SSTAT := rfl
@[simp] theorem T1SSTAT.tx_busy_w : T1SSTAT.tx_busy.w = 1 := rfl
@[simp] theorem T1SSTAT.tx_busy_lo : T1SSTAT.tx_busy.lo = 1 := rfl
@[simp] theorem T1SSTAT.rxq_full_reg : T1SSTAT.rxq_full.reg = T1SSTAT := rfl
@[simp] theorem T1SSTAT.rxq_full_w : T1SSTAT.rxq_full.w = 1 := rfl
@[simp] theorem T1SSTAT.rxq_full_lo : T1SSTAT.rxq_full.lo = 2 := rfl
@[simp] theorem T1SCNT.collisions_reg : T1SCNT.collisions.reg = T1SCNT := rfl
@[simp] theorem T1SCNT.collisions_w : T1SCNT.collisions.w = 16 := rfl
@[simp] theorem T1SCNT.collisions_lo : T1SCNT.collisions.lo = 0 := rfl
@[simp] theorem T1SCNT.excessive_reg : T1SCNT.excessive.reg = T1SCNT := rfl
@[simp] theorem T1SCNT.excessive_w : T1SCNT.excessive.w = 16 := rfl
@[simp] theorem T1SCNT.excessive_lo : T1SCNT.excessive.lo = 16 := rfl
@[simp] theorem T1SCNT.late_reg : T1SCNT.late.reg = T1SCNT := rfl
@[simp] theorem T1SCNT.late_w : T1SCNT.late.w = 16 := rfl
@[simp] theorem T1SCNT.late_lo : T1SCNT.late.lo = 32 := rfl
@[simp] theorem T1SCNT.fcs_reg : T1SCNT.fcs.reg = T1SCNT := rfl
@[simp] theorem T1SCNT.fcs_w : T1SCNT.fcs.w = 16 := rfl
@[simp] theorem T1SCNT.fcs_lo : T1SCNT.fcs.lo = 48 := rfl
@[simp] theorem OLMWIN.bytes_reg : OLMWIN.bytes.reg = OLMWIN := rfl
@[simp] theorem OLMWIN.bytes_w : OLMWIN.bytes.w = 32 := rfl
@[simp] theorem OLMWIN.bytes_lo : OLMWIN.bytes.lo = 0 := rfl
@[simp] theorem MSIXADDR.address_reg : MSIXADDR.address.reg = MSIXADDR := rfl
@[simp] theorem MSIXADDR.address_w : MSIXADDR.address.w = 64 := rfl
@[simp] theorem MSIXADDR.address_lo : MSIXADDR.address.lo = 0 := rfl
@[simp] theorem MSIXDATA.data_reg : MSIXDATA.data.reg = MSIXDATA := rfl
@[simp] theorem MSIXDATA.data_w : MSIXDATA.data.w = 32 := rfl
@[simp] theorem MSIXDATA.data_lo : MSIXDATA.data.lo = 0 := rfl
@[simp] theorem MSIXCTL.masked_reg : MSIXCTL.masked.reg = MSIXCTL := rfl
@[simp] theorem MSIXCTL.masked_w : MSIXCTL.masked.w = 1 := rfl
@[simp] theorem MSIXCTL.masked_lo : MSIXCTL.masked.lo = 0 := rfl
@[simp] theorem MSIXPBA.pending_reg : MSIXPBA.pending.reg = MSIXPBA := rfl
@[simp] theorem MSIXPBA.pending_w : MSIXPBA.pending.w = 64 := rfl
@[simp] theorem MSIXPBA.pending_lo : MSIXPBA.pending.lo = 0 := rfl

end Sys2Proof.Machine
end

