-- ==== Sys2Proof/Laws/Setters.lean ====
section
/-!
SUPPORT. Every field of the state under the updates of one unit's own record, and the record read back.
-/
namespace Sys2Proof.Machine

/-! ### Fields an update does not touch -/

@[simp] theorem State.setWin_pending (s : State) (w : Nat) (x : Win) : (s.setWin w x).pending = s.pending := rfl
@[simp] theorem State.setWin_now (s : State) (w : Nat) (x : Win) : (s.setWin w x).now = s.now := rfl
@[simp] theorem State.setWin_fresh (s : State) (w : Nat) (x : Win) : (s.setWin w x).fresh = s.fresh := rfl
@[simp] theorem State.setWin_part (s : State) (w : Nat) (x : Win) : (s.setWin w x).part = s.part := rfl
@[simp] theorem State.setWin_straps (s : State) (w : Nat) (x : Win) : (s.setWin w x).straps = s.straps := rfl
@[simp] theorem State.setWin_regs (s : State) (w : Nat) (x : Win) : (s.setWin w x).regs = s.regs := rfl
@[simp] theorem State.setWin_inFlight (s : State) (w : Nat) (x : Win) : (s.setWin w x).inFlight = s.inFlight := rfl
@[simp] theorem State.setWin_creditsDue (s : State) (w : Nat) (x : Win) : (s.setWin w x).creditsDue = s.creditsDue := rfl
@[simp] theorem State.setWin_lastTok (s : State) (w : Nat) (x : Win) : (s.setWin w x).lastTok = s.lastTok := rfl
@[simp] theorem State.setWin_out (s : State) (w : Nat) (x : Win) : (s.setWin w x).out = s.out := rfl
@[simp] theorem State.setWin_gates (s : State) (w : Nat) (x : Win) : (s.setWin w x).gates = s.gates := rfl
@[simp] theorem State.setWin_releases (s : State) (w : Nat) (x : Win) : (s.setWin w x).releases = s.releases := rfl
@[simp] theorem State.setWin_hens (s : State) (w : Nat) (x : Win) : (s.setWin w x).hens = s.hens := rfl
@[simp] theorem State.setWin_clus (s : State) (w : Nat) (x : Win) : (s.setWin w x).clus = s.clus := rfl
@[simp] theorem State.setWin_routers (s : State) (w : Nat) (x : Win) : (s.setWin w x).routers = s.routers := rfl
@[simp] theorem State.setWin_irq (s : State) (w : Nat) (x : Win) : (s.setWin w x).irq = s.irq := rfl
@[simp] theorem State.setWin_olm (s : State) (w : Nat) (x : Win) : (s.setWin w x).olm = s.olm := rfl
@[simp] theorem State.setWin_flt (s : State) (w : Nat) (x : Win) : (s.setWin w x).flt = s.flt := rfl
@[simp] theorem State.setWin_pwr (s : State) (w : Nat) (x : Win) : (s.setWin w x).pwr = s.pwr := rfl
@[simp] theorem State.setWin_dies (s : State) (w : Nat) (x : Win) : (s.setWin w x).dies = s.dies := rfl
@[simp] theorem State.setWin_jobs (s : State) (w : Nat) (x : Win) : (s.setWin w x).jobs = s.jobs := rfl
@[simp] theorem State.setWin_oxs (s : State) (w : Nat) (x : Win) : (s.setWin w x).oxs = s.oxs := rfl
@[simp] theorem State.setWin_fit (s : State) (w : Nat) (x : Win) : (s.setWin w x).fit = s.fit := rfl
@[simp] theorem State.setWin_arrs (s : State) (w : Nat) (x : Win) : (s.setWin w x).arrs = s.arrs := rfl
@[simp] theorem State.setWin_feed (s : State) (w : Nat) (x : Win) : (s.setWin w x).feed = s.feed := rfl
@[simp] theorem State.setWin_returns (s : State) (w : Nat) (x : Win) : (s.setWin w x).returns = s.returns := rfl
@[simp] theorem State.setWin_quants (s : State) (w : Nat) (x : Win) : (s.setWin w x).quants = s.quants := rfl
@[simp] theorem State.setWin_ports (s : State) (w : Nat) (x : Win) : (s.setWin w x).ports = s.ports := rfl
@[simp] theorem State.setWin_stamps (s : State) (w : Nat) (x : Win) : (s.setWin w x).stamps = s.stamps := rfl
@[simp] theorem State.setWin_credits (s : State) (w : Nat) (x : Win) : (s.setWin w x).credits = s.credits := rfl
@[simp] theorem State.setWin_segs (s : State) (w : Nat) (x : Win) : (s.setWin w x).segs = s.segs := rfl
@[simp] theorem State.setWin_histTap (s : State) (w : Nat) (x : Win) : (s.setWin w x).histTap = s.histTap := rfl
@[simp] theorem State.setWin_acqTap (s : State) (w : Nat) (x : Win) : (s.setWin w x).acqTap = s.acqTap := rfl
@[simp] theorem State.setWin_goats (s : State) (w : Nat) (x : Win) : (s.setWin w x).goats = s.goats := rfl
@[simp] theorem State.setWin_barriers (s : State) (w : Nat) (x : Win) : (s.setWin w x).barriers = s.barriers := rfl
@[simp] theorem State.setWin_hists (s : State) (w : Nat) (x : Win) : (s.setWin w x).hists = s.hists := rfl
@[simp] theorem State.setWin_dram (s : State) (w : Nat) (x : Win) : (s.setWin w x).dram = s.dram := rfl
@[simp] theorem State.setWin_tier2 (s : State) (w : Nat) (x : Win) : (s.setWin w x).tier2 = s.tier2 := rfl
@[simp] theorem State.setWin_tevents (s : State) (w : Nat) (x : Win) : (s.setWin w x).tevents = s.tevents := rfl
@[simp] theorem State.setWin_tpins (s : State) (w : Nat) (x : Win) : (s.setWin w x).tpins = s.tpins := rfl
@[simp] theorem State.setWin_pacer (s : State) (w : Nat) (x : Win) : (s.setWin w x).pacer = s.pacer := rfl
@[simp] theorem State.setWin_vote (s : State) (w : Nat) (x : Win) : (s.setWin w x).vote = s.vote := rfl
@[simp] theorem State.setWin_ckpts (s : State) (w : Nat) (x : Win) : (s.setWin w x).ckpts = s.ckpts := rfl
@[simp] theorem State.setWin_macs (s : State) (w : Nat) (x : Win) : (s.setWin w x).macs = s.macs := rfl
@[simp] theorem State.setWin_t1s (s : State) (w : Nat) (x : Win) : (s.setWin w x).t1s = s.t1s := rfl
@[simp] theorem State.setWin_injects (s : State) (w : Nat) (x : Win) : (s.setWin w x).injects = s.injects := rfl
@[simp] theorem State.setWin_ptp (s : State) (w : Nat) (x : Win) : (s.setWin w x).ptp = s.ptp := rfl
@[simp] theorem State.setWin_txts (s : State) (w : Nat) (x : Win) : (s.setWin w x).txts = s.txts := rfl
@[simp] theorem State.setWin_acq (s : State) (w : Nat) (x : Win) : (s.setWin w x).acq = s.acq := rfl
@[simp] theorem State.setWin_lastVec (s : State) (w : Nat) (x : Win) : (s.setWin w x).lastVec = s.lastVec := rfl
@[simp] theorem State.setWin_sec (s : State) (w : Nat) (x : Win) : (s.setWin w x).sec = s.sec := rfl
@[simp] theorem State.setWin_vault (s : State) (w : Nat) (x : Win) : (s.setWin w x).vault = s.vault := rfl
@[simp] theorem State.setWin_switches (s : State) (w : Nat) (x : Win) : (s.setWin w x).switches = s.switches := rfl
@[simp] theorem State.setWin_issued (s : State) (w : Nat) (x : Win) : (s.setWin w x).issued = s.issued := rfl
@[simp] theorem State.setWin_frozen (s : State) (w : Nat) (x : Win) : (s.setWin w x).frozen = s.frozen := rfl
@[simp] theorem State.setWin_installs (s : State) (w : Nat) (x : Win) : (s.setWin w x).installs = s.installs := rfl
@[simp] theorem State.setWin_tap (s : State) (w : Nat) (x : Win) : (s.setWin w x).tap = s.tap := rfl
@[simp] theorem State.setWin_boot (s : State) (w : Nat) (x : Win) : (s.setWin w x).boot = s.boot := rfl
@[simp] theorem State.setGoat_pending (s : State) (n c g : Nat) (x : Goat) : (s.setGoat n c g x).pending = s.pending := rfl
@[simp] theorem State.setGoat_now (s : State) (n c g : Nat) (x : Goat) : (s.setGoat n c g x).now = s.now := rfl
@[simp] theorem State.setGoat_fresh (s : State) (n c g : Nat) (x : Goat) : (s.setGoat n c g x).fresh = s.fresh := rfl
@[simp] theorem State.setGoat_part (s : State) (n c g : Nat) (x : Goat) : (s.setGoat n c g x).part = s.part := rfl
@[simp] theorem State.setGoat_straps (s : State) (n c g : Nat) (x : Goat) : (s.setGoat n c g x).straps = s.straps := rfl
@[simp] theorem State.setGoat_regs (s : State) (n c g : Nat) (x : Goat) : (s.setGoat n c g x).regs = s.regs := rfl
@[simp] theorem State.setGoat_inFlight (s : State) (n c g : Nat) (x : Goat) : (s.setGoat n c g x).inFlight = s.inFlight := rfl
@[simp] theorem State.setGoat_creditsDue (s : State) (n c g : Nat) (x : Goat) : (s.setGoat n c g x).creditsDue = s.creditsDue := rfl
@[simp] theorem State.setGoat_lastTok (s : State) (n c g : Nat) (x : Goat) : (s.setGoat n c g x).lastTok = s.lastTok := rfl
@[simp] theorem State.setGoat_out (s : State) (n c g : Nat) (x : Goat) : (s.setGoat n c g x).out = s.out := rfl
@[simp] theorem State.setGoat_gates (s : State) (n c g : Nat) (x : Goat) : (s.setGoat n c g x).gates = s.gates := rfl
@[simp] theorem State.setGoat_releases (s : State) (n c g : Nat) (x : Goat) : (s.setGoat n c g x).releases = s.releases := rfl
@[simp] theorem State.setGoat_hens (s : State) (n c g : Nat) (x : Goat) : (s.setGoat n c g x).hens = s.hens := rfl
@[simp] theorem State.setGoat_clus (s : State) (n c g : Nat) (x : Goat) : (s.setGoat n c g x).clus = s.clus := rfl
@[simp] theorem State.setGoat_routers (s : State) (n c g : Nat) (x : Goat) : (s.setGoat n c g x).routers = s.routers := rfl
@[simp] theorem State.setGoat_irq (s : State) (n c g : Nat) (x : Goat) : (s.setGoat n c g x).irq = s.irq := rfl
@[simp] theorem State.setGoat_olm (s : State) (n c g : Nat) (x : Goat) : (s.setGoat n c g x).olm = s.olm := rfl
@[simp] theorem State.setGoat_flt (s : State) (n c g : Nat) (x : Goat) : (s.setGoat n c g x).flt = s.flt := rfl
@[simp] theorem State.setGoat_pwr (s : State) (n c g : Nat) (x : Goat) : (s.setGoat n c g x).pwr = s.pwr := rfl
@[simp] theorem State.setGoat_dies (s : State) (n c g : Nat) (x : Goat) : (s.setGoat n c g x).dies = s.dies := rfl
@[simp] theorem State.setGoat_jobs (s : State) (n c g : Nat) (x : Goat) : (s.setGoat n c g x).jobs = s.jobs := rfl
@[simp] theorem State.setGoat_oxs (s : State) (n c g : Nat) (x : Goat) : (s.setGoat n c g x).oxs = s.oxs := rfl
@[simp] theorem State.setGoat_fit (s : State) (n c g : Nat) (x : Goat) : (s.setGoat n c g x).fit = s.fit := rfl
@[simp] theorem State.setGoat_arrs (s : State) (n c g : Nat) (x : Goat) : (s.setGoat n c g x).arrs = s.arrs := rfl
@[simp] theorem State.setGoat_feed (s : State) (n c g : Nat) (x : Goat) : (s.setGoat n c g x).feed = s.feed := rfl
@[simp] theorem State.setGoat_returns (s : State) (n c g : Nat) (x : Goat) : (s.setGoat n c g x).returns = s.returns := rfl
@[simp] theorem State.setGoat_quants (s : State) (n c g : Nat) (x : Goat) : (s.setGoat n c g x).quants = s.quants := rfl
@[simp] theorem State.setGoat_ports (s : State) (n c g : Nat) (x : Goat) : (s.setGoat n c g x).ports = s.ports := rfl
@[simp] theorem State.setGoat_stamps (s : State) (n c g : Nat) (x : Goat) : (s.setGoat n c g x).stamps = s.stamps := rfl
@[simp] theorem State.setGoat_credits (s : State) (n c g : Nat) (x : Goat) : (s.setGoat n c g x).credits = s.credits := rfl
@[simp] theorem State.setGoat_segs (s : State) (n c g : Nat) (x : Goat) : (s.setGoat n c g x).segs = s.segs := rfl
@[simp] theorem State.setGoat_histTap (s : State) (n c g : Nat) (x : Goat) : (s.setGoat n c g x).histTap = s.histTap := rfl
@[simp] theorem State.setGoat_acqTap (s : State) (n c g : Nat) (x : Goat) : (s.setGoat n c g x).acqTap = s.acqTap := rfl
@[simp] theorem State.setGoat_barriers (s : State) (n c g : Nat) (x : Goat) : (s.setGoat n c g x).barriers = s.barriers := rfl
@[simp] theorem State.setGoat_hists (s : State) (n c g : Nat) (x : Goat) : (s.setGoat n c g x).hists = s.hists := rfl
@[simp] theorem State.setGoat_dram (s : State) (n c g : Nat) (x : Goat) : (s.setGoat n c g x).dram = s.dram := rfl
@[simp] theorem State.setGoat_tier2 (s : State) (n c g : Nat) (x : Goat) : (s.setGoat n c g x).tier2 = s.tier2 := rfl
@[simp] theorem State.setGoat_tevents (s : State) (n c g : Nat) (x : Goat) : (s.setGoat n c g x).tevents = s.tevents := rfl
@[simp] theorem State.setGoat_tpins (s : State) (n c g : Nat) (x : Goat) : (s.setGoat n c g x).tpins = s.tpins := rfl
@[simp] theorem State.setGoat_pacer (s : State) (n c g : Nat) (x : Goat) : (s.setGoat n c g x).pacer = s.pacer := rfl
@[simp] theorem State.setGoat_vote (s : State) (n c g : Nat) (x : Goat) : (s.setGoat n c g x).vote = s.vote := rfl
@[simp] theorem State.setGoat_ckpts (s : State) (n c g : Nat) (x : Goat) : (s.setGoat n c g x).ckpts = s.ckpts := rfl
@[simp] theorem State.setGoat_macs (s : State) (n c g : Nat) (x : Goat) : (s.setGoat n c g x).macs = s.macs := rfl
@[simp] theorem State.setGoat_t1s (s : State) (n c g : Nat) (x : Goat) : (s.setGoat n c g x).t1s = s.t1s := rfl
@[simp] theorem State.setGoat_injects (s : State) (n c g : Nat) (x : Goat) : (s.setGoat n c g x).injects = s.injects := rfl
@[simp] theorem State.setGoat_ptp (s : State) (n c g : Nat) (x : Goat) : (s.setGoat n c g x).ptp = s.ptp := rfl
@[simp] theorem State.setGoat_txts (s : State) (n c g : Nat) (x : Goat) : (s.setGoat n c g x).txts = s.txts := rfl
@[simp] theorem State.setGoat_acq (s : State) (n c g : Nat) (x : Goat) : (s.setGoat n c g x).acq = s.acq := rfl
@[simp] theorem State.setGoat_lastVec (s : State) (n c g : Nat) (x : Goat) : (s.setGoat n c g x).lastVec = s.lastVec := rfl
@[simp] theorem State.setGoat_wins (s : State) (n c g : Nat) (x : Goat) : (s.setGoat n c g x).wins = s.wins := rfl
@[simp] theorem State.setGoat_sec (s : State) (n c g : Nat) (x : Goat) : (s.setGoat n c g x).sec = s.sec := rfl
@[simp] theorem State.setGoat_vault (s : State) (n c g : Nat) (x : Goat) : (s.setGoat n c g x).vault = s.vault := rfl
@[simp] theorem State.setGoat_switches (s : State) (n c g : Nat) (x : Goat) : (s.setGoat n c g x).switches = s.switches := rfl
@[simp] theorem State.setGoat_issued (s : State) (n c g : Nat) (x : Goat) : (s.setGoat n c g x).issued = s.issued := rfl
@[simp] theorem State.setGoat_frozen (s : State) (n c g : Nat) (x : Goat) : (s.setGoat n c g x).frozen = s.frozen := rfl
@[simp] theorem State.setGoat_installs (s : State) (n c g : Nat) (x : Goat) : (s.setGoat n c g x).installs = s.installs := rfl
@[simp] theorem State.setGoat_tap (s : State) (n c g : Nat) (x : Goat) : (s.setGoat n c g x).tap = s.tap := rfl
@[simp] theorem State.setGoat_boot (s : State) (n c g : Nat) (x : Goat) : (s.setGoat n c g x).boot = s.boot := rfl
@[simp] theorem State.setBarrier_pending (s : State) (b : Nat) (x : Barrier) : (s.setBarrier b x).pending = s.pending := rfl
@[simp] theorem State.setBarrier_now (s : State) (b : Nat) (x : Barrier) : (s.setBarrier b x).now = s.now := rfl
@[simp] theorem State.setBarrier_fresh (s : State) (b : Nat) (x : Barrier) : (s.setBarrier b x).fresh = s.fresh := rfl
@[simp] theorem State.setBarrier_part (s : State) (b : Nat) (x : Barrier) : (s.setBarrier b x).part = s.part := rfl
@[simp] theorem State.setBarrier_straps (s : State) (b : Nat) (x : Barrier) : (s.setBarrier b x).straps = s.straps := rfl
@[simp] theorem State.setBarrier_regs (s : State) (b : Nat) (x : Barrier) : (s.setBarrier b x).regs = s.regs := rfl
@[simp] theorem State.setBarrier_inFlight (s : State) (b : Nat) (x : Barrier) : (s.setBarrier b x).inFlight = s.inFlight := rfl
@[simp] theorem State.setBarrier_creditsDue (s : State) (b : Nat) (x : Barrier) : (s.setBarrier b x).creditsDue = s.creditsDue := rfl
@[simp] theorem State.setBarrier_lastTok (s : State) (b : Nat) (x : Barrier) : (s.setBarrier b x).lastTok = s.lastTok := rfl
@[simp] theorem State.setBarrier_out (s : State) (b : Nat) (x : Barrier) : (s.setBarrier b x).out = s.out := rfl
@[simp] theorem State.setBarrier_gates (s : State) (b : Nat) (x : Barrier) : (s.setBarrier b x).gates = s.gates := rfl
@[simp] theorem State.setBarrier_releases (s : State) (b : Nat) (x : Barrier) : (s.setBarrier b x).releases = s.releases := rfl
@[simp] theorem State.setBarrier_hens (s : State) (b : Nat) (x : Barrier) : (s.setBarrier b x).hens = s.hens := rfl
@[simp] theorem State.setBarrier_clus (s : State) (b : Nat) (x : Barrier) : (s.setBarrier b x).clus = s.clus := rfl
@[simp] theorem State.setBarrier_routers (s : State) (b : Nat) (x : Barrier) : (s.setBarrier b x).routers = s.routers := rfl
@[simp] theorem State.setBarrier_irq (s : State) (b : Nat) (x : Barrier) : (s.setBarrier b x).irq = s.irq := rfl
@[simp] theorem State.setBarrier_olm (s : State) (b : Nat) (x : Barrier) : (s.setBarrier b x).olm = s.olm := rfl
@[simp] theorem State.setBarrier_flt (s : State) (b : Nat) (x : Barrier) : (s.setBarrier b x).flt = s.flt := rfl
@[simp] theorem State.setBarrier_pwr (s : State) (b : Nat) (x : Barrier) : (s.setBarrier b x).pwr = s.pwr := rfl
@[simp] theorem State.setBarrier_dies (s : State) (b : Nat) (x : Barrier) : (s.setBarrier b x).dies = s.dies := rfl
@[simp] theorem State.setBarrier_jobs (s : State) (b : Nat) (x : Barrier) : (s.setBarrier b x).jobs = s.jobs := rfl
@[simp] theorem State.setBarrier_oxs (s : State) (b : Nat) (x : Barrier) : (s.setBarrier b x).oxs = s.oxs := rfl
@[simp] theorem State.setBarrier_fit (s : State) (b : Nat) (x : Barrier) : (s.setBarrier b x).fit = s.fit := rfl
@[simp] theorem State.setBarrier_arrs (s : State) (b : Nat) (x : Barrier) : (s.setBarrier b x).arrs = s.arrs := rfl
@[simp] theorem State.setBarrier_feed (s : State) (b : Nat) (x : Barrier) : (s.setBarrier b x).feed = s.feed := rfl
@[simp] theorem State.setBarrier_returns (s : State) (b : Nat) (x : Barrier) : (s.setBarrier b x).returns = s.returns := rfl
@[simp] theorem State.setBarrier_quants (s : State) (b : Nat) (x : Barrier) : (s.setBarrier b x).quants = s.quants := rfl
@[simp] theorem State.setBarrier_ports (s : State) (b : Nat) (x : Barrier) : (s.setBarrier b x).ports = s.ports := rfl
@[simp] theorem State.setBarrier_stamps (s : State) (b : Nat) (x : Barrier) : (s.setBarrier b x).stamps = s.stamps := rfl
@[simp] theorem State.setBarrier_credits (s : State) (b : Nat) (x : Barrier) : (s.setBarrier b x).credits = s.credits := rfl
@[simp] theorem State.setBarrier_segs (s : State) (b : Nat) (x : Barrier) : (s.setBarrier b x).segs = s.segs := rfl
@[simp] theorem State.setBarrier_histTap (s : State) (b : Nat) (x : Barrier) : (s.setBarrier b x).histTap = s.histTap := rfl
@[simp] theorem State.setBarrier_acqTap (s : State) (b : Nat) (x : Barrier) : (s.setBarrier b x).acqTap = s.acqTap := rfl
@[simp] theorem State.setBarrier_goats (s : State) (b : Nat) (x : Barrier) : (s.setBarrier b x).goats = s.goats := rfl
@[simp] theorem State.setBarrier_hists (s : State) (b : Nat) (x : Barrier) : (s.setBarrier b x).hists = s.hists := rfl
@[simp] theorem State.setBarrier_dram (s : State) (b : Nat) (x : Barrier) : (s.setBarrier b x).dram = s.dram := rfl
@[simp] theorem State.setBarrier_tier2 (s : State) (b : Nat) (x : Barrier) : (s.setBarrier b x).tier2 = s.tier2 := rfl
@[simp] theorem State.setBarrier_tevents (s : State) (b : Nat) (x : Barrier) : (s.setBarrier b x).tevents = s.tevents := rfl
@[simp] theorem State.setBarrier_tpins (s : State) (b : Nat) (x : Barrier) : (s.setBarrier b x).tpins = s.tpins := rfl
@[simp] theorem State.setBarrier_pacer (s : State) (b : Nat) (x : Barrier) : (s.setBarrier b x).pacer = s.pacer := rfl
@[simp] theorem State.setBarrier_vote (s : State) (b : Nat) (x : Barrier) : (s.setBarrier b x).vote = s.vote := rfl
@[simp] theorem State.setBarrier_ckpts (s : State) (b : Nat) (x : Barrier) : (s.setBarrier b x).ckpts = s.ckpts := rfl
@[simp] theorem State.setBarrier_macs (s : State) (b : Nat) (x : Barrier) : (s.setBarrier b x).macs = s.macs := rfl
@[simp] theorem State.setBarrier_t1s (s : State) (b : Nat) (x : Barrier) : (s.setBarrier b x).t1s = s.t1s := rfl
@[simp] theorem State.setBarrier_injects (s : State) (b : Nat) (x : Barrier) : (s.setBarrier b x).injects = s.injects := rfl
@[simp] theorem State.setBarrier_ptp (s : State) (b : Nat) (x : Barrier) : (s.setBarrier b x).ptp = s.ptp := rfl
@[simp] theorem State.setBarrier_txts (s : State) (b : Nat) (x : Barrier) : (s.setBarrier b x).txts = s.txts := rfl
@[simp] theorem State.setBarrier_acq (s : State) (b : Nat) (x : Barrier) : (s.setBarrier b x).acq = s.acq := rfl
@[simp] theorem State.setBarrier_lastVec (s : State) (b : Nat) (x : Barrier) : (s.setBarrier b x).lastVec = s.lastVec := rfl
@[simp] theorem State.setBarrier_wins (s : State) (b : Nat) (x : Barrier) : (s.setBarrier b x).wins = s.wins := rfl
@[simp] theorem State.setBarrier_sec (s : State) (b : Nat) (x : Barrier) : (s.setBarrier b x).sec = s.sec := rfl
@[simp] theorem State.setBarrier_vault (s : State) (b : Nat) (x : Barrier) : (s.setBarrier b x).vault = s.vault := rfl
@[simp] theorem State.setBarrier_switches (s : State) (b : Nat) (x : Barrier) : (s.setBarrier b x).switches = s.switches := rfl
@[simp] theorem State.setBarrier_issued (s : State) (b : Nat) (x : Barrier) : (s.setBarrier b x).issued = s.issued := rfl
@[simp] theorem State.setBarrier_frozen (s : State) (b : Nat) (x : Barrier) : (s.setBarrier b x).frozen = s.frozen := rfl
@[simp] theorem State.setBarrier_installs (s : State) (b : Nat) (x : Barrier) : (s.setBarrier b x).installs = s.installs := rfl
@[simp] theorem State.setBarrier_tap (s : State) (b : Nat) (x : Barrier) : (s.setBarrier b x).tap = s.tap := rfl
@[simp] theorem State.setBarrier_boot (s : State) (b : Nat) (x : Barrier) : (s.setBarrier b x).boot = s.boot := rfl
@[simp] theorem State.setMac_pending (s : State) (n i : Nat) (x : Mac) : (s.setMac n i x).pending = s.pending := rfl
@[simp] theorem State.setMac_now (s : State) (n i : Nat) (x : Mac) : (s.setMac n i x).now = s.now := rfl
@[simp] theorem State.setMac_fresh (s : State) (n i : Nat) (x : Mac) : (s.setMac n i x).fresh = s.fresh := rfl
@[simp] theorem State.setMac_part (s : State) (n i : Nat) (x : Mac) : (s.setMac n i x).part = s.part := rfl
@[simp] theorem State.setMac_straps (s : State) (n i : Nat) (x : Mac) : (s.setMac n i x).straps = s.straps := rfl
@[simp] theorem State.setMac_regs (s : State) (n i : Nat) (x : Mac) : (s.setMac n i x).regs = s.regs := rfl
@[simp] theorem State.setMac_inFlight (s : State) (n i : Nat) (x : Mac) : (s.setMac n i x).inFlight = s.inFlight := rfl
@[simp] theorem State.setMac_creditsDue (s : State) (n i : Nat) (x : Mac) : (s.setMac n i x).creditsDue = s.creditsDue := rfl
@[simp] theorem State.setMac_lastTok (s : State) (n i : Nat) (x : Mac) : (s.setMac n i x).lastTok = s.lastTok := rfl
@[simp] theorem State.setMac_out (s : State) (n i : Nat) (x : Mac) : (s.setMac n i x).out = s.out := rfl
@[simp] theorem State.setMac_gates (s : State) (n i : Nat) (x : Mac) : (s.setMac n i x).gates = s.gates := rfl
@[simp] theorem State.setMac_releases (s : State) (n i : Nat) (x : Mac) : (s.setMac n i x).releases = s.releases := rfl
@[simp] theorem State.setMac_hens (s : State) (n i : Nat) (x : Mac) : (s.setMac n i x).hens = s.hens := rfl
@[simp] theorem State.setMac_clus (s : State) (n i : Nat) (x : Mac) : (s.setMac n i x).clus = s.clus := rfl
@[simp] theorem State.setMac_routers (s : State) (n i : Nat) (x : Mac) : (s.setMac n i x).routers = s.routers := rfl
@[simp] theorem State.setMac_irq (s : State) (n i : Nat) (x : Mac) : (s.setMac n i x).irq = s.irq := rfl
@[simp] theorem State.setMac_olm (s : State) (n i : Nat) (x : Mac) : (s.setMac n i x).olm = s.olm := rfl
@[simp] theorem State.setMac_flt (s : State) (n i : Nat) (x : Mac) : (s.setMac n i x).flt = s.flt := rfl
@[simp] theorem State.setMac_pwr (s : State) (n i : Nat) (x : Mac) : (s.setMac n i x).pwr = s.pwr := rfl
@[simp] theorem State.setMac_dies (s : State) (n i : Nat) (x : Mac) : (s.setMac n i x).dies = s.dies := rfl
@[simp] theorem State.setMac_jobs (s : State) (n i : Nat) (x : Mac) : (s.setMac n i x).jobs = s.jobs := rfl
@[simp] theorem State.setMac_oxs (s : State) (n i : Nat) (x : Mac) : (s.setMac n i x).oxs = s.oxs := rfl
@[simp] theorem State.setMac_fit (s : State) (n i : Nat) (x : Mac) : (s.setMac n i x).fit = s.fit := rfl
@[simp] theorem State.setMac_arrs (s : State) (n i : Nat) (x : Mac) : (s.setMac n i x).arrs = s.arrs := rfl
@[simp] theorem State.setMac_feed (s : State) (n i : Nat) (x : Mac) : (s.setMac n i x).feed = s.feed := rfl
@[simp] theorem State.setMac_returns (s : State) (n i : Nat) (x : Mac) : (s.setMac n i x).returns = s.returns := rfl
@[simp] theorem State.setMac_quants (s : State) (n i : Nat) (x : Mac) : (s.setMac n i x).quants = s.quants := rfl
@[simp] theorem State.setMac_ports (s : State) (n i : Nat) (x : Mac) : (s.setMac n i x).ports = s.ports := rfl
@[simp] theorem State.setMac_stamps (s : State) (n i : Nat) (x : Mac) : (s.setMac n i x).stamps = s.stamps := rfl
@[simp] theorem State.setMac_credits (s : State) (n i : Nat) (x : Mac) : (s.setMac n i x).credits = s.credits := rfl
@[simp] theorem State.setMac_segs (s : State) (n i : Nat) (x : Mac) : (s.setMac n i x).segs = s.segs := rfl
@[simp] theorem State.setMac_histTap (s : State) (n i : Nat) (x : Mac) : (s.setMac n i x).histTap = s.histTap := rfl
@[simp] theorem State.setMac_acqTap (s : State) (n i : Nat) (x : Mac) : (s.setMac n i x).acqTap = s.acqTap := rfl
@[simp] theorem State.setMac_goats (s : State) (n i : Nat) (x : Mac) : (s.setMac n i x).goats = s.goats := rfl
@[simp] theorem State.setMac_barriers (s : State) (n i : Nat) (x : Mac) : (s.setMac n i x).barriers = s.barriers := rfl
@[simp] theorem State.setMac_hists (s : State) (n i : Nat) (x : Mac) : (s.setMac n i x).hists = s.hists := rfl
@[simp] theorem State.setMac_dram (s : State) (n i : Nat) (x : Mac) : (s.setMac n i x).dram = s.dram := rfl
@[simp] theorem State.setMac_tier2 (s : State) (n i : Nat) (x : Mac) : (s.setMac n i x).tier2 = s.tier2 := rfl
@[simp] theorem State.setMac_tevents (s : State) (n i : Nat) (x : Mac) : (s.setMac n i x).tevents = s.tevents := rfl
@[simp] theorem State.setMac_tpins (s : State) (n i : Nat) (x : Mac) : (s.setMac n i x).tpins = s.tpins := rfl
@[simp] theorem State.setMac_pacer (s : State) (n i : Nat) (x : Mac) : (s.setMac n i x).pacer = s.pacer := rfl
@[simp] theorem State.setMac_vote (s : State) (n i : Nat) (x : Mac) : (s.setMac n i x).vote = s.vote := rfl
@[simp] theorem State.setMac_ckpts (s : State) (n i : Nat) (x : Mac) : (s.setMac n i x).ckpts = s.ckpts := rfl
@[simp] theorem State.setMac_t1s (s : State) (n i : Nat) (x : Mac) : (s.setMac n i x).t1s = s.t1s := rfl
@[simp] theorem State.setMac_injects (s : State) (n i : Nat) (x : Mac) : (s.setMac n i x).injects = s.injects := rfl
@[simp] theorem State.setMac_ptp (s : State) (n i : Nat) (x : Mac) : (s.setMac n i x).ptp = s.ptp := rfl
@[simp] theorem State.setMac_txts (s : State) (n i : Nat) (x : Mac) : (s.setMac n i x).txts = s.txts := rfl
@[simp] theorem State.setMac_acq (s : State) (n i : Nat) (x : Mac) : (s.setMac n i x).acq = s.acq := rfl
@[simp] theorem State.setMac_lastVec (s : State) (n i : Nat) (x : Mac) : (s.setMac n i x).lastVec = s.lastVec := rfl
@[simp] theorem State.setMac_wins (s : State) (n i : Nat) (x : Mac) : (s.setMac n i x).wins = s.wins := rfl
@[simp] theorem State.setMac_sec (s : State) (n i : Nat) (x : Mac) : (s.setMac n i x).sec = s.sec := rfl
@[simp] theorem State.setMac_vault (s : State) (n i : Nat) (x : Mac) : (s.setMac n i x).vault = s.vault := rfl
@[simp] theorem State.setMac_switches (s : State) (n i : Nat) (x : Mac) : (s.setMac n i x).switches = s.switches := rfl
@[simp] theorem State.setMac_issued (s : State) (n i : Nat) (x : Mac) : (s.setMac n i x).issued = s.issued := rfl
@[simp] theorem State.setMac_frozen (s : State) (n i : Nat) (x : Mac) : (s.setMac n i x).frozen = s.frozen := rfl
@[simp] theorem State.setMac_installs (s : State) (n i : Nat) (x : Mac) : (s.setMac n i x).installs = s.installs := rfl
@[simp] theorem State.setMac_tap (s : State) (n i : Nat) (x : Mac) : (s.setMac n i x).tap = s.tap := rfl
@[simp] theorem State.setMac_boot (s : State) (n i : Nat) (x : Mac) : (s.setMac n i x).boot = s.boot := rfl
@[simp] theorem State.setArr_pending (s : State) (n a : Nat) (x : Arr) : (s.setArr n a x).pending = s.pending := rfl
@[simp] theorem State.setArr_now (s : State) (n a : Nat) (x : Arr) : (s.setArr n a x).now = s.now := rfl
@[simp] theorem State.setArr_fresh (s : State) (n a : Nat) (x : Arr) : (s.setArr n a x).fresh = s.fresh := rfl
@[simp] theorem State.setArr_part (s : State) (n a : Nat) (x : Arr) : (s.setArr n a x).part = s.part := rfl
@[simp] theorem State.setArr_straps (s : State) (n a : Nat) (x : Arr) : (s.setArr n a x).straps = s.straps := rfl
@[simp] theorem State.setArr_regs (s : State) (n a : Nat) (x : Arr) : (s.setArr n a x).regs = s.regs := rfl
@[simp] theorem State.setArr_inFlight (s : State) (n a : Nat) (x : Arr) : (s.setArr n a x).inFlight = s.inFlight := rfl
@[simp] theorem State.setArr_creditsDue (s : State) (n a : Nat) (x : Arr) : (s.setArr n a x).creditsDue = s.creditsDue := rfl
@[simp] theorem State.setArr_lastTok (s : State) (n a : Nat) (x : Arr) : (s.setArr n a x).lastTok = s.lastTok := rfl
@[simp] theorem State.setArr_out (s : State) (n a : Nat) (x : Arr) : (s.setArr n a x).out = s.out := rfl
@[simp] theorem State.setArr_gates (s : State) (n a : Nat) (x : Arr) : (s.setArr n a x).gates = s.gates := rfl
@[simp] theorem State.setArr_releases (s : State) (n a : Nat) (x : Arr) : (s.setArr n a x).releases = s.releases := rfl
@[simp] theorem State.setArr_hens (s : State) (n a : Nat) (x : Arr) : (s.setArr n a x).hens = s.hens := rfl
@[simp] theorem State.setArr_clus (s : State) (n a : Nat) (x : Arr) : (s.setArr n a x).clus = s.clus := rfl
@[simp] theorem State.setArr_routers (s : State) (n a : Nat) (x : Arr) : (s.setArr n a x).routers = s.routers := rfl
@[simp] theorem State.setArr_irq (s : State) (n a : Nat) (x : Arr) : (s.setArr n a x).irq = s.irq := rfl
@[simp] theorem State.setArr_olm (s : State) (n a : Nat) (x : Arr) : (s.setArr n a x).olm = s.olm := rfl
@[simp] theorem State.setArr_flt (s : State) (n a : Nat) (x : Arr) : (s.setArr n a x).flt = s.flt := rfl
@[simp] theorem State.setArr_pwr (s : State) (n a : Nat) (x : Arr) : (s.setArr n a x).pwr = s.pwr := rfl
@[simp] theorem State.setArr_dies (s : State) (n a : Nat) (x : Arr) : (s.setArr n a x).dies = s.dies := rfl
@[simp] theorem State.setArr_jobs (s : State) (n a : Nat) (x : Arr) : (s.setArr n a x).jobs = s.jobs := rfl
@[simp] theorem State.setArr_oxs (s : State) (n a : Nat) (x : Arr) : (s.setArr n a x).oxs = s.oxs := rfl
@[simp] theorem State.setArr_fit (s : State) (n a : Nat) (x : Arr) : (s.setArr n a x).fit = s.fit := rfl
@[simp] theorem State.setArr_feed (s : State) (n a : Nat) (x : Arr) : (s.setArr n a x).feed = s.feed := rfl
@[simp] theorem State.setArr_returns (s : State) (n a : Nat) (x : Arr) : (s.setArr n a x).returns = s.returns := rfl
@[simp] theorem State.setArr_quants (s : State) (n a : Nat) (x : Arr) : (s.setArr n a x).quants = s.quants := rfl
@[simp] theorem State.setArr_ports (s : State) (n a : Nat) (x : Arr) : (s.setArr n a x).ports = s.ports := rfl
@[simp] theorem State.setArr_stamps (s : State) (n a : Nat) (x : Arr) : (s.setArr n a x).stamps = s.stamps := rfl
@[simp] theorem State.setArr_credits (s : State) (n a : Nat) (x : Arr) : (s.setArr n a x).credits = s.credits := rfl
@[simp] theorem State.setArr_segs (s : State) (n a : Nat) (x : Arr) : (s.setArr n a x).segs = s.segs := rfl
@[simp] theorem State.setArr_histTap (s : State) (n a : Nat) (x : Arr) : (s.setArr n a x).histTap = s.histTap := rfl
@[simp] theorem State.setArr_acqTap (s : State) (n a : Nat) (x : Arr) : (s.setArr n a x).acqTap = s.acqTap := rfl
@[simp] theorem State.setArr_goats (s : State) (n a : Nat) (x : Arr) : (s.setArr n a x).goats = s.goats := rfl
@[simp] theorem State.setArr_barriers (s : State) (n a : Nat) (x : Arr) : (s.setArr n a x).barriers = s.barriers := rfl
@[simp] theorem State.setArr_hists (s : State) (n a : Nat) (x : Arr) : (s.setArr n a x).hists = s.hists := rfl
@[simp] theorem State.setArr_dram (s : State) (n a : Nat) (x : Arr) : (s.setArr n a x).dram = s.dram := rfl
@[simp] theorem State.setArr_tier2 (s : State) (n a : Nat) (x : Arr) : (s.setArr n a x).tier2 = s.tier2 := rfl
@[simp] theorem State.setArr_tevents (s : State) (n a : Nat) (x : Arr) : (s.setArr n a x).tevents = s.tevents := rfl
@[simp] theorem State.setArr_tpins (s : State) (n a : Nat) (x : Arr) : (s.setArr n a x).tpins = s.tpins := rfl
@[simp] theorem State.setArr_pacer (s : State) (n a : Nat) (x : Arr) : (s.setArr n a x).pacer = s.pacer := rfl
@[simp] theorem State.setArr_vote (s : State) (n a : Nat) (x : Arr) : (s.setArr n a x).vote = s.vote := rfl
@[simp] theorem State.setArr_ckpts (s : State) (n a : Nat) (x : Arr) : (s.setArr n a x).ckpts = s.ckpts := rfl
@[simp] theorem State.setArr_macs (s : State) (n a : Nat) (x : Arr) : (s.setArr n a x).macs = s.macs := rfl
@[simp] theorem State.setArr_t1s (s : State) (n a : Nat) (x : Arr) : (s.setArr n a x).t1s = s.t1s := rfl
@[simp] theorem State.setArr_injects (s : State) (n a : Nat) (x : Arr) : (s.setArr n a x).injects = s.injects := rfl
@[simp] theorem State.setArr_ptp (s : State) (n a : Nat) (x : Arr) : (s.setArr n a x).ptp = s.ptp := rfl
@[simp] theorem State.setArr_txts (s : State) (n a : Nat) (x : Arr) : (s.setArr n a x).txts = s.txts := rfl
@[simp] theorem State.setArr_acq (s : State) (n a : Nat) (x : Arr) : (s.setArr n a x).acq = s.acq := rfl
@[simp] theorem State.setArr_lastVec (s : State) (n a : Nat) (x : Arr) : (s.setArr n a x).lastVec = s.lastVec := rfl
@[simp] theorem State.setArr_wins (s : State) (n a : Nat) (x : Arr) : (s.setArr n a x).wins = s.wins := rfl
@[simp] theorem State.setArr_sec (s : State) (n a : Nat) (x : Arr) : (s.setArr n a x).sec = s.sec := rfl
@[simp] theorem State.setArr_vault (s : State) (n a : Nat) (x : Arr) : (s.setArr n a x).vault = s.vault := rfl
@[simp] theorem State.setArr_switches (s : State) (n a : Nat) (x : Arr) : (s.setArr n a x).switches = s.switches := rfl
@[simp] theorem State.setArr_issued (s : State) (n a : Nat) (x : Arr) : (s.setArr n a x).issued = s.issued := rfl
@[simp] theorem State.setArr_frozen (s : State) (n a : Nat) (x : Arr) : (s.setArr n a x).frozen = s.frozen := rfl
@[simp] theorem State.setArr_installs (s : State) (n a : Nat) (x : Arr) : (s.setArr n a x).installs = s.installs := rfl
@[simp] theorem State.setArr_tap (s : State) (n a : Nat) (x : Arr) : (s.setArr n a x).tap = s.tap := rfl
@[simp] theorem State.setArr_boot (s : State) (n a : Nat) (x : Arr) : (s.setArr n a x).boot = s.boot := rfl
@[simp] theorem State.setOx_pending (s : State) (n p : Nat) (x : Ox) : (s.setOx n p x).pending = s.pending := rfl
@[simp] theorem State.setOx_now (s : State) (n p : Nat) (x : Ox) : (s.setOx n p x).now = s.now := rfl
@[simp] theorem State.setOx_fresh (s : State) (n p : Nat) (x : Ox) : (s.setOx n p x).fresh = s.fresh := rfl
@[simp] theorem State.setOx_part (s : State) (n p : Nat) (x : Ox) : (s.setOx n p x).part = s.part := rfl
@[simp] theorem State.setOx_straps (s : State) (n p : Nat) (x : Ox) : (s.setOx n p x).straps = s.straps := rfl
@[simp] theorem State.setOx_regs (s : State) (n p : Nat) (x : Ox) : (s.setOx n p x).regs = s.regs := rfl
@[simp] theorem State.setOx_inFlight (s : State) (n p : Nat) (x : Ox) : (s.setOx n p x).inFlight = s.inFlight := rfl
@[simp] theorem State.setOx_creditsDue (s : State) (n p : Nat) (x : Ox) : (s.setOx n p x).creditsDue = s.creditsDue := rfl
@[simp] theorem State.setOx_lastTok (s : State) (n p : Nat) (x : Ox) : (s.setOx n p x).lastTok = s.lastTok := rfl
@[simp] theorem State.setOx_out (s : State) (n p : Nat) (x : Ox) : (s.setOx n p x).out = s.out := rfl
@[simp] theorem State.setOx_gates (s : State) (n p : Nat) (x : Ox) : (s.setOx n p x).gates = s.gates := rfl
@[simp] theorem State.setOx_releases (s : State) (n p : Nat) (x : Ox) : (s.setOx n p x).releases = s.releases := rfl
@[simp] theorem State.setOx_hens (s : State) (n p : Nat) (x : Ox) : (s.setOx n p x).hens = s.hens := rfl
@[simp] theorem State.setOx_clus (s : State) (n p : Nat) (x : Ox) : (s.setOx n p x).clus = s.clus := rfl
@[simp] theorem State.setOx_routers (s : State) (n p : Nat) (x : Ox) : (s.setOx n p x).routers = s.routers := rfl
@[simp] theorem State.setOx_irq (s : State) (n p : Nat) (x : Ox) : (s.setOx n p x).irq = s.irq := rfl
@[simp] theorem State.setOx_olm (s : State) (n p : Nat) (x : Ox) : (s.setOx n p x).olm = s.olm := rfl
@[simp] theorem State.setOx_flt (s : State) (n p : Nat) (x : Ox) : (s.setOx n p x).flt = s.flt := rfl
@[simp] theorem State.setOx_pwr (s : State) (n p : Nat) (x : Ox) : (s.setOx n p x).pwr = s.pwr := rfl
@[simp] theorem State.setOx_dies (s : State) (n p : Nat) (x : Ox) : (s.setOx n p x).dies = s.dies := rfl
@[simp] theorem State.setOx_jobs (s : State) (n p : Nat) (x : Ox) : (s.setOx n p x).jobs = s.jobs := rfl
@[simp] theorem State.setOx_fit (s : State) (n p : Nat) (x : Ox) : (s.setOx n p x).fit = s.fit := rfl
@[simp] theorem State.setOx_arrs (s : State) (n p : Nat) (x : Ox) : (s.setOx n p x).arrs = s.arrs := rfl
@[simp] theorem State.setOx_feed (s : State) (n p : Nat) (x : Ox) : (s.setOx n p x).feed = s.feed := rfl
@[simp] theorem State.setOx_returns (s : State) (n p : Nat) (x : Ox) : (s.setOx n p x).returns = s.returns := rfl
@[simp] theorem State.setOx_quants (s : State) (n p : Nat) (x : Ox) : (s.setOx n p x).quants = s.quants := rfl
@[simp] theorem State.setOx_ports (s : State) (n p : Nat) (x : Ox) : (s.setOx n p x).ports = s.ports := rfl
@[simp] theorem State.setOx_stamps (s : State) (n p : Nat) (x : Ox) : (s.setOx n p x).stamps = s.stamps := rfl
@[simp] theorem State.setOx_credits (s : State) (n p : Nat) (x : Ox) : (s.setOx n p x).credits = s.credits := rfl
@[simp] theorem State.setOx_segs (s : State) (n p : Nat) (x : Ox) : (s.setOx n p x).segs = s.segs := rfl
@[simp] theorem State.setOx_histTap (s : State) (n p : Nat) (x : Ox) : (s.setOx n p x).histTap = s.histTap := rfl
@[simp] theorem State.setOx_acqTap (s : State) (n p : Nat) (x : Ox) : (s.setOx n p x).acqTap = s.acqTap := rfl
@[simp] theorem State.setOx_goats (s : State) (n p : Nat) (x : Ox) : (s.setOx n p x).goats = s.goats := rfl
@[simp] theorem State.setOx_barriers (s : State) (n p : Nat) (x : Ox) : (s.setOx n p x).barriers = s.barriers := rfl
@[simp] theorem State.setOx_hists (s : State) (n p : Nat) (x : Ox) : (s.setOx n p x).hists = s.hists := rfl
@[simp] theorem State.setOx_dram (s : State) (n p : Nat) (x : Ox) : (s.setOx n p x).dram = s.dram := rfl
@[simp] theorem State.setOx_tier2 (s : State) (n p : Nat) (x : Ox) : (s.setOx n p x).tier2 = s.tier2 := rfl
@[simp] theorem State.setOx_tevents (s : State) (n p : Nat) (x : Ox) : (s.setOx n p x).tevents = s.tevents := rfl
@[simp] theorem State.setOx_tpins (s : State) (n p : Nat) (x : Ox) : (s.setOx n p x).tpins = s.tpins := rfl
@[simp] theorem State.setOx_pacer (s : State) (n p : Nat) (x : Ox) : (s.setOx n p x).pacer = s.pacer := rfl
@[simp] theorem State.setOx_vote (s : State) (n p : Nat) (x : Ox) : (s.setOx n p x).vote = s.vote := rfl
@[simp] theorem State.setOx_ckpts (s : State) (n p : Nat) (x : Ox) : (s.setOx n p x).ckpts = s.ckpts := rfl
@[simp] theorem State.setOx_macs (s : State) (n p : Nat) (x : Ox) : (s.setOx n p x).macs = s.macs := rfl
@[simp] theorem State.setOx_t1s (s : State) (n p : Nat) (x : Ox) : (s.setOx n p x).t1s = s.t1s := rfl
@[simp] theorem State.setOx_injects (s : State) (n p : Nat) (x : Ox) : (s.setOx n p x).injects = s.injects := rfl
@[simp] theorem State.setOx_ptp (s : State) (n p : Nat) (x : Ox) : (s.setOx n p x).ptp = s.ptp := rfl
@[simp] theorem State.setOx_txts (s : State) (n p : Nat) (x : Ox) : (s.setOx n p x).txts = s.txts := rfl
@[simp] theorem State.setOx_acq (s : State) (n p : Nat) (x : Ox) : (s.setOx n p x).acq = s.acq := rfl
@[simp] theorem State.setOx_lastVec (s : State) (n p : Nat) (x : Ox) : (s.setOx n p x).lastVec = s.lastVec := rfl
@[simp] theorem State.setOx_wins (s : State) (n p : Nat) (x : Ox) : (s.setOx n p x).wins = s.wins := rfl
@[simp] theorem State.setOx_sec (s : State) (n p : Nat) (x : Ox) : (s.setOx n p x).sec = s.sec := rfl
@[simp] theorem State.setOx_vault (s : State) (n p : Nat) (x : Ox) : (s.setOx n p x).vault = s.vault := rfl
@[simp] theorem State.setOx_switches (s : State) (n p : Nat) (x : Ox) : (s.setOx n p x).switches = s.switches := rfl
@[simp] theorem State.setOx_issued (s : State) (n p : Nat) (x : Ox) : (s.setOx n p x).issued = s.issued := rfl
@[simp] theorem State.setOx_frozen (s : State) (n p : Nat) (x : Ox) : (s.setOx n p x).frozen = s.frozen := rfl
@[simp] theorem State.setOx_installs (s : State) (n p : Nat) (x : Ox) : (s.setOx n p x).installs = s.installs := rfl
@[simp] theorem State.setOx_tap (s : State) (n p : Nat) (x : Ox) : (s.setOx n p x).tap = s.tap := rfl
@[simp] theorem State.setOx_boot (s : State) (n p : Nat) (x : Ox) : (s.setOx n p x).boot = s.boot := rfl
@[simp] theorem State.setJob_pending (s : State) (i : Nat) (f : Job → Job) : (s.setJob i f).pending = s.pending := rfl
@[simp] theorem State.setJob_now (s : State) (i : Nat) (f : Job → Job) : (s.setJob i f).now = s.now := rfl
@[simp] theorem State.setJob_fresh (s : State) (i : Nat) (f : Job → Job) : (s.setJob i f).fresh = s.fresh := rfl
@[simp] theorem State.setJob_part (s : State) (i : Nat) (f : Job → Job) : (s.setJob i f).part = s.part := rfl
@[simp] theorem State.setJob_straps (s : State) (i : Nat) (f : Job → Job) : (s.setJob i f).straps = s.straps := rfl
@[simp] theorem State.setJob_regs (s : State) (i : Nat) (f : Job → Job) : (s.setJob i f).regs = s.regs := rfl
@[simp] theorem State.setJob_inFlight (s : State) (i : Nat) (f : Job → Job) : (s.setJob i f).inFlight = s.inFlight := rfl
@[simp] theorem State.setJob_creditsDue (s : State) (i : Nat) (f : Job → Job) : (s.setJob i f).creditsDue = s.creditsDue := rfl
@[simp] theorem State.setJob_lastTok (s : State) (i : Nat) (f : Job → Job) : (s.setJob i f).lastTok = s.lastTok := rfl
@[simp] theorem State.setJob_out (s : State) (i : Nat) (f : Job → Job) : (s.setJob i f).out = s.out := rfl
@[simp] theorem State.setJob_gates (s : State) (i : Nat) (f : Job → Job) : (s.setJob i f).gates = s.gates := rfl
@[simp] theorem State.setJob_releases (s : State) (i : Nat) (f : Job → Job) : (s.setJob i f).releases = s.releases := rfl
@[simp] theorem State.setJob_hens (s : State) (i : Nat) (f : Job → Job) : (s.setJob i f).hens = s.hens := rfl
@[simp] theorem State.setJob_clus (s : State) (i : Nat) (f : Job → Job) : (s.setJob i f).clus = s.clus := rfl
@[simp] theorem State.setJob_routers (s : State) (i : Nat) (f : Job → Job) : (s.setJob i f).routers = s.routers := rfl
@[simp] theorem State.setJob_irq (s : State) (i : Nat) (f : Job → Job) : (s.setJob i f).irq = s.irq := rfl
@[simp] theorem State.setJob_olm (s : State) (i : Nat) (f : Job → Job) : (s.setJob i f).olm = s.olm := rfl
@[simp] theorem State.setJob_flt (s : State) (i : Nat) (f : Job → Job) : (s.setJob i f).flt = s.flt := rfl
@[simp] theorem State.setJob_pwr (s : State) (i : Nat) (f : Job → Job) : (s.setJob i f).pwr = s.pwr := rfl
@[simp] theorem State.setJob_dies (s : State) (i : Nat) (f : Job → Job) : (s.setJob i f).dies = s.dies := rfl
@[simp] theorem State.setJob_oxs (s : State) (i : Nat) (f : Job → Job) : (s.setJob i f).oxs = s.oxs := rfl
@[simp] theorem State.setJob_fit (s : State) (i : Nat) (f : Job → Job) : (s.setJob i f).fit = s.fit := rfl
@[simp] theorem State.setJob_arrs (s : State) (i : Nat) (f : Job → Job) : (s.setJob i f).arrs = s.arrs := rfl
@[simp] theorem State.setJob_feed (s : State) (i : Nat) (f : Job → Job) : (s.setJob i f).feed = s.feed := rfl
@[simp] theorem State.setJob_returns (s : State) (i : Nat) (f : Job → Job) : (s.setJob i f).returns = s.returns := rfl
@[simp] theorem State.setJob_quants (s : State) (i : Nat) (f : Job → Job) : (s.setJob i f).quants = s.quants := rfl
@[simp] theorem State.setJob_ports (s : State) (i : Nat) (f : Job → Job) : (s.setJob i f).ports = s.ports := rfl
@[simp] theorem State.setJob_stamps (s : State) (i : Nat) (f : Job → Job) : (s.setJob i f).stamps = s.stamps := rfl
@[simp] theorem State.setJob_credits (s : State) (i : Nat) (f : Job → Job) : (s.setJob i f).credits = s.credits := rfl
@[simp] theorem State.setJob_segs (s : State) (i : Nat) (f : Job → Job) : (s.setJob i f).segs = s.segs := rfl
@[simp] theorem State.setJob_histTap (s : State) (i : Nat) (f : Job → Job) : (s.setJob i f).histTap = s.histTap := rfl
@[simp] theorem State.setJob_acqTap (s : State) (i : Nat) (f : Job → Job) : (s.setJob i f).acqTap = s.acqTap := rfl
@[simp] theorem State.setJob_goats (s : State) (i : Nat) (f : Job → Job) : (s.setJob i f).goats = s.goats := rfl
@[simp] theorem State.setJob_barriers (s : State) (i : Nat) (f : Job → Job) : (s.setJob i f).barriers = s.barriers := rfl
@[simp] theorem State.setJob_hists (s : State) (i : Nat) (f : Job → Job) : (s.setJob i f).hists = s.hists := rfl
@[simp] theorem State.setJob_dram (s : State) (i : Nat) (f : Job → Job) : (s.setJob i f).dram = s.dram := rfl
@[simp] theorem State.setJob_tier2 (s : State) (i : Nat) (f : Job → Job) : (s.setJob i f).tier2 = s.tier2 := rfl
@[simp] theorem State.setJob_tevents (s : State) (i : Nat) (f : Job → Job) : (s.setJob i f).tevents = s.tevents := rfl
@[simp] theorem State.setJob_tpins (s : State) (i : Nat) (f : Job → Job) : (s.setJob i f).tpins = s.tpins := rfl
@[simp] theorem State.setJob_pacer (s : State) (i : Nat) (f : Job → Job) : (s.setJob i f).pacer = s.pacer := rfl
@[simp] theorem State.setJob_vote (s : State) (i : Nat) (f : Job → Job) : (s.setJob i f).vote = s.vote := rfl
@[simp] theorem State.setJob_ckpts (s : State) (i : Nat) (f : Job → Job) : (s.setJob i f).ckpts = s.ckpts := rfl
@[simp] theorem State.setJob_macs (s : State) (i : Nat) (f : Job → Job) : (s.setJob i f).macs = s.macs := rfl
@[simp] theorem State.setJob_t1s (s : State) (i : Nat) (f : Job → Job) : (s.setJob i f).t1s = s.t1s := rfl
@[simp] theorem State.setJob_injects (s : State) (i : Nat) (f : Job → Job) : (s.setJob i f).injects = s.injects := rfl
@[simp] theorem State.setJob_ptp (s : State) (i : Nat) (f : Job → Job) : (s.setJob i f).ptp = s.ptp := rfl
@[simp] theorem State.setJob_txts (s : State) (i : Nat) (f : Job → Job) : (s.setJob i f).txts = s.txts := rfl
@[simp] theorem State.setJob_acq (s : State) (i : Nat) (f : Job → Job) : (s.setJob i f).acq = s.acq := rfl
@[simp] theorem State.setJob_lastVec (s : State) (i : Nat) (f : Job → Job) : (s.setJob i f).lastVec = s.lastVec := rfl
@[simp] theorem State.setJob_wins (s : State) (i : Nat) (f : Job → Job) : (s.setJob i f).wins = s.wins := rfl
@[simp] theorem State.setJob_sec (s : State) (i : Nat) (f : Job → Job) : (s.setJob i f).sec = s.sec := rfl
@[simp] theorem State.setJob_vault (s : State) (i : Nat) (f : Job → Job) : (s.setJob i f).vault = s.vault := rfl
@[simp] theorem State.setJob_switches (s : State) (i : Nat) (f : Job → Job) : (s.setJob i f).switches = s.switches := rfl
@[simp] theorem State.setJob_issued (s : State) (i : Nat) (f : Job → Job) : (s.setJob i f).issued = s.issued := rfl
@[simp] theorem State.setJob_frozen (s : State) (i : Nat) (f : Job → Job) : (s.setJob i f).frozen = s.frozen := rfl
@[simp] theorem State.setJob_installs (s : State) (i : Nat) (f : Job → Job) : (s.setJob i f).installs = s.installs := rfl
@[simp] theorem State.setJob_tap (s : State) (i : Nat) (f : Job → Job) : (s.setJob i f).tap = s.tap := rfl
@[simp] theorem State.setJob_boot (s : State) (i : Nat) (f : Job → Job) : (s.setJob i f).boot = s.boot := rfl
@[simp] theorem State.setAcqStream_pending (s : State) (k : Nat) (x : AcqStream) : (s.setAcqStream k x).pending = s.pending := rfl
@[simp] theorem State.setAcqStream_now (s : State) (k : Nat) (x : AcqStream) : (s.setAcqStream k x).now = s.now := rfl
@[simp] theorem State.setAcqStream_fresh (s : State) (k : Nat) (x : AcqStream) : (s.setAcqStream k x).fresh = s.fresh := rfl
@[simp] theorem State.setAcqStream_part (s : State) (k : Nat) (x : AcqStream) : (s.setAcqStream k x).part = s.part := rfl
@[simp] theorem State.setAcqStream_straps (s : State) (k : Nat) (x : AcqStream) : (s.setAcqStream k x).straps = s.straps := rfl
@[simp] theorem State.setAcqStream_regs (s : State) (k : Nat) (x : AcqStream) : (s.setAcqStream k x).regs = s.regs := rfl
@[simp] theorem State.setAcqStream_inFlight (s : State) (k : Nat) (x : AcqStream) : (s.setAcqStream k x).inFlight = s.inFlight := rfl
@[simp] theorem State.setAcqStream_creditsDue (s : State) (k : Nat) (x : AcqStream) : (s.setAcqStream k x).creditsDue = s.creditsDue := rfl
@[simp] theorem State.setAcqStream_lastTok (s : State) (k : Nat) (x : AcqStream) : (s.setAcqStream k x).lastTok = s.lastTok := rfl
@[simp] theorem State.setAcqStream_out (s : State) (k : Nat) (x : AcqStream) : (s.setAcqStream k x).out = s.out := rfl
@[simp] theorem State.setAcqStream_gates (s : State) (k : Nat) (x : AcqStream) : (s.setAcqStream k x).gates = s.gates := rfl
@[simp] theorem State.setAcqStream_releases (s : State) (k : Nat) (x : AcqStream) : (s.setAcqStream k x).releases = s.releases := rfl
@[simp] theorem State.setAcqStream_hens (s : State) (k : Nat) (x : AcqStream) : (s.setAcqStream k x).hens = s.hens := rfl
@[simp] theorem State.setAcqStream_clus (s : State) (k : Nat) (x : AcqStream) : (s.setAcqStream k x).clus = s.clus := rfl
@[simp] theorem State.setAcqStream_routers (s : State) (k : Nat) (x : AcqStream) : (s.setAcqStream k x).routers = s.routers := rfl
@[simp] theorem State.setAcqStream_irq (s : State) (k : Nat) (x : AcqStream) : (s.setAcqStream k x).irq = s.irq := rfl
@[simp] theorem State.setAcqStream_olm (s : State) (k : Nat) (x : AcqStream) : (s.setAcqStream k x).olm = s.olm := rfl
@[simp] theorem State.setAcqStream_flt (s : State) (k : Nat) (x : AcqStream) : (s.setAcqStream k x).flt = s.flt := rfl
@[simp] theorem State.setAcqStream_pwr (s : State) (k : Nat) (x : AcqStream) : (s.setAcqStream k x).pwr = s.pwr := rfl
@[simp] theorem State.setAcqStream_dies (s : State) (k : Nat) (x : AcqStream) : (s.setAcqStream k x).dies = s.dies := rfl
@[simp] theorem State.setAcqStream_jobs (s : State) (k : Nat) (x : AcqStream) : (s.setAcqStream k x).jobs = s.jobs := rfl
@[simp] theorem State.setAcqStream_oxs (s : State) (k : Nat) (x : AcqStream) : (s.setAcqStream k x).oxs = s.oxs := rfl
@[simp] theorem State.setAcqStream_fit (s : State) (k : Nat) (x : AcqStream) : (s.setAcqStream k x).fit = s.fit := rfl
@[simp] theorem State.setAcqStream_arrs (s : State) (k : Nat) (x : AcqStream) : (s.setAcqStream k x).arrs = s.arrs := rfl
@[simp] theorem State.setAcqStream_feed (s : State) (k : Nat) (x : AcqStream) : (s.setAcqStream k x).feed = s.feed := rfl
@[simp] theorem State.setAcqStream_returns (s : State) (k : Nat) (x : AcqStream) : (s.setAcqStream k x).returns = s.returns := rfl
@[simp] theorem State.setAcqStream_quants (s : State) (k : Nat) (x : AcqStream) : (s.setAcqStream k x).quants = s.quants := rfl
@[simp] theorem State.setAcqStream_ports (s : State) (k : Nat) (x : AcqStream) : (s.setAcqStream k x).ports = s.ports := rfl
@[simp] theorem State.setAcqStream_stamps (s : State) (k : Nat) (x : AcqStream) : (s.setAcqStream k x).stamps = s.stamps := rfl
@[simp] theorem State.setAcqStream_credits (s : State) (k : Nat) (x : AcqStream) : (s.setAcqStream k x).credits = s.credits := rfl
@[simp] theorem State.setAcqStream_segs (s : State) (k : Nat) (x : AcqStream) : (s.setAcqStream k x).segs = s.segs := rfl
@[simp] theorem State.setAcqStream_histTap (s : State) (k : Nat) (x : AcqStream) : (s.setAcqStream k x).histTap = s.histTap := rfl
@[simp] theorem State.setAcqStream_acqTap (s : State) (k : Nat) (x : AcqStream) : (s.setAcqStream k x).acqTap = s.acqTap := rfl
@[simp] theorem State.setAcqStream_goats (s : State) (k : Nat) (x : AcqStream) : (s.setAcqStream k x).goats = s.goats := rfl
@[simp] theorem State.setAcqStream_barriers (s : State) (k : Nat) (x : AcqStream) : (s.setAcqStream k x).barriers = s.barriers := rfl
@[simp] theorem State.setAcqStream_hists (s : State) (k : Nat) (x : AcqStream) : (s.setAcqStream k x).hists = s.hists := rfl
@[simp] theorem State.setAcqStream_dram (s : State) (k : Nat) (x : AcqStream) : (s.setAcqStream k x).dram = s.dram := rfl
@[simp] theorem State.setAcqStream_tier2 (s : State) (k : Nat) (x : AcqStream) : (s.setAcqStream k x).tier2 = s.tier2 := rfl
@[simp] theorem State.setAcqStream_tevents (s : State) (k : Nat) (x : AcqStream) : (s.setAcqStream k x).tevents = s.tevents := rfl
@[simp] theorem State.setAcqStream_tpins (s : State) (k : Nat) (x : AcqStream) : (s.setAcqStream k x).tpins = s.tpins := rfl
@[simp] theorem State.setAcqStream_pacer (s : State) (k : Nat) (x : AcqStream) : (s.setAcqStream k x).pacer = s.pacer := rfl
@[simp] theorem State.setAcqStream_vote (s : State) (k : Nat) (x : AcqStream) : (s.setAcqStream k x).vote = s.vote := rfl
@[simp] theorem State.setAcqStream_ckpts (s : State) (k : Nat) (x : AcqStream) : (s.setAcqStream k x).ckpts = s.ckpts := rfl
@[simp] theorem State.setAcqStream_macs (s : State) (k : Nat) (x : AcqStream) : (s.setAcqStream k x).macs = s.macs := rfl
@[simp] theorem State.setAcqStream_t1s (s : State) (k : Nat) (x : AcqStream) : (s.setAcqStream k x).t1s = s.t1s := rfl
@[simp] theorem State.setAcqStream_injects (s : State) (k : Nat) (x : AcqStream) : (s.setAcqStream k x).injects = s.injects := rfl
@[simp] theorem State.setAcqStream_ptp (s : State) (k : Nat) (x : AcqStream) : (s.setAcqStream k x).ptp = s.ptp := rfl
@[simp] theorem State.setAcqStream_txts (s : State) (k : Nat) (x : AcqStream) : (s.setAcqStream k x).txts = s.txts := rfl
@[simp] theorem State.setAcqStream_lastVec (s : State) (k : Nat) (x : AcqStream) : (s.setAcqStream k x).lastVec = s.lastVec := rfl
@[simp] theorem State.setAcqStream_wins (s : State) (k : Nat) (x : AcqStream) : (s.setAcqStream k x).wins = s.wins := rfl
@[simp] theorem State.setAcqStream_sec (s : State) (k : Nat) (x : AcqStream) : (s.setAcqStream k x).sec = s.sec := rfl
@[simp] theorem State.setAcqStream_vault (s : State) (k : Nat) (x : AcqStream) : (s.setAcqStream k x).vault = s.vault := rfl
@[simp] theorem State.setAcqStream_switches (s : State) (k : Nat) (x : AcqStream) : (s.setAcqStream k x).switches = s.switches := rfl
@[simp] theorem State.setAcqStream_issued (s : State) (k : Nat) (x : AcqStream) : (s.setAcqStream k x).issued = s.issued := rfl
@[simp] theorem State.setAcqStream_frozen (s : State) (k : Nat) (x : AcqStream) : (s.setAcqStream k x).frozen = s.frozen := rfl
@[simp] theorem State.setAcqStream_installs (s : State) (k : Nat) (x : AcqStream) : (s.setAcqStream k x).installs = s.installs := rfl
@[simp] theorem State.setAcqStream_tap (s : State) (k : Nat) (x : AcqStream) : (s.setAcqStream k x).tap = s.tap := rfl
@[simp] theorem State.setAcqStream_boot (s : State) (k : Nat) (x : AcqStream) : (s.setAcqStream k x).boot = s.boot := rfl
@[simp] theorem State.setAcqDest_pending (s : State) (d : Nat) (x : AcqDest) : (s.setAcqDest d x).pending = s.pending := rfl
@[simp] theorem State.setAcqDest_now (s : State) (d : Nat) (x : AcqDest) : (s.setAcqDest d x).now = s.now := rfl
@[simp] theorem State.setAcqDest_fresh (s : State) (d : Nat) (x : AcqDest) : (s.setAcqDest d x).fresh = s.fresh := rfl
@[simp] theorem State.setAcqDest_part (s : State) (d : Nat) (x : AcqDest) : (s.setAcqDest d x).part = s.part := rfl
@[simp] theorem State.setAcqDest_straps (s : State) (d : Nat) (x : AcqDest) : (s.setAcqDest d x).straps = s.straps := rfl
@[simp] theorem State.setAcqDest_regs (s : State) (d : Nat) (x : AcqDest) : (s.setAcqDest d x).regs = s.regs := rfl
@[simp] theorem State.setAcqDest_inFlight (s : State) (d : Nat) (x : AcqDest) : (s.setAcqDest d x).inFlight = s.inFlight := rfl
@[simp] theorem State.setAcqDest_creditsDue (s : State) (d : Nat) (x : AcqDest) : (s.setAcqDest d x).creditsDue = s.creditsDue := rfl
@[simp] theorem State.setAcqDest_lastTok (s : State) (d : Nat) (x : AcqDest) : (s.setAcqDest d x).lastTok = s.lastTok := rfl
@[simp] theorem State.setAcqDest_out (s : State) (d : Nat) (x : AcqDest) : (s.setAcqDest d x).out = s.out := rfl
@[simp] theorem State.setAcqDest_gates (s : State) (d : Nat) (x : AcqDest) : (s.setAcqDest d x).gates = s.gates := rfl
@[simp] theorem State.setAcqDest_releases (s : State) (d : Nat) (x : AcqDest) : (s.setAcqDest d x).releases = s.releases := rfl
@[simp] theorem State.setAcqDest_hens (s : State) (d : Nat) (x : AcqDest) : (s.setAcqDest d x).hens = s.hens := rfl
@[simp] theorem State.setAcqDest_clus (s : State) (d : Nat) (x : AcqDest) : (s.setAcqDest d x).clus = s.clus := rfl
@[simp] theorem State.setAcqDest_routers (s : State) (d : Nat) (x : AcqDest) : (s.setAcqDest d x).routers = s.routers := rfl
@[simp] theorem State.setAcqDest_irq (s : State) (d : Nat) (x : AcqDest) : (s.setAcqDest d x).irq = s.irq := rfl
@[simp] theorem State.setAcqDest_olm (s : State) (d : Nat) (x : AcqDest) : (s.setAcqDest d x).olm = s.olm := rfl
@[simp] theorem State.setAcqDest_flt (s : State) (d : Nat) (x : AcqDest) : (s.setAcqDest d x).flt = s.flt := rfl
@[simp] theorem State.setAcqDest_pwr (s : State) (d : Nat) (x : AcqDest) : (s.setAcqDest d x).pwr = s.pwr := rfl
@[simp] theorem State.setAcqDest_dies (s : State) (d : Nat) (x : AcqDest) : (s.setAcqDest d x).dies = s.dies := rfl
@[simp] theorem State.setAcqDest_jobs (s : State) (d : Nat) (x : AcqDest) : (s.setAcqDest d x).jobs = s.jobs := rfl
@[simp] theorem State.setAcqDest_oxs (s : State) (d : Nat) (x : AcqDest) : (s.setAcqDest d x).oxs = s.oxs := rfl
@[simp] theorem State.setAcqDest_fit (s : State) (d : Nat) (x : AcqDest) : (s.setAcqDest d x).fit = s.fit := rfl
@[simp] theorem State.setAcqDest_arrs (s : State) (d : Nat) (x : AcqDest) : (s.setAcqDest d x).arrs = s.arrs := rfl
@[simp] theorem State.setAcqDest_feed (s : State) (d : Nat) (x : AcqDest) : (s.setAcqDest d x).feed = s.feed := rfl
@[simp] theorem State.setAcqDest_returns (s : State) (d : Nat) (x : AcqDest) : (s.setAcqDest d x).returns = s.returns := rfl
@[simp] theorem State.setAcqDest_quants (s : State) (d : Nat) (x : AcqDest) : (s.setAcqDest d x).quants = s.quants := rfl
@[simp] theorem State.setAcqDest_ports (s : State) (d : Nat) (x : AcqDest) : (s.setAcqDest d x).ports = s.ports := rfl
@[simp] theorem State.setAcqDest_stamps (s : State) (d : Nat) (x : AcqDest) : (s.setAcqDest d x).stamps = s.stamps := rfl
@[simp] theorem State.setAcqDest_credits (s : State) (d : Nat) (x : AcqDest) : (s.setAcqDest d x).credits = s.credits := rfl
@[simp] theorem State.setAcqDest_segs (s : State) (d : Nat) (x : AcqDest) : (s.setAcqDest d x).segs = s.segs := rfl
@[simp] theorem State.setAcqDest_histTap (s : State) (d : Nat) (x : AcqDest) : (s.setAcqDest d x).histTap = s.histTap := rfl
@[simp] theorem State.setAcqDest_acqTap (s : State) (d : Nat) (x : AcqDest) : (s.setAcqDest d x).acqTap = s.acqTap := rfl
@[simp] theorem State.setAcqDest_goats (s : State) (d : Nat) (x : AcqDest) : (s.setAcqDest d x).goats = s.goats := rfl
@[simp] theorem State.setAcqDest_barriers (s : State) (d : Nat) (x : AcqDest) : (s.setAcqDest d x).barriers = s.barriers := rfl
@[simp] theorem State.setAcqDest_hists (s : State) (d : Nat) (x : AcqDest) : (s.setAcqDest d x).hists = s.hists := rfl
@[simp] theorem State.setAcqDest_dram (s : State) (d : Nat) (x : AcqDest) : (s.setAcqDest d x).dram = s.dram := rfl
@[simp] theorem State.setAcqDest_tier2 (s : State) (d : Nat) (x : AcqDest) : (s.setAcqDest d x).tier2 = s.tier2 := rfl
@[simp] theorem State.setAcqDest_tevents (s : State) (d : Nat) (x : AcqDest) : (s.setAcqDest d x).tevents = s.tevents := rfl
@[simp] theorem State.setAcqDest_tpins (s : State) (d : Nat) (x : AcqDest) : (s.setAcqDest d x).tpins = s.tpins := rfl
@[simp] theorem State.setAcqDest_pacer (s : State) (d : Nat) (x : AcqDest) : (s.setAcqDest d x).pacer = s.pacer := rfl
@[simp] theorem State.setAcqDest_vote (s : State) (d : Nat) (x : AcqDest) : (s.setAcqDest d x).vote = s.vote := rfl
@[simp] theorem State.setAcqDest_ckpts (s : State) (d : Nat) (x : AcqDest) : (s.setAcqDest d x).ckpts = s.ckpts := rfl
@[simp] theorem State.setAcqDest_macs (s : State) (d : Nat) (x : AcqDest) : (s.setAcqDest d x).macs = s.macs := rfl
@[simp] theorem State.setAcqDest_t1s (s : State) (d : Nat) (x : AcqDest) : (s.setAcqDest d x).t1s = s.t1s := rfl
@[simp] theorem State.setAcqDest_injects (s : State) (d : Nat) (x : AcqDest) : (s.setAcqDest d x).injects = s.injects := rfl
@[simp] theorem State.setAcqDest_ptp (s : State) (d : Nat) (x : AcqDest) : (s.setAcqDest d x).ptp = s.ptp := rfl
@[simp] theorem State.setAcqDest_txts (s : State) (d : Nat) (x : AcqDest) : (s.setAcqDest d x).txts = s.txts := rfl
@[simp] theorem State.setAcqDest_lastVec (s : State) (d : Nat) (x : AcqDest) : (s.setAcqDest d x).lastVec = s.lastVec := rfl
@[simp] theorem State.setAcqDest_wins (s : State) (d : Nat) (x : AcqDest) : (s.setAcqDest d x).wins = s.wins := rfl
@[simp] theorem State.setAcqDest_sec (s : State) (d : Nat) (x : AcqDest) : (s.setAcqDest d x).sec = s.sec := rfl
@[simp] theorem State.setAcqDest_vault (s : State) (d : Nat) (x : AcqDest) : (s.setAcqDest d x).vault = s.vault := rfl
@[simp] theorem State.setAcqDest_switches (s : State) (d : Nat) (x : AcqDest) : (s.setAcqDest d x).switches = s.switches := rfl
@[simp] theorem State.setAcqDest_issued (s : State) (d : Nat) (x : AcqDest) : (s.setAcqDest d x).issued = s.issued := rfl
@[simp] theorem State.setAcqDest_frozen (s : State) (d : Nat) (x : AcqDest) : (s.setAcqDest d x).frozen = s.frozen := rfl
@[simp] theorem State.setAcqDest_installs (s : State) (d : Nat) (x : AcqDest) : (s.setAcqDest d x).installs = s.installs := rfl
@[simp] theorem State.setAcqDest_tap (s : State) (d : Nat) (x : AcqDest) : (s.setAcqDest d x).tap = s.tap := rfl
@[simp] theorem State.setAcqDest_boot (s : State) (d : Nat) (x : AcqDest) : (s.setAcqDest d x).boot = s.boot := rfl
@[simp] theorem State.setCmd_pending (s : State) (i : Nat) (f : Cmd → Cmd) : (s.setCmd i f).pending = s.pending := rfl
@[simp] theorem State.setCmd_now (s : State) (i : Nat) (f : Cmd → Cmd) : (s.setCmd i f).now = s.now := rfl
@[simp] theorem State.setCmd_fresh (s : State) (i : Nat) (f : Cmd → Cmd) : (s.setCmd i f).fresh = s.fresh := rfl
@[simp] theorem State.setCmd_part (s : State) (i : Nat) (f : Cmd → Cmd) : (s.setCmd i f).part = s.part := rfl
@[simp] theorem State.setCmd_straps (s : State) (i : Nat) (f : Cmd → Cmd) : (s.setCmd i f).straps = s.straps := rfl
@[simp] theorem State.setCmd_regs (s : State) (i : Nat) (f : Cmd → Cmd) : (s.setCmd i f).regs = s.regs := rfl
@[simp] theorem State.setCmd_inFlight (s : State) (i : Nat) (f : Cmd → Cmd) : (s.setCmd i f).inFlight = s.inFlight := rfl
@[simp] theorem State.setCmd_creditsDue (s : State) (i : Nat) (f : Cmd → Cmd) : (s.setCmd i f).creditsDue = s.creditsDue := rfl
@[simp] theorem State.setCmd_lastTok (s : State) (i : Nat) (f : Cmd → Cmd) : (s.setCmd i f).lastTok = s.lastTok := rfl
@[simp] theorem State.setCmd_out (s : State) (i : Nat) (f : Cmd → Cmd) : (s.setCmd i f).out = s.out := rfl
@[simp] theorem State.setCmd_gates (s : State) (i : Nat) (f : Cmd → Cmd) : (s.setCmd i f).gates = s.gates := rfl
@[simp] theorem State.setCmd_releases (s : State) (i : Nat) (f : Cmd → Cmd) : (s.setCmd i f).releases = s.releases := rfl
@[simp] theorem State.setCmd_hens (s : State) (i : Nat) (f : Cmd → Cmd) : (s.setCmd i f).hens = s.hens := rfl
@[simp] theorem State.setCmd_clus (s : State) (i : Nat) (f : Cmd → Cmd) : (s.setCmd i f).clus = s.clus := rfl
@[simp] theorem State.setCmd_routers (s : State) (i : Nat) (f : Cmd → Cmd) : (s.setCmd i f).routers = s.routers := rfl
@[simp] theorem State.setCmd_irq (s : State) (i : Nat) (f : Cmd → Cmd) : (s.setCmd i f).irq = s.irq := rfl
@[simp] theorem State.setCmd_olm (s : State) (i : Nat) (f : Cmd → Cmd) : (s.setCmd i f).olm = s.olm := rfl
@[simp] theorem State.setCmd_flt (s : State) (i : Nat) (f : Cmd → Cmd) : (s.setCmd i f).flt = s.flt := rfl
@[simp] theorem State.setCmd_pwr (s : State) (i : Nat) (f : Cmd → Cmd) : (s.setCmd i f).pwr = s.pwr := rfl
@[simp] theorem State.setCmd_dies (s : State) (i : Nat) (f : Cmd → Cmd) : (s.setCmd i f).dies = s.dies := rfl
@[simp] theorem State.setCmd_jobs (s : State) (i : Nat) (f : Cmd → Cmd) : (s.setCmd i f).jobs = s.jobs := rfl
@[simp] theorem State.setCmd_oxs (s : State) (i : Nat) (f : Cmd → Cmd) : (s.setCmd i f).oxs = s.oxs := rfl
@[simp] theorem State.setCmd_fit (s : State) (i : Nat) (f : Cmd → Cmd) : (s.setCmd i f).fit = s.fit := rfl
@[simp] theorem State.setCmd_arrs (s : State) (i : Nat) (f : Cmd → Cmd) : (s.setCmd i f).arrs = s.arrs := rfl
@[simp] theorem State.setCmd_feed (s : State) (i : Nat) (f : Cmd → Cmd) : (s.setCmd i f).feed = s.feed := rfl
@[simp] theorem State.setCmd_returns (s : State) (i : Nat) (f : Cmd → Cmd) : (s.setCmd i f).returns = s.returns := rfl
@[simp] theorem State.setCmd_quants (s : State) (i : Nat) (f : Cmd → Cmd) : (s.setCmd i f).quants = s.quants := rfl
@[simp] theorem State.setCmd_ports (s : State) (i : Nat) (f : Cmd → Cmd) : (s.setCmd i f).ports = s.ports := rfl
@[simp] theorem State.setCmd_stamps (s : State) (i : Nat) (f : Cmd → Cmd) : (s.setCmd i f).stamps = s.stamps := rfl
@[simp] theorem State.setCmd_credits (s : State) (i : Nat) (f : Cmd → Cmd) : (s.setCmd i f).credits = s.credits := rfl
@[simp] theorem State.setCmd_segs (s : State) (i : Nat) (f : Cmd → Cmd) : (s.setCmd i f).segs = s.segs := rfl
@[simp] theorem State.setCmd_histTap (s : State) (i : Nat) (f : Cmd → Cmd) : (s.setCmd i f).histTap = s.histTap := rfl
@[simp] theorem State.setCmd_acqTap (s : State) (i : Nat) (f : Cmd → Cmd) : (s.setCmd i f).acqTap = s.acqTap := rfl
@[simp] theorem State.setCmd_goats (s : State) (i : Nat) (f : Cmd → Cmd) : (s.setCmd i f).goats = s.goats := rfl
@[simp] theorem State.setCmd_barriers (s : State) (i : Nat) (f : Cmd → Cmd) : (s.setCmd i f).barriers = s.barriers := rfl
@[simp] theorem State.setCmd_hists (s : State) (i : Nat) (f : Cmd → Cmd) : (s.setCmd i f).hists = s.hists := rfl
@[simp] theorem State.setCmd_dram (s : State) (i : Nat) (f : Cmd → Cmd) : (s.setCmd i f).dram = s.dram := rfl
@[simp] theorem State.setCmd_tier2 (s : State) (i : Nat) (f : Cmd → Cmd) : (s.setCmd i f).tier2 = s.tier2 := rfl
@[simp] theorem State.setCmd_tevents (s : State) (i : Nat) (f : Cmd → Cmd) : (s.setCmd i f).tevents = s.tevents := rfl
@[simp] theorem State.setCmd_tpins (s : State) (i : Nat) (f : Cmd → Cmd) : (s.setCmd i f).tpins = s.tpins := rfl
@[simp] theorem State.setCmd_pacer (s : State) (i : Nat) (f : Cmd → Cmd) : (s.setCmd i f).pacer = s.pacer := rfl
@[simp] theorem State.setCmd_vote (s : State) (i : Nat) (f : Cmd → Cmd) : (s.setCmd i f).vote = s.vote := rfl
@[simp] theorem State.setCmd_ckpts (s : State) (i : Nat) (f : Cmd → Cmd) : (s.setCmd i f).ckpts = s.ckpts := rfl
@[simp] theorem State.setCmd_macs (s : State) (i : Nat) (f : Cmd → Cmd) : (s.setCmd i f).macs = s.macs := rfl
@[simp] theorem State.setCmd_t1s (s : State) (i : Nat) (f : Cmd → Cmd) : (s.setCmd i f).t1s = s.t1s := rfl
@[simp] theorem State.setCmd_injects (s : State) (i : Nat) (f : Cmd → Cmd) : (s.setCmd i f).injects = s.injects := rfl
@[simp] theorem State.setCmd_ptp (s : State) (i : Nat) (f : Cmd → Cmd) : (s.setCmd i f).ptp = s.ptp := rfl
@[simp] theorem State.setCmd_txts (s : State) (i : Nat) (f : Cmd → Cmd) : (s.setCmd i f).txts = s.txts := rfl
@[simp] theorem State.setCmd_acq (s : State) (i : Nat) (f : Cmd → Cmd) : (s.setCmd i f).acq = s.acq := rfl
@[simp] theorem State.setCmd_lastVec (s : State) (i : Nat) (f : Cmd → Cmd) : (s.setCmd i f).lastVec = s.lastVec := rfl
@[simp] theorem State.setCmd_wins (s : State) (i : Nat) (f : Cmd → Cmd) : (s.setCmd i f).wins = s.wins := rfl
@[simp] theorem State.setCmd_vault (s : State) (i : Nat) (f : Cmd → Cmd) : (s.setCmd i f).vault = s.vault := rfl
@[simp] theorem State.setCmd_switches (s : State) (i : Nat) (f : Cmd → Cmd) : (s.setCmd i f).switches = s.switches := rfl
@[simp] theorem State.setCmd_issued (s : State) (i : Nat) (f : Cmd → Cmd) : (s.setCmd i f).issued = s.issued := rfl
@[simp] theorem State.setCmd_frozen (s : State) (i : Nat) (f : Cmd → Cmd) : (s.setCmd i f).frozen = s.frozen := rfl
@[simp] theorem State.setCmd_installs (s : State) (i : Nat) (f : Cmd → Cmd) : (s.setCmd i f).installs = s.installs := rfl
@[simp] theorem State.setCmd_tap (s : State) (i : Nat) (f : Cmd → Cmd) : (s.setCmd i f).tap = s.tap := rfl
@[simp] theorem State.setCmd_boot (s : State) (i : Nat) (f : Cmd → Cmd) : (s.setCmd i f).boot = s.boot := rfl

/-! ### The record just set reads back -/

theorem State.win_setWin (s : State) (w : Nat) (x : Win) (h : Sparse.sorted s.wins = true) : (s.setWin w x).win w = x :=
  Sparse.get_set_same _ _ _ h
theorem State.goat_setGoat (s : State) (n c g : Nat) (x : Goat) (h : Sparse.sorted s.goats = true) : (s.setGoat n c g x).goat n c g = x :=
  Sparse.get_set_same _ _ _ h
theorem State.barrier_setBarrier (s : State) (b : Nat) (x : Barrier) (h : Sparse.sorted s.barriers = true) : (s.setBarrier b x).barrier b = x :=
  Sparse.get_set_same _ _ _ h
theorem State.mac_setMac (s : State) (n i : Nat) (x : Mac) (h : Sparse.sorted s.macs = true) : (s.setMac n i x).mac n i = x :=
  Sparse.get_set_same _ _ _ h
theorem State.arr_setArr (s : State) (n a : Nat) (x : Arr) (h : Sparse.sorted s.arrs = true) : (s.setArr n a x).arr n a = x :=
  Sparse.get_set_same _ _ _ h
theorem State.ox_setOx (s : State) (n p : Nat) (x : Ox) (h : Sparse.sorted s.oxs = true) : (s.setOx n p x).ox n p = x :=
  Sparse.get_set_same _ _ _ h
theorem State.acqStream_setAcqStream (s : State) (k : Nat) (x : AcqStream) (h : Sparse.sorted s.acq.streams = true) : (s.setAcqStream k x).acqStream k = x :=
  Sparse.get_set_same _ _ _ h
theorem State.acqDest_setAcqDest (s : State) (d : Nat) (x : AcqDest) (h : Sparse.sorted s.acq.dests = true) : (s.setAcqDest d x).acqDest d = x :=
  Sparse.get_set_same _ _ _ h

end Sys2Proof.Machine
end

