-- ==== Sys2Proof/Laws/Windows.lean ====
section
/-!
SUPPORT. Command windows: words written and read back, and packets whose last four words are the MAC of what stands before them.
-/
namespace Sys2Proof.Machine

theorem setWords_sorted (m : Sparse W32) (i : Nat) (ws : List W32) (h : Sparse.sorted m = true) : Sparse.sorted (setWords m i ws) = true := by
  induction ws generalizing m i with
  | nil => exact h
  | cons v vs ih => exact ih _ _ (Sparse.sorted_set 0 v h)

theorem setWords_before (m : Sparse W32) (i j : Nat) (ws : List W32) (h : j < i) : Sparse.get 0 (setWords m i ws) j = Sparse.get 0 m j := by
  induction ws generalizing m i with
  | nil => rfl
  | cons v vs ih => rw [setWords, ih _ _ (by omega), Sparse.get_set_other _ _ _ _ (by omega)]

/-- A word written is the word read; no other is touched. -/
theorem setWords_get (m : Sparse W32) (i k : Nat) (ws : List W32) (v : W32) (h : Sparse.sorted m = true) (hk : ws[k]? = some v) :
    Sparse.get 0 (setWords m i ws) (i + k) = v := by
  induction ws generalizing m i k with
  | nil => simp at hk
  | cons w ws ih =>
    cases k with
    | zero =>
      simp only [List.getElem?_cons_zero, Option.some.injEq] at hk
      rw [setWords, setWords_before _ _ _ _ (by omega), Nat.add_zero, Sparse.get_set_same 0 i w h, hk]
    | succ k =>
      rw [setWords, show i + (k + 1) = (i + 1) + k by omega]
      exact ih _ _ _ (Sparse.sorted_set 0 w h) (by simpa using hk)

/-- The word of four little-endian bytes. -/
def wordOf (a b c d : Byte) : W32 := BitVec.ofNat 32 (leNat [a, b, c, d])

theorem wordOf_bytes (a b c d : Byte) (i : Nat) (hi : i < 4) : BitVec.ofNat 8 ((wordOf a b c d).toNat / 2 ^ (8 * i)) = [a, b, c, d].getD i 0 := by
  have ha := a.isLt; have hb := b.isLt; have hc := c.isLt; have hd := d.isLt
  have h : (wordOf a b c d).toNat = a.toNat + 256 * b.toNat + 65536 * c.toNat + 16777216 * d.toNat := by
    simp only [wordOf, leNat, BitVec.toNat_ofNat]
    rw [Nat.mod_eq_of_lt (by omega)]; omega
  rw [h]
  match i, hi with
  | 0, _ => apply BitVec.eq_of_toNat_eq; simp only [BitVec.toNat_ofNat, List.getD_cons_zero]; omega
  | 1, _ => apply BitVec.eq_of_toNat_eq; simp only [BitVec.toNat_ofNat, List.getD_cons_succ, List.getD_cons_zero]; omega
  | 2, _ => apply BitVec.eq_of_toNat_eq; simp only [BitVec.toNat_ofNat, List.getD_cons_succ, List.getD_cons_zero]; omega
  | 3, _ => apply BitVec.eq_of_toNat_eq; simp only [BitVec.toNat_ofNat, List.getD_cons_succ, List.getD_cons_zero]; omega

/-- The four words of a 16-byte tag. -/
def tagWords (t : List Byte) : List W32 :=
  (List.range 4).map (fun i => wordOf (t.getD (4 * i) 0) (t.getD (4 * i + 1) 0) (t.getD (4 * i + 2) 0) (t.getD (4 * i + 3) 0))

/-- The words of a packet of `head` whose last four are its MAC under a key (R327, R342). -/
def macked (custom : String) (key : List Byte) (m : Sparse W32) (head : List W32) : List W32 :=
  head ++ tagWords (mac16 custom key (({ words := setWords m 0 head } : Win).bytes 0 (4 * head.length)))

theorem macked_length (custom : String) (key : List Byte) (m : Sparse W32) (head : List W32) : (macked custom key m head).length = head.length + 4 := by
  simp [macked, tagWords]

/-- Words of the head are read as if it stood alone. -/
theorem macked_word (custom : String) (key : List Byte) (m : Sparse W32) (head : List W32) (h : Sparse.sorted m = true) (j : Nat) (hj : j < head.length) :
    Sparse.get 0 (setWords m 0 (macked custom key m head)) j = Sparse.get 0 (setWords m 0 head) j := by
  have a := setWords_get m 0 j (macked custom key m head) head[j] h (by rw [macked, List.getElem?_append_left hj, List.getElem?_eq_getElem hj])
  have b := setWords_get m 0 j head head[j] h (List.getElem?_eq_getElem hj)
  rw [Nat.zero_add] at a b
  rw [a, b]

theorem macked_bytes (custom : String) (key : List Byte) (m : Sparse W32) (head : List W32) (h : Sparse.sorted m = true) (a n : Nat)
    (hn : a + n ≤ 4 * head.length) (x y : Win) (hx : x.words = setWords m 0 (macked custom key m head)) (hy : y.words = setWords m 0 head) :
    x.bytes a n = y.bytes a n := by
  unfold Win.bytes
  apply List.map_congr_left
  intro i hi
  rw [List.mem_range] at hi
  rw [hx, hy, macked_word custom key m head h _ (by omega)]

/-- The last 16 bytes of such a packet are the MAC of what stands before them. -/
theorem macked_fits (custom : String) (key : List Byte) (m : Sparse W32) (head : List W32) (h : Sparse.sorted m = true) (x : Win)
    (hx : x.words = setWords m 0 (macked custom key m head)) :
    (x.bytes 0 (4 * (head.length + 4))).drop (4 * (head.length + 4) - 16)
      = mac16 custom key ((x.bytes 0 (4 * (head.length + 4))).take (4 * (head.length + 4) - 16)) := by
  have e : 4 * (head.length + 4) - 16 = 4 * head.length := by omega
  rw [e]
  have ht : (x.bytes 0 (4 * (head.length + 4))).take (4 * head.length) = x.bytes 0 (4 * head.length) := by
    unfold Win.bytes
    rw [← List.map_take, List.take_range, Nat.min_eq_left (by omega)]
  rw [ht, macked_bytes custom key m head h 0 (4 * head.length) (by omega) x { words := setWords m 0 head } hx rfl]
  generalize ht2 : mac16 custom key (({ words := setWords m 0 head } : Win).bytes 0 (4 * head.length)) = t at *
  have hl : t.length = 16 := by rw [← ht2, mac16, fitTo_length]
  apply List.ext_getElem
  · simp [Win.bytes, hl]; omega
  · intro i h1 h2
    rw [hl] at h2
    simp only [Win.bytes, List.getElem_drop, List.getElem_map, List.getElem_range, Nat.zero_add]
    have hw : Sparse.get 0 x.words (head.length + i / 4)
        = wordOf (t.getD (4 * (i / 4)) 0) (t.getD (4 * (i / 4) + 1) 0) (t.getD (4 * (i / 4) + 2) 0) (t.getD (4 * (i / 4) + 3) 0) := by
      rw [hx, ← Nat.zero_add (head.length + i / 4)]
      apply setWords_get _ _ _ _ _ h
      rw [macked, ht2, List.getElem?_append_right (by omega), Nat.add_sub_cancel_left, tagWords, List.getElem?_map, List.getElem?_range (by omega)]
      rfl
    rw [show (4 * head.length + i) / 4 = head.length + i / 4 by omega, show (4 * head.length + i) % 4 = i % 4 by omega, hw, wordOf_bytes _ _ _ _ _ (by omega)]
    have hg : t[i] = t.getD i 0 := by rw [List.getD_eq_getElem?_getD, List.getElem?_eq_getElem (by omega)]; rfl
    rw [hg]
    have h4 : i % 4 = 0 ∨ i % 4 = 1 ∨ i % 4 = 2 ∨ i % 4 = 3 := by omega
    rcases h4 with h4 | h4 | h4 | h4
    · rw [h4]; exact congrArg (t.getD · 0) (show 4 * (i / 4) = i by omega)
    · rw [h4]; exact congrArg (t.getD · 0) (show 4 * (i / 4) + 1 = i by omega)
    · rw [h4]; exact congrArg (t.getD · 0) (show 4 * (i / 4) + 2 = i by omega)
    · rw [h4]; exact congrArg (t.getD · 0) (show 4 * (i / 4) + 3 = i by omega)

end Sys2Proof.Machine
end

