-- ==== Sys2Proof/WellFormed.lean ====
section
/-!
DEFINITION. Which commands name units that the layout of the S2 has: every operand within the range the manual gives it. A command that
is not well formed stands for nothing the hardware can be sent.
-/
namespace Sys2Proof

/-- A number below a bound. -/
def inRange (n bound : Nat) : Bool := decide (n < bound)

/-- An optional number, below a bound where it is given. -/
def optRange (n : Option Nat) (bound : Nat) : Bool := n.all (fun k => decide (k < bound))

/-- A hen of the layout: 16 dies, 64 clusters and the spare, 64 hens and the spare (R10, R22, R55). -/
def HenRef.wf (h : HenRef) : Bool := inRange h.die 16 && inRange h.clu 65 && inRange h.hen 65

/-- A context of the layout: 32 of each hen (R55). -/
def CtxRef.wf (x : CtxRef) : Bool := x.hen.wf && inRange x.ctx 32

/-- An edge whose producer the layout has. -/
def Edge.wf : Edge → Bool
  | .none => true
  | .hen n c h _ => inRange n 16 && inRange c 65 && inRange h 65
  | .port n i _ => inRange n 16 && inRange i 16
  | .quant n c q => inRange n 16 && inRange c 65 && inRange q 16
  | .goat n c g d => inRange n 16 && inRange c 65 && inRange g 2 && inRange d 16
  | .ox n p _ => inRange n 16 && inRange p 8
  | .mac n i r _ => inRange n 16 && inRange i 16 && inRange r 16
  | .seed n _ => inRange n 16
  | .array n a o => inRange n 16 && inRange a 4 && inRange o 16
  | .feed n c a => inRange n 16 && inRange c 65 && inRange a 4
  | .chan n c k h e => inRange n 16 && inRange c 65 && inRange k 16 && inRange h 65 && inRange e 16

/-- A token whose fields fit their widths (R81). -/
def Token.wf (t : Token) : Bool :=
  inRange t.index 16 && inRange t.operand 8 && inRange t.kind 4 && inRange t.epoch 4 && inRange t.copy 4

/-- A token on its way, well formed. -/
def Flit.wf (f : Flit) : Bool := f.tok.wf && f.edge.wf

/-- A unit of the layout. -/
def UnitId.wf : UnitId → Bool
  | .hen h => h.wf
  | .steer n c => inRange n 16 && inRange c 65
  | .chan n c k => inRange n 16 && inRange c 65 && inRange k 16
  | .router n r i => inRange n 16 && inRange r 64 && inRange i 6
  | .quant n c q => inRange n 16 && inRange c 65 && inRange q 16
  | .array n a => inRange n 16 && inRange a 4
  | .gate n g => inRange n 16 && inRange g 64
  | .port n i => inRange n 16 && inRange i 16
  | .goat n c g d => inRange n 16 && inRange c 65 && inRange g 2 && inRange d 16
  | .ox n p => inRange n 16 && inRange p 8
  | .bridge n b => inRange n 16 && inRange b 4

/-- A unit without a spare, of the layout. -/
def LostUnit.wf : LostUnit → Bool
  | .dram n b => inRange n 16 && inRange b 2
  | .package p => inRange p 20
  | .ioDie x => inRange x 4
  | .glowworm e => inRange e 8
  | .lasers => true
  | .acquisition => true

/-- One who asks for an SRAM access. -/
def Requester.wf : Requester → Bool
  | .ctx x => x.wf
  | .goat n c g d _ => inRange n 16 && inRange c 65 && inRange g 2 && inRange d 16
  | .quant n c => inRange n 16 && inRange c 65

/-- A ring frame whose fields fit their widths (R275). -/
def RingFrame.wf (f : RingFrame) : Bool :=
  inRange f.lane 2 && inRange f.kind 256 && inRange f.origin 64 && inRange f.hop 64 && inRange f.flags 8 && inRange f.time (2 ^ 48)
    && decide (f.body.length = 12)

/-- A command whose operands the layout has. -/
def Instr.wf : Instr → Bool
  | .registerWrite _ _ _ _ => true
  | .partcfgWrite n half _ _ => inRange n 16 && optRange half 2
  | .cxlMemRead _ _ => true
  | .cxlMemWrite _ _ _ => true
  | .invalidCode u f _ _ _ _ => u.wf && f.wf
  | .handshakeStall u code _ _ _ _ => u.wf && inRange (code - 1) 4 && inRange 0 code
  | .arrivalStamp n g _ _ => inRange n 16 && inRange g 64
  | .scheduleAnchor n g => inRange n 16 && inRange g 64
  | .gateToken n g f _ => inRange n 16 && inRange g 64 && f.wf
  | .gateFire n g => inRange n 16 && inRange g 64
  | .gcfgWrite n g _ => inRange n 16 && inRange g 64
  | .gslackMinWrite n g _ => inRange n 16 && inRange g 64
  | .henToken h f _ => h.wf && f.wf
  | .henAdd x => x.wf
  | .henSub x => x.wf
  | .henAdds x => x.wf
  | .henSubs x => x.wf
  | .henAddus x => x.wf
  | .henSubus x => x.wf
  | .henAnd x => x.wf
  | .henOr x => x.wf
  | .henXor x => x.wf
  | .henAndn x => x.wf
  | .henShl x => x.wf
  | .henShr x => x.wf
  | .henSar x => x.wf
  | .henRol x => x.wf
  | .henMin x => x.wf
  | .henMax x => x.wf
  | .henMinu x => x.wf
  | .henMaxu x => x.wf
  | .henCeq x => x.wf
  | .henClt x => x.wf
  | .henCltu x => x.wf
  | .henPopc x => x.wf
  | .henClz x => x.wf
  | .henCtz x => x.wf
  | .henMul x => x.wf
  | .henMulh x => x.wf
  | .henMulhu x => x.wf
  | .henDot x => x.wf
  | .henDiv x => x.wf
  | .henDivu x => x.wf
  | .henRem x => x.wf
  | .henRemu x => x.wf
  | .henAddi x => x.wf
  | .henAndi x => x.wf
  | .henOri x => x.wf
  | .henXori x => x.wf
  | .henMovz x => x.wf
  | .henMovk x => x.wf
  | .henSel x => x.wf
  | .henBfx x => x.wf
  | .henBfi x => x.wf
  | .henMfs x => x.wf
  | .henSetst x => x.wf
  | .henShli x => x.wf
  | .henShri x => x.wf
  | .henSari x => x.wf
  | .henFadd x => x.wf
  | .henFsub x => x.wf
  | .henFmul x => x.wf
  | .henFmin x => x.wf
  | .henFmax x => x.wf
  | .henFabs x => x.wf
  | .henFneg x => x.wf
  | .henFceq x => x.wf
  | .henFclt x => x.wf
  | .henFcle x => x.wf
  | .henFdiv x => x.wf
  | .henFsqrt x => x.wf
  | .henFma x => x.wf
  | .henCvt x => x.wf
  | .henLd64 x => x.wf
  | .henLd32 x => x.wf
  | .henLd16 x => x.wf
  | .henLd8 x => x.wf
  | .henSt64 x => x.wf
  | .henSt32 x => x.wf
  | .henSt16 x => x.wf
  | .henSt8 x => x.wf
  | .henSend x => x.wf
  | .henQwait x => x.wf
  | .henQtake x => x.wf
  | .henQput x => x.wf
  | .henTwait x => x.wf
  | .henBr x => x.wf
  | .henBz x => x.wf
  | .henBnz x => x.wf
  | .henBlt x => x.wf
  | .henBge x => x.wf
  | .henBltu x => x.wf
  | .henBgeu x => x.wf
  | .henBeq x => x.wf
  | .henBne x => x.wf
  | .henEnd x => x.wf
  | .illegalInstruction x => x.wf
  | .sramAccessComplete n c who _ _ => inRange n 16 && inRange c 65 && who.wf
  | .queueConditionMet x => x.wf
  | .twaitWake x _ => x.wf
  | .ageDrop x _ => x.wf
  | .steeringToken n c f _ => inRange n 16 && inRange c 65 && f.wf
  | .steeringAged n c _ => inRange n 16 && inRange c 65
  | .steerstatWrite n c _ => inRange n 16 && inRange c 65
  | .creditReturn e _ => e.wf
  | .slotPosition n r o => inRange n 16 && inRange r 64 && inRange o 5
  | .routerToken n r i f _ => inRange n 16 && inRange r 64 && inRange i 6 && f.wf
  | .sramScrub n c _ _ => inRange n 16 && inRange c 65
  | .henSubstitution h _ _ => h.wf
  | .clusterSubstitution n c _ _ => inRange n 16 && inRange c 65
  | .arrayVector n a _ _ => inRange n 16 && inRange a 4
  | .fillComplete n a _ _ _ => inRange n 16 && inRange a 4
  | .arrayMarker n a f _ => inRange n 16 && inRange a 4 && f.wf
  | .storeWrite n a _ _ _ _ => inRange n 16 && inRange a 4
  | .ballastSlot n a => inRange n 16 && inRange a 4
  | .ballastWindow n a => inRange n 16 && inRange a 4
  | .arraySubstitution n a _ => inRange n 16 && inRange a 4
  | .storeScrub n a _ _ => inRange n 16 && inRange a 4
  | .quantWord n c f0 _ => inRange n 16 && inRange c 65 && f0.wf
  | .quantReturn n c _ => inRange n 16 && inRange c 65
  | .sramPass n c f0 _ => inRange n 16 && inRange c 65 && f0.wf
  | .passComplete n c q _ => inRange n 16 && inRange c 65 && inRange q 16
  | .qsnapTake n c q => inRange n 16 && inRange c 65 && inRange q 16
  | .qsnapTakeClear n c q => inRange n 16 && inRange c 65 && inRange q 16
  | .qdescWrite n c q w half _ _ => inRange n 16 && inRange c 65 && inRange q 16 && inRange w 8 && optRange half 2
  | .jobStart _ => true
  | .markerArrival u f _ => u.wf && f.wf
  | .unitRelease u _ => u.wf
  | .drainLimit n => inRange n 16
  | .epochHoldExpiry n => inRange n 16
  | .oxInput n p f _ => inRange n 16 && inRange p 8 && f.wf
  | .oxCycle n p => inRange n 16 && inRange p 8
  | .blockLock n i => inRange n 16 && inRange i 16
  | .lockLoss n i _ => inRange n 16 && inRange i 16
  | .fieldLanded n i _ _ => inRange n 16 && inRange i 16
  | .frameVerdict n i _ => inRange n 16 && inRange i 16
  | .replyStart n g => inRange n 16 && inRange g 64
  | .cancelStart n i _ => inRange n 16 && inRange i 16
  | .cancelDrop n i _ => inRange n 16 && inRange i 16
  | .linkFrame n i _ => inRange n 16 && inRange i 16
  | .linkSubstitute n i => inRange n 16 && inRange i 16
  | .goatStart n c g f _ => inRange n 16 && inRange c 65 && inRange g 2 && f.wf
  | .lineIssue n c g d _ => inRange n 16 && inRange c 65 && inRange g 2 && inRange d 16
  | .lineComplete n c g d _ _ _ _ => inRange n 16 && inRange c 65 && inRange g 2 && inRange d 16
  | .writeAccepted n c g d _ _ => inRange n 16 && inRange c 65 && inRange g 2 && inRange d 16
  | .bulkJobEnd _ => true
  | .patrolScrub tier n _ _ _ => inRange (tier - 1) 2 && inRange 0 tier && inRange n 16
  | .refresh tier n _ _ => inRange (tier - 1) 2 && inRange 0 tier && inRange n 16
  | .historyFrame n _ _ => inRange n 16
  | .histqWrite n _ => inRange n 16
  | .pacerPhase n => inRange n 16
  | .barrierTimeout b => inRange b 16
  | .install n c g d _ => inRange n 16 && inRange c 65 && inRange g 2 && inRange d 16
  | .checkpointQuiescent _ _ => true
  | .freezeTime => true
  | .thawTime => true
  | .tincWrite _ => true
  | .tadjStep _ => true
  | .tsetCommit _ => true
  | .timeSnap => true
  | .tecfgWrite e _ => inRange e 16
  | .timeEventOccurrence e => inRange e 16
  | .tioCapture p _ => inRange p 8
  | .tioTrigger p _ => inRange p 8
  | .tiocapRead p => inRange p 8
  | .txtsHiRead _ n i => inRange n 16 && inRange i 16
  | .sync f _ => f.wf
  | .delayReq f _ => f.wf
  | .delayResp f _ => f.wf
  | .arm f _ => f.wf
  | .fire f _ => f.wf
  | .vote f _ => f.wf
  | .retract f _ => f.wf
  | .arrive f _ => f.wf
  | .release f _ => f.wf
  | .ready f _ => f.wf
  | .readyB f _ => f.wf
  | .go f _ => f.wf
  | .jobend f _ => f.wf
  | .status f _ => f.wf
  | .syncPeriod _ => true
  | .delayPeriod _ => true
  | .statusPeriod _ => true
  | .nodeMissing n _ => inRange n 64
  | .varmWrite _ => true
  | .armEffective => true
  | .triggerSend _ => true
  | .act => true
  | .voteEvaluation => true
  | .vactRead => true
  | .vnodeClear n => inRange n 64
  | .ptpMessage _ _ => true
  | .acqCommit => true
  | .acqStop => true
  | .acqFrame => true
  | .segmentCommit k => inRange k 16
  | .tailBlock d _ => inRange d 4
  | .datagramFlush d => inRange d 4
  | .laserFailure l _ => inRange l 2
  | .glowwormFailure e _ => inRange e 8
  | .cdrLockLoss e k _ => inRange e 8 && inRange k 32
  | .prbsLock e k _ => inRange e 8 && inRange k 32
  | .prbsLockLoss e k _ _ _ => inRange e 8 && inRange k 32
  | .linjGo e k _ => inRange e 8 && inRange k 32
  | .linjStop e k _ => inRange e 8 && inRange k 32
  | .injection e k _ => inRange e 8 && inRange k 32
  | .macReceive n i _ _ _ _ => inRange n 16 && inRange i 16
  | .receiveRecord n i q _ => inRange n 16 && inRange i 16 && inRange q 16
  | .receiveRelease n i f _ => inRange n 16 && inRange i 16 && f.wf
  | .pauseRefresh n i _ => inRange n 16 && inRange i 16
  | .pauseReceived n i _ quanta _ => inRange n 16 && inRange i 16 && quanta.all (fun p => inRange p.1 8 && inRange p.2 65536)
  | .pauseExpiry n i q => inRange n 16 && inRange i 16 && inRange q 8
  | .transmitToken n i f _ => inRange n 16 && inRange i 16 && f.wf
  | .frameSent n i _ _ => inRange n 16 && inRange i 16
  | .t1sReceive _ _ => true
  | .t1sCollision _ _ => true
  | .t1sBackoff _ _ => true
  | .linkDown kind _ => inRange kind 3
  | .linkTrained _ _ _ => true
  | .msixUnmask v => inRange v 64
  | .packetCommit w _ _ _ => inRange w 16
  | .nonce w _ => inRange w 16
  | .openMaint w _ => inRange w 16
  | .openOp w _ => inRange w 16
  | .close w _ => inRange w 16
  | .caps w _ => inRange w 16
  | .lattab w _ => inRange w 16
  | .attest w _ => inRange w 16
  | .load _ _ _ => true
  | .update _ _ _ => true
  | .stop _ _ => true
  | .resume _ _ _ _ => true
  | .checkpoint _ _ => true
  | .freeze _ _ => true
  | .thaw _ _ _ => true
  | .strict w _ => inRange w 16
  | .jobctl w _ => inRange w 16
  | .inputs w _ => inRange w 16
  | .prov w _ => inRange w 16
  | .t1sSend w _ => inRange w 16
  | .t1sRecv w _ => inRange w 16
  | .keyEnroll w _ => inRange w 16
  | .keyRevoke w _ => inRange w 16
  | .password w _ => inRange w 16
  | .policy w _ => inRange w 16
  | .fwUpdate _ _ _ => true
  | .commandComplete _ _ => true
  | .commandTimeout _ => true
  | .sessionIdle _ => true
  | .lockoutExpiry => true
  | .nonceExpiry w => inRange w 16
  | .pendingSet src _ => inRange src 1023
  | .ipendWrite g _ => inRange g 32
  | .targetSignal t _ => inRange t 40
  | .holdoffExpiry g => inRange g 32
  | .iclaimRead _ => true
  | .icompleteWrite _ _ => true
  | .suppressed code _ => inRange code 65536
  | .olmselWrite _ => true
  | .powerSample _ _ _ => true
  | .converterOverload _ => true
  | .slopeInterval _ => true
  | .droop n _ => inRange n 16
  | .droopClear n _ => inRange n 16
  | .droopLong n _ => inRange n 16
  | .droopSettled n _ => inRange n 16
  | .alert _ _ => true
  | .alertRecovery _ => true
  | .thermalAlert n _ _ => inRange n 16
  | .thermalShutdown n _ _ => inRange n 16
  | .inputOutOfRange _ => true
  | .undervoltageTrip _ => true
  | .overvoltageShutdown _ => true
  | .dieFailed n _ => inRange n 16
  | .unitLost u _ => u.wf
  | .oscillatorFailure _ => true
  | .lockstepMismatch _ _ _ => true
  | .hubFailover _ _ => true
  | .fltrepHiRead => true
  | .inputPresent straps _ hub _ => inRange straps 16384 && optRange hub 2
  | .firmwareStage _ _ _ _ => true
  | .railsStage _ => true
  | .memoryStage bad _ => bad.all LostUnit.wf
  | .lasersStage _ _ _ => true
  | .lanesStage lanes locks _ => lanes.all (fun l => inRange l.1 8 && inRange l.2.1 32) && locks.all (fun l => inRange l.1 16 && inRange l.2 16)
  | .selfTestStage bad lost _ => bad.all (fun b => b.1.wf) && lost.all LostUnit.wf
  | .hostStage _ _ => true
  | .modReady _ => true
  | .resetN _ => true
  | .resetRelease straps _ hub _ _ => inRange straps 16384 && optRange hub 2
  | .perstN _ _ => true
  | .trstN => true
  | .extest _ _ => true
  | .samplePreload _ _ => true
  | .clamp _ => true
  | .highz _ => true
  | .bypass code _ => inRange code 256 && inRange 3 code
  | .tpselWrite p half _ _ => inRange p 4 && optRange half 2
  | .rcRead _ _ _ => true
  | .requestAreaWrite w _ _ _ => inRange w 16
  | .switchTime n => inRange n 16
  | .checkpointDrainLimit _ => true
  | .barrierRelease b => inRange b 16
  | .alertDeassert _ die _ => optRange die 16
  | .inputWithinRange straps _ hub _ => inRange straps 16384 && optRange hub 2
  | .cdrLock e k _ _ _ => inRange e 8 && inRange k 32
  | .servoUnlock _ => true
  | .ptpTimer kind _ => inRange kind 4
  | .badRingFrame _ => true
  | .unknownFrameType f _ => f.wf
  | .interframeGapEnd n i => inRange n 16 && inRange i 16
  | .dramHot n b _ => inRange n 16 && inRange b 2
  | .railPhaseFailure n _ => inRange n 16
  | .pulseEnd p => inRange p 8

end Sys2Proof
end

