-- ==== Sys2Proof/Tests/Slice0.lean ====
section
/-!
SUPPORT. Our own tests: small facts from the manual's worked examples and tables, and for every statement with hypotheses concrete states and operands
that meet them, clause by clause (`witness_…`).
-/
namespace Sys2Proof.Tests
open Sys2Proof.Machine Sys2Proof.Claims

-- One proof after another: many kernel evaluations at once take a thread and its stack each.
set_option Elab.async false

/-! ### Hens -/

/-- Context 0 of hen 0 of cluster 0 of die 0, which is in bulk as after reset. -/
def x0 : CtxRef := ⟨⟨0, 0, 0⟩, 0⟩
/-- A context that is ready at word 100. -/
def c0 : Ctx := { entry := 0, tag := 0, epoch := 0, need := 1, fired := true, pc := 100, wait := .ready }
/-- A state in which fields have values. -/
def withFields (fs : List (Fld × List Nat × Nat)) (s : State) : State := fs.foldl (fun z p => z.wr p.1 p.2.1 p.2.2) s
/-- Hen 0 holds `h`. -/
def withHen (h : Hen) : State := ({} : State).setHen x0.hen h
/-- Entry 0 with window 4, need 1, code at word 100; then the word `w` there. -/
def codeAt (w : W32) : Sparse W32 := [(0, 0x04010064), (100, w)]
/-- The context `c` of the hen is about to run the word `w`. -/
def running (c : Ctx) (w : Nat) : State := withHen { imem := codeAt (BitVec.ofNat 32 w), ctxs := [(0, c)] }
/-- The word of opcode `o`. -/
def opw (o : Nat) : Nat := o * 2 ^ 26

theorem witness_HenLaneOperations :
    (∀ p ∈ laneRows2, Issues (running c0 (opw 1 + (aluTypes p.2.1).1.headD 0 * 256 + p.2.1)) x0 c0 (isAlu p.2.1))
    ∧ ∀ p ∈ laneRows1, Issues (running c0 (opw 1 + (aluTypes p.2.1).1.headD 0 * 256 + p.2.1)) x0 c0 (isAlu p.2.1) := by
  unfold Issues; decide +kernel

theorem witness_HenWordOperations :
    (∀ p ∈ bitRows, Issues (running c0 (opw 1 + (aluTypes p.2.1).1.headD 0 * 256 + p.2.1)) x0 c0 (isAlu p.2.1))
    ∧ (∀ p ∈ immRows, Issues (running c0 (opw p.2.1 + 63)) x0 c0 (isOp p.2.1))
    ∧ Issues (running c0 (opw 1 + 0x133)) x0 c0 (isAlu 0x33) ∧ ∀ o ∈ [0x06, 0x07, 0x08, 0x0A], Issues (running c0 (opw o)) x0 c0 (isOp o) := by
  unfold Issues; decide +kernel

theorem witness_HenFloatOperations :
    (∀ f ∈ [0x00, 0x01, 0x02, 0x03, 0x04, 0x10, 0x08, 0x09, 0x0A, 0x05, 0x06, 0x11], Issues (running c0 (opw 0x10 + 0x400 + f)) x0 c0 (isFpu f))
    ∧ Issues (running c0 (opw 0x11 + 0x600)) x0 c0 (isOp 0x11) ∧ Issues (running c0 (opw 0x12 + 0x46)) x0 c0 (isOp 0x12) := by
  unfold Issues; decide +kernel

theorem witness_RoundingKeeps : fp16 ∈ [fp32, bf16, fp16] ∧ 0x7BFF < 2 ^ fp16.width ∧ fp16.decode 0x7BFF = .fin false 2047 5 := by decide +kernel

theorem witness_HenSpecialValues : Issues (running c0 (opw 0x0B + 9)) x0 c0 (isOp 0x0B) ∧ Issues (running c0 (opw 0x0C + 7)) x0 c0 (isOp 0x0C) := by
  unfold Issues; decide +kernel

/-- The same context at word 100 with r0 = `a`. -/
def c1 (a : W64) : Ctx := { c0 with regs := [(0, a)] }

theorem witness_HenBranches :
    (∀ p ∈ branchRows, Issues (running c0 (opw p.2.1 + 65484)) x0 c0 (isOp p.2.1)) ∧ (48 : Int) = c0.pc + intOf 16 (65484 : Nat)
    ∧ (1023 : Int) = c0.pc + intOf 16 923 ∧ (c0.pc : Int) + intOf 16 65483 < 48 ∧ (1023 : Int) < c0.pc + intOf 16 924
    ∧ (∀ p ∈ branchRows, p.2.2 0 0 = true ∨ p.2.2 1 0 = true ∨ p.2.2 0 1 = true)
    ∧ ∀ p ∈ branchRows, p.1 x0 = .henBr x0 ∨ p.2.2 0 0 = false ∨ p.2.2 1 0 = false ∨ p.2.2 0 1 = false := by
  unfold Issues; decide +kernel

theorem witness_HenMemoryOperations :
    (∀ p ∈ loadRows ++ storeRows, Issues (running (c1 4194296) (opw p.2.1)) x0 (c1 4194296) (isOp p.2.1) ∧ 4194296 % p.2.2 = 0 ∧ 4194296 < 4194304)
    ∧ (∀ p ∈ loadRows ++ storeRows, Issues (running (c1 4194304) (opw p.2.1)) x0 (c1 4194304) (isOp p.2.1))
    ∧ (1 : Nat) % 8 ≠ 0 := by
  unfold Issues; decide +kernel

theorem witness_HenFaultPath : c0.pc ≠ 1023 ∧ Sparse.sorted ({} : State).regs = true := by decide

/-- A SEND on route 15 to index 0 of address 1. -/
def sends (n : Nat) : State :=
  { withHen { imem := [(0, 0x04010064), (47, 0x10), (100, BitVec.ofNat 32 (opw 0x20 + 0xF000))], ctxs := [(0, c0)] } with
    credits := [(.hen 0 0 0 15, n)] }

theorem witness_HenSend : (Issues (sends 1) x0 c0 (isOp 0x20) ∧ (sends 1).sendOpen x0 15 = true)
    ∧ Issues (sends 0) x0 c0 (isOp 0x20) ∧ (sends 0).sendOpen x0 15 = false := by
  unfold Issues; decide +kernel

/-- Goat 0 of the cluster: descriptor 0 reads into queue 0, descriptor 1 writes from queue 1, and the queues hold entries. -/
def queues (a b : List W64) (lv : Nat) : Goat :=
  { mem := [(0, 1), (64, 0x0A)], queues := [(0, { entries := a }), (1, { entries := b, leaving := lv })] }
/-- The hen of those queues: entry 0 may use both. -/
def queueHen (w : Nat) (cs : Sparse Ctx) : Hen := { imem := [(0, 0x04010064), (1, 0x00030000), (100, BitVec.ofNat 32 w)], ctxs := cs }
/-- The older context of the same entry, which has passed nothing on, and the younger. -/
def cOld : Ctx := { c0 with tag := 0, wait := .mem }
def cYoung : Ctx := { c0 with tag := 1 }
def queued (w : Nat) (c : Ctx) (g : Goat) : State := (withHen (queueHen w [(0, c)])).setGoat 0 0 0 g
def queuedTwo (w : Nat) (g : Goat) : State := (withHen (queueHen w [(0, cYoung), (1, cOld)])).setGoat 0 0 0 g

theorem witness_HenQueues :
    (Issues (queued (opw 0x24 + 0x1000) c0 (queues [] [] 0)) x0 c0 (isOp 0x24) ∧ (queued (opw 0x24 + 0x1000) c0 (queues [] [] 0)).queueValid x0 c0 2 false = false)
    ∧ (Issues (queued (opw 0x24) c0 (queues [5] [] 0)) x0 c0 (isOp 0x24) ∧ (queued (opw 0x24) c0 (queues [5] [] 0)).queueValid x0 c0 0 false = true
      ∧ (queued (opw 0x24) c0 (queues [5] [] 0)).queueTurn x0 c0 0 = true ∧ iN (BitVec.ofNat 32 (opw 0x24)) = 1)
    ∧ (Issues (queuedTwo (opw 0x24) (queues [5] [] 0)) x0 cYoung (isOp 0x24) ∧ (queuedTwo (opw 0x24) (queues [5] [] 0)).queueValid x0 cYoung 0 false = true
      ∧ (queuedTwo (opw 0x24) (queues [5] [] 0)).queueTurn x0 cYoung 0 = false)
    ∧ (Issues (queued (opw 0x25 + 0x1000) c0 (queues [] [] 0)) x0 c0 (isOp 0x25) ∧ (queued (opw 0x25 + 0x1000) c0 (queues [] [] 0)).queueValid x0 c0 2 false = false)
    ∧ (Issues (queued (opw 0x25) c0 (queues [5] [] 0)) x0 c0 (isOp 0x25) ∧ (queued (opw 0x25) c0 (queues [5] [] 0)).queueTurn x0 c0 0 = true)
    ∧ Issues (queued (opw 0x25) c0 (queues [] [] 0)) x0 c0 (isOp 0x25)
    ∧ (Issues (queued (opw 0x26) c0 (queues [] [] 0)) x0 c0 (isOp 0x26) ∧ (queued (opw 0x26) c0 (queues [] [] 0)).queueValid x0 c0 0 true = false)
    ∧ (Issues (queued (opw 0x26 + 0x800) c0 (queues [] [] 63)) x0 c0 (isOp 0x26) ∧ (queued (opw 0x26 + 0x800) c0 (queues [] [] 63)).queueValid x0 c0 1 true = true
      ∧ (queued (opw 0x26 + 0x800) c0 (queues [] [] 63)).queueTurn x0 c0 1 = true ∧ 0 + 63 < 64)
    ∧ Issues (queued (opw 0x26 + 0x800) c0 (queues [] [] 64)) x0 c0 (isOp 0x26) := by
  unfold Issues; and_intros <;> decide +kernel

/-- The context waits as `w`. -/
def waits (w : Wait) : Ctx := { c0 with wait := w }

theorem witness_QueueConditionMet :
    (Sparse.find ((queued 0 (waits (.qwait 0 1)) (queues [5] [] 0)).hen x0.hen).ctxs 0 = some (waits (.qwait 0 1))
      ∧ (queued 0 (waits (.qwait 0 1)) (queues [5] [] 0)).queueTurn x0 (waits (.qwait 0 1)) 0 = true)
    ∧ (queued 0 (waits (.qtake 0 3 true)) (queues [5] [] 0)).queueTurn x0 (waits (.qtake 0 3 true)) 0 = true
    ∧ (queued 0 (waits (.qput 1 7 true)) (queues [] [] 63)).queueTurn x0 (waits (.qput 1 7 true)) 1 = true
    ∧ ((withHen (queueHen 0 [(0, { cYoung with wait := .qwait 0 1 }), (1, cOld)])).setGoat 0 0 0 (queues [5] [] 0)).queueTurn x0
        { cYoung with wait := .qwait 0 1 } 0 = false := by decide +kernel

/-- Time event 0 is armed and has occurred twice. -/
def evented (s : State) : State := { s with tevents := [(0, { armed := true, occurred := 2 })] }

theorem witness_TimeWaits :
    (Issues (running c0 (opw 0x28)) x0 c0 (isOp 0x28) ∧ ((0 : W64)).toNat * 800 ≤ (running c0 (opw 0x28)).now)
    ∧ (Issues (running (c1 1) (opw 0x28)) x0 (c1 1) (isOp 0x28) ∧ (running (c1 1) (opw 0x28)).now < 1 * 800)
    ∧ (Issues (evented (running (c1 1) (opw 0x28 + 1))) x0 (c1 1) (isOp 0x28) ∧ ((counted (evented (running (c1 1) (opw 0x28 + 1))) x0).occurredAt 0 1).isSome = true)
    ∧ (Issues (evented (running (c1 2) (opw 0x28 + 1))) x0 (c1 2) (isOp 0x28) ∧ (counted (evented (running (c1 2) (opw 0x28 + 1))) x0).occurredAt 0 2 = none)
    ∧ Sparse.find ((running (waits (.time 800 none)) 0).hen x0.hen).ctxs 0 = some (waits (.time 800 none))
    ∧ ((evented (running (waits (.time 1 (some 0))) 0)).occurredAt 0 1).isSome = true := by
  unfold Issues; decide +kernel

theorem witness_EndRetires :
    (running c0 (opw 0x3E)).readyCtx x0 = some c0 ∧ ((running c0 (opw 0x3E)).hen x0.hen).runnable 100 = true
    ∧ isOp 0x3E (((running c0 (opw 0x3E)).hen x0.hen).word 100) = true ∧ (running c0 (opw 0x3E)).mayIssue x0.hen = true
    ∧ CanRetire (running c0 (opw 0x3E)) x0 c0 := by
  unfold CanRetire HenSorted; decide +kernel

/-- The age limit of the cluster is 1 us. -/
def ageing : State := (running c0 0).wr HENCFG.age_bulk [0, 0] 1

theorem witness_IllegalAndOverdue :
    ((running c0 0).readyCtx x0 = some c0 ∧ ((running c0 0).hen x0.hen).runnable 100 = false ∧ CanRetire (running c0 0) x0 c0)
    ∧ ageing.ageLimit 0 0 ≠ 0 ∧ c0.bound + ageing.ageLimit 0 0 < max ageing.now 1000001 ∧ CanRetire (ageing.upTo 1000001) x0 c0 := by
  unfold CanRetire HenSorted; decide +kernel

/-- The context waits at the bank for `a`. -/
def atBank (a : AccOp) : State :=
  (running (waits .mem) 0).setClu 0 0 { sram := [(0, 7)], bankQ := [{ who := .ctx x0, addr := 0, op := a, arrived := 0 }] }

theorem witness_SramAccesses : ∀ a ∈ [AccOp.load 8 1, .store 8 5, .store 1 5],
    AtBank (atBank a) x0 (waits .mem) { who := .ctx x0, addr := 0, op := a, arrived := 0 } [] := by
  unfold AtBank; decide +kernel

/-- A token for entry 0 of the hen with tag `g`, operand `k`. -/
def tokenTo (g : W16) (k : Nat) : Flit := { tok := { tag := g, operand := k, data := 9 } }

theorem witness_HenTokens :
    (((running c0 0).hen x0.hen).entryPc 0 ≠ 0 ∧ ((running c0 0).hen x0.hen).classify 0 4 = .ahead ∧ (0 : Nat) = (running c0 0).rd HSTAT.epoch [0, 0, 0])
    ∧ ((running c0 0).hen x0.hen).classify 0 0xFFFF = .stale ∧ ((running c0 0).hen x0.hen).entryPc 1 = 0
    ∧ (((running c0 0).hen x0.hen).classify 0 3 = .inWindow ∧ bitOf (((running c0 0).hen x0.hen).need 0) 1 = false)
    ∧ bitOf (((running c0 0).hen x0.hen).need 0) 0 = true ∧ (∀ j, j < 1 → (Sparse.find ((running c0 0).hen x0.hen).ctxs j).isSome = true)
    ∧ Sparse.find ((running c0 0).hen x0.hen).ctxs 1 = none
    ∧ ((running c0 0).hen x0.hen).ctxs.all (fun p => !(p.2.entry == 0 && p.2.tag == 3)) = true := by decide +kernel

/-! ### Gates -/

/-- A token of beat `b`. -/
def gt (b : W16) (k c : Nat) : Flit := { tok := { beat := b, operand := k, copy := c, data := 9 } }
/-- A gate entry of beat `b` that fires at 1 us. -/
def ge (b : W16) (ts : List GateTok) : GateEntry := { beat := b, anchor := 0, fire := 1000000, toks := ts }
/-- Gate 0 of die 0, enabled, with `m` as `mode`, holding `g`. -/
def gated (m : Nat) (g : Gate) : State :=
  withFields [(GCFG.enable, [0, 0], 1), (GCFG.mode, [0, 0], m)] { gates := [(0, g)] }

theorem witness_GatesAdmitAnchors :
    ((gated 0 { entries := List.replicate 63 (ge 5 []) }).flag GCFG.enable [0, 0] = true ∧ (gated 0 {}).flag GCFG.mode [0, 0] = false
      ∧ ((gated 0 { entries := List.replicate 63 (ge 5 []) }).gate 0 0).entries.length < 64)
    ∧ 64 ≤ ((gated 0 { entries := List.replicate 64 (ge 5 []) }).gate 0 0).entries.length
    ∧ ({} : State).flag GCFG.enable [0, 0] = false ∧ (gated 1 {}).flag GCFG.mode [0, 0] = true
    ∧ ((gated 1 { schedNext := some 0 }).gate 0 0).schedNext = some 0
    ∧ ((gated 1 { schedNext := some 0 }).gate 0 0).entries.length < 64
    ∧ 0 = (gated 1 { schedNext := some 0 }).rd GSCHED_BASE.tick [0, 0] * 800 + (gated 1 { schedNext := some 0 }).rd GSCHED_BASE.vernier [0, 0] * 100
        + 0 * ((gated 1 { schedNext := some 0 }).rd GSCHED_PERIOD.period [0, 0] * 100) := by decide +kernel

theorem witness_GateTokensJoin :
    ((gt 5 0 0).tok.kind ≠ 3 ∧ ((gated 0 { epoch := 1 }).gate 0 0).epoch ≠ (gt 5 0 0).tok.epoch)
    ∧ (∀ e ∈ ((gated 0 {}).gate 0 0).entries, e.beat ≠ (gt 5 0 0).tok.beat)
    ∧ (gated 0 {}).rd GCFG.tokens [0, 0] < (gt 5 1 0).tok.operand ∧ (gated 0 {}).rd GCFG.redundancy [0, 0] < (gt 5 0 1).tok.copy
    ∧ ((gated 0 { entries := [ge 4 [], ge 5 []] }).gate 0 0).entries = [ge 4 []] ++ ge 5 [] :: []
    ∧ (∀ x ∈ [ge 4 []], x.beat ≠ (gt 5 0 0).tok.beat) ∧ (ge 5 []).beat = (gt 5 0 0).tok.beat ∧ (ge 5 []).has (gt 5 0 0) = false
    ∧ (gt 5 0 0).tok.operand ≤ (gated 0 {}).rd GCFG.tokens [0, 0] ∧ (gt 5 0 0).tok.copy ≤ (gated 0 {}).rd GCFG.redundancy [0, 0] := by
  decide +kernel

/-- The token of copy `c` with value `v`, in good time. -/
def cp (c : Nat) (v : W64) : GateTok := { flit := { tok := { beat := 5, copy := c, data := v } }, at_ := 0 }

theorem witness_GateVerdictTable :
    copyValue [cp 0 9] 0 1 = some [9] ∧ copyValue [] 0 1 = none
    ∧ (copyValue [cp 0 9, cp 1 9] 0 1 = some [9] ∧ copyValue [cp 0 9, cp 1 9] 1 1 = some [9]) ∧ copyValue [cp 0 9] 1 1 = none
    ∧ (∀ k, k < 3 → copyValue [cp 0 9, cp 1 9, cp 2 9] k 1 = some [9])
    ∧ (∀ k, k < 3 → copyValue [cp 0 9, cp 1 9, cp 2 8] k 1 = some (if k = 2 then [8] else [9]))
    ∧ (∀ k, k < 3 → copyValue [cp 0 7, cp 1 8, cp 2 9] k 1 = some [BitVec.ofNat 64 (7 + k)])
    ∧ (copyValue [cp 0 9, cp 2 8] 0 1 = some [9] ∧ copyValue [cp 0 9, cp 2 8] 2 1 = some [8] ∧ copyValue [cp 0 9, cp 2 8] 1 1 = none)
    ∧ copyValue [cp 2 8] 0 1 = none ∧ copyValue [cp 2 8] 1 1 = none := by decide +kernel

/-- Gate 0 about to release beat 5 toward a composer with fallback `f`. -/
def firing (f : Nat) (ts : List GateTok) : State := (gated 0 { entries := [ge 5 ts] }).wr GCFG.fallback [0, 0] f

theorem witness_GatesFire :
    ((firing 0 [cp 0 9]).flt.oscFailed = false ∧ 0 ∉ (firing 0 [cp 0 9]).flt.stopped ∧ Sparse.sorted (firing 0 [cp 0 9]).gates = true
      ∧ firstEntry ((firing 0 [cp 0 9]).gate 0 0).entries = some (ge 5 [cp 0 9]) ∧ (firing 0 [cp 0 9]).flag GCFG.target [0, 0] = false
      ∧ (∀ x ∈ (ge 5 [cp 0 9]).toks, x.at_ + 200 ≤ (ge 5 [cp 0 9]).fire)
      ∧ gateVerdict ((firing 0 [cp 0 9]).rd GCFG.redundancy [0, 0]) ((firing 0 [cp 0 9]).rd GCFG.tokens [0, 0] + 1) (ge 5 [cp 0 9]).toks
        = .value [9] [cp 0 9] false)
    ∧ ∀ f ∈ [0, 1, 2, 3], firstEntry ((firing f []).gate 0 0).entries = some (ge 5 []) ∧ (firing f []).rd GCFG.fallback [0, 0] = f
      ∧ gateVerdict ((firing f []).rd GCFG.redundancy [0, 0]) ((firing f []).rd GCFG.tokens [0, 0] + 1) (ge 5 []).toks = .fallback stLate := by
  decide +kernel

theorem witness_GateConfigurationWrites :
    bitsOf ((0x30 : W32)).toNat 4 2 = 3 ∧ ((gated 0 {}).flag GCFG.enable [0, 0] = true ∧ bitOf ((1 : W32)).toNat 0 = true)
    ∧ (bitsOf ((0x20 : W32)).toNat 4 2 ≠ 3 ∧ bitOf ((0x20 : W32)).toNat 0 = false ∧ Sparse.sorted (gated 0 {}).regs = true
      ∧ Sparse.sorted (gated 0 {}).gates = true)
    ∧ (bitsOf ((0x7FFFF - 0x10 : W32)).toNat 4 2 ≠ 3 ∧ ({} : State).flag GCFG.enable [0, 0] = false ∧ Sparse.sorted ({} : State).regs = true
      ∧ bitOf ((0x7FFFF - 0x10 : W32)).toNat 0 = true ∧ Sparse.sorted ({} : State).gates = true) := by decide +kernel

/-! ### Steering and the gallery -/

/-- A token of tag `g` with epoch `e` to hen 0 of cluster 0. -/
def toHen (g : W16) (e : Nat) : Flit := { tok := { tag := g, epoch := e }, edge := .hen 0 1 0 0 }
/-- Hen 0's entry 0 has window 4 and code; `z` are the tokens steering holds. -/
def steering (z : List Slot) : State := (withHen { imem := codeAt 0 }).setClu 0 0 { slots := z }

theorem witness_SteeringDirectTokens :
    ((toHen 0 1).tok.kind ≠ 2 ∧ (toHen 0 1).tok.kind ≠ 3 ∧ (toHen 0 1).tok.epoch ≠ (steering []).steerEpoch 0 0 (toHen 0 1).tok
      ∧ (steering []).carryEdge 0 (toHen 0 1).edge = false)
    ∧ (DirectToken (steering []) 0 0 (toHen 4 0) ∧ (steering []).directHold 0 0 (adSub (toHen 4 0).tok.addr) (toHen 4 0) = some (.ahead 0))
    ∧ DirectToken (steering []) 0 0 (toHen 3 0) ∧ (steering []).directHold 0 0 (adSub (toHen 3 0).tok.addr) (toHen 3 0) = none := by
  unfold DirectToken; decide +kernel

theorem witness_SteeringHolds : ((steering []).clu 0 0).henSubst ≠ some 0
    ∧ (steering []).directHold 0 0 0 (toHen 4 0) = some (.ahead 0) ∧ (steering []).directHold 0 0 0 (toHen 32767 0) = some (.ahead 0) := by decide +kernel

/-- A token held since reset. -/
def heldSlot : Slot := { flit := toHen 4 0, kind := .ahead 0, taken := 0 }
/-- The age limit of the cluster is 1 us. -/
def ageingSlots : State := (steering [{ heldSlot with taken := 1 }, heldSlot]).wr HENCFG.age_bulk [0, 0] 1

theorem witness_SteeringAge : (ageingSlots.clu 0 0).slots = [{ heldSlot with taken := 1 }] ++ heldSlot :: []
    ∧ (∀ y ∈ [{ heldSlot with taken := 1 }], y.aged (ageingSlots.ageLimit 0 0) (max ageingSlots.now 1000001) = false)
    ∧ ageingSlots.ageLimit 0 0 ≠ 0 ∧ heldSlot.taken + ageingSlots.ageLimit 0 0 < max ageingSlots.now 1000001 := by decide +kernel
theorem witness_SteeringAge_kind : ∀ h, heldSlot.kind ≠ .subst h := by intro h; exact fun e => nomatch e

theorem witness_CreditsReturn : Sparse.wf {} ({ creditsDue := [.hen 0 0 0 15] } : State).dies = true
    ∧ Edge.hen 0 0 0 15 ∈ ({ creditsDue := [.hen 0 0 0 15] } : State).creditsDue ∧ (({} : State).die 0).markWant = [] ∧ (({} : State).die 0).markOut = []
    ∧ Edge.hen 0 0 0 15 ∉ ({} : State).creditsDue := by decide +kernel

/-- A token to cluster 1, prompt or bulk. -/
def toClu1 (p : Bool) : Flit := { tok := { addr := 0x8000, prompt := p } }
/-- Router 0 of die 0 holds `hs`; every position of its output 1 has the owner code `k`. -/
def routed (k : Nat) (hs : List Hold) : State :=
  (withFields [] { regs := (List.range 8).map (fun j => (SLOTTAB.addr [0, 0, 1, j], k * 0x11111111)) }).setRouter 0 0 { holds := hs }
/-- A hold from input 0 toward output 1. -/
def hold1 (p : Bool) : Hold := { input := 0, flit := toClu1 p, output := some 1 }

theorem witness_RouterTokens :
    ((toClu1 true).tok.kind ≠ 3 ∧ firstOutput 0 1 (toClu1 true).tok.addr = none ∧ ({} : State).portStopped 0 (toClu1 true).tok = false
      ∧ (toClu1 true).tok.prompt = true)
    ∧ (firstOutput 0 1 (toClu1 false).tok.addr = none ∧ (toClu1 false).tok.prompt = false ∧ feeder 0 1 3 = some (0, 0, 1))
    ∧ (firstOutput 0 0 (toClu1 true).tok.addr = some 1 ∧ (routed 8 (List.replicate 3 (hold1 true))).ownsFor 0 0 1 0 = true
      ∧ ((routed 8 (List.replicate 3 (hold1 true))).router 0 0).used 0 true < 4)
    ∧ ({} : State).ownsFor 0 0 1 0 = false ∧ 4 ≤ ((routed 8 (List.replicate 4 (hold1 true))).router 0 0).used 0 true
    ∧ ((routed 1 [hold1 false]).router 0 0).used 0 false < 2 ∧ 2 ≤ ((routed 1 [hold1 false, hold1 false]).router 0 0).used 0 false := by
  decide +kernel

theorem witness_DimensionOrder : firstOutput 0 0 (toClu1 true).tok.addr = some 1 ∧ homeRouter (toClu1 true).tok.addr < 64
    ∧ adDie (toClu1 true).tok.addr = 0 ∧ firstOutput 0 63 ((0 : BitVec 28)) = some 3 := by decide +kernel

theorem witness_SlotPositions :
    ((routed 8 [hold1 true]).linkRuns 0 0 1 = true ∧ 0 = Sparse.get 0 ((routed 8 [hold1 true]).router 0 0).pos 1 % 64)
    ∧ ((withFields [] { regs := [(SLOTTAB.addr [0, 0, 1, 0], 0x10)] }).linkRuns 0 0 1 = true
      ∧ (withFields [] { regs := [(SLOTTAB.addr [0, 0, 1, 0], 0x10)] }).slotOwner 0 0 1 0 = 0)
    ∧ ((routed 8 [hold1 true]).slotOwner 0 0 1 0 = 8 + 0 ∧ ((routed 8 [hold1 true]).router 0 0).holds = [] ++ hold1 true :: []
      ∧ (hold1 true).flit.tok.prompt = true ∧ (hold1 true).input = 0 ∧ (hold1 true).output = some 1)
    ∧ ((routed 1 []).slotOwner 0 0 1 0 = 1 ∧ ∀ x ∈ ((routed 1 []).router 0 0).holds, x.flit.tok.prompt = false → x.mayLeave 0 0 1 = false)
    ∧ ((routed 13 []).slotOwner 0 0 1 0 = 8 + 5 ∧ ∀ x ∈ ((routed 13 []).router 0 0).holds, x.flit.tok.prompt = true → x.input = 5 → x.mayLeave 0 0 1 = false) := by
  decide +kernel

/-- The repair list of cluster 0 holds `n` words; the scrub is on, and cluster 0 is prompt where `p` is 1. -/
def scrubbed (n p : Nat) : State :=
  (withFields [(SCRUBCFG.enable, [0, 0], 1), (PARTCFG.prompt_clusters, [0], p)] {}).setClu 0 0 { repair := List.range n }

theorem witness_SramScrub : (scrubbed 0 0).flag SCRUBCFG.enable [0, 0] = true ∧ (scrubbed 0 0).cluPrompt 0 0 = false
    ∧ ((scrubbed 15 1).cluPrompt 0 0 = true ∧ 524287 ∉ ((scrubbed 15 1).clu 0 0).repair ∧ ((scrubbed 15 1).clu 0 0).repair.length < 16)
    ∧ 524287 ∉ ((scrubbed 16 1).clu 0 0).repair ∧ 16 ≤ ((scrubbed 16 1).clu 0 0).repair.length ∧ (scrubbed 16 1).flag SCRUBCFG.enable [0, 0] = true := by
  decide +kernel

/-! ### Failures and substitutions -/

theorem witness_Reports : Sparse.sorted ({} : State).regs = true ∧ ({ queue := List.replicate 31 ⟨0, 0, 0, 0, 0, 0⟩ } : Flt).queue.length < 32
    ∧ 32 ≤ ({ queue := List.replicate 32 ⟨0, 0, 0, 0, 0, 0⟩ } : Flt).queue.length := by decide

theorem witness_Monitors : (1 ≤ 1 ∧ 1 ≤ 4 ∧ 1 ≤ 4 ∧ 4 ≤ 4) ∧ (0 = 0 ∧ 5 ≤ 5)
    ∧ (({} : Token).kind ≠ 3 ∧ ({} : Token).kind ≠ 2
      ∧ ({ lastTok := [(.hen ⟨0, 0, 0⟩, {})] } : State).lastTok.find? (fun p => p.1 = .hen ⟨0, 0, 0⟩) = some (.hen ⟨0, 0, 0⟩, {}))
    ∧ (Sparse.sorted ({} : State).regs = true ∧ ({} : State).rd HSMON_LAST.valid [0] = 0)
    ∧ (withFields [(HSMON_LAST.valid, [0], 1)] {}).flag HSMON_LAST.valid [unitDie (.hen ⟨0, 0, 0⟩)] = true := by decide +kernel

theorem witness_SubstitutionsOnly : (⟨0, 0, 0⟩ : HenRef) ∉ ({} : State).flt.hensFailing ∧ (0, 0) ∉ ({} : State).flt.clusFailing
    ∧ ∀ f ∈ ({} : State).flt.arrsFailing, f.die = 0 → f.arr ≠ 0 := by decide

/-- The substitution of hen 63 of cluster 0 runs. -/
def henFailing : State := (({ flt := { hensFailing := [⟨0, 0, 63⟩] } } : State).setClu 0 0 { henSubst := some 63 }).wr HSTAT.failed [0, 0, 63] 1

theorem witness_HenSubstitution : ⟨0, 0, 63⟩ ∈ henFailing.flt.hensFailing ∧ 63 = henFailing.logHen ⟨0, 0, 63⟩ ∧ (henFailing.clu 0 0).henSubst = some 63
    ∧ Sparse.sorted henFailing.regs = true ∧ Sparse.sorted henFailing.clus = true ∧ Sparse.sorted henFailing.hens = true := by decide +kernel

/-- The substitution of cluster 63 of die 15 runs. -/
def cluFailing : State := { flt := { clusFailing := [(15, 63)] } }

theorem witness_ClusterSubstitution : (15, 63) ∈ cluFailing.flt.clusFailing ∧ cluFailing.logClu 15 63 < 64 ∧ Sparse.sorted cluFailing.regs = true := by
  decide +kernel
/-- The image store of the die holds something for hen 0 of that cluster. -/
theorem witness_ClusterSubstitution_store :
    (Sparse.get [] (({ cluFailing with dies := [(15, { store := { imem := [(64 * 63, [(0, 1)])] } })] } : State).die 15).store.imem (64 * 63 + 0)) ≠ [] := by
  decide +kernel

/-- A column chain of array 0 of die 0 is faulty and `k` spare columns are taken. -/
def arrFailing (k : Nat) : State :=
  withFields (([ASPARE.col0, ASPARE.col1, ASPARE.col2, ASPARE.col3].take k).map (fun f => (f, [0, 0], 512)))
    { flt := { arrsFailing := [⟨0, 0, 2, 0, 511⟩] } }

theorem witness_ArraySubstitution :
    (∀ k ∈ [0, 3], (arrFailing k).flt.arrsFailing = [⟨0, 0, 2, 0, 511⟩] ∧ ((arrFailing k).arr 0 0).waiting = []
      ∧ Sparse.sorted (arrFailing k).regs = true ∧ Sparse.sorted (arrFailing k).arrs = true ∧ (arrFailing k).freeCol 0 0 = some k)
    ∧ (arrFailing 4).freeCol 0 0 = none ∧ (arrFailing 4).flt.arrsFailing = [⟨0, 0, 2, 0, 511⟩] := by decide +kernel

theorem witness_RailPhases : ({ fit := { dies := 1 } } : State).hasDie 1 = false ∧ (({} : State).hasDie 0 = true ∧ 0 ∉ ({} : State).flt.phases)
    ∧ (0 ∈ ({ flt := { phases := [0] } } : State).flt.phases ∧ (({ flt := { phases := [0] } } : State).flt.dying.any (fun p => p.1 == 0)) = false
      ∧ bitOf (({ flt := { phases := [0] } } : State).rd FLTDIE.failed []) 0 = false) := by decide +kernel

/-- Die 15 is to be marked failed; its standby is die 0 where `k` is 1. -/
def dieDying (k : Nat) : State := { flt := { dying := [(15, 4)] }, dies := [(15, { standby := k })] }

theorem witness_DieFailures : (∀ k ∈ [0, 1], (dieDying k).flt.dying.find? (fun p => p.1 == 15) = some (15, 4) ∧ Sparse.sorted (dieDying k).regs = true
      ∧ Sparse.sorted (dieDying k).dies = true ∧ ((dieDying k).die 15).standby = k) ∧ bitOf ((dieDying 1).rd FLTDIE.failed []) 0 = false := by decide +kernel

theorem witness_UnitLosses : (∀ k ∈ [30, 31], (0xF0, 15, k) ∉ ({} : State).flt.lost ∧ bitOf ({} : State).fit.dram k = true)
    ∧ ({} : State).jobOfDie 15 = none ∧ ((0xF1, 0, 19) ∉ ({} : State).flt.lost ∧ bitOf ({} : State).fit.lpddr 19 = true ∧ ({} : State).jobs = [])
    ∧ bitOf ({} : State).fit.dram 32 = false ∧ (0xF0, 0, 2 * 0 + 1) ∈ ({ flt := { lost := [(0xF0, 0, 1)] } } : State).flt.lost
    ∧ bitOf ({} : State).fit.glow 8 = false := by decide +kernel

theorem witness_OscillatorFailures : ({ flt := { oscFailed := true } } : State).flt.oscFailed = true ∧ ({} : State).flt.oscFailed = false := by decide

theorem witness_HubsAndReports : ({} : State).flt.retired = [] ∧ Sparse.sorted ({} : State).regs = true
    ∧ (({ flt := { retired := [0] } } : State).flt.retired = [0] ∧ ({ flt := { retired := [0] } } : State).flag FLTSTAT.active_hub [] = false
      ∧ ∀ d, d < 4 → (({ flt := { retired := [0] } } : State).acqDest d).kind = 0)
    ∧ ({} : State).flt.retired ≠ [0] ∧ ({ flt := { queue := [⟨0, 0, 0, 0, 0, 0⟩] } } : State).flt.queue = ⟨0, 0, 0, 0, 0, 0⟩ :: [] ∧ ({} : State).flt.queue = [] := by
  decide +kernel

/-! ### Registers, CXL.mem, arrays -/

theorem witness_BusAccesses : ((2 : Nat) ≠ 4 ∧ (2 : Nat) ≠ 8) ∧ 4 % 8 ≠ 0 ∧ 0x4000000 ≤ 0x4000000 := by decide

/-- Instance numbers at which every plain or counter register has an instance. -/
def someIdx (r : Reg) : List Nat := r.dims.map (fun _ => 0)
/-- With the die's leading index. -/
def fullIdx (r : Reg) : List Nat := if r.blk = .die then 0 :: someIdx r else someIdx r
/-- HENCFG of cluster 0 of die 0 is locked; gate 0 is enabled. -/
def shutRegs : State := withFields [(HENCFG.lock, [0, 0], 1), (GCFG.enable, [0, 0], 1)] {}

theorem witness_RegisterWritesStore :
    (∀ r ∈ plainRegs, findReg (r.addr (fullIdx r)) = some (r, fullIdx r, 0) ∧ r.addr (fullIdx r) % 4 = 0 ∧ r.addr (fullIdx r) < 0x4000000
      ∧ ({} : State).regAbsent r (fullIdx r) = false ∧ ({} : State).writeShut r (fullIdx r) (0 % 2 ^ 32) = false
      ∧ (r.fields.all (fun f => f.range = none) = true →
          ({} : State).valueOk r (fullIdx r) (2 ^ 32 - 1) (merged r (2 ^ 32 - 1) (0 % 2 ^ 32) (({} : State).raw r (fullIdx r))) = true))
    ∧ shutRegs.writeShut HENCFG [0, 0] (0 % 2 ^ 32) = true := by decide +kernel

theorem witness_CounterReadsClear :
    (∀ r ∈ rcRegs, findReg (r.addr (fullIdx r)) = some (r, fullIdx r, 0) ∧ r.addr (fullIdx r) % 4 = 0 ∧ r.addr (fullIdx r) < 0x4000000
      ∧ ({} : State).regAbsent r (fullIdx r) = false ∧ ({} : State).raw r (fullIdx r) < 2 ^ 32
      ∧ ({ fit := { dies := 0 } } : State).regAbsent r (fullIdx r) = true) ∧ Sparse.sorted ({} : State).regs = true := by decide +kernel

theorem witness_FieldAccess : ∃ r ∈ regMap, ∃ f ∈ r.fields, 0 < f.w := by decide +kernel

/-- Dies 14 and 15 run: state 3. -/
def busyDies : State := withFields [(DIESTAT.state, [14], 3), (DIESTAT.state, [15], 3)] {}

theorem witness_SplitWrites : (({} : State).hasDie 14 = true ∧ ({} : State).managed 14 = true ∧ Sparse.sorted ({} : State).regs = true
      ∧ 0xFFFF00FF0240 < 2 ^ 64)
    ∧ (({} : State).rd DIESTAT.state [14] = 1 ∧ ({} : State).splitOk 14 0xFFFF00FF0240 = true) ∧ busyDies.rd DIESTAT.state [14] ≠ 1
    ∧ ({} : State).splitOk 14 1 = false := by decide +kernel

theorem witness_DescriptorAndProbe :
    (({} : State).regAbsent QDESC1 [15, 64, 15] = false ∧ ({} : State).rd DIESTAT.state [15] = 1
      ∧ ({} : State).valueOk QDESC1 [15, 64, 15] (2 ^ 64 - 1) (merged QDESC1 (2 ^ 64 - 1) (0 % 2 ^ 64) (({} : State).raw QDESC1 [15, 64, 15])) = true)
    ∧ busyDies.rd DIESTAT.state [15] ≠ 1
    ∧ (({} : State).probeOk (merged TPSEL (2 ^ TPSEL.width - 1) (0 % 2 ^ 64) (({} : State).raw TPSEL [3])) = true
      ∧ rangesOk (2 ^ TPSEL.width - 1) (merged TPSEL (2 ^ TPSEL.width - 1) (0 % 2 ^ 64) (({} : State).raw TPSEL [3])) TPSEL.fields = true) := by
  decide +kernel

/-- No memory of tier 2, no acquisition ring. -/
def noTier2 : State := { fit := { tier2 := false, acq := false } }

theorem witness_CxlMemory : (1280000000000 - 64 + 64 ≤ ({} : State).tier2Bytes ∧ ({} : State).tier2Lost = false)
    ∧ ({ flt := { lost := [(0xF1, 0, 0)] } } : State).tier2Lost = true
    ∧ (({} : State).tier2Bytes < 0x020000000000 + 64 ∧ 0x020000000000 + 67108800 + 64 ≤ 0x020000000000 + ({} : State).ringBytes)
    ∧ (noTier2.tier2Bytes < 0 + 64 ∧ 0x020000000000 + noTier2.ringBytes < 0x020000000000 + 64)
    ∧ Sparse.sorted ({} : State).tier2 = true ∧ Sparse.sorted ({} : State).acq.ring = true := by decide +kernel

/-- A vector that opens an accumulation. -/
def vec0 : Vec := { header := 2 }
def regFull : WReg := { filled := true }
/-- The registers of array 3 of die 15 hold a set of signed bytes. -/
def arr0 (x : Arr) : State := ({} : State).setArr 15 3 x

def signedBytes : VecIn := { cls := 0, xf := ⟨.int 8, 0, 0⟩, wf := ⟨.int 8, 0, 0⟩, L := 0, vec := vec0, reg := regFull }
theorem witness_ByteColumns : signedBytes.cls = 0 ∧ signedBytes.xf = ⟨.int 8, 0, 0⟩ ∧ signedBytes.wf = ⟨.int 8, 0, 0⟩ ∧ signedBytes.L = 0 := by decide

theorem witness_ArrayVectors :
    (withFields [(ASTAT.failed, [15, 3], 1)] {}).flag ASTAT.failed [15, 3] = true ∧ ({ vec0 with epoch := 1 }).epoch ≠ ({} : State).rd ASTAT.epoch [15, 3]
    ∧ ((arr0 { fills := [⟨0, 0⟩] }).flag ASTAT.failed [15, 3] = false ∧ vec0.epoch = (arr0 { fills := [⟨0, 0⟩] }).rd ASTAT.epoch [15, 3]
      ∧ ((arr0 { fills := [⟨0, 0⟩] }).arr 15 3).waiting = [] ∧ ((arr0 { fills := [⟨0, 0⟩] }).arr 15 3).pendingFill (hReg vec0) = true)
    ∧ (let s := arr0 { regA := regFull }; s.flag ASTAT.failed [15, 3] = false ∧ vec0.epoch = s.rd ASTAT.epoch [15, 3] ∧ (s.arr 15 3).waiting = []
      ∧ (s.arr 15 3).fills = [] ∧ (s.arr 15 3).held = false ∧ (s.arr 15 3).acc = none ∧ vec0.header = 2 ∧ (s.arr 15 3).regA.filled = true
      ∧ (s.arr 15 3).regA.faulty = false ∧ s.setOf 15 3 (s.arr 15 3).regA.logical = (0, 0, 0, 0) ∧ vec0.status = 0 ∧ Sparse.sorted s.regs = true) := by
  decide +kernel

/-- Descriptor 31 of array 3 puts column 511 out raw to a gate. -/
def rawOut : State := withFields [(AODESC.kind, [15, 3, 31], 1), (AODESC.fmt, [15, 3, 31], 3), (AODESC.count, [15, 3, 31], 1), (AODESC.first, [15, 3, 31], 511)] {}
def acc0 : Accum := { cls := 0, grid := 0, float := false, chunk := 1, status := 0, beat := 0, copy := 0 }

theorem witness_RawOutputs : rawOut.rd AODESC.kind [15, 3, 31] = 1 ∧ rawOut.rd AODESC.fmt [15, 3, 31] = 3 ∧ rawOut.rd AODESC.count [15, 3, 31] = 1
    ∧ rawOut.rd AODESC.first [15, 3, 31] ∉ acc0.poison := by decide +kernel

theorem witness_FillsComplete : ((arr0 { fills := [⟨1, 63⟩] }).arr 15 3).fills = ⟨1, 63⟩ :: [] ∧ ((arr0 { fills := [⟨1, 63⟩] }).arr 15 3).waiting = []
    ∧ Sparse.sorted ((arr0 { fills := [⟨1, 63⟩] }).arr 15 3).store = true ∧ Sparse.sorted ((arr0 { fills := [⟨1, 63⟩] }).arr 15 3).sidecar = true
    ∧ Sparse.sorted (arr0 { fills := [⟨1, 63⟩] }).arrs = true ∧ (⟨1, 63⟩ : Fill).reg ≤ 1 ∧ Sparse.sorted (arr0 { fills := [⟨1, 63⟩] }).regs = true := by
  decide +kernel

/-- Array 3 of die 15 is prompt, and the die runs. -/
def promptArr (st : Nat) : State := withFields [(PARTCFG.prompt_arrays, [15], 4), (DIESTAT.state, [15], st)] {}

theorem witness_StoreWrites : ((promptArr 3).arrPrompt 15 3 = true ∧ (promptArr 3).setMapped 15 3 (63 * 65536 / 65536) = true
      ∧ (promptArr 3).rd DIESTAT.state [15] = 3) ∧ (promptArr 1).rd DIESTAT.state [15] ≠ 3
    ∧ ((withFields [(ASETMAP.set0, [15, 3, 0, 0], 1)] (promptArr 3)).setMapped 15 3 (0 / 65536) = false)
    ∧ ({} : State).arrPrompt 15 3 = false ∧ (({} : State).arr 15 3).fills = [] := by decide +kernel

/-- Array 3 has ballast level 3 and `k` ballast slots lately. -/
def ballasted (k : Nat) : State := (arr0 { recent := List.replicate k true }).wr ABALLAST.level [15, 3] 3

theorem witness_BallastAndScrub : (((ballasted 2).arr 15 3).waiting = [] ∧ ((((ballasted 2).arr 15 3).recent.filter id).length < (ballasted 2).rd ABALLAST.level [15, 3]))
    ∧ (ballasted 3).rd ABALLAST.level [15, 3] ≤ (((ballasted 3).arr 15 3).recent.filter id).length ∧ ((arr0 { waiting := [vec0] }).arr 15 3).waiting ≠ []
    ∧ ((withFields [(ASCRUB.enable, [15, 3], 1)] {}).flag ASCRUB.enable [15, 3] = true ∧ (withFields [(ASCRUB.enable, [15, 3], 1)] {}).arrPrompt 15 3 = false)
    ∧ (let s := withFields [(ASCRUB.enable, [15, 3], 1), (PARTCFG.prompt_arrays, [15], 4)] (arr0 { repair := List.range 15 })
      s.flag ASCRUB.enable [15, 3] = true ∧ s.arrPrompt 15 3 = true ∧ 8191 ∉ (s.arr 15 3).repair ∧ (s.arr 15 3).repair.length < 16) := by decide +kernel

/-! ### Quantisers -/

/-- Stream 15 of the quantiser of cluster 64 of die 15 runs operation `op` from source `src`; it stands as `x`. -/
def streaming (op src : Nat) (x : Stream) : State :=
  withFields [(QDESC0.op, [15, 64, 15], op), (QDESC0.src, [15, 64, 15], src)] (({} : State).setQuant 15 64 { streams := [(15, x)] })
/-- A token for that stream, operand `k`, data `d`. -/
def toStream (k : Nat) (d : W64) : Flit := { tok := { index := 15, operand := k, data := d } }

theorem witness_QuantiserWords : (15 = (toStream 0 0).tok.index ∧ (toStream 0 0).tok.kind ≠ 3)
    ∧ ({ (toStream 0 0).tok with epoch := 1 }).epoch ≠ ({} : State).rd QSTAT.epoch [15, 64] ∧ ({} : State).carryEdge 15 (toStream 0 0).edge = false
    ∧ ((toStream 7 0).tok.epoch = (streaming 1 0 { started := true, wordPos := 15 }).rd QSTAT.epoch [15, 64]
      ∧ TakesWords (streaming 1 0 { started := true, wordPos := 15 }) 15 64 15
      ∧ (toStream 7 0).tok.operand = ((streaming 1 0 { started := true, wordPos := 15 }).stream 15 64 15).wordPos % 8)
    ∧ (toStream 6 0).tok.operand ≠ ((streaming 1 0 { started := true, wordPos := 15 }).stream 15 64 15).wordPos % 8 := by
  unfold TakesWords; decide +kernel

/-- A return line of 32 bytes for logical cluster 63, physical 63. -/
def line1 (e : Nat) : RetLine := { die := 15, clu := 63, fmt := 0, bytes := List.replicate 32 1, count := 32, tag := 0, epoch := e, status := 0, beat := 0, copy := 0 }
def returning (e : Nat) (s : State) : State := { s with returns := [{ line1 e with die := 14 }, line1 e] }
def streamingR : State := withFields [(QDESC0.op, [15, 63, 15], 1), (QDESC0.src, [15, 63, 15], 1)] (({} : State).setQuant 15 63 { streams := [(15, { started := true })] })

theorem witness_QuantiserReturns :
    ((returning 0 {}).returns = [{ line1 0 with die := 14 }] ++ line1 0 :: [] ∧ (∀ x ∈ [{ line1 0 with die := 14 }], x.die = 15 → x.clu ≠ (returning 0 {}).logClu 15 63)
      ∧ (line1 0).die = 15 ∧ (line1 0).clu = (returning 0 {}).logClu 15 63 ∧ (returning 0 {}).returnStream 15 63 = none)
    ∧ ((returning 1 streamingR).returnStream 15 63 = some 15 ∧ (line1 1).epoch ≠ (returning 1 streamingR).rd QSTAT.epoch [15, 63]
      ∧ (line1 1).clu = (returning 1 streamingR).logClu 15 63)
    ∧ (returning 0 streamingR).returnStream 15 63 = some 15 ∧ (line1 0).epoch = (returning 0 streamingR).rd QSTAT.epoch [15, 63] := by decide +kernel

/-- A start token of a pass of 32 elements at the last line of the SRAM, and of one beyond it. -/
def passLast : Flit := toStream 0 (BitVec.ofNat 64 (4194176 + 1 * 2 ^ 44))
def passOver : Flit := toStream 0 (BitVec.ofNat 64 (4194176 + 256 * 2 ^ 44))

theorem witness_SramPassesBegin :
    (passLast.tok.epoch = (streaming 2 2 { started := true }).rd QSTAT.epoch [15, 64] ∧ TakesPasses (streaming 2 2 { started := true }) 15 64 15
      ∧ ((streaming 2 2 { started := true }).qcfg 15 64 15).passBad (passOf passOver.tok) = true)
    ∧ ((streaming 2 2 { started := true }).qcfg 15 64 15).passBad (passOf passLast.tok) = false ∧ Sparse.sorted (streaming 2 2 { started := true }).clus = true
    ∧ ({} : State).rd QDESC0.src [15, 64, 15] ≠ 2 := by
  unfold TakesPasses; decide +kernel

theorem witness_SramPassesEnd :
    (((streaming 2 2 { started := true, passes := [passOf passOver.tok] }).stream 15 64 15).passes = passOf passOver.tok :: []
      ∧ ((streaming 2 2 { started := true, passes := [passOf passOver.tok] }).qcfg 15 64 15).passBad (passOf passOver.tok) = true)
    ∧ (((streaming 2 2 { started := true, passes := [passOf passLast.tok] }).stream 15 64 15).passes = passOf passLast.tok :: []
      ∧ ((streaming 2 2 { started := true, passes := [passOf passLast.tok] }).qcfg 15 64 15).passBad (passOf passLast.tok) = false
      ∧ ((streaming 2 2 { started := true, passes := [passOf passLast.tok] }).qcfg 15 64 15).op = 2
      ∧ Sparse.sorted (streaming 2 2 { started := true, passes := [passOf passLast.tok] }).clus = true
      ∧ Sparse.sorted (streaming 2 2 { started := true, passes := [passOf passLast.tok] }).quants = true) := by decide +kernel

theorem witness_Snapshots : Sparse.sorted ({} : State).regs = true ∧ ({} : StatSlot) = ({} : State).slot 15 64 15 := by decide +kernel

/-! ### Time -/

theorem witness_TimeBaseWrites : Sparse.sorted ({} : State).regs = true ∧ (withFields [(TCFG.source, [], 1)] {}).rd TCFG.source [] ≠ 0
    ∧ ({} : State).rd TCFG.source [] = 0 ∧ rateOk (((0 : W64)).toNat % 2 ^ 48) = false ∧ rateOk (((879609302221 + 175921860 : W64)).toNat % 2 ^ 48) = true
    ∧ ({} : State).tooFar ((65536000 : W64)).toInt = false ∧ ({} : State).tooFar ((65536001 : W64)).toInt = true
    ∧ ({} : State).dieBusy = false ∧ busyDies.dieBusy = true := by decide +kernel

/-- Time event 15 stands as `x`; its registers have the fields `fs`. -/
def timed (x : TEvent) (fs : List (Fld × List Nat × Nat)) : State := withFields fs { tevents := [(15, x)] }

theorem witness_TimeEvents :
    (Sparse.sorted (timed {} []).regs = true ∧ Sparse.sorted (timed {} []).tevents = true ∧ bitOf ((0 : W32)).toNat 0 = false)
    ∧ (bitOf ((1 : W32)).toNat 0 = true ∧ (timed {} [(TECFG.enable, [15], 1)]).flag TECFG.enable [15] = true)
    ∧ ((timed {} []).flag TECFG.enable [15] = false ∧ bitOf ((5 : W32)).toNat 0 = true ∧ bitOf ((5 : W32)).toNat 2 = true)
    ∧ (bitOf ((0x101 : W32)).toNat 0 = true ∧ bitOf ((0x101 : W32)).toNat 2 = false ∧ bitOf ((0x101 : W32)).toNat 1 = false
      ∧ (timed {} [(TEPER.period, [15], 8)]).rd TEPER.period [15] ≠ 0 ∧ bitsOf ((0x101 : W32)).toNat 8 24 ≠ 0 ∧ bitsOf ((1 : W32)).toNat 8 24 = 0)
    ∧ (((timed { armed := true, next := some 800 } []).tevent 15).armed = true ∧ ((timed { armed := true, next := some 800 } []).tevent 15).next = some 800
      ∧ (timed { armed := true, next := some 800 } []).flag TECFG.mode [15] = false ∧ (timed { armed := true, next := some 800 } []).eventPins 15 = [])
    ∧ (let s := timed { armed := true, next := some 800 } [(TIOCFG.mode, [7], 1), (TIOCFG.event, [7], 15)]
      (s.tevent 15).armed = true ∧ (s.tevent 15).next = some 800 ∧ s.flag TECFG.mode [15] = false ∧ s.eventPins 15 = [7] ∧ PinIdle s 7)
    ∧ (({ tpins := [(7, { until_ := some 900 })] } : State).tpin 7).until_ = some 900 := by
  unfold PinIdle; decide +kernel

/-- Time pin 7 has taken `k` edges, and its registers have the fields `fs`. -/
def pinned (k : Nat) (fs : List (Fld × List Nat × Nat)) : State := withFields fs { tpins := [(7, { edges := List.range k })] }
/-- An edge at pin 7 asks by rule 15. -/
def asking (q : Nat) : State :=
  { pinned 0 [(TIOCFG.mode, [7], 4), (TIOACT.rule, [7], 15), (VRULE0.enable, [15], 1), (VRULE0.src, [15], 1), (VRULE0.action, [15], 1)] with
    vote := { queue := (List.range q).map (fun i => { id := i, rule := 0, action := 0, time := 0 }) } }

theorem witness_TimePins : ((pinned 15 [(TIOCFG.mode, [7], 3)]).rd TIOCFG.mode [7] = 3 ∧ ((pinned 15 []).tpin 7).edges.length < 16
      ∧ (pinned 16 [(TIOCFG.mode, [7], 3)]).rd TIOCFG.mode [7] = 3 ∧ 16 ≤ ((pinned 16 []).tpin 7).edges.length)
    ∧ (PinAsks (asking 15) 7 ∧ (asking 15).rd VRULE0.action [(asking 15).rd TIOACT.rule [7]] = 1 ∧ (asking 15).vote.queue.length < 16)
    ∧ (PinAsks (asking 16) 7 ∧ (asking 16).rd VRULE0.action [(asking 16).rd TIOACT.rule [7]] = 1 ∧ 16 ≤ (asking 16).vote.queue.length)
    ∧ (Sparse.sorted (pinned 2 []).tpins = true ∧ ((pinned 2 []).tpin 7).edges = 0 :: [1] ∧ ((pinned 0 []).tpin 7).edges = [])
    ∧ (let s : State := { txts := [(key2 15 15, [⟨5, 1, false⟩, ⟨6, 2, false⟩])] }
      Sparse.get [] s.txts (key2 15 15) = ⟨5, 1, false⟩ :: [⟨6, 2, false⟩] ∧ Sparse.sorted s.txts = true ∧ Sparse.sorted s.regs = true) := by
  unfold PinAsks; decide +kernel

/-! ### The ring -/

/-- Node 1 of a ring of 3, with `v` as its ring state, at instant `t` (ps), its registers with the fields `fs`. -/
def node1 (v : Vote) (t : Nat) (fs : List (Fld × List Nat × Nat)) : State :=
  withFields ([(VCFG.enable, [], 1), (VCFG.node, [], 1), (VCFG.nodes, [], 3)] ++ fs) { now := t, vote := v }
/-- A frame of node 2 with body `b`. -/
def frame2 (b : List Byte) : RingFrame := { origin := 2, seq := 7, body := b }
/-- Armed from the beginning. -/
def armedV : Vote := { armPast := [⟨0, true⟩] }

theorem witness_RingFrames : Heeds (node1 { seen := [(2, 7, 0)] } 8000001 []) (frame2 []) 8000001
    ∧ ¬ Heeds (node1 { seen := [(2, 7, 0)] } 8000000 []) (frame2 []) 8000000 ∧ (node1 {} 0 []).flag VCFG.enable [] = true := by
  unfold Heeds; decide +kernel

theorem witness_FiresAndVotes : Heeds (node1 {} 0 []) (frame2 []) 0
    ∧ (heard (node1 {} 0 []) (frame2 []) 0).armedAt ((heard (node1 {} 0 []) (frame2 []) 0).nearest (frame2 []).time) = false
    ∧ (let s := node1 armedV 0 [(VSTAT.vote_mismatch, [], 1)]; let r := heard s (frame2 []) 0
      Heeds s (frame2 []) 0 ∧ r.armedAt (r.nearest (frame2 []).time) = true ∧ r.flag VSTAT.vote_mismatch [] = true)
    ∧ (let s := node1 armedV 0 [(VFIRE.delay, [], 0), (VVOTE.k, [], 1)]; let r := heard s (frame2 []) 0
      Heeds s (frame2 []) 0 ∧ Takes r (r.nearest (frame2 []).time) ∧ r.actDelay = 0 ∧ 1 ≤ r.rd VVOTE.k [] ∧ r.rd VVOTE.k [] ≤ 64)
    ∧ (let s := node1 armedV 0 [(VFIRE.delay, [], 1), (VVOTE.k, [], 64)]; let r := heard s (frame2 []) 0
      Heeds s (frame2 []) 0 ∧ Takes r (r.nearest (frame2 []).time) ∧ r.actDelay ≠ 0 ∧ r.domNow ≤ r.nearest (frame2 []).time + r.actDelay
        ∧ 1 ≤ r.rd VVOTE.k [] ∧ r.rd VVOTE.k [] ≤ 64)
    ∧ (let s := node1 armedV 100000000 [(VFIRE.delay, [], 1), (VVOTE.k, [], 64)]; let r := heard s (frame2 []) 0
      Heeds s (frame2 []) 0 ∧ Takes r (r.nearest (frame2 []).time) ∧ r.actDelay ≠ 0 ∧ r.nearest (frame2 []).time + r.actDelay < r.domNow
        ∧ 1 ≤ r.rd VVOTE.k [] ∧ r.rd VVOTE.k [] ≤ 64) := by
  unfold Heeds Takes; decide +kernel

/-- The act and the vote that a retraction of node 2's frame 7 names. -/
def act7 : ActRec := { at_ := 0, time := 10000000000, origin := 2, seq := 7, rule := 0, kind := 1 }
def vote7 : VoteRec := { time := 10000000000, origin := 2, seq := 7, rule := 0 }

theorem witness_Retractions :
    (let s := node1 { acts := [act7] } 0 []; let r := heard s (frame2 [7]) 0
      Heeds s (frame2 [7]) 0 ∧ (∃ x ∈ r.vote.acts, namesAct (frame2 [7]) x)
        ∧ ∀ x ∈ r.vote.acts, namesAct (frame2 [7]) x → inTime r (r.nearest (frame2 [7]).time) x.time)
    ∧ (let s := node1 { votes := [vote7] } 0 []; let r := heard s (frame2 [7]) 0
      Heeds s (frame2 [7]) 0 ∧ (∀ x ∈ r.vote.acts, ¬ namesAct (frame2 [7]) x) ∧ (∃ x ∈ r.vote.votes, namesVote (frame2 [7]) x)
        ∧ ∀ x ∈ r.vote.votes, namesVote (frame2 [7]) x → inTime r (r.nearest (frame2 [7]).time) x.time)
    ∧ (let s := node1 { acts := [{ act7 with time := 0 }], votes := [{ vote7 with time := 0 }] } 0 [(VFIRE.bound, [], 1), (VFIRE.delay, [], 0)]
      let r := heard s (frame2 [7]) 0
      Heeds s (frame2 [7]) 0 ∧ (∀ x ∈ r.vote.acts, namesAct (frame2 [7]) x → ¬ inTime r (r.nearest (frame2 [7]).time) x.time)
        ∧ ∀ x ∈ r.vote.votes, namesVote (frame2 [7]) x → ¬ inTime r (r.nearest (frame2 [7]).time) x.time)
    ∧ Sparse.sorted (heard (node1 { acts := [act7] } 0 []) (frame2 [7]) 0).regs = true := by
  unfold Heeds namesAct namesVote inTime; decide +kernel

theorem witness_Arming : (Heeds (node1 {} 0 []) (frame2 [1, 1]) 0 ∧ true = bitOf (rfld (frame2 [1, 1]) 1 1) 0 ∧ Sparse.sorted (node1 {} 0 []).regs = true)
    ∧ (heard (node1 {} 0 []) (frame2 [1, 1]) 0).vote.armNext = []
    ∧ (node1 {} 0 []).flag VCFG.master [] = false ∧ (node1 { yielded := true } 0 []).vote.yielded = true
    ∧ (let s := node1 {} 100000000 [(VCFG.master, [], 1)]
      s.flag VCFG.master [] = true ∧ s.vote.yielded = false ∧ s.nearest (bitsOf ((1 : W64)).toNat 8 48) < s.domNow + nsDom (s.rd VFIRE.bound []))
    ∧ (let s := node1 {} 0 [(VCFG.master, [], 1)]
      s.flag VCFG.master [] = true ∧ s.vote.yielded = false ∧ s.inRing = true
        ∧ s.domNow + nsDom (s.rd VFIRE.bound []) ≤ s.nearest (bitsOf ((0x7FFFFFFFFFFF01 : W64)).toNat 8 48))
    ∧ ((node1 { armNext := [⟨0, true⟩] } 0 []).vote.armNext = ⟨0, true⟩ :: [])
    ∧ (node1 { armNext := [⟨0, false⟩] } 0 []).vote.armNext = ⟨0, false⟩ :: []
    ∧ ∀ k, k < 16 → fieldIn ACQSCFG.armed_only ((node1 { armNext := [⟨0, false⟩] } 0 []).acqStream k).cfg ≠ 1 := by
  unfold Heeds; decide +kernel
theorem witness_Arming_order : (heard (node1 {} 0 []) (frame2 [1, 1]) 0).vote.armNext.Pairwise (fun x y => x.effective ≤ y.effective) := by
  have h : (heard (node1 {} 0 []) (frame2 [1, 1]) 0).vote.armNext = [] := by decide +kernel
  rw [h]; exact List.Pairwise.nil

/-- A request by action `k`, and one that has four before it in the same microsecond. -/
def reqOf (k : Nat) : TrigReq := { id := 1, rule := 15, action := k, time := 0 }
def voteB : VoteRec := { time := 5, origin := 63, seq := 0, rule := 0, evaluated := true }
def voteC : VoteRec := { time := 5, origin := 2, seq := 0, rule := 0 }
/-- Votes of nodes 63 and 2 are held and `k` make a fire. -/
def voting (k : Nat) : State := withFields [(VVOTE.k, [], k)] { vote := { votes := [voteB, voteC] }, regs := [(VVMASK.addr [], 2 ^ 63 + 4)] }

theorem witness_Requests : (let s := node1 { queue := [reqOf 1], sent := [0, 0, 0, 0] } 0 []
      s.vote.queue = reqOf 1 :: [] ∧ 4 ≤ (s.vote.sent.filter (fun u => decide (max s.now 999999 < u + 1000000))).length)
    ∧ (let s := node1 { queue := [reqOf 2], sent := [0, 0, 0, 0] } 0 []
      s.vote.queue = reqOf 2 :: [] ∧ (s.vote.sent.filter (fun u => decide (max s.now 1000000 < u + 1000000))).length < 4 ∧ s.inRing = true ∧ (reqOf 2).action = 2)
    ∧ (node1 { acts := [act7] } 0 []).vote.acts ≠ []
    ∧ (let s := node1 { acts := [act7] } 0 [(TIOCFG.mode, [7], 2), (TIOACT.rules, [7], 0xFFFF)]
      s.rd TIOCFG.mode [7] = 2 ∧ bitOf (s.rd TIOACT.rules [7]) act7.rule = true ∧ PinIdle s 7)
    ∧ NextVote (voting 2) voteC ∧ (node1 { vact := [9] } 0 []).vote.vact = 9 :: [] ∧ (node1 {} 0 []).vote.vact = [] := by
  unfold PinIdle NextVote; decide +kernel
theorem witness_CompletesFire : CompletesFire (voting 2) voteC := by
  refine ⟨by decide +kernel, by decide +kernel, ⟨by decide +kernel, fun u h => nomatch h⟩, [63, 2], by decide, by decide +kernel, ?_⟩
  intro o ho
  simp only [List.mem_cons, List.not_mem_nil, or_false] at ho
  rcases ho with rfl | rfl
  · exact ⟨voteB, by decide +kernel, rfl, .inr rfl, by decide, by decide +kernel, by decide +kernel, fun u h => nomatch h⟩
  · exact ⟨voteC, by decide +kernel, rfl, .inl rfl, by decide, by decide +kernel, by decide +kernel, fun u h => nomatch h⟩
theorem witness_NotCompletesFire : NextVote (voting 0) voteC ∧ ¬ CompletesFire (voting 0) voteC :=
  ⟨by unfold NextVote; decide +kernel, fun h => absurd h.1 (by decide +kernel)⟩

theorem witness_Hops : ((node1 {} 0 []).inRing = true ∧ 0 = ((node1 {} 0 []).upTo 0).domNow)
    ∧ ((node1 {} 0 []).flag VCFG.enable [] = true ∧ ({ frame2 [] with origin := 1 }).origin = (node1 {} 0 []).node ∧ (frame2 []).origin ≠ (node1 {} 0 []).node)
    ∧ (let s := node1 { delayT1 := [(1, 1)] } 0 []
      s.inRing = true ∧ (frame2 []).origin ≠ s.node ∧ (frame2 []).lane < 2 ∧ Sparse.sorted s.regs = true
        ∧ Sparse.get 0 s.vote.delayT1 (1 - (frame2 []).lane) = 0 + 1 ∧ rfld (frame2 []) 0 6 = 0)
    ∧ (let s := node1 {} 0 [(VCFG.master, [], 1)]; s.flag VCFG.master [] = true ∧ s.vote.yielded = false ∧ s.inRing = true) := by decide +kernel

theorem witness_Sync :
    (let s := node1 {} 0 [(VCFG.master, [], 1)]; ({ frame2 [] with origin := 0 }).origin < s.node ∧ s.node < (frame2 []).origin ∧ s.inRing = true
      ∧ s.flag VCFG.master [] = true ∧ s.vote.yielded = false)
    ∧ (Follows (node1 {} 0 []) (frame2 []) ∧ (node1 {} 0 []).rd TCFG.source [] ≠ 2)
    ∧ (Follows (node1 { syncHops := [(1, 1)] } 0 [(TCFG.source, [], 2)]) (frame2 []) ∧ NearerLane (node1 { syncHops := [(1, 1)] } 0 [(TCFG.source, [], 2)]) (frame2 []))
    ∧ ¬ NearerLane (node1 { syncHops := [(1, 1)] } 0 [(TCFG.source, [], 2)]) { frame2 [] with lane := 0, hop := 1 }
    ∧ (node1 {} 0 [(TCFG.source, [], 2)]).rd TCFG.source [] = 2 ∧ Sparse.sorted (node1 {} 0 []).regs = true
    ∧ (node1 {} 0 [(VTIME.sync_period, [], 1)]).vote.lastSync + 4 * ((node1 {} 0 [(VTIME.sync_period, [], 1)]).rd VTIME.sync_period [] * 1000000) ≤ max 0 4000000 := by
  unfold Follows NearerLane; decide +kernel

/-- A job of this module alone, its master. -/
def job0 : Job := { id := 5, dies := [0], map := [0] }

theorem witness_Status : (node1 {} 0 []).inRing = true
    ∧ (let s := node1 {} 0 []; ({ frame2 [] with origin := 1 }).origin = s.node ∧ s.inRing = true ∧ s.flag VCFG.star [] = false
      ∧ ({ frame2 [] with origin := 1 }).hop ≠ s.rd VCFG.nodes [] - 1 ∧ ({ frame2 [] with origin := 1, hop := 2 }).hop = s.rd VCFG.nodes [] - 1)
    ∧ (let s := { node1 {} 0 [] with jobs := [job0] }
      Heeds s (frame2 [0, 0, 0, 0, 0, 0, 0x80]) 0 ∧ (frame2 []).origin < 64 ∧ Sparse.sorted s.regs = true ∧ s.jobMaster = true
        ∧ bitOf (rfld (frame2 [0, 0, 0, 0, 0, 0, 0x80]) 6 1) 7 = true)
    ∧ (let s := { node1 {} 0 [(VNODE.present, [63], 1), (VTIME.status_period, [], 1)] with jobs := [job0] }
      s.jobMaster = true ∧ 63 ≠ s.node ∧ s.flag VNODE.present [63] = true
        ∧ Sparse.get 0 s.vote.statusAt 63 + 3 * (s.rd VTIME.status_period [] * 1000000) ≤ max s.now 2999999 + 1) := by
  unfold Heeds; decide +kernel

/-- The PTP clock runs and stands as `x`. -/
def clocked (x : Ptp) (fs : List (Fld × List Nat × Nat)) : State := withFields ((TPTP.enable, [], 1) :: fs) { ptp := x }

theorem witness_Ptp : (clocked {} []).flag TPTP.enable [] = true ∧ (clocked { parent := some 9 } []).ptp.parent = some 9
    ∧ (clocked { sync := some (9, 3, 0) } []).ptp.sync = some (9, 3, 0) ∧ (clocked {} [(TSTAT.gm, [], 1)]).flag TSTAT.gm [] = true
    ∧ ((clocked { parent := some 9, request := some (5, 3) } []).ptp.parent = some 9 ∧ (clocked { parent := some 9, request := some (5, 3) } []).flag TPTP.p2p [] = false
      ∧ (clocked { parent := some 9, request := some (5, 3) } []).ptp.request = some (5, 3))
    ∧ ((clocked { request := some (5, 3) } [(TPTP.p2p, [], 1)]).flag TPTP.p2p [] = true ∧ (clocked { request := some (5, 3) } [(TPTP.p2p, [], 1)]).ptp.request = some (5, 3))
    ∧ (0 = ((clocked { seq := 65535 } []).ptp.seq + 1) % 65536 ∧ (clocked { seq := 65535 } []).flag TSTAT.gm [] = false ∧ (clocked { seq := 65535 } []).flag TPTP.p2p [] = false)
    ∧ (clocked {} []).straps.timeRole = false ∧ Sparse.sorted (clocked {} []).regs = true := by decide +kernel

/-! ### Goats, history, barriers -/

/-- Descriptor 15 of goat 0 of cluster 63 of die 15: kind `k`, queue 7, triggered where `b` holds 2, function and barrier `e`. -/
def gmem (k b e : Nat) : Sparse Byte :=
  [(64 * 15, BitVec.ofNat 8 (k + 7 * 8)), (64 * 15 + 1, BitVec.ofNat 8 b), (64 * 15 + 4, BitVec.ofNat 8 e)]
/-- That goat as `x`, enabled, the pacer at full speed, one region of tier 1 of one line. -/
def goating (x : Goat) : State :=
  (withFields [(GTCFG.enable, [15, 63, 0], 1), (BPACE.step, [15], 15)] { dies := [(15, { regions := [{ id := 0, tier := 1, base := 0, size := 128 }] })] }).setGoat 15 63 0 x
/-- A start token for descriptor 15. -/
def startTok : Flit := { tok := { index := 15 } }
/-- A run of it, `i` lines issued and `k` done. -/
def run1 (i k : Nat) : GRun := { tok := startTok.tok, number := 0, issued := i, done := k }
def gstream (r : Option GRun) (w : Option Flit) : Sparse GStream := [(15, { run := r, waiting := w })]

theorem witness_StartTokens :
    (15 = startTok.tok.index ∧ startTok.tok.kind ≠ 3 ∧ ({ startTok.tok with epoch := 1 }).epoch ≠ ((goating {}).die 15).bulkEpoch)
    ∧ (startTok.tok.epoch = ((goating {}).die 15).bulkEpoch ∧ (((goating {}).goat 15 63 0).desc 15).kind = 0
      ∧ (((goating { mem := gmem 1 0 0 }).goat 15 63 0).desc 15).trig = false)
    ∧ (∀ k ∈ [1, 2, 3], 1 ≤ (((goating { mem := gmem k 2 0 }).goat 15 63 0).desc 15).kind ∧ (((goating { mem := gmem k 2 0 }).goat 15 63 0).desc 15).kind ≤ 3
      ∧ (((goating { mem := gmem k 2 0 }).goat 15 63 0).desc 15).trig = true ∧ (((goating { mem := gmem k 2 0 }).goat 15 63 0).stream 15).run = none
      ∧ (((goating { mem := gmem k 2 0, streams := gstream (some (run1 0 0)) none }).goat 15 63 0).stream 15).run ≠ none
      ∧ (((goating { mem := gmem k 2 0, streams := gstream (some (run1 0 0)) none }).goat 15 63 0).stream 15).waiting = none
      ∧ (((goating { mem := gmem k 2 0, streams := gstream (some (run1 0 0)) (some startTok) }).goat 15 63 0).stream 15).waiting ≠ none)
    ∧ ((((goating { mem := gmem 4 2 0xF0 }).goat 15 63 0).desc 15).kind = 4 ∧ (((goating { mem := gmem 4 2 0xF0 }).goat 15 63 0).desc 15).func = 0
      ∧ (((goating { mem := gmem 4 2 0xF0 }).goat 15 63 0).desc 15).trig = true ∧ (((goating { mem := gmem 4 2 0xF0 }).goat 15 63 0).desc 15).barrier = 15
      ∧ ((goating { mem := gmem 4 2 0xF0 }).barrier 15).has 15 63 0 15 = false) := by decide +kernel

/-- Queue 7 holds `es`. -/
def q7 (es : List W64) : Sparse GQueue := [(7, { entries := es })]
/-- A goat of kind `k` whose run may go on. -/
def issuing (k : Nat) : State :=
  goating { mem := gmem k 2 0, queues := q7 (List.replicate (if k = 1 then 48 else 16) 5), streams := gstream (some (run1 0 0)) none }

theorem witness_GoatsIssue : (∀ k ∈ [1, 2, 3], MayIssueLine (issuing k) 15 63 0 15
      ∧ GoatRun (issuing k) 15 63 0 15 (((issuing k).goat 15 63 0).desc 15) (run1 0 0) ∧ (((issuing k).goat 15 63 0).desc 15).kind = k)
    ∧ MayIssueLine ((issuing 3).wr GTCFG.reorder [15, 63, 0] 1) 15 63 0 15 ∧ ((issuing 3).wr GTCFG.reorder [15, 63, 0] 1).mayReorder 15 63 0 = true
    ∧ Sparse.sorted (issuing 3).clus = true := by
  unfold MayIssueLine GoatRun; decide +kernel

/-- Line 0 in flight in phase `p`, `k` lines done. -/
def lineIn (p : LinePhase) (d k : Nat) : State :=
  goating { mem := gmem d 2 0, streams := gstream (some (run1 1 k)) none, lines := [{ desc := 15, k := 0, addr := some 0, sram := 0, phase := p }] }

theorem witness_LinesLand :
    (∀ k ∈ [0, 1], GoatRun (lineIn .reading 1 k) 15 63 0 15 (((lineIn .reading 1 k).goat 15 63 0).desc 15) (run1 1 k)
      ∧ ((lineIn .reading 1 k).goat 15 63 0).line 15 0 = some { desc := 15, k := 0, addr := some 0, sram := 0, phase := .reading }
      ∧ (((lineIn .reading 1 k).goat 15 63 0).desc 15).kind = 1
      ∧ (lineIn .reading 1 k).linePlace 15 (((lineIn .reading 1 k).goat 15 63 0).desc 15) (run1 1 k).tok.data.toNat 0 = .tier1 0)
    ∧ (∀ m ∈ ((lineIn .reading 1 1).goat 15 63 0).lines, m.desc = 15 → m.k ≠ (run1 1 1).done)
    ∧ (((lineIn .reading 1 0).goat 15 63 0).lines = [{ desc := 15, k := 0, addr := some 0, sram := 0, phase := .reading }] ∧ 0 = (run1 1 0).done)
    ∧ (let bs : List Byte := List.replicate 128 7; let s := lineIn (.writing bs) 2 0
      GoatRun s 15 63 0 15 ((s.goat 15 63 0).desc 15) (run1 1 0)
        ∧ (s.goat 15 63 0).line 15 0 = some { desc := 15, k := 0, addr := some 0, sram := 0, phase := .writing bs }
        ∧ s.linePlace 15 ((s.goat 15 63 0).desc 15) (run1 1 0).tok.data.toNat 0 = .tier1 0 ∧ bs.length = 128 ∧ Sparse.sorted s.dram = true
        ∧ Sparse.sorted (s.tier1 15) = true) := by
  unfold GoatRun; decide +kernel

theorem witness_MemoryUpkeep : (withFields [(T1SCRUB.enable, [15], 1)] {}).flag T1SCRUB.enable [15] = true ∧ Sparse.sorted ({} : State).regs = true
    ∧ (∀ j ∈ ({ hot := [31] } : Pwr).hot, j / 2 = 15 → j = 2 * 15 + 1) ∧ Sparse.sorted ({} : State).pacer = true := by decide +kernel

/-- A tapped frame of `k` bytes, and a die that records it in a ring of 1 KiB with `u` queue entries in use. -/
def tapped (k : Nat) : Tap := { die := 15, port := 13, bytes := List.replicate k 1, beat := some 9, failed := false, first := 0, last := 0 }
def recording (k u act : Nat) : State :=
  withFields [(HISTCFG.active, [15], act)] { histTap := [.frame (tapped k)], hists := [(15, { size := 1024, held := List.replicate u 1 })] }

theorem witness_History : (NextItem (recording 256 0 0) 15 (.frame (tapped 256)) [] ∧ (recording 256 0 0).flag HISTCFG.active [15] = false)
    ∧ (NextItem (recording 256 64 1) 15 (.frame (tapped 256)) [] ∧ (recording 256 64 1).flag HISTCFG.active [15] = true
      ∧ 64 < (histReady (recording 256 64 1) 15 0 0 []).rd HISTQ.in_use [15] + ((tapped 256).bytes.length + 255) / 256)
    ∧ (let s := recording 256 63 1; let p := tapped 256
      NextItem s 15 (.frame p) [] ∧ s.flag HISTCFG.active [15] = true ∧ (histReady s 15 0 0 []).rd HISTQ.in_use [15] + (p.bytes.length + 255) / 256 ≤ 64
        ∧ s.rd HISTPTR.value [15] + (histRecord 0 p.port (!p.failed) p.beat.isSome p.excess 9 (s.rd GEPOCH.epoch [15]) 0 (p.first / vernierPs)
            (s.rd HISTSEQ.value [15]) p.bytes).length ≤ (Sparse.get {} s.hists 15).size
        ∧ Sparse.sorted s.regs = true ∧ Sparse.sorted s.dram = true ∧ Sparse.sorted s.hists = true ∧ (Sparse.get {} s.hists 15).since ≤ p.first) := by
  unfold NextItem; decide +kernel

/-- One member at barrier 15: descriptor 15 of goat 0 of cluster 63 of die 15. -/
def member : Arrival := { die := 15, clu := 63, goat := 0, desc := 15, at_ := 0, tok := startTok.tok }
/-- The barrier stands as `x` at node 1, at instant `t`; a job of tag 5 with rank `k` runs on die 15. -/
def atBarrier (x : Barrier) (k t : Nat) : State :=
  { node1 {} t [(BARTIMEOUT.limit, [], 1)] with barriers := [(15, x)], jobs := [{ id := 0x105, dies := [15], map := [15], rank := k }]
                                                credits := [(.goat 15 63 0 15, 1)] }
/-- A frame of node 2 about barrier 15, generation 0, job 5. -/
def barFrame (fl : Nat) : RingFrame := { frame2 [15, 0, 0, 0, 0, 0, 0, 0, 0, 0, 0, 5] with flags := fl }

theorem witness_Barriers :
    (Heeds (atBarrier {} 0 0) (barFrame 0) 0 ∧ (((atBarrier {} 0 0).jobOfTag (rfld (barFrame 0) 11 1)).map (·.rank)) = some 0)
    ∧ (let s := atBarrier { arrivals := [member] } 1 0; let f := barFrame 0; let r := heard s f 0
      Heeds s f 0 ∧ ((s.jobOfTag (rfld f 11 1)).isSome = true) ∧ rfld f 1 2 % 4096 = s.rd BARSTAT.generation [rfld f 0 1 % 16]
        ∧ (s.barrier (rfld f 0 1 % 16)).arrivals ≠ [] ∧ bitOf (barFrame 2).flags 1 = true ∧ bitOf f.flags 1 = false ∧ r.domNow ≤ r.nearest (rfld f 3 6))
    ∧ (let s := atBarrier { arrivals := [member] } 1 1000000; let f := barFrame 0; let r := heard s f 0
      Heeds s f 0 ∧ r.nearest (rfld f 3 6) < r.domNow)
    ∧ (let s := atBarrier { arrivals := [member], release := some 5 } 0 0
      Alone s 15 member ∧ (s.barrier 15).release = some 5 ∧ 0 = s.rd BARSTAT.generation [15] ∧ Sparse.sorted s.regs = true ∧ Sparse.sorted s.barriers = true)
    ∧ (let s := atBarrier { arrivals := [member], since := some 5 } 0 0
      (s.barrier 15).since = some 5 ∧ (s.barrier 15).arrivals = member :: [] ∧ s.rd BARTIMEOUT.limit [] ≠ 0 ∧ (s.barrier 15).release = none
        ∧ (s.jobOfDie member.die).isSome = true) := by
  unfold Heeds Alone; decide +kernel

/-! ### Port blocks -/

/-- Port block 15 of die 14 stands as `x`, its registers with the fields `fs`. -/
def porting (x : Port) (fs : List (Fld × List Nat × Nat)) : State := withFields fs { ports := [(key2 14 15, x)] }
/-- A frame of the bytes `bs`, open or ended. -/
def rxOf (bs : List Byte) (e : Bool) : RxFrame := { bytes := bs, times := bs.map (fun _ => 0), total := bs.length, crc := bs.foldl crcByte 0xFFFFFFFF, ended := e }

theorem witness_ReceiverLock : (({} : State).ringPort 15 14 = some 0 ∧ ({} : State).ringPort 15 15 = some 1)
    ∧ ((porting {} [(PCFG.mode, [14, 15], 1)]).ringPort 14 15 = none ∧ (porting {} [(PCFG.mode, [14, 15], 1)]).rd PCFG.mode [14, 15] ≠ 0
      ∧ (porting {} []).ringPort 14 15 = none ∧ (porting {} []).rd PCFG.mode [14, 15] = 0 ∧ Quiet (porting {} []) 14 15
      ∧ (porting { rx := [rxOf [1] false] } []).ringPort 14 15 = none ∧ ¬ Quiet (porting { rx := [rxOf [1] false] } []) 14 15
      ∧ Sparse.sorted (porting { rx := [rxOf [1] false] } []).regs = true) := by
  unfold Quiet; decide +kernel

/-- The 128 bits of 16 bytes, and the codeword they make. -/
def bitsOfBytes (bs : List Byte) : List Bool := bs.flatMap (fun b => (List.range 8).map (fun i => b.getLsbD i))
def codewordOf (bs : List Byte) : List Bool :=
  let l := bitsOfBytes bs
  let r := syndrome (l ++ List.replicate 8 false)
  l ++ (List.range 8).map (fun i => bitOf r (7 - i))
/-- The line block of two codewords, whitened and interleaved. -/
def blockOf (a b : List Byte) : BitVec 272 :=
  BitVec.ofNat 272 (bitsNat ((((List.zip (codewordOf a) (codewordOf b)).flatMap (fun p => [p.1, p.2])).zip whitening).map (fun p => p.1 != p.2)))
def runBytes : List Byte := 1 :: List.replicate 15 7
def idleBytes : List Byte := 128 :: List.replicate 15 0
def zeros16 : List Byte := List.replicate 16 0

theorem witness_FramePieces :
    (porting {} []).flag PSTAT.lock [14, 15] = false
    ∧ (let s := porting {} [(PSTAT.lock, [14, 15], 1), (PCFG.mode, [14, 15], 2)]
      s.flag PSTAT.lock [14, 15] = true ∧ s.rd PCFG.mode [14, 15] = 2 ∧ ([1] : List Byte) ≠ [] ∧ ([1] : List Byte).length ≤ 16384 ∧ Quiet s 14 15)
    ∧ (let s := porting { rx := [rxOf [5, 6] false] } [(PSTAT.lock, [14, 15], 1), (PCFG.mode, [14, 15], 2)]
      s.flag PSTAT.lock [14, 15] = true ∧ s.rd PCFG.mode [14, 15] = 2 ∧ ¬ Quiet s 14 15 ∧ (s.port 14 15).last.bytes.length = (s.port 14 15).last.total
        ∧ (s.port 14 15).last.total + ([1] : List Byte).length ≤ 16384)
    ∧ (let s := porting {} [(PSTAT.lock, [14, 15], 1), (PCFG.mode, [14, 15], 1)]
      s.flag PSTAT.lock [14, 15] = true ∧ s.rd PCFG.mode [14, 15] = 1 ∧ Quiet s 14 15)
    ∧ (∀ x ∈ [runBytes, idleBytes], decodeWord (codeword (blockOf x zeros16) 0) = .good (codewordOf x)
      ∧ decodeWord (codeword (blockOf x zeros16) 1) = .good (codewordOf zeros16))
    ∧ controlOf ((wordBytes (.good (codewordOf runBytes))).getD 0 0) = .run true none
    ∧ controlOf ((wordBytes (.good (codewordOf idleBytes))).getD 0 0) = .idle := by
  unfold Quiet; decide +kernel

/-- A frame that has ended as a beat and fails its check. -/
def badBeat : RxFrame := { rxOf [1, 2] true with isBeat := some true, beat := 9 }
/-- A provisional reply to it that may be stomped before 1 us. -/
def provReply : Reply := { inPort := some 15, beat := 9, status := stProv, commit := 1000000 }

theorem witness_Verdicts :
    NextVerdict (porting { rx := [rxOf [1] true] } []) 14 15 { rxOf [1] true with verdict := some false } [{ rxOf [1] true with verdict := some false }]
    ∧ ({ rxOf [1] true with verdict := some false } : RxFrame).isBeat ≠ some true
    ∧ (let s := porting { rx := [badBeat], tx := some provReply, cancels := List.replicate 15 ⟨0, 0, 0, 0, 0, 0⟩, mem := [(0x701, 0x40)] } []
      let f := { badBeat with verdict := some false }
      NextVerdict s 14 15 f [f] ∧ f.isBeat = some true ∧ f.passes = false ∧ s.flag PCFG.link [14, 15] = false ∧ (s.port 14 15).tx = some provReply
        ∧ provReply.provFor 15 f.beat = true ∧ (∀ x ∈ (s.port 14 15).provs, x.provFor 15 f.beat = false)
        ∧ max s.now 999999 < provReply.commit ∧ provReply.commit ≤ max s.now 1000000 ∧ dirEntry (s.port 14 15).mem 0x700 ≠ none
        ∧ (s.port 14 15).cancels.length < 16) := by
  unfold NextVerdict; decide +kernel

/-- A release of gate 63 for beat 9; the gate's inbound and outbound port block is 15. -/
def rel9 : Release := { die := 14, gate := 63, beat := 9, anchor := 0, fire := 1000, values := [7], status := 0 }
def replying (x : Port) (fs : List (Fld × List Nat × Nat)) : State :=
  { porting x ([(GCFG.port, [14, 63], 15), (GCFG.dest, [14, 63], 15)] ++ fs) with releases := [rel9] }
/-- Template memory with an entry for gate 63 that points to offset 0x800, and a frame of that beat with verdict `v`. -/
def tmem : Sparse Byte := [(0x6FD, 0x48)]
def judged (v : Option Bool) : Port := { mem := tmem, rx := [{ badBeat with verdict := v }] }

theorem witness_Replies :
    (NextRelease (replying {} []) 14 63 rel9 ∧ 15 = (replying {} []).rd GCFG.dest [14, 63] ∧ Sparse.sorted (replying {} []).regs = true
      ∧ ((replying {} []).die 14).muted = false ∧ (({ replying {} [] with dies := [(14, { muted := true })] } : State).die 14).muted = true)
    ∧ (NextRelease (replying { held := [rel9] } []) 14 63 rel9 ∧ 15 = (replying { held := [rel9] } []).rd GCFG.dest [14, 63]
      ∧ (((replying { held := [rel9] } []).port 14 15).held ≠ []))
    ∧ (((replying {} []).port 14 15).tx = none ∧ ((replying {} []).port 14 15).held = [] ∧ dirEntry ((replying {} []).port 14 15).mem (0x600 + 4 * 63) = none)
    ∧ (∀ v ∈ [some false, some true, none], NextRelease (replying (judged v) []) 14 63 rel9 ∧ 15 = (replying (judged v) []).rd GCFG.dest [14, 63]
      ∧ dirEntry ((replying (judged v) []).port 14 15).mem (0x600 + 4 * 63) = some 0x800 ∧ verdictOf (replying (judged v) []) 14 rel9 = v
      ∧ (replying (judged v) []).flag PCFG.policy [14, 15] = false ∧ (replying (judged v) [(PCFG.policy, [14, 15], 1)]).flag PCFG.policy [14, 15] = true
      ∧ ((replying (judged v) []).port 14 15).tx = none ∧ ((replying (judged v) []).port 14 15).held = []
      ∧ verdictOf (replying (judged v) [(PCFG.policy, [14, 15], 1)]) 14 rel9 = v) := by
  unfold NextRelease; decide +kernel
theorem witness_Replies_busy : ¬ ComposerFree (replying { held := [rel9] } []) 14 15 (rel9.fire + composerPs) := fun h => absurd h.2 (by decide +kernel)
theorem witness_Replies_free (v : Option Bool) (hv : v = some false ∨ v = some true ∨ v = none) :
    ComposerFree (replying (judged v) []) 14 15 (rel9.fire + composerPs) := by
  have h : ((replying (judged v) []).port 14 15).tx = none ∧ ((replying (judged v) []).port 14 15).held = [] := by
    rcases hv with rfl | rfl | rfl <;> decide +kernel
  exact ⟨fun r hr => absurd (h.1 ▸ hr) nofun, h.2⟩

/-- A cancel of a verdict at 0, with a limit of 1 us, and its template. -/
def cancelling : State :=
  porting { mem := [(0x701, 0x48)], cancels := [⟨0, 9, 0, 0, 0, 0⟩] } [(PCFG.cancel_limit, [14, 15], 1), (PCFG.mode, [14, 15], 1)]

theorem witness_FramesLeave :
    ((porting { tx := some provReply } []).port 14 15).tx = some provReply ∧ ((porting { tx := some provReply } []).port 14 15).held = []
    ∧ Sparse.sorted (porting { tx := some provReply } []).ports = true
    ∧ ((cancelling.port 14 15).cancels = ⟨0, 9, 0, 0, 0, 0⟩ :: [] ∧ dirEntry (cancelling.port 14 15).mem 0x700 = some 0x800
      ∧ (cancelling.port 14 15).tx = none ∧ (cancelling.port 14 15).held = [] ∧ 1000000 ≤ 0 + cancelling.rd PCFG.cancel_limit [14, 15] * 1000000
      ∧ 0 + cancelling.rd PCFG.cancel_limit [14, 15] * 1000000 < 1000001
      ∧ ∀ u ∈ cancelling.knownStarts 14 15, 1000000 + cancelling.gapTime 14 15 ((templateAt (cancelling.port 14 15).mem 0x800).flen + 4) ≤ u) := by
  decide +kernel
theorem witness_FramesLeave_free (t : Nat) : ComposerFree cancelling 14 15 t := by
  have h : (cancelling.port 14 15).tx = none ∧ (cancelling.port 14 15).held = [] := by decide +kernel
  exact ⟨fun r hr => absurd (h.1 ▸ hr) nofun, h.2⟩

/-- A link port with a frame of beat 2 of job `j`; the die is in state 3. -/
def linked (j : Nat) (fs : List (Fld × List Nat × Nat)) : State :=
  porting { rx := [{ rxOf [2, 0, 0, 0, BitVec.ofNat 8 j, 0, 0, 0] false with isBeat := none }] }
    ([(PCFG.link, [14, 15], 1), (DIESTAT.state, [14], 3), (PLINK_CFG.job, [14, 15], 5), (PLINK_CFG.period, [14, 15], 8)] ++ fs)
def linkFrame1 (j : Nat) : RxFrame := { rxOf [2, 0, 0, 0, BitVec.ofNat 8 j, 0, 0, 0] false with isBeat := none }
/-- A link port with one field rule, and a credit for it. -/
def substituting : State :=
  { porting { mem := [(0, 1)] } [(PCFG.link, [14, 15], 1), (DIESTAT.state, [14], 3)] with credits := [(.port 14 15 0, 1)] }

theorem witness_LinkPorts :
    (NextLink (linked 5 []) 14 15 (linkFrame1 5) ∧ (linked 5 []).flag PCFG.link [14, 15] = true
      ∧ 2 = ((linked 5 []).upTo 0).linkBeat 14 15 (BitVec.ofNat 16 ((linkFrame1 5).num 0 2 true)) 0
      ∧ LinkMatches (linked 5 []) 14 15 2 (linkFrame1 5) ∧ Sparse.sorted (linked 5 []).regs = true)
    ∧ (NextLink (linked 6 []) 14 15 (linkFrame1 6) ∧ ¬ LinkMatches (linked 6 []) 14 15 2 (linkFrame1 6))
    ∧ (0 = (substituting.port 14 15).nextLink ∧ substituting.flag PCFG.link [14, 15] = true ∧ substituting.rd DIESTAT.state [14] = 3
      ∧ (∃ r ∈ rulesOf (substituting.port 14 15).mem, rulesOf (substituting.port 14 15).mem = [r] ∧ r.kind = 1
          ∧ substituting.markBlocked (.port 14 15 r.num) = false ∧ substituting.creditOf (.port 14 15 r.num) ≠ 0)
      ∧ (∀ f ∈ (substituting.port 14 15).rx, f.isBeat = some true → f.link ≠ 0) ∧ substituting.flag PCFG.subst [14, 15] = false
      ∧ Sparse.sorted substituting.regs = true) := by
  unfold NextLink LinkMatches; decide +kernel

/-- Ox pair 3 of die 14 has code and runs. -/
def oxing : State := withFields [(DIESTAT.state, [14], 3)] { oxs := [(key2 14 3, { code := [1] })] }

theorem witness_OxPairs : ((toHen 0 0).tok.kind ≠ 3 ∧ (({} : State).relabel 14 (({} : State).ox 14 3).epoch (toHen 0 0)).tok.kind ≠ 3
      ∧ (({} : State).relabel 14 (({} : State).ox 14 3).epoch (toHen 0 0)).tok.epoch = (({} : State).ox 14 3).epoch ∧ ({} : State).fit.ox = true)
    ∧ ((({} : State).arrive (.ox 14 3) { tok := { epoch := 1 } }).relabel 14 0 { tok := { epoch := 1 } }).tok.epoch ≠ (({} : State).ox 14 3).epoch
    ∧ (oxing.ox 14 3).code ≠ [] ∧ oxing.rd DIESTAT.state [14] = 3 := by decide +kernel

/-! ### Jobs -/

/-- Job 7 on die 15, in bulk, where the die is in state `st`. -/
def job7 : Job := { id := 7, dies := [15], map := [15], bulk := true }
def onDie15 (st : Nat) (j : Job) : State := withFields [(DIESTAT.state, [15], st)] { jobs := [j] }

theorem witness_JobsStartAndEnd :
    (JobAt (onDie15 2 job7) 7 job7 ∧ job7.go = true ∧ (∀ n ∈ job7.dies, n < 16 ∧ (onDie15 2 job7).rd DIESTAT.state [n] = 2)
      ∧ Sparse.sorted (onDie15 2 job7).regs = true)
    ∧ (JobAt (onDie15 2 { job7 with go := false }) 7 { job7 with go := false } ∧ JobAt (onDie15 1 job7) 7 job7
      ∧ ∃ n ∈ job7.dies, (onDie15 1 job7).rd DIESTAT.state [n] ≠ 2)
    ∧ (let s : State := { onDie15 3 job7 with flt := { notes := [⟨1, 15, 63, 6, true⟩] } }
       s.flt.notes.head? = some ⟨1, 15, 63, 6, true⟩ ∧ s.jobOfDie 15 = some job7)
    ∧ ((onDie15 3 job7).jobs.find? (fun x => x.id == 7 && x.bulk) = some job7 ∧ job7.dies = [15] ∧ Sparse.sorted (onDie15 3 job7).dies = true) := by
  unfold JobAt; decide +kernel

/-- An operation of opcode `o` with number 3 and parameters `ps`, in session 1, and a state that holds it. -/
def opCmd (o : Nat) (ps : List Byte) : Cmd :=
  { id := 3, window := 1, pkt := { op := o, tag := 5, gen := 15, session := 1, seq := 1, deadline := 1000, commit := 0, params := ps } }
def cmding (c : Cmd) (s : State) : State := { s with sec := { s.sec with cmds := [c] } }
/-- A host memory list of one extent of 64 bytes, and T at 100 us. -/
def list64 : List Byte := leBytes 8 1 ++ leBytes 8 64 ++ leBytes 8 64
def stampOf (ns : Nat) : List Byte := leBytes 2 0 ++ leBytes 4 ns ++ leBytes 6 0
/-- LOAD's parameters; the host is up. -/
def loadPs : List Byte := leBytes 8 1 ++ leBytes 8 64 ++ leBytes 8 24576 ++ 0 :: (List.replicate 15 255 ++ List.replicate 24 0)
def loadA : LoadArgs := { list := [(64, 24576)], map := 0 :: List.replicate 15 255, t0 := 0, least := 0, seed := 0, next := 64 }
def hosted (c : Cmd) : State :=
  cmding c (withFields [(HOSTSTAT.up, [], 1), (DIESTAT.state, [0], 1)]
    { fit := { dies := 1 }, sec := { sessions := [(0, some { id := 1, maint := true, key := [] })] } })

theorem witness_ImagesAreJudged_refused :
    ((hosted (opCmd 0x0101 loadPs)).cmdOf 3 0x0101 = some (opCmd 0x0101 loadPs) ∧ loadArgs loadPs = some loadA
      ∧ (hosted (opCmd 0x0101 loadPs)).hostRead loadA.list none = none
      ∧ (hosted (opCmd 0x0101 loadPs)).hostRead [(64, 64)] (some (List.replicate 64 0)) = some (List.replicate 64 0)
      ∧ (hosted (opCmd 0x0101 loadPs)).now ≤ (hosted (opCmd 0x0101 loadPs)).startAt 0)
    ∧ ((hosted (opCmd 0x0102 list64)).cmdOf 3 0x0102 = some (opCmd 0x0102 list64) ∧ HasList (opCmd 0x0102 list64) 0 false [(64, 64)] 24
      ∧ (hosted (opCmd 0x0102 list64)).now ≤ (hosted (opCmd 0x0102 list64)).timeParam list64 24)
    ∧ ((cmding (opCmd 0x0103 (leBytes 4 0x8000)) (onDie15 3 job7)).cmdOf 3 0x0103 = some (opCmd 0x0103 (leBytes 4 0x8000))
      ∧ (∃ j ∈ (onDie15 3 job7).jobs, ∃ n ∈ j.dies, n ∈ (List.range 16).filter (fun n => bitOf (pnum (leBytes 4 0x8000) 0 4) n))
      ∧ ∀ j ∈ (onDie15 3 job7).jobs, ∀ n ∈ j.dies, n ∉ (List.range 16).filter (fun n => bitOf (pnum (leBytes 4 0x7FFF) 0 4) n))
    ∧ ((hosted (opCmd 0x0104 (loadPs ++ list64))).cmdOf 3 0x0104 = some (opCmd 0x0104 (loadPs ++ list64))
      ∧ loadArgs (loadPs ++ list64) = some loadA ∧ HasList (opCmd 0x0104 (loadPs ++ list64)) 64 false [(64, 64)] 88
      ∧ (hosted (opCmd 0x0104 (loadPs ++ list64))).hostRead [(64, 64)] none = none) := by
  unfold HasList; decide +kernel

/-- A die that switches to epoch 1 at 100 us, with one edge into gate 63 and array 3. -/
def rec1 : Reconf := { target := 1, tPs := 100000000, limitPs := 100000000 }
def edges2 : List EdgeInfo := [{ src := .port 15 0 0, dst := .gate 15 63 }, { src := .feed 15 1 3, dst := .array 15 3 }]
def switching (r : Reconf) : State := { dies := [(15, { reconf := some r, edges := edges2 })] }
/-- A marker on an edge. -/
def marker (e : Edge) : Flit := { tok := { kind := 2 }, edge := e }
/-- Epoch 0 of die 15 is held; the prompt cluster 0 has the age limit `a`. -/
def holding (a : Nat) : State :=
  withFields [(RCFGSTAT.q_valid, [15], 1), (PARTCFG.prompt_clusters, [15], 1), (HENCFG.age_prompt, [15, 0], a)] {}

theorem witness_SwitchesFollowTheirMarkers :
    ((toHen 0 0).tok.kind ≠ 2)
    ∧ ((marker (.port 15 0 0)).tok.kind = 2 ∧ Switching (switching rec1) 15 rec1 ∧ rec1.tPs ≤ max (switching rec1).now 100000000
      ∧ UnitId.gate 15 63 ∉ rec1.switched ∧ (switching rec1).inputEdges (.gate 15 63) = [(marker (.port 15 0 0)).edge]
      ∧ Sparse.sorted (switching rec1).gates = true ∧ rec1.target < 4)
    ∧ (marker (.feed 15 1 3)).edge ∈ (switching rec1).inputEdges (.array 15 3)
    ∧ (let r := { rec1 with holding := [.array 15 3] }
       Switching (switching r) 15 r ∧ r.holding = [.array 15 3] ∧ r.held = [] ∧ Sparse.sorted (switching r).arrs = true ∧ r.cause < 2)
    ∧ ((holding 1).flag RCFGSTAT.q_valid [15] = true ∧ ∀ c ∈ (holding 1).clusOf 15 true, (holding 1).rd HENCFG.age_prompt [15, c] ≠ 0)
    ∧ ((holding 0).flag RCFGSTAT.q_valid [15] = true ∧ ∃ c ∈ (holding 0).clusOf 15 true, (holding 0).rd HENCFG.age_prompt [15, c] = 0) := by
  unfold Switching; decide +kernel

/-- A checkpoint of job 7 waits at barrier 63; its list holds `n` bytes. -/
def ckpt7 (n : Nat) : Ckpt := { job := 7, window := 1, tag := 3, list := [(64, n)], limit := 1000000, barrier := some 63 }
def ckpting (n : Nat) : State :=
  { withFields [(PARTCFG.prompt_clusters, [15], 64), (PARTCFG.prompt_arrays, [15], 4)] { jobs := [job7] } with ckpts := [ckpt7 n] }
/-- Cluster 63 of die 15 holds a token. -/
def busyBulk : State := { onDie15 3 job7 with
  ckpts := [ckpt7 64]
  clus := [(key2 15 63, { slots := [heldSlot] })] }
/-- A stream of job 7 that runs on the prompt cluster 0 of die 15; what it does of `f`. -/
def streamed (c : Cmd) (f : Option Frozen) : State :=
  cmding c { withFields [(DIESTAT.state, [15], 3), (PARTCFG.prompt_clusters, [15], 1), (DETSTAT.stream, [], 2)] { jobs := [job7] } with frozen := f }
/-- FREEZE's parameters: T at `n` ns, drain limit 0; THAW's, without a save. -/
def freezePs (n : Nat) : List Byte := stampOf n ++ leBytes 4 0 ++ list64
def thawPs (n : Nat) : List Byte := stampOf n ++ leBytes 8 0
def frz (th : Bool) : Frozen := { job := 7, cmd := 3, tPs := 100000000, limit := 100000000, thaw := th }

theorem witness_CheckpointsAndFreezes :
    (let c := opCmd 0x0201 list64
     let s := cmding c (onDie15 3 job7)
     s.cmdOf 3 0x0201 = some c ∧ s.jobs.find? (fun x => x.bulk && s.runs x) = some job7 ∧ HasList c 0 false [(64, 64)] 24
      ∧ (∀ k ∈ s.ckpts, k.job ≠ job7.id) ∧ ∃ k ∈ ({ s with ckpts := [ckpt7 64] } : State).ckpts, k.job = job7.id)
    ∧ (JobAt busyBulk 7 job7 ∧ busyBulk.ckpts.find? (fun x => x.job == 7 && x.barrier.isSome) = some (ckpt7 64) ∧ (ckpt7 64).barrier = some 63
      ∧ busyBulk.quiescent job7 = false)
    ∧ (JobAt (ckpting 64) 7 job7 ∧ (ckpting 64).quiescent job7 = true) := by
  unfold JobAt HasList; decide +kernel

theorem witness_checkpoint_file : ((ckpting 64).checkpointFile job7 63).length = 416 := by
  rw [State.checkpointFile, State.ckFile_length]; decide +kernel
theorem witness_CheckpointsAndFreezes_lists : listBytes (ckpt7 384).list < 416 ∧ 416 ≤ listBytes (ckpt7 448).list := by decide

theorem witness_FreezesAndThaws :
    (let c := opCmd 0x0202 (freezePs 100000)
     (streamed c none).cmdOf 3 0x0202 = some c ∧ (streamed c none).streamJob = some job7 ∧ HasList c 16 false [(64, 64)] 40
      ∧ (streamed c (some (frz false))).frozen ≠ none ∧ (∀ w ∈ (streamed c none).switches, w.job ≠ job7.id)
      ∧ (streamed c none).now + 100000000 ≤ (streamed c none).timeParam c.pkt.params 0
      ∧ (streamed c none).timeParam (freezePs 99999) 0 < (streamed c none).now + 100000000)
    ∧ (let c := opCmd 0x0203 (thawPs 100000)
       let s := streamed c (some (frz false))
       s.cmdOf 3 0x0203 = some c ∧ s.frozen = some (frz false) ∧ JobAt s 7 job7 ∧ HasList c 12 true [] 20 ∧ s.rd DETSTAT.stream [] = 2
        ∧ s.now + 100000000 ≤ s.timeParam c.pkt.params 0 ∧ (frz true).thaw = true
        ∧ (withFields [(DETSTAT.stream, [], 3)] s).rd DETSTAT.stream [] ≠ 2)
    ∧ (∀ th, (frz th).begun = false ∧ (frz th).carry = none
      ∧ [({ job := 7, dies := [15], old := 0, target := 1, tPs := 100000000, cause := 2 } : SwitchRec)].find? (fun x => x.cause == 2) ≠ none
      ∧ [({ job := 7, dies := [15], old := 0, target := 1, tPs := 100000000, cause := 3 } : SwitchRec)].find? (fun x => x.cause == 3) ≠ none) := by
  unfold JobAt HasList; decide +kernel

/-- Goat 0 of cluster 0 of die 15 runs descriptor 0, an install; its list at 0 of tier 1 asks for T at `t` ticks. -/
def run0 : GRun := { tok := { data := 0 }, number := 0 }
def installing (t : Nat) : State :=
  { onDie15 3 job7 with goats := [(goatKey 15 0 0, { mem := [(0, 0x0C), (4, 1)], streams := [(0, { run := some run0 })] })]
                        dram := [(15, [(0, BitVec.ofNat 8 t), (1, BitVec.ofNat 8 (t / 256)), (2, BitVec.ofNat 8 (t / 65536))])] }

theorem witness_InstallsArmASwitch :
    ∀ t ∈ [124999, 125000], (((installing t).goat 15 0 0).stream 0).run = some run0 ∧ (installing t).jobOfDie 15 = some job7
      ∧ (((installing t).goat 15 0 0).desc 0).kind = 4 ∧ (((installing t).goat 15 0 0).desc 0).func = 1 ∧ (installing t).installs = []
      ∧ leNat (Sparse.getBytes ((installing t).tier1 15) run0.tok.data.toNat 8) = t
      ∧ ((installing t).installCode 15 (t * tickPs) (installList ((installing t).tier1 15) run0.tok.data.toNat) = if t = 125000 then 0 else 3) := by
  decide +kernel

/-- Node 1 of a ring; job 7 is of rank 1 of two modules; a ready frame of node 0 has come. -/
def job7of2 : Job := { job7 with modules := 2, rank := 1, go := false }
def readied : State :=
  { withFields [(VCFG.enable, [], 1), (VCFG.node, [], 1)] { jobs := [job7of2] } with vote := { ready := [⟨0, 0, 2, false, 0, 0, none, 0⟩] } }
/-- The second ready frame of job 7's graph; a go frame of job 7; end frames with statuses. -/
def readyFrame : RingFrame := { body := leBytes 8 99 ++ leBytes 3 0 ++ [7] }
def goFrame : RingFrame := { body := leBytes 8 7 ++ leBytes 3 0 ++ [7] }
def endFrame (st : Nat) : RingFrame := { body := leBytes 2 st ++ leBytes 9 0 ++ [7] }

theorem witness_StartFramesAreHeeded :
    (Heeds readied readyFrame 0 ∧ readied.jobOfTag (rfld readyFrame 11 1) = some job7of2 ∧ job7of2.rank ≠ 0
      ∧ (heard readied readyFrame 0).vote.ready = [⟨0, 0, 2, false, 0, 0, none, 0⟩] ∧ readyFrame.origin = 0)
    ∧ (Heeds readied goFrame 0 ∧ readied.jobOfTag (rfld goFrame 11 1) = some job7of2 ∧ rfld goFrame 0 4 = job7of2.id % 2 ^ 32
      ∧ JobAt readied job7of2.id job7of2)
    ∧ ∀ st ∈ [0x0401, 0x0402, 0x0406, 0x0407], Heeds readied (endFrame st) 0 ∧ readied.jobOfTag (rfld (endFrame st) 11 1) = some job7of2
      ∧ rfld (endFrame st) 0 2 = st := by
  unfold Heeds JobAt; decide +kernel

/-- Window 1 has taken a packet of opcode `o` with parameters `ps`. -/
def inWin (o : Nat) (ps : List Byte) (s : State) : State :=
  { s with wins := [(1, { taken := some (opCmd o ps).pkt })] }

theorem witness_StrictExitInputsAndProvenance :
    ((inWin 0x0204 (leBytes 4 0) (withFields [(DETSTAT.locked, [], 1)] {})).takenOp 1 0x0204 = some (opCmd 0x0204 (leBytes 4 0)).pkt
      ∧ (withFields [(DETSTAT.locked, [], 1)] {}).flag DETSTAT.locked [] = true
      ∧ bitOf (pnum (leBytes 4 0) 0 4) 0 = false ∧ bitOf (pnum (leBytes 4 1) 0 4) 0 = true
      ∧ (onDie15 3 job7).flag DETSTAT.locked [] = false ∧ ∀ j ∈ (onDie15 3 job7).jobs, j.bulk = true → j.strict = true → (onDie15 3 job7).runs j = false)
    ∧ ((inWin 0x0205 (leBytes 4 1) (withFields [(DETSTAT.strict, [], 1)] {})).takenOp 1 0x0205 = some (opCmd 0x0205 (leBytes 4 1)).pkt
      ∧ (withFields [(DETSTAT.strict, [], 1)] {}).flag DETSTAT.strict [] = true ∧ (withFields [(DETSTAT.strict, [], 0)] {}).flag DETSTAT.strict [] = false
      ∧ bitOf (pnum (leBytes 4 1) 0 4) 1 = false ∧ bitOf (pnum (leBytes 4 2) 0 4) 0 = false ∧ bitOf (pnum (leBytes 4 2) 0 4) 1 = true)
    ∧ ((inWin 0x0206 (leBytes 40 7) (onDie15 3 job7)).takenOp 1 0x0206 = some (opCmd 0x0206 (leBytes 40 7)).pkt
      ∧ (∃ j ∈ (onDie15 3 job7).jobs, j.id = pnum (leBytes 40 7) 0 8) ∧ ∀ j ∈ (onDie15 3 job7).jobs, j.id ≠ pnum (leBytes 40 8) 0 8)
    ∧ (let s : State := { inWin 0x0207 (leBytes 4 1 ++ leBytes 8 2) {} with issued := [(1, 1, [], []), (1, 2, [5], [6]), (2, 9, [], [])] }
       s.takenOp 1 0x0207 = some (opCmd 0x0207 (leBytes 4 1 ++ leBytes 8 2)).pkt
        ∧ (s.issued.filter (fun e => e.1 == pnum (leBytes 4 1 ++ leBytes 8 2) 0 4)).getLast? = some (1, 2, [5], [6]) ∧ s.provFind 1 3 = none) := by
  decide +kernel

/-- The operation ended with status 0, or has none yet; its deadline passed before. -/
def endedCmd (e : Option Ending) (late : Bool) : Cmd := { opCmd 0x0101 [] with ended := e, timedOut := late }

theorem witness_OperationsComplete : ∀ e ∈ [none, some ({ status := 0 } : Ending)], ∀ late ∈ [false, true],
    let s := cmding (endedCmd e late) {}
    s.sec.cmds.find? (fun x => x.id == 3) = some (endedCmd e late) ∧ (endedCmd e late).ended = e ∧ s.switches = [] ∧ (endedCmd e late).timedOut = late
      ∧ s.staleRuns 1 5 ((15 + 1) % 16) = false := by decide +kernel

/-! ### Images -/

/-- `n` bytes of zeros before `l`. -/
def pad (n : Nat) (l : List Byte) : List Byte := Nat.rec l (fun _ x => 0 :: x) n
theorem pad_length (n : Nat) (l : List Byte) : (pad n l).length = n + l.length := by
  induction n with
  | zero => show l.length = _; omega
  | succ n ih => show (pad n l).length + 1 = _; omega

/-- An entry of the section table. -/
def sectRow (i at_ len : Nat) : List Byte := leBytes 8 i ++ leBytes 8 at_ ++ leBytes 8 len ++ leBytes 8 0
/-- Header and section table of an image of job 7 on one die: `fl` its flags, `dg` the digest it is applied to, `a` and `b` the lengths of PLACE and
SCHED (R157, R158). -/
def headOf (fl : Nat) (dg : List Byte) (a b : Nat) : List Byte :=
  leBytes 4 0x4D524147 ++ leBytes 2 1 ++ leBytes 2 0 ++ leBytes 4 128 ++ leBytes 4 6 ++ leBytes 8 24576 ++ leBytes 4 fl ++ leBytes 4 0
    ++ leBytes 4 0 ++ leBytes 4 1 ++ leBytes 4 0x101 ++ leBytes 4 4096 ++ leBytes 8 0 ++ leBytes 8 7 ++ dg ++ leBytes 32 0
    ++ sectRow 1 4096 0 ++ sectRow 2 8192 a ++ sectRow 3 12288 0 ++ sectRow 4 16384 b ++ sectRow 5 20480 0 ++ sectRow 6 24576 0
/-- The bytes of such an image: 320, then PLACE's 16 and SCHED's 8. -/
def imageOf (h p q : List Byte) : List Byte := h ++ pad 7872 (p ++ pad 8176 (q ++ pad 8184 []))

theorem imageOf_length (h p q : List Byte) (hh : h.length = 320) (hp : p.length = 16) (hq : q.length = 8) : (imageOf h p q).length = 24576 := by
  simp [imageOf, pad_length, hh, hp, hq]
/-- The image of job 7, with SPLIT 4 and an empty TABLE, and as it is read. -/
def head7 : List Byte := headOf 0 (leBytes 32 0) 16 8
def imageBytes : List Byte := imageOf head7 (leBytes 8 (1 + 16 * 2 ^ 32) ++ leBytes 8 4) (leBytes 8 (0x22 + 8 * 2 ^ 32))
theorem imageBytes_length : imageBytes.length = 24576 := imageOf_length _ _ _ (by decide +kernel) rfl rfl
def image7 : Img := { bytes := imageBytes, digest := fitTo 32 (Config.shake256 imageBytes 32) }
theorem readImage_image7 : readImage imageBytes = image7 := by
  have h : imageBytes.take (pnum imageBytes 0x10 8) = imageBytes := List.take_of_length_le (by rw [imageBytes_length]; decide +kernel)
  unfold readImage
  simp only [h]
  rw [show ({ bytes := imageBytes } : Img).sections = image7.sections from rfl, if_neg (by decide +kernel), List.take_length]
  rfl
/-- A list of one extent of 192 bytes. -/
def list192 : List Byte := leBytes 8 1 ++ leBytes 8 64 ++ leBytes 8 192
/-- The part with an operation that loads the image, and one that resumes it. -/
def loadCmd : Cmd := opCmd 0x0101 loadPs
def resumeCmd : Cmd := opCmd 0x0104 (loadPs ++ list192)
def loading : State := { hosted loadCmd with sec := { (hosted loadCmd).sec with cmds := [loadCmd, resumeCmd] } }
set_option maxRecDepth 100000 in
theorem image7_judged :
    (match loading.judge image7 24576 true loadA (loading.startAt 0 / tickPs) with
      | .inr p => p.1.base.modules == 1 && p.1.base.jobId == 7 && p.1.base.rank == 0
      | .inl _ => false) = true := by decide +kernel

/-- The image's bytes as the host's memory gives them. -/
theorem hostRead_image : loading.hostRead loadA.list (some imageBytes) = some imageBytes := by
  have hu : loading.flag HOSTSTAT.up [] = true := by decide +kernel
  have hl : listBytes loadA.list = 24576 := by decide
  simp only [State.hostRead, hu, hl, ite_true, Option.map_some, fitTo, imageBytes_length, Nat.sub_self, List.replicate_zero, List.append_nil,
    Option.some.injEq]
  exact List.take_of_length_le (Nat.le_of_eq imageBytes_length)
theorem witness_image_judged : ∃ L d, loading.judge (readImage imageBytes) imageBytes.length (loading.isMaint 1) loadA (loading.startAt 0 / tickPs)
    = .inr (L, d) ∧ L.base.modules = 1 ∧ L.base.jobId = 7 ∧ L.base.rank = 0 := by
  have hm : loading.isMaint 1 = true := by decide +kernel
  rw [readImage_image7, imageBytes_length, hm]
  have h := image7_judged
  revert h
  cases loading.judge image7 24576 true loadA (loading.startAt 0 / tickPs) with
  | inl f => intro h; exact absurd h (by simp)
  | inr p =>
    intro h
    simp only [Bool.and_eq_true, beq_iff_eq] at h
    exact ⟨p.1, p.2, rfl, h.1.1, h.1.2, h.2⟩
theorem witness_image_refused :
    (∃ f, loading.judge (readImage []) 0 (loading.isMaint 1) loadA (loading.startAt 0 / tickPs) = .inl f)
    ∧ ∃ f, (hosted (opCmd 0x0102 list64)).judgeUpdate (readImage []) 0 true = .inl f := by
  constructor
  · have h : (match loading.judge (readImage []) 0 (loading.isMaint 1) loadA (loading.startAt 0 / tickPs) with | .inl _ => true | .inr _ => false) = true := by
      decide +kernel
    revert h; cases loading.judge (readImage []) 0 (loading.isMaint 1) loadA (loading.startAt 0 / tickPs) with
    | inl f => exact fun _ => ⟨f, rfl⟩
    | inr p => intro h; exact absurd h (by simp)
  · have h : (match (hosted (opCmd 0x0102 list64)).judgeUpdate (readImage []) 0 true with | .inl _ => true | .inr _ => false) = true := by decide +kernel
    revert h; cases (hosted (opCmd 0x0102 list64)).judgeUpdate (readImage []) 0 true with
    | inl f => exact fun _ => ⟨f, rfl⟩
    | inr p => intro h; exact absurd h (by simp)

theorem witness_image_commands : loading.cmdOf 3 0x0101 = some loadCmd ∧ loading.cmdOf 3 0x0104 = some resumeCmd
    ∧ HasList resumeCmd 64 false [(64, 192)] 88 ∧ loadArgs resumeCmd.pkt.params = some loadA ∧ loading.now ≤ loading.startAt 0 := by
  unfold HasList; decide +kernel
/-- A checkpoint without records, of the job the image holds, in a list of 192 bytes. -/
theorem witness_image_resumed (L : Loading) (d : Nat) (h1 : L.base.modules = 1) (h2 : L.base.jobId = 7) (h3 : L.base.rank = 0) :
    ∃ mem cb, loading.hostRead [(64, 192)] mem = some cb
      ∧ loading.ckMatches (L.job resumeCmd loadA d (loading.startAt 0) 0 loading.part.identityCode) 0x544B4347 true cb = true
      ∧ ckRecords cb = some [] := by
  have hu : loading.flag HOSTSTAT.up [] = true := by decide +kernel
  have hl : listBytes [(64, 192)] = 192 := rfl
  generalize hj : L.job resumeCmd loadA d (loading.startAt 0) 0 loading.part.identityCode = j
  have hf := loading.ckFile_length j 0x544B4347 0 0 []
  refine ⟨some (loading.ckFile j 0x544B4347 0 0 []), loading.ckFile j 0x544B4347 0 0 [] ++ List.replicate 32 0, ?_, ?_,
    State.ckRecords_none _ _ _ _ _ _⟩
  · simp only [State.hostRead, hu, hl, ite_true, Option.map_some, fitTo, hf, Option.some.injEq]
    exact List.take_of_length_le (by simp [hf])
  · subst hj
    exact State.ckMatches_ckFile _ _ _ _ _ _ _ (by decide) (by decide) (by simp only [Loading.job, h2]; decide)
      (by simp only [Loading.job, h3]; decide) (by simp only [Loading.job, h1]; decide) (by decide +kernel)
theorem witness_image_lost (j : Job) : loading.ckMatches j 0x544B4347 true [] = false := rfl

/-- An update of the image's job: a STEER record of a bulk cluster without entries, and the TABLE. -/
def dig7 : List Byte := List.replicate 32 9
def updateBytes : List Byte := imageOf (headOf 4 dig7 16 8) (leBytes 8 (0x0A + 63 * 2 ^ 16 + 16 * 2 ^ 32) ++ leBytes 8 0) (leBytes 8 (0x22 + 8 * 2 ^ 32))
theorem updateBytes_length : updateBytes.length = 24576 := imageOf_length _ _ _ (by decide +kernel) rfl rfl
def update7 : Img := { bytes := updateBytes, digest := fitTo 32 (Config.shake256 updateBytes 32) }
theorem readImage_update7 : readImage updateBytes = update7 := by
  have h : updateBytes.take (pnum updateBytes 0x10 8) = updateBytes := List.take_of_length_le (by rw [updateBytes_length]; decide +kernel)
  unfold readImage
  simp only [h]
  rw [show ({ bytes := updateBytes } : Img).sections = update7.sections from rfl, if_neg (by decide +kernel), List.take_length]
  rfl
/-- The job runs on die 0. -/
def jobOf7 : Job := { id := 7, dies := [0], map := [0], digest := dig7, images := [imageBytes] }
def updateCmd : Cmd := opCmd 0x0102 (leBytes 8 1 ++ leBytes 8 64 ++ leBytes 8 24576 ++ stampOf 100000)
def updating : State := { withFields [(DIESTAT.state, [0], 3)] (hosted updateCmd) with jobs := [jobOf7] }
set_option maxRecDepth 100000 in
theorem update7_judged : (match updating.judgeUpdate update7 24576 true with | .inr _ => true | .inl _ => false) = true := by decide +kernel
theorem witness_image_updated :
    (updating.cmdOf 3 0x0102 = some updateCmd ∧ updating.switches = [] ∧ HasList updateCmd 0 false [(64, 24576)] 24
      ∧ updating.now ≤ updating.timeParam updateCmd.pkt.params 24)
    ∧ updating.hostRead [(64, 24576)] (some updateBytes) = some updateBytes
    ∧ ∃ b L, updating.judgeUpdate (readImage updateBytes) updateBytes.length (updating.isMaint 1) = .inr (b, L) := by
  have hu : updating.flag HOSTSTAT.up [] = true := by decide +kernel
  have hl : listBytes [(64, 24576)] = 24576 := rfl
  have hm : updating.isMaint 1 = true := by decide +kernel
  refine ⟨by unfold HasList; decide +kernel, ?_, ?_⟩
  · simp only [State.hostRead, hu, hl, ite_true, Option.map_some, fitTo, updateBytes_length, Nat.sub_self, List.replicate_zero, List.append_nil,
      Option.some.injEq]
    exact List.take_of_length_le (Nat.le_of_eq updateBytes_length)
  · rw [readImage_update7, updateBytes_length, hm]
    have h := update7_judged
    revert h
    cases updating.judgeUpdate update7 24576 true with
    | inl f => intro h; exact absurd h (by simp)
    | inr p => intro _; exact ⟨p.1, p.2, rfl⟩

/-! ### Acquisition -/

/-- A register value with fields set. -/
def packed (fs : List (Fld × Nat)) : Nat := (fs.map (fun p => p.2 * 2 ^ p.1.lo)).sum
/-- Every destination has a lawful configuration; what more is set. -/
def acqing (fs : List (Fld × List Nat × Nat)) : State :=
  withFields ((List.range 4).flatMap (fun d => [(ACQDSIZE.size, [d], 20), (ACQDSIZE.tail_period, [d], 1), (ACQDETH.P, [d], 512), (ACQDETH.flush, [d], 1)])
    ++ fs) {}

set_option maxRecDepth 20000 in
theorem witness_AcquisitionCommits :
    ((acqing [(ACQSCFG.enable, [15], 1)]).fit.acq = true ∧ Sparse.sorted (acqing [(ACQSCFG.enable, [15], 1)]).regs = true
      ∧ (acqing [(ACQSCFG.enable, [15], 1)]).acqCheck ≠ 0)
    ∧ (acqing [(ACQSCFG.enable, [15], 1), (ACQSCFG.die, [15], 15), (ACQSCFG.block, [15], 0), (ACQDCFG.kind, [0], 2)]).acqCheck = 0
    ∧ (acqing []).acqCheck = 0 ∧ Sparse.sorted (acqing []).acq.streams = true ∧ Sparse.sorted (acqing []).acq.dests = true := by
  decide +kernel

/-- A frame of 12 bytes and its check at port block 15 of die 15. -/
def tap1 : Tap := { die := 15, port := 15, bytes := List.replicate 16 7, beat := none, failed := false, first := 1000, last := 2000 }
/-- Stream 15 of that port; `fs` more fields of its configuration, `n` its window's length less one. -/
def strm (fs : List (Fld × Nat)) (n : Nat) : AcqStream :=
  { on := true, cfg := packed ([(ACQSCFG.die, 15), (ACQSCFG.block, 15), (ACQSCFG.snap, 3)] ++ fs), win := packed [(ACQSWIN.N, n)] }
def tapping (x : AcqStream) : State := { acqTap := [tap1], acq := { streams := [(15, x)] } }
theorem onlyStream15 (x : AcqStream) (h : x.on = true ∧ fieldIn ACQSCFG.die x.cfg = 15 ∧ fieldIn ACQSCFG.block x.cfg = 15
    ∧ fieldIn ACQSCFG.beats_only x.cfg = 0 ∧ fieldIn ACQSCFG.armed_only x.cfg = 0) : OnlyStream (tapping x) tap1 15 := by
  refine ⟨by decide, h.1, h.2.1, h.2.2.1, h.2.2.2.1, h.2.2.2.2, fun j hj => ?_⟩
  have : (tapping x).acqStream j = {} := by simp [State.acqStream, tapping, Sparse.get, Ne.symm hj]
  rw [this]

theorem witness_TappedFramesMakeRecords :
    ((tapping {}).acqTap = tap1 :: [] ∧ NoStream (tapping {}) tap1 ∧ ({ tapping {} with fit := { acq := false } } : State).fit.acq = false)
    ∧ AcqWorks (tapping (strm [] 0)) 15 ∧ Sparse.sorted (tapping (strm [] 0)).acq.streams = true
    ∧ (OnlyStream (tapping (strm [(ACQSCFG.segment, 1)] 0)) tap1 15
      ∧ fieldIn ACQSCFG.kind ((tapping (strm [(ACQSCFG.segment, 1)] 0)).acqStream 15).cfg = 0
      ∧ fieldIn ACQSCFG.segment ((tapping (strm [(ACQSCFG.segment, 1)] 0)).acqStream 15).cfg = 1)
    ∧ (OnlyStream (tapping (strm [] 0)) tap1 15 ∧ fieldIn ACQSCFG.kind ((tapping (strm [] 0)).acqStream 15).cfg = 0
      ∧ fieldIn ACQSCFG.segment ((tapping (strm [] 0)).acqStream 15).cfg = 0)
    ∧ (let s := tapping (strm [(ACQSCFG.kind, 1), (ACQSCFG.n, 11)] 12)
       OnlyStream s tap1 15 ∧ fieldIn ACQSCFG.kind (s.acqStream 15).cfg ≠ 0
        ∧ (acqValues (s.acqStream 15) tap1.content).length = fieldIn ACQSCFG.n (s.acqStream 15).cfg + 1
        ∧ ((s.acqStream 15).window.getD {}).got + fieldIn ACQSCFG.n (s.acqStream 15).cfg < fieldIn ACQSWIN.N (s.acqStream 15).win) := by
  refine ⟨⟨rfl, ?_, rfl⟩, ⟨rfl, by decide⟩, by decide, ⟨onlyStream15 _ (by decide +kernel), by decide +kernel, by decide +kernel⟩,
    ⟨onlyStream15 _ (by decide +kernel), by decide +kernel, by decide +kernel⟩,
    onlyStream15 _ (by decide +kernel), by decide +kernel, by decide +kernel, by decide +kernel⟩
  unfold NoStream; decide +kernel

/-- A record of 24 bytes in stream 15's delay line; an act of rule 0 at `a`; the destination is the device ring, at its last record. -/
def rec24 : AcqRec := { kind := 1, when_ := 0, body := List.replicate 24 0 }
def delayed (acts : List (Nat × Nat)) : State :=
  withFields [(ACQDPTR.offset, [0], 2 ^ 26 - 64)]
    { acq := { streams := [(15, { line := [rec24], win := packed [(ACQSWIN.rules, 1)], seg := packed [(ACQSSEG.pre, 1)] })]
               dests := [(0, { cfg := packed [(ACQDCFG.kind, 2)] })], acts := acts } }
/-- Destination 3 is of kind `k`. -/
def dest3 (k : Nat) (fs : List (Fld × List Nat × Nat)) (x : AcqDest) : State :=
  withFields fs { acq := { dests := [(3, { x with cfg := packed [(ACQDCFG.kind, k), (ACQDCFG.eport, 255)] })] } }

theorem witness_RecordsReachTheirDestinations :
    ((delayed []).acqStream 15).line = rec24 :: [] ∧ (delayed []).inSegment ((delayed []).acqStream 15) rec24.when_ = false
    ∧ Sparse.sorted (delayed []).acq.streams = true
    ∧ ((delayed [(0, 0)]).inSegment ((delayed [(0, 0)]).acqStream 15) rec24.when_ = false ∧ (delayed [(nsDom 1000, 0)]).inSegment
        ((delayed [(nsDom 1000, 0)]).acqStream 15) rec24.when_ = true
      ∧ Sparse.sorted (delayed [(nsDom 1000, 0)]).regs = true ∧ Sparse.sorted (delayed [(nsDom 1000, 0)]).acq.ring = true
      ∧ ((delayed [(nsDom 1000, 0)]).acqDest ((delayed [(nsDom 1000, 0)]).acqStream 15).dest).kind = 2
      ∧ (delayed [(nsDom 1000, 0)]).rd ACQDPTR.offset [((delayed [(nsDom 1000, 0)]).acqStream 15).dest] + acqRecBytes rec24.body.length = 2 ^ 26)
    ∧ ((dest3 2 [] {}).acqDest 3).kind ≠ 1
    ∧ (((dest3 1 [] {}).acqDest 3).kind = 1 ∧ (dest3 1 [] {}).flag HOSTSTAT.up [] = false)
    ∧ (((dest3 1 [(HOSTSTAT.up, [], 1)] {}).acqDest 3).kind = 1 ∧ (dest3 1 [(HOSTSTAT.up, [], 1)] {}).flag HOSTSTAT.up [] = true)
    ∧ (let s := dest3 3 [] { dgram := [1], template := List.replicate 42 0 }
       (s.acqDest 3).dgram ≠ [] ∧ s.flag PSTAT.lock [255 / 16, 255 % 16] = false ∧ 255 = fieldIn ACQDCFG.eport (s.acqDest 3).cfg)
    ∧ (let s := dest3 3 [(PSTAT.lock, [15, 15], 1)] { dgram := [1], template := List.replicate 42 0 }
       (s.acqDest 3).dgram ≠ [] ∧ s.flag PSTAT.lock [255 / 16, 255 % 16] = true ∧ (s.acqDest 3).template.length = 42) := by
  decide +kernel

/-! ### Links -/

/-- Laser die 1 of every glowworm has failed where `k` is 1. -/
def lasers (k : Nat) : State := withFields ((List.range 8).map (fun e => (GWLASER.b_failed, [e], k))) {}
theorem witness_LightSources :
    (∀ l < 2, Sparse.sorted (lasers 0).regs = true ∧ (∀ e ∈ (lasers 0).glows, (lasers 0).flag (laserFailed l) [e] = false)
      ∧ (∀ e ∈ (lasers 0).glows, (lasers 0).flag (laserFailed (1 - l)) [e] = false))
    ∧ ((lasers 1).glows ≠ [] ∧ (∀ e ∈ (lasers 1).glows, (lasers 1).flag (laserFailed 0) [e] = false)
      ∧ (∀ e ∈ (lasers 1).glows, (lasers 1).flag (laserFailed (1 - 0)) [e] = true) ∧ Sparse.sorted (lasers 1).regs = true)
    ∧ bitOf (lasers 1).fit.glow 7 = true ∧ (lasers 1).flag GWSTAT.failed [7] = false ∧ (lasers 1).ringPort (2 * 7 + 0 / 16) (0 % 16) = none := by
  decide +kernel

/-- Lane 31 of glowworm 7. -/
def laned (fs : List (Fld × List Nat × Nat)) : State := withFields fs {}
theorem witness_LaneReceivers :
    LaneStands (laned []) 7 31 ∧ Sparse.sorted (laned []).regs = true
    ∧ (LaneStands (laned [(LSTAT.cdr_lock, [7, 31], 1)]) 7 31 ∧ (laned [(LSTAT.cdr_lock, [7, 31], 1)]).flag LSTAT.cdr_lock [7, 31] = true)
    ∧ (laned []).flag LSTAT.cdr_lock [7, 31] = false ∧ (laned []).rd LCFG.prbs_rx [7, 31] = 0
    ∧ (LaneStands (laned [(LCFG.prbs_rx, [7, 31], 1)]) 7 31 ∧ (laned [(LCFG.prbs_rx, [7, 31], 1)]).rd LCFG.prbs_rx [7, 31] ≠ 0)
    ∧ (LaneStands (laned [(LSTAT.prbs_lock, [7, 31], 1)]) 7 31 ∧ (laned [(LSTAT.prbs_lock, [7, 31], 1)]).flag LSTAT.prbs_lock [7, 31] = true) := by
  unfold LaneStands; decide +kernel

/-- A write of LINJ with `go`, the kind, spacing 1 and offset 271; an injection that runs. -/
def injWord (kind : Nat) : W64 := BitVec.ofNat 64 (2 ^ 51 + kind + 2 ^ 26 + 271 * 2 ^ 42)
def injected (m : Option Nat) (kind : Nat) : State := withFields [(LINJ.busy, [7, 31], 1), (LINJ.kind, [7, 31], kind)] { injects := [(laneKey 7 31, { left := m })] }
theorem witness_LaneInjections :
    (∀ k ∈ [1, 2, 3], bitOf (injWord k).toNat 51 = true ∧ (injWord k).toNat % 4 ≠ 0 ∧ bitsOf (injWord k).toNat 26 16 ≠ 0 ∧ bitsOf (injWord k).toNat 42 9 ≤ 271)
    ∧ ((injWord 0).toNat % 4 = 0 ∧ bitsOf (injWord 0).toNat 26 16 ≠ 0 ∧ bitsOf (injWord 0).toNat 42 9 ≤ 271)
    ∧ ((injected none 1).flag LINJ.busy [7, 31] = true ∧ ({} : State).flag LINJ.busy [7, 31] = false)
    ∧ (∀ m ∈ [none, some 1, some 2], ∀ k ∈ [1, 2, 3], Injecting (injected m k) 7 31 { left := m } ∧ (injected m k).rd LINJ.kind [7, 31] = k
      ∧ Sparse.sorted (injected m k).regs = true ∧ Sparse.sorted (injected m k).injects = true) := by
  unfold Injecting; decide +kernel

/-- Port block 15 of die 15 is a bulk Ethernet port that takes every address; its queue 0 is enabled. -/
def macing (fs : List (Fld × List Nat × Nat)) (x : Mac) : State :=
  withFields ([(PCFG.mode, [15, 15], 2), (MCFG.promisc, [15, 15], 1), (MRQ.enable, [15, 15, 0], 1)] ++ fs) { macs := [(key2 15 15, x)] }
/-- A frame of 64 bytes with its check. -/
def frame60 : List Byte := List.replicate 60 1
def frame64 : List Byte := frame60 ++ leBytes 4 (crc32 frame60).toNat
/-- A stored frame of one cell. -/
def cell1 : MacFrame := { queue := 0, bytes := frame64, at_ := 0 }
/-- Queue 0's ring of 128 bytes in tier 2, which holds `h`. -/
def ringing (h : List (Nat × Nat)) : State :=
  { macing [(MRQ.region, [15, 15, 0], 5)] { frames := [cell1], rings := [(0, { seq := 3, held := h })] } with
    dies := [(15, { regions := [⟨5, 2, 0, 128⟩] })] }
/-- A release of queue 0 up to record `q`. -/
def relTok (q : Nat) : Flit := { tok := { data := BitVec.ofNat 64 (q * 2 ^ 16) } }

set_option maxRecDepth 4000 in
theorem witness_BulkFramesAreReceived :
    ((macing [] {}).bulkEth 15 15 = true ∧ (List.replicate 63 (0 : Byte)).length < 64 ∧ 64 ≤ frame64.length ∧ frame64.length ≤ 9216
      ∧ (List.replicate 64 (0 : Byte)).foldl crcByte 0xFFFFFFFF ≠ crcResidue)
    ∧ (∀ k ∈ [255, 256], GoodFrame (macing [] { frames := List.replicate k cell1 }) 15 15 0 frame64
      ∧ 256 * (macing [] { frames := List.replicate k cell1 }).portLanes 15 15 = 256
      ∧ (macing [] { frames := List.replicate k cell1 }).macCells 15 15 none + (frame64.length + 255) / 256 = k + 1
      ∧ Sparse.sorted (macing [] { frames := List.replicate k cell1 }).macs = true)
    ∧ (takeFrame 0 ((ringing []).mac 15 15).frames = some (cell1, []) ∧ (ringing []).regionOf 15 ((ringing []).rd MRQ.region [15, 15, 0]) = some ⟨5, 2, 0, 128⟩
      ∧ (((ringing [(2, 128)]).mac 15 15).ring 0).held = [(2, 128)] ∧ 128 < ([(2, 128)].map (·.2)).sum + 128
      ∧ (histRecord 0 15 true false false 0 ((ringing []).rd GEPOCH.epoch [15]) 0 (cell1.at_ / vernierPs) 3 cell1.bytes).length = 128
      ∧ (((ringing []).mac 15 15).ring 0).written % max 1 128 + 128 ≤ 128 ∧ ((((ringing []).mac 15 15).ring 0).held.map (·.2)).sum + 128 ≤ 128
      ∧ Sparse.sorted (ringing []).tier2 = true ∧ Sparse.sorted (ringing []).macs = true)
    ∧ (0 = (relTok 3).tok.data.toNat % 16 ∧ 3 = bitsOf (relTok 3).tok.data.toNat 16 48 ∧ (relTok 3).tok.kind = 0
      ∧ (relTok 3).tok.epoch = ((ringing []).die 15).bulkEpoch ∧ (((ringing []).mac 15 15).ring 0).seq ≤ 3
      ∧ 2 = bitsOf (relTok 2).tok.data.toNat 16 48 ∧ 2 < (((ringing []).mac 15 15).ring 0).seq ∧ bitsOf (relTok 2).tok.data.toNat 4 12 = 0)
    ∧ (let s := macing [(MCFG.pause_rx, [15, 15], 1)] {}
       s.bulkEth 15 15 = true ∧ s.flag MCFG.pause_rx [15, 15] = true ∧ Sparse.sorted s.regs = true ∧ Sparse.sorted s.macs = true
        ∧ Sparse.sorted (s.mac 15 15).pausedTo = true ∧ (s.upTo 0).quantumPs 15 15 ≠ 0)
    ∧ 5 = Sparse.get 0 ((macing [] { pausedTo := [(7, 5)] }).mac 15 15).pausedTo 7
    ∧ (let s := macing [(MWM.low, [15, 15], 0), (MCFG.fc, [15, 15], 1), (MOCC.pausing, [15, 15], 1)] {}
       (s.upTo 0).pauseFree 15 15 = true ∧ s.rd MWM.low [15, 15] ≤ s.macCells 15 15 none ∧ s.rd MCFG.fc [15, 15] = 1 ∧ s.rd MOCC.pausing [15, 15] ≠ 0
        ∧ Sparse.sorted s.regs = true ∧ Sparse.sorted s.macs = true) := by
  unfold GoodFrame; decide +kernel

/-- Transmit queue 7 of the port holds `k` tokens for a descriptor at byte `a` of tier 2, where a frame of 60 bytes at 64 is described. -/
def txTok (a : Nat) : Flit := { tok := { data := BitVec.ofNat 64 (2 ^ 63 + a), index := 7 }, edge := .hen 15 1 0 0 }
def sending (a k : Nat) : State :=
  { macing [(MTQ.enable, [15, 15, 7], 1)] { txq := [(7, { toks := List.replicate k (txTok a) })] } with
    tier2 := [(0, 64), (7, 0x80), (8, 60)], dies := [(15, { regions := [⟨5, 2, 0, 124⟩] })] }

theorem witness_BulkFramesAreSent :
    (∀ k ∈ [0, 63], (txTok 0).tok.kind ≠ 3 ∧ (txTok 0).tok.epoch = ((sending 0 k).die 15).bulkEpoch ∧ (txTok 0).tok.index ≤ 7
      ∧ (sending 0 k).flag MTQ.enable [15, 15, (txTok 0).tok.index] = true ∧ (((sending 0 k).mac 15 15).tx (txTok 0).tok.index).toks.length < 64)
    ∧ ({ txTok 0 with tok := { (txTok 0).tok with epoch := 3 } } : Flit).tok.epoch ≠ ((sending 0 0).die 15).bulkEpoch
    ∧ (Serves (sending 0 2) 15 15 7 (txTok 0) [txTok 0] ∧ Sparse.sorted (sending 0 2).macs = true ∧ Sparse.sorted ((sending 0 2).mac 15 15).txq = true
      ∧ Sparse.sorted (sending 0 2).regs = true ∧ (sending 0 2).txDesc 15 (txTok 0).tok.data = (some (List.replicate 60 0), none))
    ∧ (Serves (sending 8 1) 15 15 7 (txTok 8) [] ∧ (sending 8 1).txDesc 15 (txTok 8).tok.data = (none, none)) := by
  unfold Serves; decide +kernel

/-- The slow-control port is enabled and takes every address; its receive queue holds `k` frames, its transmit queue `x`. -/
def t1sing (k : Nat) (q : List T1sTx) : State :=
  withFields [(T1SCFG.enable, [], 1), (T1SCFG.promisc, [], 1)] { t1s := { rxq := List.replicate k ([], 0), txq := q } }
def t1sTx (n : Nat) (b : Bool) : T1sTx := { bytes := frame60, stamp := false, id := 0, tries := n, backoff := b }

theorem witness_SlowControlPort :
    (({} : State).flag T1SCFG.enable [] = false)
    ∧ (∀ k ∈ [31, 32], (t1sing k []).fit.t1s = true ∧ (t1sing k []).flag T1SCFG.enable [] = true ∧ frame64.foldl crcByte 0xFFFFFFFF = crcResidue
      ∧ 64 ≤ frame64.length ∧ frame64.length ≤ 1522 ∧ addressOk ((t1sing k []).raw T1SADDR []) ((t1sing k []).flag T1SCFG.mcast [])
        ((t1sing k []).flag T1SCFG.promisc []) frame64 = true ∧ isPtp frame64 = false ∧ (t1sing k []).t1s.rxq.length = k)
    ∧ frame60.foldl crcByte 0xFFFFFFFF ≠ crcResidue
    ∧ (∀ n ∈ [0, 14, 15], ∀ b ∈ [false, true], T1sFirst (t1sing 0 [t1sTx n b]) (t1sTx n b) [] ∧ (t1sTx n b).backoff = b ∧ (t1sTx n b).tries = n
      ∧ (t1sTx n b).stamp = false) := by
  unfold T1sFirst; decide +kernel

theorem witness_HostLink : Sparse.sorted ({} : State).regs = true ∧ (16 : Nat) ≤ 16 ∧ (128 : Nat) ≤ 128 ∧ ({} : State).strapLanes ≤ 16
    ∧ (7 : Nat) < ({} : State).strapLanes
    ∧ bitOf ((({} : State).setRaw MSIXPBA [] (2 ^ 63)).raw MSIXPBA []) 63 = true ∧ bitOf (({} : State).raw MSIXPBA []) 63 = false := by decide +kernel

/-! ### Command windows -/

/-- Window 15 in state `st`, with words `m`. -/
def windowed (st : Nat) (m : Sparse W32) : State := withFields [(CWSTATE.state, [15], st)] { wins := [(15, { words := m, lenSeen := true })] }
/-- A packet of session 0 with opcode `o` and `n` words; an operating session 1 in slot 0, whose key is empty. -/
def ws0 (o n : Nat) : List W32 := BitVec.ofNat 32 o :: BitVec.ofNat 32 n :: List.replicate (n - 2) 0
def sess1 : Sess := { id := 1, maint := false, key := [] }
def sessioned : State := withFields [(SECSESS.next_seq, [0], 1)] { sec := { sessions := [(0, some sess1)] } }
/-- A STOP of die 15 in session 1, with its MAC, `q` its number. -/
def stopHead (q : Nat) : List W32 := [0x0103, 0x10009, BitVec.ofNat 32 q, 0, 0x8000]
def stopWs (q : Nat) : List W32 := macked "IADAR S2 CMD" sess1.key [] (stopHead q)

theorem stopWs_length (q : Nat) : (stopWs q).length = 9 := macked_length _ _ _ _
theorem stopWs_whole (q : Nat) : WholePacket sessioned 15 (stopWs q) := by
  refine ⟨by decide, by decide +kernel, by rw [stopWs_length]; decide, by rw [stopWs_length]; decide, ?_, by decide +kernel, by decide⟩
  rw [stopWs_length]; simp [stopWs, macked, stopHead]
/-- The window as the firmware finds it. -/
def zStop (q : Nat) : State := committed sessioned 15 0 (stopWs q)
theorem zStop_words (q : Nat) : ((zStop q).win 15).words = setWords [] 0 (stopWs q) := by
  have h : (zStop q).win 15 = { sessioned.win 15 with words := setWords (sessioned.win 15).words 0 (stopWs q), lenSeen := true } :=
    Sparse.get_set_same (α := Win) {} 15 _ (by decide)
  rw [h]; rfl
theorem zStop_word (q j : Nat) (v : W32) (hj : (stopHead q)[j]? = some v) : Sparse.get 0 ((zStop q).win 15).words j = v := by
  have hl : j < (stopHead q).length := by
    rcases Nat.lt_or_ge j (stopHead q).length with h | h
    · exact h
    · rw [List.getElem?_eq_none h] at hj; simp at hj
  rw [zStop_words, stopWs, macked_word _ _ _ _ (by decide) _ hl]
  have := setWords_get [] 0 j (stopHead q) v (by decide) hj
  rwa [Nat.zero_add] at this
theorem zStop_mac (q : Nat) : macOf (zStop q) 15 = mac16 "IADAR S2 CMD" sess1.key (macBody (zStop q) 15) := by
  have h1 : ((zStop q).win 15).word 1 % 65536 = 9 := by rw [Win.word, zStop_word q 1 0x10009 rfl]; rfl
  unfold macOf macBody
  rw [h1]
  exact macked_fits _ _ [] (stopHead q) (by decide) _ (zStop_words q)
/-- The packet the firmware reads. -/
def stopPkt (q : Nat) : Pkt :=
  { op := 0x0103, tag := 0, gen := 0, session := 1, seq := q % 2 ^ 32, deadline := 60000000000000, commit := 0, params := [0, 0x80, 0, 0] }
theorem zStop_packet (q : Nat) : (zStop q).readPacket 15 (stopWs q).length = stopPkt q := by
  have h0 : ((zStop q).win 15).word 0 = 0x0103 := by rw [Win.word, zStop_word q 0 0x0103 rfl]; rfl
  have h1 : ((zStop q).win 15).word 1 = 0x10009 := by rw [Win.word, zStop_word q 1 0x10009 rfl]; rfl
  have h2 : ((zStop q).win 15).word 2 = q % 2 ^ 32 := by rw [Win.word, zStop_word q 2 (BitVec.ofNat 32 q) rfl]; rfl
  have h3 : ((zStop q).win 15).word 3 = 0 := by rw [Win.word, zStop_word q 3 0 rfl]; rfl
  have hp : ((zStop q).win 15).bytes 16 4 = [0, 0x80, 0, 0] := by
    simp only [Win.bytes, show List.range 4 = [0, 1, 2, 3] from rfl, List.map_cons, List.map_nil, Nat.reduceAdd, Nat.reduceDiv, zStop_word q 4 0x8000 rfl]
    decide
  unfold State.readPacket
  simp only [h0, h1, h2, h3, stopWs_length, Nat.reduceMul, Nat.reduceSub, hp]
  rfl
theorem zStop_regs (q : Nat) : (zStop q).regs = ((sessioned.wr CWSTATE.state [15] 1).wr CWSTATE.state [15] 2).regs := by
  simp only [zStop, committed, State.wr_regs, State.setWin_regs, State.upTo_regs]
theorem zStop_sec (q : Nat) : (zStop q).sec = sessioned.sec := by
  rw [zStop, committed, State.wr_sec, State.wr_sec, State.setWin_sec, State.upTo_sec]
theorem zStop_next (q : Nat) : (zStop q).nextSeq 0 = 1 := by
  unfold State.nextSeq State.rd; rw [zStop_regs]; decide +kernel
theorem zStop_slot (q : Nat) : (zStop q).sessSlot 1 = some (0, sess1) := by
  unfold State.sessSlot; rw [zStop_sec]; decide +kernel
theorem zStop_fit (q : Nat) : (zStop q).fit = ({} : State).fit := by
  rw [zStop, committed, State.wr_fit, State.wr_fit, State.setWin_fit, State.upTo_fit]; exact (State.wr_fit _ _ _ _)
theorem zStop_check (q : Nat) (hq : q < 2 ^ 32) :
    ((zStop q).packetCheck 15 (stopPkt q) (stopWs q).length).1 = if q = 1 then 0 else 0x0006 := by
  have hm := zStop_mac q
  have h1 : ((zStop q).win 15).word 1 % 65536 = 9 := by rw [Win.word, zStop_word q 1 0x10009 rfl]; rfl
  unfold macOf macBody at hm
  rw [h1] at hm
  have hr : (zStop q).flag BOOTSTAT.recovery [] = false := by unfold State.flag; rw [zStop_regs]; decide +kernel
  have hst : (zStop q).sec.cmds = [] := by rw [zStop_sec]; rfl
  have hu : (zStop q).unitsPresent 0x0103 [0, 0x80, 0, 0] = true := by unfold State.unitsPresent; rw [zStop_fit]; decide +kernel
  have hl : ¬ (stopPkt q).session = 0 := nofun
  unfold State.packetCheck
  rw [if_neg hl, show (stopPkt q).session = 1 from rfl, zStop_slot, stopWs_length]
  simp only []
  rw [if_neg (fun h => h.2 hm), zStop_next]
  have hs : (stopPkt q).seq = q := Nat.mod_eq_of_lt hq
  rw [hs]
  by_cases h : q = 1
  · rw [if_neg (fun x => x.2 h), if_pos h]
    simp only [stopPkt, opInfo, sess1, hr, State.staleRuns, hst, hu]
    simp only [Sess.tagRec, Sparse.get]
    have hp : paramsOk 259 [0#8, 128#8, 0#8, 0#8] = true := by decide
    simp [hp]
  · rw [if_pos ⟨by decide, h⟩, if_neg h]

theorem witness_PacketsAreCheckedInOrder :
    ((windowed 2 []).rd CWSTATE.state [15] = 2
      ∧ (windowed 1 [(1, 12288)]).rd CWSTATE.state [15] = 1 ∧ ((windowed 1 [(1, 12288)]).win 15).lenSeen = true
      ∧ 8 ≤ (((windowed 1 [(1, 12288)]).win 15).word 1) % 65536 ∧ Sparse.sorted ((windowed 1 [(1, 12288)]).win 15).words = true
      ∧ 2 + [(0 : W32)].length < (((windowed 1 [(1, 12288)]).win 15).word 1) % 65536)
    ∧ (WholePacket {} 15 (ws0 1 9) ∧ ((committed {} 15 0 (ws0 1 9)).packetCheck 15 ((committed {} 15 0 (ws0 1 9)).readPacket 15 9) 9).1 ≠ 0
      ∧ ((committed {} 15 0 (ws0 1 9)).readPacket 15 9).seq ≠ 2 ^ 32 - 1)
    ∧ (WholePacket {} 15 (ws0 1 8) ∧ ((committed {} 15 0 (ws0 1 8)).packetCheck 15 ((committed {} 15 0 (ws0 1 8)).readPacket 15 8) 8).1 = 0
      ∧ ((committed {} 15 0 (ws0 1 8)).readPacket 15 8).seq ≠ 2 ^ 32 - 1 ∧ bitsOf (((committed {} 15 0 (ws0 1 8)).win 15).word 3) 17 15 = 0
      ∧ opInfo ((committed {} 15 0 (ws0 1 8)).readPacket 15 8).op = some (1, false))
    ∧ (WholePacket {} 15 (ws0 1 (8 + 5 * 65536)|>.take 8) ∧ ((committed {} 15 0 (ws0 1 (8 + 5 * 65536)|>.take 8)).readPacket 15 8).session = 5
      ∧ ({} : State).sessSlot 5 = none) := by
  unfold WholePacket; decide +kernel
theorem witness_PacketsAreCheckedInOrder_started :
    WholePacket sessioned 15 (stopWs 1) ∧ ((zStop 1).packetCheck 15 (stopPkt 1) (stopWs 1).length).1 = 0 ∧ (stopPkt 1).seq ≠ 2 ^ 32 - 1
    ∧ bitsOf (((zStop 1).win 15).word 3) 17 15 = 0 ∧ opInfo (stopPkt 1).op = some (4, true) := by
  refine ⟨stopWs_whole 1, zStop_check 1 (by decide), by decide, ?_, rfl⟩
  rw [Win.word, zStop_word 1 3 0 rfl]; rfl
theorem witness_PacketsAreCheckedInOrder_seq :
    WholePacket sessioned 15 (stopWs 2) ∧ (stopPkt 2).session ≠ 0 ∧ sessioned.sessSlot (stopPkt 2).session = some (0, sess1)
    ∧ macOf (zStop 2) 15 = mac16 "IADAR S2 CMD" sess1.key (macBody (zStop 2) 15) ∧ (stopPkt 2).seq ≠ sessioned.nextSeq 0 :=
  ⟨stopWs_whole 2, nofun, by decide +kernel, zStop_mac 2, by decide +kernel⟩

/-- The firmware has taken a packet of opcode `o` and parameters `ps` in window 1; the window's nonce is `n`. -/
def asked (o : Nat) (ps : List Byte) (n : Option (List Byte × Nat)) (ws : Sparse W32) (s : State) : State :=
  { s with wins := [(1, { words := ws, taken := some { (opCmd o ps).pkt with seq := 0 }, nonce := n })] }
def askedPkt (o : Nat) (ps : List Byte) : Pkt := { (opCmd o ps).pkt with seq := 0 }
/-- An OPEN_MAINT whose MAC is right under the key of its nonce. -/
def nonce0 : List Byte := List.replicate 32 7
def openPs : List Byte := List.replicate 32 5
def openHead : List W32 := [2, 16, 0, 0] ++ List.replicate 8 0x05050505
def opening : State :=
  asked 2 openPs (some (nonce0, 0)) (setWords [] 0 (macked "IADAR S2 CMD" (maintKey {} nonce0 (askedPkt 2 openPs)) [] openHead)) {}
theorem opening_mac : macOf opening 1 = mac16 "IADAR S2 CMD" (maintKey opening nonce0 (askedPkt 2 openPs)) (macBody opening 1) := by
  have h1 : (opening.win 1).word 1 % 65536 = 16 := by
    show (Sparse.get 0 (setWords [] 0 (macked _ _ [] openHead)) 1).toNat % 65536 = 16
    rw [macked_word _ _ _ _ (by decide) _ (by decide)]; decide
  unfold macOf macBody
  rw [h1]
  exact macked_fits _ _ [] openHead (by decide) _ rfl

/-- The key of slot 0, and an OPEN_OP that names it by its id. -/
def pub0 : List Byte := [1]
def opPs : List Byte := leBytes 4 (keyId pub0) ++ List.replicate 1604 0
theorem keyOf_pub0 : (asked 3 opPs (some (nonce0, 0)) [] { vault := { keys := [(0, { pub := pub0, roles := 1 })] } }).keyOfId (pnum opPs 0 4)
    = some (0, { pub := pub0, roles := 1 }) := by
  have h : pnum opPs 0 4 = keyId pub0 := by
    rw [opPs, pnum_leBytes]
    exact Nat.mod_eq_of_lt (Nat.mod_lt _ (by decide))
  rw [h]
  simp [State.keyOfId, asked, List.range, List.range.loop, Sparse.get, pub0]

theorem witness_SessionsOpen :
    (∀ o ∈ [1, 2, 3], Taken (asked o openPs none [] {}) 1 o (askedPkt o openPs) ∧ ((asked o openPs none [] {}).win 1).nonce = none)
    ∧ (asked 2 openPs none [] (withFields [(SECSTAT.locked_out, [], 1)] {})).flag SECSTAT.locked_out [] = true
    ∧ (asked 2 openPs none [] {}).flag SECSTAT.locked_out [] = false
    ∧ FreshNonce ((asked 3 opPs (some (nonce0, 0)) [] {}).upTo 10000000000000) 1 nonce0 0
    ∧ ({ sec := { lockUntil := some 5 } } : State).sec.lockUntil = some 5
    ∧ ((asked 3 opPs (some (nonce0, 0)) [] {}).win 1).nonce = some (nonce0, 0) ∧ bitOf 1 0 = true := by
  unfold Taken FreshNonce; decide +kernel
theorem witness_SessionsOpen_maint :
    (∃ p, Taken opening 1 2 p ∧ p.seq = 0 ∧ p = askedPkt 2 openPs) ∧ opening.flag SECSTAT.locked_out [] = false
    ∧ FreshNonce (opening.upTo 0) 1 nonce0 0 ∧ opening.freeSlot true = some 0 := by
  refine ⟨⟨askedPkt 2 openPs, ⟨rfl, by decide, rfl⟩, rfl, rfl⟩, ?_, ⟨rfl, by decide⟩, ?_⟩
  · show ({} : State).flag SECSTAT.locked_out [] = false; decide +kernel
  · show ({} : State).freeSlot true = some 0; decide +kernel
theorem witness_SessionsOpen_op : ∃ p, Taken (asked 3 opPs (some (nonce0, 0)) [] { vault := { keys := [(0, { pub := pub0, roles := 1 })] } }) 1 3 p
    ∧ p.params = opPs := ⟨askedPkt 3 opPs, ⟨rfl, by decide, rfl⟩, rfl⟩

/-- An operating session 1 in slot 7, idle since 0, whose tag 5 is outstanding where `b`. -/
def sess7 (b : Bool) : Sess := { sess1 with tags := if b then [(5, { gen := 0, out := true })] else [] }
def inSess (b : Bool) (fs : List (Fld × List Nat × Nat)) : State := withFields fs { sec := { sessions := [(7, some (sess7 b))] } }

theorem inSess_only (b : Bool) (fs : List (Fld × List Nat × Nat)) (h : (withFields fs { sec := { sessions := [(7, some (sess7 b))] } } : State).sec.sessions = [(7, some (sess7 b))]) :
    ∀ i j y z, i < 8 → j < 8 → Sparse.get none (inSess b fs).sec.sessions i = some y → Sparse.get none (inSess b fs).sec.sessions j = some z → y.id = z.id → i = j := by
  intro i j y z _ _ h1 h2 _
  unfold inSess at h1 h2
  rw [h] at h1 h2
  simp only [Sparse.get] at h1 h2
  split at h1
  · split at h2
    · omega
    · simp at h2
  · simp at h1

theorem witness_SessionsClose : ∀ b ∈ [false, true],
    (SessionAt (inSess b []) 1 7 (sess7 b) ∧ (b = false → NoTags (sess7 b)) ∧ (b = true → ¬ NoTags (sess7 b)))
    ∧ (inSess b [(SECPOLICY.idle, [], 1)]).rd SECPOLICY.idle [] ≠ 0 ∧ (inSess b [(SECPOLICY.idle, [], 0)]).rd SECPOLICY.idle [] = 0
    ∧ (∀ v ∈ [0, 1], Taken (asked 4 (leBytes 4 v) none [] (inSess b [])) 1 4 (askedPkt 4 (leBytes 4 v)) ∧ (askedPkt 4 (leBytes 4 v)).session = 1
      ∧ bitOf (pnum (leBytes 4 v) 0 4) 0 = decide (v = 1)) := by
  intro b hb
  refine ⟨⟨⟨?_, ?_, inSess_only b [] rfl⟩, ?_, ?_⟩, ?_⟩
  · revert hb; revert b; decide +kernel
  · revert hb; revert b; decide +kernel
  · revert hb; revert b; unfold NoTags; decide +kernel
  · revert hb; revert b; unfold NoTags; decide +kernel
  · revert hb; revert b; unfold Taken; decide +kernel

theorem witness_SecureStoreCommands :
    (Taken (asked 0x0603 (List.replicate 48 1) none [] {}) 1 0x0603 (askedPkt 0x0603 (List.replicate 48 1)))
    ∧ (Taken (asked 0x0604 (leBytes 4 (2 ^ 18 - 1)) none [] {}) 1 0x0604 (askedPkt 0x0604 (leBytes 4 (2 ^ 18 - 1)))
      ∧ pnum (leBytes 4 (2 ^ 18 - 1)) 0 4 < 2 ^ 18)
    ∧ ((cmding (opCmd 0x0605 list64) {}).cmdOf 3 0x0605 = some (opCmd 0x0605 list64) ∧ (cmding (opCmd 0x0605 list64) {}).flag HOSTSTAT.up [] = false
      ∧ hostList list64 0 false = some ([(64, 64)], 24))
    ∧ (hosted (opCmd 0x0605 list64)).firmwareOf (fitTo 64 []) = none := by
  unfold Taken; decide +kernel
theorem witness_SecureStoreCommands_read : UpdateRead (hosted (opCmd 0x0605 list64)) 3 (some []) (fitTo 64 []) :=
  ⟨opCmd 0x0605 list64, [(64, 64)], 24, [], by decide +kernel, by decide +kernel, by decide +kernel, rfl, rfl⟩

/-- Answers of each opcode with a list of `l`. -/
def noList : List Byte := leBytes 8 0
def bigList : List Byte := leBytes 8 1 ++ leBytes 8 64 ++ leBytes 8 65536
theorem witness_ModuleAnswers :
    (∀ l ∈ [noList, list64, bigList], ∀ o ∈ [5, 6], Taken (asked o l none [] {}) 1 o (askedPkt o l))
    ∧ (∀ l ∈ [noList, list64, bigList], Taken (asked 7 (nonce0 ++ l) none [] {}) 1 7 (askedPkt 7 (nonce0 ++ l)))
    ∧ hostList noList 0 true = some ([], 8) ∧ hostList list64 0 true = some ([(64, 64)], 24) ∧ hostList bigList 0 true = some ([(64, 65536)], 24)
    ∧ hostList (nonce0 ++ noList) 32 true = some ([], 40) ∧ hostList (nonce0 ++ bigList) 32 true = some ([(64, 65536)], 56)
    ∧ ({} : State).capBytes.length = 0 ∧ ({ boot := { caps := List.replicate 17 1 } } : State).capBytes.length = 68 ∧ ({} : State).latTable.length = 640 := by
  unfold Taken; and_intros <;> decide +kernel
theorem witness_ModuleAnswers_frames :
    Taken (asked 0x0501 (leBytes 4 4 ++ [1, 2, 3, 4]) none [] {}) 1 0x0501 (askedPkt 0x0501 (leBytes 4 4 ++ [1, 2, 3, 4]))
    ∧ Taken (asked 0x0502 [] none [] {}) 1 0x0502 (askedPkt 0x0502 [])
    ∧ Taken (asked 0x0502 [] none [] { t1s := { rxq := [([1, 2], 5)] } }) 1 0x0502 (askedPkt 0x0502 []) := by
  unfold Taken; decide +kernel

/-- KEY_ENROLL of slot 15 with roles 7, and KEY_REVOKE of it; slot 15 and the session that its key opened. -/
def enrollPs (r : Nat) : List Byte := leBytes 4 15 ++ leBytes 4 r ++ List.replicate 1793 1 ++ leBytes 3 0
def keyed : State :=
  { vault := { keys := [(15, { pub := [1], roles := 7 })] }, sec := { sessions := [(7, some { sess1 with slot := 15 })] } }
theorem witness_KeysAreEnrolledAndRevoked :
    (∀ r ∈ [0, 7], Taken (asked 0x0601 (enrollPs r) none [] {}) 1 0x0601 (askedPkt 0x0601 (enrollPs r)) ∧ 15 = pnum (enrollPs r) 0 4 ∧ pnum (enrollPs r) 4 4 = r)
    ∧ ((enrollPs 7).drop 8).take 1793 ≠ [] ∧ (Sparse.get {} ({} : State).vault.keys 15).pub = [] ∧ (Sparse.get {} keyed.vault.keys 15).pub ≠ []
    ∧ (Taken (asked 0x0602 (leBytes 4 15) none [] keyed) 1 0x0602 (askedPkt 0x0602 (leBytes 4 15)) ∧ 15 = pnum (leBytes 4 15) 0 4
      ∧ Sparse.sorted keyed.vault.keys = true)
    ∧ (keyed.sessSlot 1 = some (7, { sess1 with slot := 15 }) ∧ ({ sess1 with slot := 15 } : Sess).maint = false)
    ∧ (∀ i, i < 8 → Sparse.get none ({} : State).sec.sessions i = none) := by
  unfold Taken; decide +kernel
theorem witness_KeysAreEnrolledAndRevoked_new (id : Nat) : ({} : State).keyOfId id = none := by
  simp [State.keyOfId, List.range, List.range.loop, Sparse.get]
theorem witness_KeysAreEnrolledAndRevoked_twice : keyed.keyOfId (keyId [1]) ≠ none := by
  simp [State.keyOfId, List.range, List.range.loop, Sparse.get, keyed]

theorem witness_WrongLengthsAreAnsweredAtOnce :
    ({} : State).rd CWSTATE.state [15] ≠ 2 ∧ (∀ n ∈ [7, 12289], n = ((ws0 1 n).take 2 |>.getD 1 0).toNat % 65536 ∧ ((ws0 1 n).take 2).length = 2)
    ∧ Sparse.sorted ({} : State).regs = true ∧ Sparse.sorted (({} : State).win 15).words = true := by decide +kernel

/-! ### Interrupts, records, power -/

/-- Source 7 is pending toward target `t`. -/
def pend7 (t : Nat) : State :=
  let s := ({} : State).setRaw IPEND [0] 0x80
  if t < 8 then (s.wr ITGT.hub [7] (2 ^ t)).setRaw IMASK_HUB [0] 0 else (s.wr ITGT.host [7] (2 ^ (t - 8))).setRaw IMASK_HOST [0] 0

theorem witness_InterruptsAreDelivered :
    ((withFields [(PWRSTAT.alert_seen, [], 1)] {}).irqCond 7 = true ∧ bitOf ((withFields [(PWRSTAT.alert_seen, [], 1)] {}).raw IACTIVE [7 / 32]) (7 % 32) = false)
    ∧ ({} : State).irqCond 7 = false ∧ Sparse.sorted ({} : State).regs = true
    ∧ (∀ t ∈ [0, 7, 8, 39], (pend7 t).flag ICLAIM.notified [t] = false ∧ (pend7 t).signalGroups t = [0])
    ∧ ({} : State).flag ICLAIM.notified [39] = false ∧ ({} : State).signalGroups 39 = []
    ∧ (withFields [(IHOLD.running, [31], 1)] {}).flag IHOLD.running [31] = true := by decide +kernel

theorem witness_OlmIsReadAndRecovers :
    (let s : State := { olm := { buckets := [(0x60, some { level := 1, since := 0, count := 3 })] } }
     ((s.upTo 0).olmBucket 0x60).count ≠ 0 ∧ 0 < ((s.upTo 0).olmBucket 0x60).level ∧ s.raw OLMHEAD [] < 4096)
    ∧ ((({} : State).upTo 0).olmBucket 0x60).count = 0 ∧ Sparse.sorted ({} : State).regs = true ∧ ({} : State).olmFrom 0 = []
    ∧ (let s : State := { olm := { birth := [⟨0x60, 5, 0, 0, []⟩] } }; s.olmFrom 5 = [⟨0x60, 5, 0, 0, []⟩] ∧ s.olmFrom 0 = [⟨0x60, 5, 0, 0, []⟩]) := by
  decide +kernel

theorem witness_ClaimsAndCompletions :
    (∀ t ∈ [0, 7, 8, 39], LowestFor (pend7 t) t 7 ∧ Sparse.sorted (pend7 t).regs = true)
    ∧ (∀ t ∈ [0, 39], ∀ g < 32, ({} : State).readyWord g t = 0)
    ∧ (let s : State := { irq := { claimedBy := [(7, 40)] } }
       7 = (7 : W32).toNat % 1024 ∧ Sparse.get 0 s.irq.claimedBy 7 = 39 + 1 ∧ Sparse.get 0 s.irq.claimedBy 7 ≠ 0 + 1
        ∧ Sparse.sorted s.irq.claimedBy = true) := by
  unfold LowestFor; decide +kernel

/-- Every die has been forced by an alert, whose hold began at 5. -/
def alerted : State :=
  { withFields [(PWRDIE.forced, [15], 1), (PWRSTAT.forced, [], 1)] {} with pwr := { holdFrom := some 5 } }
theorem witness_PowerAndAlerts :
    (Sparse.sorted ({} : State).regs = true ∧ (withFields [(PWRCAP.window, [], 1)] {}).windowSamples ≠ 0)
    ∧ Sparse.sorted ({} : State).pwr.holds = true ∧ ({} : State).liveDies ≠ [] ∧ 15 ∉ ({ fit := { dies := 1 } } : State).liveDies
    ∧ 15 ∈ ({ pwr := { thermDies := [15] } } : State).pwr.thermDies
    ∧ (alerted.flag PWRSTAT.alert_rack [] = false ∧ alerted.flag PWRSTAT.alert_mod [] = false ∧ alerted.pwr.holdFrom = some 5
      ∧ alerted.pwr.thermDies = [] ∧ alerted.pwr.rising = [] ∧ Sparse.sorted alerted.regs = true
      ∧ 5 + alerted.alertHold ≤ max alerted.now (5 + alerted.alertHold) ∧ (alerted.alertHold ≠ 0 → max alerted.now 5 < 5 + alerted.alertHold)
      ∧ alerted.alertHold ≠ 0) := by decide +kernel

/-- Die 15 droops since 0. -/
def drooping : State := { withFields [(PWRDIE.droop, [15], 1)] {} with pwr := { droopAt := [(15, 1)] } }
/-- Changes wait at die 15. -/
def heldSteps (v p : Option Nat) : State := { pwr := { holds := [(15, { step := v, pacer := p })] } }
theorem witness_DroopsAndHeat :
    ((({} : State).hasDie 15 = true ∧ Sparse.sorted ({} : State).regs = true) ∧ ({} : State).flag PWRDIE.droop [15] = false)
    ∧ (drooping.hasDie 15 = true ∧ Sparse.sorted drooping.regs = true ∧ drooping.flag PWRDIE.droop [15] = true ∧ Sparse.get 0 drooping.pwr.droopAt 15 ≠ 0
      ∧ Sparse.get 0 drooping.pwr.droopAt 15 + 10000000 ≤ max drooping.now 10000000 + 1 ∧ (drooping.upTo 0).inBand 15 = false)
    ∧ (∀ p ∈ [none, some 7], ((heldSteps (some 7) p).upTo 0).inBand 15 = true ∧ Sparse.get {} (heldSteps (some 7) p).pwr.holds 15 = { step := some 7, pacer := p }
      ∧ Sparse.sorted (heldSteps (some 7) p).pwr.holds = true)
    ∧ (((heldSteps none (some 7)).upTo 0).inBand 15 = true ∧ Sparse.get {} (heldSteps none (some 7)).pwr.holds 15 = { step := none, pacer := some 7 }
      ∧ Sparse.sorted (heldSteps none (some 7)).pwr.holds = true)
    ∧ Sparse.sorted ({} : State).pwr.thermHold = true := by decide +kernel

theorem witness_SlopesMoveByOne : Sparse.sorted ({} : State).regs = true ∧ 15 ∈ ({} : State).liveDies ∧ ({} : State).rd PWRDIE.step [15] ≤ 7
    ∧ ({} : State).rd PWRDIE.req_step [15] ≤ 7 ∧ (withFields [(PWRDIE.forced, [15], 1)] {}).flag PWRDIE.forced [15] = true
    ∧ drooping.rd PWRDIE.step [15] ≤ 7 ∧ 15 ∈ drooping.liveDies := by decide +kernel

/-! ### Start-up, the whole machine -/

/-- The module is off for cause `o`, or runs; its stage is `k`. -/
def staged (o : Option Nat) (k : Nat) : State := withFields [(BOOTSTAT.stage, [], k)] { boot := { off := o } }

theorem witness_RailsFall : (staged none 8).boot.off = none ∧ (staged none 8).hasDie 15 = true ∧ (staged (some 0) 0).boot.off ≠ none ∧ (120 : Nat) ≤ 120
    ∧ (119 : Nat) < 120 := by decide +kernel

theorem witness_PowerAndResetPins :
    (∀ c ∈ [0, 2, 4, 7], (staged (some c) 0).boot.off = some c ∧ c ≠ 3 ∧ c < 8 ∧ (staged (some c) 0).boot.resetN = true ∧ (staged (some c) 0).boot.off ≠ some 3)
    ∧ (staged none 8).boot.off = none ∧ ((staged (some 3) 0).boot.off = some 3 ∧ (staged (some 3) 0).boot.resetN = true)
    ∧ (({ boot := { off := none, resetN := false } } : State).boot.off = none ∧ ({ boot := { off := none, resetN := false } } : State).boot.resetN = false)
    ∧ (staged none 8).boot.resetN = true ∧ Sparse.sorted (staged none 8).regs = true := by decide +kernel

theorem witness_StartupStages :
    ((staged none 1).atStage 1 = true ∧ (staged none 1).straps.boot = 0 ∧ (staged none 1).straps.boot ≠ 2
      ∧ (staged none 1).copyOk (staged none 1).vault.flash0 true = true ∧ (staged none 1).copyOk (staged none 1).vault.flash0 false = false
      ∧ (staged none 1).copyOk (staged none 1).vault.flash1 true = true ∧ (staged none 1).copyOk (staged none 1).vault.flash1 false = false)
    ∧ (∀ k ∈ [2, 3, 4, 5, 6], (staged none k).atStage k = true ∧ (staged (some 0) k).atStage k = false ∧ Sparse.sorted (staged none k).regs = true)
    ∧ (15 ∈ (staged none 2).liveDies ∧ (staged none 2).flag PWRDIE.forced [15] = false ∧ 15 ∉ (staged none 2).pwr.rising)
    ∧ (let s (p d : Bool) : State := withFields [(BOOTSTAT.stage, [], 7)] { boot := { off := none, perstN := p, hostDone := d } }
       (s true false).atStage 7 = true ∧ (s true false).boot.perstN = true ∧ (s true false).boot.hostDone = false ∧ (s false false).atStage 7 = true
        ∧ (s false false).boot.perstN = false ∧ (s true true).atStage 7 = true ∧ (s true true).boot.hostDone = true ∧ (s true true).tap.ir = 4) := by
  decide +kernel

theorem witness_TapInstructions : ({} : State).tap.ir = 4 ∧ ({ tap := { ir := 1 } } : State).tap.ir = 1 ∧ (4 : Nat) ≤ 31 := by decide

theorem witness_StepRunsFront : ({ pending := [.nonce 1 0] } : State).pending = .nonce 1 0 :: [] ∧ ({} : State).pending = [] := by decide
theorem test_reset_form : State.reset.memWf = true := by decide
theorem witness_StepsKeepMemoryForm : State.reset.memWf = true ∧ step State.reset = .next State.reset := ⟨by decide, rfl⟩
theorem witness_SecureStoreHasItsOwnCommands : Sparse.wf {} keyed.vault.keys = true
    ∧ exec (.perstN false 0) keyed = .next { keyed.upTo 0 with boot := { keyed.boot with perstN := true } } := ⟨by decide, rfl⟩
theorem witness_MemoryHasItsOwnCommands : storesToMemory (.perstN false 0) = false := rfl

/-! ### Well-formedness: each check refuses a term that is just out of its range, and takes the last one in it -/

/-- The last context of the layout. -/
def xOk : CtxRef := ⟨⟨15, 64, 64⟩, 31⟩
/-- A context that no hen has. -/
def xBad : CtxRef := ⟨⟨15, 64, 64⟩, 32⟩
/-- A token that travels on an edge no die has. -/
def fBad : Flit := { edge := .seed 16 0 }

theorem wf_refuses_units :
    ([xBad, ⟨⟨16, 0, 0⟩, 0⟩, ⟨⟨0, 65, 0⟩, 0⟩, ⟨⟨0, 0, 65⟩, 0⟩] : List CtxRef).all (fun x => !x.wf) = true
    ∧ ([.hen ⟨16, 0, 0⟩, .steer 16 0, .steer 0 65, .chan 16 0 0, .chan 0 65 0, .chan 0 0 16, .router 16 0 0, .router 0 64 0, .router 0 0 6,
      .quant 16 0 0, .quant 0 65 0, .quant 0 0 16, .array 16 0, .array 0 4, .gate 16 0, .gate 0 64, .port 16 0, .port 0 16, .goat 16 0 0 0, .goat 0 65 0 0,
      .goat 0 0 2 0, .goat 0 0 0 16, .ox 16 0, .ox 0 8, .bridge 16 0, .bridge 0 4] : List UnitId).all (fun u => !u.wf) = true
    ∧ ([.dram 16 0, .dram 0 2, .package 20, .ioDie 4, .glowworm 8] : List LostUnit).all (fun u => !u.wf) = true
    ∧ ([.ctx xBad, .goat 16 0 0 0 0, .goat 0 65 0 0 0, .goat 0 0 2 0 0, .goat 0 0 0 16 0, .quant 16 0, .quant 0 65] : List Requester).all (fun u => !u.wf) = true
    ∧ ([.hen xOk.hen, .steer 15 64, .chan 15 64 15, .router 15 63 5, .quant 15 64 15, .array 15 3, .gate 15 63, .port 15 15, .goat 15 64 1 15, .ox 15 7,
      .bridge 15 3] : List UnitId).all UnitId.wf = true ∧ xOk.wf = true := by decide

theorem wf_refuses_tokens :
    ([.hen 16 0 0 0, .hen 0 65 0 0, .hen 0 0 65 0, .port 16 0 0, .port 0 16 0, .quant 16 0 0, .quant 0 65 0, .quant 0 0 16, .goat 16 0 0 0, .goat 0 65 0 0,
      .goat 0 0 2 0, .goat 0 0 0 16, .ox 16 0 0, .ox 0 8 0, .mac 16 0 0 true, .mac 0 16 0 true, .mac 0 0 16 true, .seed 16 0, .array 16 0 0, .array 0 4 0,
      .array 0 0 16, .feed 16 0 0, .feed 0 65 0, .feed 0 0 4, .chan 16 0 0 0 0, .chan 0 65 0 0 0, .chan 0 0 16 0 0, .chan 0 0 0 65 0, .chan 0 0 0 0 16]
      : List Edge).all (fun e => !e.wf) = true
    ∧ ([{ index := 16 }, { operand := 8 }, { kind := 4 }, { epoch := 4 }, { copy := 4 }] : List Token).all (fun t => !t.wf) = true
    ∧ ({ tok := { index := 15, operand := 7, kind := 3, epoch := 3, copy := 3 } } : Flit).wf = true ∧ fBad.wf = false
    ∧ ([{ lane := 2 }, { kind := 256 }, { origin := 64 }, { hop := 64 }, { flags := 8 }, { time := 2 ^ 48 }, { body := [] }] : List RingFrame).all
      (fun f => !(RingFrame.wf (if f.body = [] ∧ f ≠ {} then { f with body := List.replicate 12 0 } else f))) = true
    ∧ ({ lane := 1, kind := 255, origin := 63, hop := 63, flags := 7, time := 2 ^ 48 - 1, body := List.replicate 12 0 } : RingFrame).wf = true := by
  decide

theorem wf_refuses_contexts : ([
    .henAdd, .henSub, .henAdds, .henSubs, .henAddus, .henSubus, .henAnd, .henOr, .henXor, .henAndn, .henShl, .henShr, .henSar, .henRol, .henMin,
    .henMax, .henMinu, .henMaxu, .henCeq, .henClt, .henCltu, .henPopc, .henClz, .henCtz, .henMul, .henMulh, .henMulhu, .henDot, .henDiv, .henDivu,
    .henRem, .henRemu, .henAddi, .henAndi, .henOri, .henXori, .henMovz, .henMovk, .henSel, .henBfx, .henBfi, .henMfs, .henSetst, .henShli, .henShri,
    .henSari, .henFadd, .henFsub, .henFmul, .henFmin, .henFmax, .henFabs, .henFneg, .henFceq, .henFclt, .henFcle, .henFdiv, .henFsqrt, .henFma,
    .henCvt, .henLd64, .henLd32, .henLd16, .henLd8, .henSt64, .henSt32, .henSt16, .henSt8, .henSend, .henQwait, .henQtake, .henQput, .henTwait,
    .henBr, .henBz, .henBnz, .henBlt, .henBge, .henBltu, .henBgeu, .henBeq, .henBne, .henEnd, .illegalInstruction, .queueConditionMet] : List (CtxRef → Instr)).all (fun f => !(f xBad).wf && (f xOk).wf) = true := by decide

theorem wf_refuses_operands1 : ([
    .partcfgWrite 16 (some 1) 0 0, .partcfgWrite 15 (some 2) 0 0, .invalidCode (.bridge 0 4) {} 0 0 0 0, .invalidCode (.bridge 0 0) fBad 0 0 0 0,
    .handshakeStall (.bridge 0 4) 4 0 0 0 0, .handshakeStall (.bridge 0 0) 5 0 0 0 0, .handshakeStall (.bridge 0 0) 0 0 0 0 0,
    .arrivalStamp 16 63 0 0, .arrivalStamp 15 64 0 0, .scheduleAnchor 16 63, .scheduleAnchor 15 64, .gateToken 16 63 {} 0, .gateToken 15 64 {} 0,
    .gateToken 15 63 fBad 0, .gateFire 16 63, .gateFire 15 64, .gcfgWrite 16 63 0, .gcfgWrite 15 64 0, .gslackMinWrite 16 63 0,
    .gslackMinWrite 15 64 0, .henToken ⟨16, 0, 0⟩ {} 0, .henToken xOk.hen fBad 0, .sramAccessComplete 16 64 (.quant 0 0) .clean 0,
    .sramAccessComplete 15 65 (.quant 0 0) .clean 0, .sramAccessComplete 15 64 (.quant 0 65) .clean 0, .twaitWake xBad 0, .ageDrop xBad 0,
    .steeringToken 16 64 {} 0, .steeringToken 15 65 {} 0, .steeringToken 15 64 fBad 0, .steeringAged 16 64 0, .steeringAged 15 65 0,
    .steerstatWrite 16 64 0, .steerstatWrite 15 65 0, .creditReturn (.ox 0 8 0) 0, .slotPosition 16 63 4, .slotPosition 15 64 4,
    .slotPosition 15 63 5, .routerToken 16 63 5 {} 0, .routerToken 15 64 5 {} 0, .routerToken 15 63 6 {} 0, .routerToken 15 63 5 fBad 0,
    .sramScrub 16 64 0 .clean, .sramScrub 15 65 0 .clean, .henSubstitution ⟨16, 0, 0⟩ false 0, .clusterSubstitution 16 64 false 0,
    .clusterSubstitution 15 65 false 0, .arrayVector 16 3 {} 0, .arrayVector 15 4 {} 0, .fillComplete 16 3 0 0 0, .fillComplete 15 4 0 0 0,
    .arrayMarker 16 3 {} 0, .arrayMarker 15 4 {} 0, .arrayMarker 15 3 fBad 0, .storeWrite 16 3 0 0 [] false, .storeWrite 15 4 0 0 [] false,
    .ballastSlot 16 3, .ballastSlot 15 4, .ballastWindow 16 3, .ballastWindow 15 4, .arraySubstitution 16 3 0, .arraySubstitution 15 4 0,
    .storeScrub 16 3 0 .clean, .storeScrub 15 4 0 .clean, .quantWord 16 64 {} 0, .quantWord 15 65 {} 0, .quantWord 15 64 fBad 0,
    .quantReturn 16 64 0, .quantReturn 15 65 0, .sramPass 16 64 {} 0, .sramPass 15 65 {} 0, .sramPass 15 64 fBad 0, .passComplete 16 64 15 0,
    .passComplete 15 65 15 0, .passComplete 15 64 16 0, .qsnapTake 16 64 15, .qsnapTake 15 65 15, .qsnapTake 15 64 16, .qsnapTakeClear 16 64 15,
    .qsnapTakeClear 15 65 15, .qsnapTakeClear 15 64 16, .qdescWrite 16 64 15 7 (some 1) 0 0, .qdescWrite 15 65 15 7 (some 1) 0 0,
    .qdescWrite 15 64 16 7 (some 1) 0 0, .qdescWrite 15 64 15 8 (some 1) 0 0, .qdescWrite 15 64 15 7 (some 2) 0 0, .markerArrival (.bridge 0 4) {} 0,
    .markerArrival (.bridge 0 0) fBad 0, .unitRelease (.bridge 0 4) 0, .drainLimit 16, .epochHoldExpiry 16] : List Instr).all (fun i => !i.wf) = true := by decide +kernel

theorem wf_refuses_operands2 : ([
    .oxInput 16 7 {} 0, .oxInput 15 8 {} 0, .oxInput 15 7 fBad 0, .oxCycle 16 7, .oxCycle 15 8, .blockLock 16 15, .blockLock 15 16,
    .lockLoss 16 15 0, .lockLoss 15 16 0, .fieldLanded 16 15 (.ether [] true false) 0, .fieldLanded 15 16 (.ether [] true false) 0,
    .frameVerdict 16 15 0, .frameVerdict 15 16 0, .replyStart 16 63, .replyStart 15 64, .cancelStart 16 15 0, .cancelStart 15 16 0,
    .cancelDrop 16 15 0, .cancelDrop 15 16 0, .linkFrame 16 15 0, .linkFrame 15 16 0, .linkSubstitute 16 15, .linkSubstitute 15 16,
    .goatStart 16 64 1 {} 0, .goatStart 15 65 1 {} 0, .goatStart 15 64 2 {} 0, .goatStart 15 64 1 fBad 0, .lineIssue 16 64 1 15 0,
    .lineIssue 15 65 1 15 0, .lineIssue 15 64 2 15 0, .lineIssue 15 64 1 16 0, .lineComplete 16 64 1 15 0 0 false 0,
    .lineComplete 15 65 1 15 0 0 false 0, .lineComplete 15 64 2 15 0 0 false 0, .lineComplete 15 64 1 16 0 0 false 0, .writeAccepted 16 64 1 15 0 0,
    .writeAccepted 15 65 1 15 0 0, .writeAccepted 15 64 2 15 0 0, .writeAccepted 15 64 1 16 0 0, .patrolScrub 3 15 0 0 false,
    .patrolScrub 0 15 0 0 false, .patrolScrub 2 16 0 0 false, .refresh 3 15 0 0, .refresh 0 15 0 0, .refresh 2 16 0 0, .historyFrame 16 0 0,
    .histqWrite 16 0, .pacerPhase 16, .barrierTimeout 16, .install 16 64 1 15 0, .install 15 65 1 15 0, .install 15 64 2 15 0, .install 15 64 1 16 0,
    .tecfgWrite 16 0, .timeEventOccurrence 16, .tioCapture 8 0, .tioTrigger 8 0, .tiocapRead 8, .txtsHiRead false 16 15, .txtsHiRead false 15 16,
    .sync {} 0, .delayReq {} 0, .delayResp {} 0, .arm {} 0, .fire {} 0, .vote {} 0, .retract {} 0, .arrive {} 0, .release {} 0, .ready {} 0,
    .readyB {} 0, .go {} 0, .jobend {} 0, .status {} 0, .nodeMissing 64 0, .vnodeClear 64, .segmentCommit 16, .tailBlock 4 0, .datagramFlush 4,
    .laserFailure 2 0, .glowwormFailure 8 0, .cdrLockLoss 8 31 0, .cdrLockLoss 7 32 0, .prbsLock 8 31 0, .prbsLock 7 32 0, .prbsLockLoss 8 31 0 0 0,
    .prbsLockLoss 7 32 0 0 0, .linjGo 8 31 0, .linjGo 7 32 0, .linjStop 8 31 0, .linjStop 7 32 0] : List Instr).all (fun i => !i.wf) = true := by decide +kernel

theorem wf_refuses_operands3 : ([
    .injection 8 31 0, .injection 7 32 0, .macReceive 16 15 [] false 0 0, .macReceive 15 16 [] false 0 0, .receiveRecord 16 15 15 0,
    .receiveRecord 15 16 15 0, .receiveRecord 15 15 16 0, .receiveRelease 16 15 {} 0, .receiveRelease 15 16 {} 0, .receiveRelease 15 15 fBad 0,
    .pauseRefresh 16 15 0, .pauseRefresh 15 16 0, .pauseReceived 16 15 false [(7, 65535)] 0, .pauseReceived 15 16 false [(7, 65535)] 0,
    .pauseReceived 15 15 false [(8, 0)] 0, .pauseReceived 15 15 false [(0, 65536)] 0, .pauseExpiry 16 15 7, .pauseExpiry 15 16 7,
    .pauseExpiry 15 15 8, .transmitToken 16 15 {} 0, .transmitToken 15 16 {} 0, .transmitToken 15 15 fBad 0, .frameSent 16 15 0 0,
    .frameSent 15 16 0 0, .linkDown 3 0, .msixUnmask 64, .packetCommit 16 0 [] 0, .nonce 16 0, .openMaint 16 0, .openOp 16 0, .close 16 0,
    .caps 16 0, .lattab 16 0, .attest 16 0, .strict 16 0, .jobctl 16 0, .inputs 16 0, .prov 16 0, .t1sSend 16 0, .t1sRecv 16 0, .keyEnroll 16 0,
    .keyRevoke 16 0, .password 16 0, .policy 16 0, .nonceExpiry 16, .pendingSet 1023 0, .ipendWrite 32 0, .targetSignal 40 0, .holdoffExpiry 32,
    .suppressed 65536 0, .droop 16 0, .droopClear 16 0, .droopLong 16 0, .droopSettled 16 0, .thermalAlert 16 0 0, .thermalShutdown 16 0 0,
    .dieFailed 16 0, .unitLost (.ioDie 4) 0, .inputPresent 16384 false (some 1) 0, .inputPresent 16383 false (some 2) 0,
    .memoryStage [.lasers, .package 20] 0, .lanesStage [(8, 0, 0, 0)] [(15, 15)] 0, .lanesStage [(0, 32, 0, 0)] [(15, 15)] 0,
    .lanesStage [(7, 31, 0, 0)] [(16, 0)] 0, .lanesStage [(7, 31, 0, 0)] [(0, 16)] 0,
    .selfTestStage [(.bridge 0 3, 0, 0, 0), (.bridge 0 4, 0, 0, 0)] [] 0, .selfTestStage [] [.lasers, .package 20] 0,
    .resetRelease 16384 false (some 1) 0 0, .resetRelease 16383 false (some 2) 0 0, .bypass 256 [], .bypass 3 [], .tpselWrite 4 (some 1) 0 0,
    .tpselWrite 3 (some 2) 0 0, .requestAreaWrite 16 0 [] 0, .switchTime 16, .barrierRelease 16, .alertDeassert false (some 16) 0,
    .inputWithinRange 16384 false (some 1) 0, .inputWithinRange 16383 false (some 2) 0, .cdrLock 8 31 0 0 0, .cdrLock 7 32 0 0 0, .ptpTimer 4 0,
    .unknownFrameType {} 0, .interframeGapEnd 16 15, .interframeGapEnd 15 16, .dramHot 16 1 false, .dramHot 15 2 false, .railPhaseFailure 16 0,
    .pulseEnd 8] : List Instr).all (fun i => !i.wf) = true := by decide +kernel

theorem wf_accepts_last_units : ([
    .partcfgWrite 15 (some 1) 0 0, .invalidCode (.bridge 0 0) {} 0 0 0 0, .handshakeStall (.bridge 0 0) 4 0 0 0 0, .arrivalStamp 15 63 0 0,
    .scheduleAnchor 15 63, .gateToken 15 63 {} 0, .gateFire 15 63, .gcfgWrite 15 63 0, .gslackMinWrite 15 63 0, .henToken xOk.hen {} 0,
    .sramAccessComplete 15 64 (.quant 0 0) .clean 0, .twaitWake xOk 0, .ageDrop xOk 0, .steeringToken 15 64 {} 0, .steeringAged 15 64 0,
    .steerstatWrite 15 64 0, .creditReturn .none 0, .slotPosition 15 63 4, .routerToken 15 63 5 {} 0, .sramScrub 15 64 0 .clean,
    .henSubstitution xOk.hen false 0, .clusterSubstitution 15 64 false 0, .arrayVector 15 3 {} 0, .fillComplete 15 3 0 0 0, .arrayMarker 15 3 {} 0,
    .storeWrite 15 3 0 0 [] false, .ballastSlot 15 3, .ballastWindow 15 3, .arraySubstitution 15 3 0, .storeScrub 15 3 0 .clean,
    .quantWord 15 64 {} 0, .quantReturn 15 64 0, .sramPass 15 64 {} 0, .passComplete 15 64 15 0, .qsnapTake 15 64 15, .qsnapTakeClear 15 64 15,
    .qdescWrite 15 64 15 7 (some 1) 0 0, .markerArrival (.bridge 0 0) {} 0, .unitRelease (.bridge 0 0) 0, .drainLimit 15, .epochHoldExpiry 15,
    .oxInput 15 7 {} 0, .oxCycle 15 7, .blockLock 15 15, .lockLoss 15 15 0, .fieldLanded 15 15 (.ether [] true false) 0, .frameVerdict 15 15 0,
    .replyStart 15 63, .cancelStart 15 15 0, .cancelDrop 15 15 0, .linkFrame 15 15 0, .linkSubstitute 15 15, .goatStart 15 64 1 {} 0,
    .lineIssue 15 64 1 15 0, .lineComplete 15 64 1 15 0 0 false 0, .writeAccepted 15 64 1 15 0 0, .patrolScrub 2 15 0 0 false, .refresh 2 15 0 0,
    .historyFrame 15 0 0, .histqWrite 15 0, .pacerPhase 15, .barrierTimeout 15, .install 15 64 1 15 0, .tecfgWrite 15 0, .timeEventOccurrence 15,
    .tioCapture 7 0, .tioTrigger 7 0, .tiocapRead 7, .txtsHiRead false 15 15, .sync { body := List.replicate 12 0 } 0,
    .delayReq { body := List.replicate 12 0 } 0, .delayResp { body := List.replicate 12 0 } 0, .arm { body := List.replicate 12 0 } 0,
    .fire { body := List.replicate 12 0 } 0, .vote { body := List.replicate 12 0 } 0, .retract { body := List.replicate 12 0 } 0,
    .arrive { body := List.replicate 12 0 } 0, .release { body := List.replicate 12 0 } 0, .ready { body := List.replicate 12 0 } 0,
    .readyB { body := List.replicate 12 0 } 0, .go { body := List.replicate 12 0 } 0, .jobend { body := List.replicate 12 0 } 0,
    .status { body := List.replicate 12 0 } 0, .nodeMissing 63 0, .vnodeClear 63, .segmentCommit 15, .tailBlock 3 0, .datagramFlush 3,
    .laserFailure 1 0, .glowwormFailure 7 0, .cdrLockLoss 7 31 0, .prbsLock 7 31 0, .prbsLockLoss 7 31 0 0 0, .linjGo 7 31 0, .linjStop 7 31 0,
    .injection 7 31 0, .macReceive 15 15 [] false 0 0, .receiveRecord 15 15 15 0, .receiveRelease 15 15 {} 0, .pauseRefresh 15 15 0,
    .pauseReceived 15 15 false [(7, 65535)] 0, .pauseExpiry 15 15 7, .transmitToken 15 15 {} 0, .frameSent 15 15 0 0, .linkDown 2 0, .msixUnmask 63,
    .packetCommit 15 0 [] 0, .nonce 15 0, .openMaint 15 0, .openOp 15 0, .close 15 0, .caps 15 0, .lattab 15 0, .attest 15 0, .strict 15 0,
    .jobctl 15 0, .inputs 15 0, .prov 15 0, .t1sSend 15 0, .t1sRecv 15 0, .keyEnroll 15 0, .keyRevoke 15 0, .password 15 0, .policy 15 0,
    .nonceExpiry 15, .pendingSet 1022 0, .ipendWrite 31 0, .targetSignal 39 0, .holdoffExpiry 31, .suppressed 65535 0, .droop 15 0, .droopClear 15 0,
    .droopLong 15 0, .droopSettled 15 0, .thermalAlert 15 0 0, .thermalShutdown 15 0 0, .dieFailed 15 0, .unitLost .lasers 0,
    .inputPresent 16383 false (some 1) 0, .memoryStage [] 0, .lanesStage [(7, 31, 0, 0)] [(15, 15)] 0, .selfTestStage [] [] 0,
    .resetRelease 16383 false (some 1) 0 0, .bypass 255 [], .tpselWrite 3 (some 1) 0 0, .requestAreaWrite 15 0 [] 0, .switchTime 15,
    .barrierRelease 15, .alertDeassert false (some 15) 0, .inputWithinRange 16383 false (some 1) 0, .cdrLock 7 31 0 0 0, .ptpTimer 3 0,
    .unknownFrameType { body := List.replicate 12 0 } 0, .interframeGapEnd 15 15, .dramHot 15 1 false, .railPhaseFailure 15 0, .pulseEnd 7] : List Instr).all Instr.wf = true := by decide +kernel

/-! ### The manual's worked examples -/

/-- The tables of *Worked conversions*: rounding to the nearest, ties to even, overflow to the largest code, −0 kept. -/
theorem test_worked_conversions :
    e4m3.convert false .rne (fp32.decode 0xC3960000) = (0xF9, false, false)
    ∧ e4m3.convert false .rne (intNum 460 0) = (0x7E, false, false) ∧ e4m3.convert false .rne (intNum 470 0) = (0x7E, true, false)
    ∧ e5m2.convert false .rne (fp32.decode 0x47700000) = (0x7B, true, false) ∧ e5m2.convert true .rne (fp32.decode 0x47700000) = (0x7C, true, false)
    ∧ e2m1.convert false .rne (intNum 3 (-2)) = (0x2, false, false) ∧ e2m1.convert false .rne (intNum (-1) (-2)) = (0x8, false, false) := by decide +kernel

/-- The qb4 block of the same section: elements 0 to 2 and 16 to 18. -/
def qb4Block : List Sys2Proof.Machine.Num := [intNum 21 (-2), intNum (-5) (-1), intNum 7 (-2)] ++ List.replicate 13 (.fin false 0 0)
  ++ [intNum 39 (-6), intNum (-3) (-4), intNum 1 (-4)] ++ List.replicate 13 (.fin false 0 0)

theorem test_worked_qb4_block :
    blockScale (.qb 4) 112 143 qb4Block = (127, 0, 3)
    ∧ (qb4Block.zipIdx.map (fun p => (blockElem (.qb 4) false .rne 127 (if p.2 < 16 then 0 else 3) p.1).code))
      = [5, 0xE, 2] ++ List.replicate 13 0 ++ [5, 0xE, 0] ++ List.replicate 13 0
    ∧ (dynChan (.int 8) false (List.replicate 64 (intNum (-3) 0))).S = 0x3CC18306
    ∧ scaleRecord (dynChan (.int 8) false (List.replicate 64 (intNum (-3) 0))) = leBytes 8 0x000100003CC18306 ++ leBytes 8 0xC0400000
    ∧ (chanElem (.int 8) false .rne (dynChan (.int 8) false (List.replicate 64 (intNum (-3) 0))) (intNum (-3) 0)).code = 0x81 := by decide +kernel

/-- The registers and the input vector of *A worked column*: e4m3 by e4m3, L = −18. -/
def workedColumn : VecIn :=
  let w : Sparse Byte := [(38403, 0x36), (38440, 0x42), (38477, 0xE8), (38526, 0x12)]
  let x := ((((List.replicate 128 (0 : Byte)).set 3 0x3C).set 40 0xAA).set 77 0x03).set 126 0x6C
  { cls := 0, xf := ⟨.flt e4m3, 0, 0⟩, wf := ⟨.flt e4m3, 0, 0⟩, L := -18, vec := { data := x }, reg := { weights := w } }

theorem test_worked_column :
    setFmt 0 1 = some workedColumn.xf ∧ workedColumn.narrowCol 300 = (1024000, 0, false)
    ∧ e4m3.convert false .rne (narrowT 0xFFFFE00001004000 (-18) 1024000) = (0x40, false, false)
    ∧ narrowT 0xFFFFE00001004000 (-18) 1024000 = .fin false (1015808 * 16384) (-33) := by decide +kernel

/-- The hen of *A worked program*: its code and constants. -/
def tarn (c : Ctx) : State := withHen
  { imem := [(0, 0x08010030), (1, 0x64), (2, 0x02030034), (3, 0x64), (48, 0x04408203), (49, 0x04628A33), (50, 0x80600000), (51, 0xF8000000), (52, 0x04400801),
      (53, 0x3C420004), (54, 0x04211000), (55, 0x80201201), (56, 0x04600801), (57, 0x80602000), (58, 0xF8000000)]
    consts := [(0, 0x006E006600600064), (1, 0x0003000200020003)]
    ctxs := [(0, c)] }
/-- Context 0 after the command, if it completed. -/
def ctxAfter (i : Instr) (s : State) : Option Ctx := match exec i s with
  | .next t => Sparse.find (t.hen x0.hen).ctxs 0
  | _ => none

/-- Words 48, 49, 52, 53 and 54 on the values of tag 100. -/
theorem test_worked_program :
    (let c : Ctx := { entry := 0, tag := 100, epoch := 0, need := 1, fired := true, pc := 48, wait := .ready, regs := [(0, 0x01A40195018E019C)] }
     ((ctxAfter (.henSubs x0) (tarn c)).map (fun d => (d.pc, Sparse.get 0 d.regs 2))) = some (49, 0x0136012F012E0138)
     ∧ ((ctxAfter (.henDot x0) (tarn { c with pc := 49, regs := [(2, 0x0136012F012E0138)] })).map (fun d => (d.pc, Sparse.get 0 d.regs 3))) = some (50, 3076))
    ∧ (let c : Ctx := { entry := 1, tag := 100, epoch := 0, need := 3, fired := true, pc := 52, wait := .ready, regs := [(0, 3076), (1, 2950)] }
       ((ctxAfter (.henSub x0) (tarn c)).map (fun d => (d.pc, Sparse.get 0 d.regs 2))) = some (53, 126)
       ∧ ((ctxAfter (.henSari x0) (tarn { c with pc := 53, regs := [(2, 126)] })).map (fun d => (d.pc, Sparse.get 0 d.regs 2))) = some (54, 7)
       ∧ ((ctxAfter (.henAdd x0) (tarn { c with pc := 54, regs := [(1, 2950), (2, 7)] })).map (fun d => (d.pc, Sparse.get 0 d.regs 1))) = some (55, 2957)) := by
  decide +kernel

end Sys2Proof.Tests
end

section
/-!
SUPPORT. What a reply leaves in its window and its registers (R328, R331), what closing sessions touches (R345), and the keys of the
secure store (R346).
-/
namespace Sys2Proof.Claims

open Sys2Proof.Machine

/-! ### Registers outside a list of addresses -/

theorem regsBut_refl (s : State) (l : List Nat) : RegsBut s s l := fun _ _ _ => rfl

theorem RegsBut.trans {s t u : State} {l : List Nat} (h : RegsBut s t l) (k : RegsBut t u l) : RegsBut s u l :=
  fun a d ha => (k a d ha).trans (h a d ha)

theorem RegsBut.mono {s t : State} {l m : List Nat} (h : RegsBut s t l) (hs : l ⊆ m) : RegsBut s t m :=
  fun a d ha => h a d (fun hl => ha (hs hl))

/-- A field whose register stands outside the list reads as before. -/
theorem RegsBut.rd {s t : State} {l : List Nat} (h : RegsBut s t l) (x : Fld) {idx : List Nat} (ha : x.reg.addr idx ∉ l) :
    t.rd x idx = s.rd x idx := by
  unfold State.rd RegFile.rd RegFile.raw
  rw [h _ _ ha]

theorem RegsBut.raw {s t : State} {l : List Nat} (h : RegsBut s t l) (r : Reg) {idx : List Nat} (ha : r.addr idx ∉ l) :
    t.raw r idx = s.raw r idx := by
  unfold State.raw RegFile.raw
  rw [h _ _ ha]

theorem regsBut_wr (s : State) (x : Fld) (idx : List Nat) (v : Nat) : RegsBut s (s.wr x idx v) [x.reg.addr idx] :=
  fun _ d ha => RegFile.get_wr_other _ x idx v d (List.ne_of_not_mem_cons ha)

theorem regsBut_setRaw (s : State) (r : Reg) (idx : List Nat) (v : Nat) : RegsBut s (s.setRaw r idx v) [r.addr idx] :=
  fun _ d ha => RegFile.get_setRaw_other _ r idx _ d (List.ne_of_not_mem_cons ha)

/-- A message touches the pending bits alone (R359). -/
theorem regsBut_msixSend (s : State) (v : Nat) : RegsBut s (s.msixSend v) [MSIXPBA.addr []] := by
  unfold State.msixSend
  split
  · exact regsBut_setRaw s MSIXPBA [] _
  · exact regsBut_refl s _

end Sys2Proof.Claims

namespace Sys2Proof.Machine

open Sys2Proof.Claims

theorem State.sorted_setRaw {s : State} (r : Reg) (idx : List Nat) (v : Nat) (h : Sparse.sorted s.regs = true) :
    Sparse.sorted (s.setRaw r idx v).regs = true := RegFile.sorted_setRaw r idx _ h

/-- A field of the register just written that lies apart from the field written stands. -/
theorem State.rd_wr_apart {s : State} (x y : Fld) (idx : List Nat) (v : Nat) (hs : Sparse.sorted s.regs = true)
    (hr : y.reg = x.reg) (hx : x.lo + x.w ≤ 64) (h : y.lo + y.w ≤ x.lo ∨ x.lo + x.w ≤ y.lo) : (s.wr x idx v).rd y idx = s.rd y idx :=
  RegFile.rd_wr_apart x y idx v hs hr hx h

/-! ### Messages and replies -/

@[simp] theorem State.msixSend_sec (s : State) (v : Nat) : (s.msixSend v).sec = s.sec := by
  unfold State.msixSend; split <;> rfl

@[simp] theorem State.msixSend_vault (s : State) (v : Nat) : (s.msixSend v).vault = s.vault := by
  unfold State.msixSend; split <;> rfl

@[simp] theorem State.msixSend_wins (s : State) (v : Nat) : (s.msixSend v).wins = s.wins := by
  unfold State.msixSend; split <;> rfl

/-- The four detail words of a reply are 16 bytes (R331). -/
theorem detailWords_length (ds : List Nat) : ((List.range 4).flatMap (fun i => leBytes 4 (ds.getD i 0))).length = 16 := by
  simp only [List.length_flatMap, leBytes_length]
  rfl

section
variable (s : State) (w : Nat) (p : Pkt) (c : Nat) (ds : List Nat) (data : List Byte) (key : Option (List Byte))

/-- A reply, as far as the registers go (R328). -/
theorem State.reply_eq : ∃ z : State, s.reply w p c ds data key
    = ((z.wr CWSTATE.state [w] 3).wr CWSTATE.replies [w] (z.rd CWSTATE.replies [w] + 1)).msixSend (32 + w) ∧ z.regs = s.regs := by
  unfold State.reply
  exact ⟨_, rfl, rfl⟩

@[simp] theorem State.reply_sec : (s.reply w p c ds data key).sec = s.sec := by simp [State.reply]

@[simp] theorem State.reply_vault : (s.reply w p c ds data key).vault = s.vault := by simp [State.reply]

/-- A reply touches its window's state word and the pending messages. -/
theorem regsBut_reply : RegsBut s (s.reply w p c ds data key) [CWSTATE.addr [w], MSIXPBA.addr []] := by
  obtain ⟨z, heq, hregs⟩ := s.reply_eq w p c ds data key
  have hz : RegsBut s z [] := fun a d _ => by rw [hregs]
  rw [heq]
  refine .trans ?_ ((regsBut_msixSend _ _).mono (by simp))
  refine .trans ?_ ((regsBut_wr _ CWSTATE.replies _ _).mono (by simp))
  exact (hz.mono (by simp)).trans ((regsBut_wr _ CWSTATE.state _ _).mono (by simp))

/-- State 3 and one more reply stand in a window's state word after a reply (R328). -/
theorem State.reply_rd (h : Sparse.sorted s.regs = true) : (s.reply w p c ds data key).rd CWSTATE.state [w] = 3
    ∧ (s.reply w p c ds data key).rd CWSTATE.replies [w] = (s.rd CWSTATE.replies [w] + 1) % 2 ^ 16 := by
  obtain ⟨z, heq, hregs⟩ := s.reply_eq w p c ds data key
  have hz : Sparse.sorted z.regs = true := by rw [hregs]; exact h
  have ha : CWSTATE.addr [w] ∉ [MSIXPBA.addr []] := by simp [CWSTATE.addr_eq, MSIXPBA.addr_eq]; omega
  rw [heq, (regsBut_msixSend _ _).rd CWSTATE.state ha, (regsBut_msixSend _ _).rd CWSTATE.replies ha]
  constructor
  · rw [State.rd_wr_apart CWSTATE.replies CWSTATE.state [w] _ (State.sorted_wr _ _ _ hz) rfl (by decide) (by decide),
      State.rd_wr_same _ _ _ hz (by decide)]
    rfl
  · rw [State.rd_wr_same _ _ _ (State.sorted_wr _ _ _ hz) (by decide), State.rd_eq, State.rd_eq, hregs]
    rfl

/-- The window of a reply: the packet is done, and the reply begins with its header, status, details and data (R331). -/
theorem State.reply_win : ((s.reply w p c ds data key).win w).taken = none ∧ ∃ len det, det.length = 16
    ∧ headWords p len ++ leBytes 4 c ++ det ++ data <+: ((s.reply w p c ds data key).win w).reply := by
  unfold State.reply State.win
  simp only [State.msixSend_wins, State.wr_wins, State.emit_wins, State.setWin]
  rw [Sparse.get_set_ne]
  · refine ⟨rfl, 12 + (data ++ List.replicate ((4 - data.length % 4) % 4) 0).length / 4,
      (List.range 4).flatMap (fun i => leBytes 4 (ds.getD i 0)), detailWords_length ds, ?_⟩
    simp only [List.append_assoc, List.prefix_append_right_inj, List.prefix_append]
  · intro h
    have := congrArg (fun x : Win => x.reply.length) h
    simp [headWords] at this

/-- A reply answers its packet (R328, R331). -/
theorem answered_reply (h : Sparse.sorted s.regs = true) : Answered s (s.reply w p c ds data key) w p c data := by
  obtain ⟨hstate, hcount⟩ := s.reply_rd w p c ds data key h
  obtain ⟨htaken, len, det, hdet, rest, hreply⟩ := s.reply_win w p c ds data key
  refine ⟨hstate, hcount, htaken, ?_⟩
  rw [← hreply]
  simp [headWords, List.drop_append, hdet, List.drop_of_length_le]

end

/-- Whether a reply answers rests on the state before it by its window's count of replies alone. -/
theorem answered_of_replies {s z u : State} {w : Nat} {p : Pkt} {c : Nat} {data : List Byte} (h : Answered z u w p c data)
    (hz : z.rd CWSTATE.replies [w] = s.rd CWSTATE.replies [w]) : Answered s u w p c data := by
  obtain ⟨hstate, hcount, hrest⟩ := h
  exact ⟨hstate, hz ▸ hcount, hrest⟩

/-! ### Keys (R346) -/

theorem leNat_lt (bs : List Byte) : leNat bs < 256 ^ bs.length := by
  induction bs with
  | nil => simp [leNat]
  | cons b bs ih =>
    have hb := b.isLt
    rw [leNat, List.length_cons, Nat.pow_succ]
    omega

theorem keyId_lt (pub : List Byte) : keyId pub < 2 ^ 32 := Nat.mod_lt _ (Nat.two_pow_pos 32)

/-- Four bytes hold no number that the id would cut. -/
theorem keyId_eq (pub : List Byte) : keyId pub = leNat ((Config.shake256 pub 32).take 4) := by
  refine Nat.mod_eq_of_lt (Nat.lt_of_lt_of_le (leNat_lt _) ?_)
  calc 256 ^ ((Config.shake256 pub 32).take 4).length ≤ 256 ^ 4 := Nat.pow_le_pow_right (by decide) (List.length_take_le 4 _)
    _ = 2 ^ 32 := by decide

section
variable (s : State) (k : Nat) (x : KeySlot)

@[simp] theorem State.putKey_sec : (s.putKey k x).sec = s.sec := by
  unfold State.putKey
  dsimp only
  split
  · rw [State.setRaw_sec]
  · rw [State.wr_sec, State.wr_sec, State.wr_sec]

@[simp] theorem State.putKey_vault : (s.putKey k x).vault = { s.vault with keys := Sparse.set {} s.vault.keys k x } := by
  unfold State.putKey; split <;> simp

/-- An empty slot has a zero in `SECKEY`. -/
theorem State.putKey_empty : ∃ z : State, s.putKey k {} = z.setRaw SECKEY [k] 0 ∧ z.regs = s.regs := by
  unfold State.putKey
  rw [if_pos List.isEmpty_nil]
  exact ⟨_, rfl, rfl⟩

/-- A key has its id, its roles and its valid bit in `SECKEY`. -/
theorem State.putKey_key (hx : x.pub ≠ []) : ∃ z : State, s.putKey k x
    = ((z.wr SECKEY.id [k] (keyId x.pub)).wr SECKEY.roles [k] x.roles).wr SECKEY.valid [k] 1 ∧ z.regs = s.regs := by
  unfold State.putKey
  rw [if_neg (by simpa using hx)]
  exact ⟨_, rfl, rfl⟩

theorem regsBut_putKey : RegsBut s (s.putKey k x) [SECKEY.addr [k]] := by
  unfold State.putKey
  split
  · exact regsBut_setRaw _ SECKEY [k] 0
  · exact ((regsBut_wr _ SECKEY.id [k] _).trans (regsBut_wr _ SECKEY.roles [k] _)).trans (regsBut_wr _ SECKEY.valid [k] _)

theorem State.sorted_putKey (h : Sparse.sorted s.regs = true) : Sparse.sorted (s.putKey k x).regs = true := by
  unfold State.putKey
  split
  · exact State.sorted_setRaw _ _ _ h
  · exact State.sorted_wr _ _ _ (State.sorted_wr _ _ _ (State.sorted_wr _ _ _ h))

theorem State.putKey_empty_raw (h : Sparse.sorted s.regs = true) : (s.putKey k {}).raw SECKEY [k] = 0 := by
  obtain ⟨z, heq, hregs⟩ := s.putKey_empty k
  rw [heq, State.raw, State.setRaw_regs, hregs, RegFile.raw_setRaw_same _ _ _ h]
  rfl

/-- `SECKEY` shows the key just stored. -/
theorem State.putKey_rd (hx : x.pub ≠ []) (h : Sparse.sorted s.regs = true) : (s.putKey k x).rd SECKEY.id [k] = keyId x.pub
    ∧ (s.putKey k x).rd SECKEY.roles [k] = x.roles % 2 ^ 3 ∧ (s.putKey k x).rd SECKEY.valid [k] = 1 := by
  obtain ⟨z, heq, hregs⟩ := s.putKey_key k x hx
  have h0 : Sparse.sorted z.regs = true := by rw [hregs]; exact h
  have h1 := State.sorted_wr SECKEY.id [k] (keyId x.pub) h0
  have h2 := State.sorted_wr SECKEY.roles [k] x.roles h1
  rw [heq]
  refine ⟨?_, ?_, State.rd_wr_same SECKEY.valid [k] 1 h2 (by decide)⟩
  · rw [State.rd_wr_apart SECKEY.valid SECKEY.id [k] 1 h2 rfl (by decide) (by decide),
      State.rd_wr_apart SECKEY.roles SECKEY.id [k] _ h1 rfl (by decide) (by decide), State.rd_wr_same _ _ _ h0 (by decide)]
    exact Nat.mod_eq_of_lt (keyId_lt _)
  · rw [State.rd_wr_apart SECKEY.valid SECKEY.roles [k] 1 h2 rfl (by decide) (by decide), State.rd_wr_same _ _ _ h1 (by decide)]
    rfl

end

/-- The keys' registers lie apart from what a reply touches. -/
theorem SECKEY.addr_not_mem_reply {k : Nat} (w : Nat) (hk : k < 16) : SECKEY.addr [k] ∉ [CWSTATE.addr [w], MSIXPBA.addr []] := by
  simp only [SECKEY.addr_eq, CWSTATE.addr_eq, MSIXPBA.addr_eq, List.mem_cons, List.not_mem_nil, or_false]
  omega

/-- The counts of replies stand when a key slot changes. -/
theorem State.putKey_replies (s : State) {k : Nat} (x : KeySlot) (w : Nat) (hk : k < 16) :
    (s.putKey k x).rd CWSTATE.replies [w] = s.rd CWSTATE.replies [w] := by
  refine (regsBut_putKey s k x).rd CWSTATE.replies fun h => ?_
  exact SECKEY.addr_not_mem_reply w hk (List.mem_singleton.1 h ▸ List.mem_cons_self)

/-! ### Session slots (R340) -/

/-- The slot found for an id holds a session of that id. -/
theorem State.sessSlot_some {s : State} {id k : Nat} {x : Sess} (h : s.sessSlot id = some (k, x)) :
    k < 8 ∧ Sparse.get none s.sec.sessions k = some x ∧ x.id = id := by
  obtain ⟨j, hj, hjx⟩ := List.exists_of_findSome?_eq_some h
  rw [List.mem_range] at hj
  split at hjx
  · next y hy =>
    split at hjx
    · next hid =>
      simp only [Option.some.injEq, Prod.mk.injEq] at hjx
      obtain ⟨rfl, rfl⟩ := hjx
      exact ⟨hj, hy, by simpa using hid⟩
    · cases hjx
  · cases hjx

/-- No slot is found for an id just when no slot holds it. -/
theorem State.sessSlot_none {s : State} {id : Nat} :
    s.sessSlot id = none ↔ ∀ k x, k < 8 → Sparse.get none s.sec.sessions k = some x → x.id ≠ id := by
  unfold State.sessSlot
  rw [List.findSome?_eq_none_iff]
  constructor
  · intro h k x hk hx hid
    have := h k (List.mem_range.2 hk)
    simp [hx, hid] at this
  · intro h k hk
    split
    · next x hx => exact if_neg (by simpa using h k x (List.mem_range.1 hk) hx)
    · rfl

@[simp] theorem State.reply_sessSlot (s : State) (w : Nat) (p : Pkt) (c : Nat) (ds : List Nat) (data : List Byte) (key : Option (List Byte))
    (id : Nat) : (s.reply w p c ds data key).sessSlot id = s.sessSlot id := by
  unfold State.sessSlot; rw [State.reply_sec]

/-- The slots lie in order, and no two hold one id. -/
structure SessionTable (s : State) : Prop where
  sorted : Sparse.sorted s.sec.sessions = true
  unique : ∀ i j y z, i < 8 → j < 8 → Sparse.get none s.sec.sessions i = some y → Sparse.get none s.sec.sessions j = some z → y.id = z.id → i = j

/-! ### Sessions close (R345) -/

/-- What closing sessions leaves alone: the secure store, the order of the registers, and every register but the counts of completion
entries and the registers of the sessions. -/
structure SessionFrame (s u : State) : Prop where
  vault : u.vault = s.vault
  sorted : Sparse.sorted s.regs = true → Sparse.sorted u.regs = true
  regs : ∀ a d, (∀ w, a ≠ CWCOMP.addr [w]) → (∀ k, k < 8 → a ≠ SECSESS.addr [k]) → a ≠ SECSTAT.addr [] → Sparse.get d u.regs a = Sparse.get d s.regs a

theorem SessionFrame.refl (s : State) : SessionFrame s s := ⟨rfl, id, fun _ _ _ _ _ => rfl⟩

theorem SessionFrame.trans {s t u : State} (h : SessionFrame s t) (k : SessionFrame t u) : SessionFrame s u :=
  ⟨k.vault.trans h.vault, fun hs => k.sorted (h.sorted hs), fun a d hw hk ha => (k.regs a d hw hk ha).trans (h.regs a d hw hk ha)⟩

/-- The counts of replies and the keys' registers are none of those. -/
theorem SessionFrame.replies {s u : State} (h : SessionFrame s u) (w : Nat) : u.rd CWSTATE.replies [w] = s.rd CWSTATE.replies [w] := by
  have ha := h.regs (CWSTATE.addr [w]) (CWSTATE.reset [w]) (fun v => by rw [CWSTATE.addr_eq, CWCOMP.addr_eq]; omega)
    (fun k hk => by rw [CWSTATE.addr_eq, SECSESS.addr_eq]; omega) (by rw [CWSTATE.addr_eq, SECSTAT.addr_eq]; omega)
  exact congrArg (fun v : W64 => bitsOf v.toNat 16 16) ha

theorem SessionFrame.seckey {s u : State} (h : SessionFrame s u) {k : Nat} (hk : k < 16) : u.raw SECKEY [k] = s.raw SECKEY [k] := by
  have ha := h.regs (SECKEY.addr [k]) (SECKEY.reset [k]) (fun v => by rw [SECKEY.addr_eq, CWCOMP.addr_eq]; omega)
    (fun j hj => by rw [SECKEY.addr_eq, SECSESS.addr_eq]; omega) (by rw [SECKEY.addr_eq, SECSTAT.addr_eq]; omega)
  exact congrArg BitVec.toNat ha

theorem sessionFrame_postEntry (s : State) (w op tag gen session seq status : Nat) (ds : List Nat) (v : Option Nat) :
    SessionFrame s (s.postEntry w op tag gen session seq status ds v) :=
  ⟨rfl, fun h => RegFile.sorted_wr CWCOMP.written [w] _ h, fun _ d hw _ _ => RegFile.get_wr_other _ CWCOMP.written [w] _ d (hw w)⟩

@[simp] theorem State.putSess_sessions (s : State) (k : Nat) (x : Option Sess) (n : Nat) :
    (s.putSess k x n).sec.sessions = Sparse.set none s.sec.sessions k x := by
  cases x <;> rfl

/-- A slot emptied: its register is zeroed, and the counts of open sessions follow. -/
theorem State.putSess_none (s : State) (k n : Nat) : ∃ (z : State) (a b : Nat), s.putSess k none n
    = ((z.setRaw SECSESS [k] 0).wr SECSTAT.maint_open [] a).wr SECSTAT.op_sessions [] b ∧ z.regs = s.regs ∧ z.vault = s.vault := by
  unfold State.putSess
  exact ⟨_, _, _, rfl, rfl, rfl⟩

theorem sessionFrame_putSess_none (s : State) {k : Nat} (hk : k < 8) (n : Nat) : SessionFrame s (s.putSess k none n) := by
  obtain ⟨z, a, b, heq, hregs, hvault⟩ := s.putSess_none k n
  rw [heq]
  refine ⟨by simpa using hvault, fun h => State.sorted_wr _ _ _ (State.sorted_wr _ _ _ (State.sorted_setRaw _ _ _ (hregs ▸ h))), fun i d _ hs hi => ?_⟩
  rw [State.wr_regs, State.wr_regs, State.setRaw_regs, RegFile.get_wr_other _ SECSTAT.op_sessions [] _ d hi,
    RegFile.get_wr_other _ SECSTAT.maint_open [] _ d hi, RegFile.get_setRaw_other _ SECSESS [k] _ d (hs k hk), hregs]

theorem State.closeSess_of_none {s : State} {id : Nat} (h : s.sessSlot id = none) : s.closeSess id = s := by
  unfold State.closeSess; rw [h]

/-- The completion entry of an operation that its session's end retires. -/
def State.retireEntry (id : Nat) (z : State) (c : Cmd) : State :=
  z.postEntry c.window c.pkt.op c.pkt.tag c.pkt.gen id c.pkt.seq 0x000D [] none

/-- The entries of retired operations leave the sessions as they are. -/
theorem sessionFrame_retireEntry (id : Nat) (l : List Cmd) (s : State) :
    SessionFrame s (l.foldl (State.retireEntry id) s) ∧ (l.foldl (State.retireEntry id) s).sec = s.sec :=
  List.foldlRecOn (motive := fun u => SessionFrame s u ∧ u.sec = s.sec) l (State.retireEntry id) ⟨.refl s, rfl⟩
    (fun _ ⟨hframe, hsec⟩ _ _ => ⟨hframe.trans (sessionFrame_postEntry ..), hsec⟩)

/-- An open session that closes: its completion entries are written, its operations end, and its slot is emptied. -/
theorem State.closeSess_of_some {s : State} {id k : Nat} {x : Sess} (h : s.sessSlot id = some (k, x)) :
    ∃ z : State, s.closeSess id = z.putSess k none 0 ∧ SessionFrame s z ∧ z.sec.sessions = s.sec.sessions := by
  obtain ⟨hframe, hsec⟩ := sessionFrame_retireEntry id (s.sec.cmds.filter (fun c => c.pkt.session == id && !c.timedOut)) s
  unfold State.closeSess
  rw [h]
  exact ⟨_, rfl, ⟨hframe.vault, hframe.sorted, hframe.regs⟩, (congrArg Sec.sessions hsec :)⟩

theorem sessionFrame_closeSess (s : State) (id : Nat) : SessionFrame s (s.closeSess id) := by
  cases h : s.sessSlot id with
  | none => rw [State.closeSess_of_none h]; exact .refl s
  | some r =>
    obtain ⟨hk, -, -⟩ := State.sessSlot_some h
    obtain ⟨z, heq, hframe, -⟩ := State.closeSess_of_some h
    exact heq ▸ hframe.trans (sessionFrame_putSess_none z hk 0)

/-- After a session has closed no slot holds its id, and the other slots stand. -/
theorem SessionTable.closeSess {s : State} (h : SessionTable s) (id : Nat) : Sparse.sorted (s.closeSess id).sec.sessions = true
    ∧ ∀ j x, j < 8 → Sparse.get none (s.closeSess id).sec.sessions j = some x → Sparse.get none s.sec.sessions j = some x ∧ x.id ≠ id := by
  cases hs : s.sessSlot id with
  | none =>
    rw [State.closeSess_of_none hs]
    exact ⟨h.sorted, fun j x hj hx => ⟨hx, State.sessSlot_none.1 hs j x hj hx⟩⟩
  | some r =>
    obtain ⟨k, y⟩ := r
    obtain ⟨hk, hy, hid⟩ := State.sessSlot_some hs
    obtain ⟨z, heq, -, hsess⟩ := State.closeSess_of_some hs
    rw [heq, State.putSess_sessions, hsess]
    refine ⟨Sparse.sorted_set none none h.sorted, fun j x hj hx => ?_⟩
    have hjk : j ≠ k := by
      rintro rfl
      rw [Sparse.get_set_same none j none h.sorted] at hx
      cases hx
    rw [Sparse.get_set_other none none _ none hjk] at hx
    exact ⟨hx, fun hxid => hjk (h.unique j k x y hj hk hx hy (hxid.trans hid.symm))⟩

theorem SessionTable.of_closeSess {s : State} (h : SessionTable s) (id : Nat) : SessionTable (s.closeSess id) := by
  obtain ⟨hsorted, hkept⟩ := h.closeSess id
  exact ⟨hsorted, fun i j y z hi hj hy hz => h.unique i j y z hi hj (hkept i y hi hy).1 (hkept j z hj hz).1⟩

/-- The sessions of a list of ids close, one after the other. -/
def State.closeAll (s : State) (ids : List Nat) : State := ids.foldl (fun z i => z.closeSess i) s

theorem sessionFrame_closeAll (s : State) (ids : List Nat) : SessionFrame s (s.closeAll ids) :=
  List.foldlRecOn (motive := SessionFrame s) ids _ (.refl s) (fun z hz i _ => hz.trans (sessionFrame_closeSess z i))

/-- A session named in the list, or open nowhere, is open nowhere afterwards. -/
theorem SessionTable.closeAll_sessSlot {s : State} (h : SessionTable s) (ids : List Nat) {id : Nat}
    (hid : id ∈ ids ∨ s.sessSlot id = none) : (s.closeAll ids).sessSlot id = none := by
  induction ids generalizing s with
  | nil => exact hid.resolve_left List.not_mem_nil
  | cons i ids ih =>
    refine ih (h.of_closeSess i) ?_
    obtain ⟨-, hkept⟩ := h.closeSess i
    rcases hid with hid | hid
    · rcases List.mem_cons.1 hid with rfl | hid
      · exact .inr (State.sessSlot_none.2 fun k x hk hx => (hkept k x hk hx).2)
      · exact .inl hid
    · exact .inr (State.sessSlot_none.2 fun k x hk hx => State.sessSlot_none.1 hid k x hk (hkept k x hk hx).1)

/-- The ids of the operating sessions opened with the key of slot `k` (R346). -/
def State.keySessions (s : State) (k : Nat) : List Nat :=
  (List.range 8).filterMap (fun i => match Sparse.get none s.sec.sessions i with
    | some x => if !x.maint && x.slot == k then some x.id else none
    | none => none)

theorem State.mem_keySessions {s : State} {k i : Nat} {x : Sess} (hi : i < 8) (hx : Sparse.get none s.sec.sessions i = some x)
    (hmaint : x.maint = false) (hslot : x.slot = k) : x.id ∈ s.keySessions k :=
  List.mem_filterMap.2 ⟨i, List.mem_range.2 hi, by simp [hx, hmaint, hslot]⟩

theorem State.keySessions_nil {s : State} {k : Nat}
    (h : ∀ i x, i < 8 → Sparse.get none s.sec.sessions i = some x → x.maint = true ∨ x.slot ≠ k) : s.keySessions k = [] := by
  refine List.filterMap_eq_nil_iff.2 fun i hi => ?_
  split
  · next x hx =>
    refine if_neg ?_
    rcases h i x (List.mem_range.1 hi) hx with hm | hs
    · simp [hm]
    · simp [hs]
  · rfl

/-! ### KEY_ENROLL and KEY_REVOKE (R346) -/

/-- KEY_ENROLL is refused for a slot in use, a role set of 0, or an id in use. -/
theorem exec_keyEnroll_refused {s : State} {w : Nat} {p : Pkt} (t : Nat) (h : s.takenOp w 0x0601 = some p)
    (hr : (Sparse.get {} s.vault.keys (pnum p.params 0 4)).pub ≠ [] ∨ pnum p.params 4 4 = 0
      ∨ s.keyOfId (keyId ((p.params.drop 8).take 1793)) ≠ none) :
    exec (.keyEnroll w t) s = .next ((s.upTo t).answer w p 0x000B [] []) := by
  change execKeyEnroll w t s = _
  unfold execKeyEnroll
  rw [h]
  exact if_pos (by simpa [Option.isSome_iff_ne_none, State.keyOfId] using hr)

/-- KEY_ENROLL stores the key and its roles. -/
theorem exec_keyEnroll_stored {s : State} {w k : Nat} {p : Pkt} {pub : List Byte} (t : Nat) (h : s.takenOp w 0x0601 = some p)
    (hk : k = pnum p.params 0 4) (hpub : pub = (p.params.drop 8).take 1793) (hslot : (Sparse.get {} s.vault.keys k).pub = [])
    (hroles : pnum p.params 4 4 ≠ 0) (hid : s.keyOfId (keyId pub) = none) :
    exec (.keyEnroll w t) s = .next (((s.upTo t).putKey k { pub, roles := pnum p.params 4 4 }).answer w p 0 [] (leBytes 4 (keyId pub))) := by
  subst hk hpub
  change execKeyEnroll w t s = _
  unfold execKeyEnroll
  rw [h]
  exact if_neg (by simp [hslot, hroles, show (s.upTo t).keyOfId = s.keyOfId from rfl, hid])

/-- KEY_REVOKE empties the slot and closes the sessions of its key. -/
theorem exec_keyRevoke_taken {s : State} {w k : Nat} {p : Pkt} (t : Nat) (h : s.takenOp w 0x0602 = some p) (hk : k = pnum p.params 0 4) :
    exec (.keyRevoke w t) s = .next ((((s.upTo t).putKey k {}).closeAll (s.keySessions k)).answer w p 0 [] []) := by
  subst hk
  change execKeyRevoke w t s = _
  unfold execKeyRevoke
  rw [h]
  rfl

/-- What KEY_ENROLL refuses is answered with PARAM, and the store stands. -/
theorem keyEnroll_refuses {s : State} {w t : Nat} {p : Pkt} (h : Taken s w 0x0601 p)
    (hr : (Sparse.get {} s.vault.keys (pnum p.params 0 4)).pub ≠ [] ∨ pnum p.params 4 4 = 0
      ∨ s.keyOfId (keyId ((p.params.drop 8).take 1793)) ≠ none) :
    ∃ u, exec (.keyEnroll w t) s = .next u ∧ Answered s u w p 0x000B [] ∧ u.vault = s.vault := by
  obtain ⟨htaken, -, hsorted⟩ := h
  exact ⟨_, exec_keyEnroll_refused t htaken hr, answered_reply (s.upTo t) w p 0x000B [] [] _ hsorted, State.reply_vault ..⟩

/-- A key enrolled is in its slot and in `SECKEY`; salt, policy and sessions stand. -/
theorem keyEnroll_stores {s : State} {w t k : Nat} {p : Pkt} {pub : List Byte} (h : Taken s w 0x0601 p) (hk : k = pnum p.params 0 4)
    (hk16 : k < 16) (hpub : pub = (p.params.drop 8).take 1793) (hslot : (Sparse.get {} s.vault.keys k).pub = [])
    (hroles : pnum p.params 4 4 ≠ 0) (hbits : pnum p.params 4 4 < 8) (hkey : pub ≠ []) (hid : s.keyOfId (keyId pub) = none) :
    ∃ u, exec (.keyEnroll w t) s = .next u ∧ Answered s u w p 0 (leBytes 4 (keyId pub))
      ∧ Sparse.get {} u.vault.keys k = { pub, roles := pnum p.params 4 4 } ∧ u.rd SECKEY.id [k] = keyId pub ∧ u.flag SECKEY.valid [k] = true
      ∧ u.rd SECKEY.roles [k] = pnum p.params 4 4 ∧ u.vault.salt = s.vault.salt ∧ u.vault.policy = s.vault.policy ∧ u.sec = s.sec := by
  obtain ⟨htaken, -, hsorted⟩ := h
  refine ⟨_, exec_keyEnroll_stored t htaken hk hpub hslot hroles hid, ?_⟩
  generalize pnum p.params 4 4 = roles at *
  generalize hz : (s.upTo t).putKey k { pub, roles } = z
  have hzsorted : Sparse.sorted z.regs = true := hz ▸ State.sorted_putKey (s.upTo t) k { pub, roles } hsorted
  have hzreplies : z.rd CWSTATE.replies [w] = s.rd CWSTATE.replies [w] := hz ▸ (s.upTo t).putKey_replies { pub, roles } w hk16
  have hzvault : z.vault = { s.vault with keys := Sparse.set {} s.vault.keys k { pub, roles } } := by rw [← hz, State.putKey_vault]; rfl
  have hzsec : z.sec = s.sec := by rw [← hz, State.putKey_sec]; rfl
  obtain ⟨hzid, hzroles, hzvalid⟩ := (s.upTo t).putKey_rd k { pub, roles } hkey hsorted
  rw [hz] at hzid hzroles hzvalid
  have hframe := regsBut_reply z w p 0 [] (leBytes 4 (keyId pub)) (z.keyOf p.session)
  have haddr := SECKEY.addr_not_mem_reply w hk16
  unfold State.answer
  rw [State.reply_vault, State.reply_sec, hzvault]
  refine ⟨answered_of_replies (answered_reply z w p 0 [] _ _ hzsorted) hzreplies, ?_, (hframe.rd SECKEY.id haddr).trans hzid, ?_, ?_, rfl, rfl, hzsec⟩
  · exact Sparse.get_set_ne _ _ (fun he => hkey (congrArg KeySlot.pub he))
  · exact beq_iff_eq.2 ((hframe.rd SECKEY.valid haddr).trans hzvalid)
  · exact (hframe.rd SECKEY.roles haddr).trans (hzroles.trans (Nat.mod_eq_of_lt hbits))

/-- A key revoked leaves its slot empty and its sessions closed; the other slots stand, and the sessions too where none was opened with it. -/
theorem keyRevoke_revokes {s : State} {w t k : Nat} {p : Pkt} (h : Taken s w 0x0602 p) (hk : k = pnum p.params 0 4) (hk16 : k < 16)
    (hkeys : Sparse.sorted s.vault.keys = true) :
    ∃ u, exec (.keyRevoke w t) s = .next u ∧ Answered s u w p 0 [] ∧ Sparse.get {} u.vault.keys k = {} ∧ u.raw SECKEY [k] = 0
      ∧ (∀ j, j ≠ k → Sparse.get {} u.vault.keys j = Sparse.get {} s.vault.keys j)
      ∧ ((∀ i x, i < 8 → Sparse.get none s.sec.sessions i = some x → x.maint = true ∨ x.slot ≠ k) → u.sec = s.sec)
      ∧ (∀ id i x, SessionAt s id i x → i < 8 → x.maint = false → x.slot = k → u.sessSlot id = none) := by
  obtain ⟨htaken, -, hsorted⟩ := h
  refine ⟨_, exec_keyRevoke_taken t htaken hk, ?_⟩
  generalize hy : (s.upTo t).putKey k {} = y
  have hysorted : Sparse.sorted y.regs = true := hy ▸ State.sorted_putKey (s.upTo t) k {} hsorted
  have hyraw : y.raw SECKEY [k] = 0 := hy ▸ (s.upTo t).putKey_empty_raw k hsorted
  have hyreplies : y.rd CWSTATE.replies [w] = s.rd CWSTATE.replies [w] := hy ▸ (s.upTo t).putKey_replies {} w hk16
  have hykeys : y.vault.keys = Sparse.set {} s.vault.keys k {} := by rw [← hy, State.putKey_vault]; rfl
  have hysec : y.sec = s.sec := by rw [← hy, State.putKey_sec]; rfl
  have hclose := sessionFrame_closeAll y (s.keySessions k)
  generalize hz : y.closeAll (s.keySessions k) = z at *
  have hframe := regsBut_reply z w p 0 [] [] (z.keyOf p.session)
  unfold State.answer
  rw [State.reply_vault, State.reply_sec, hclose.vault, hykeys]
  refine ⟨answered_of_replies (answered_reply z w p 0 [] _ _ (hclose.sorted hysorted)) ((hclose.replies w).trans hyreplies),
    Sparse.get_set_same _ _ _ hkeys, ?_, fun j hj => Sparse.get_set_other _ _ _ _ hj, ?_, ?_⟩
  · exact (hframe.raw SECKEY (SECKEY.addr_not_mem_reply w hk16)).trans ((hclose.seckey hk16).trans hyraw)
  · intro hnone
    rw [← hz, State.keySessions_nil hnone]
    exact hysec
  · rintro id i x ⟨hat, hsess, hunique⟩ hi hmaint hslot
    obtain ⟨-, hx, rfl⟩ := State.sessSlot_some hat
    have htable : SessionTable y := ⟨by rw [hysec]; exact hsess, by rw [hysec]; exact hunique⟩
    rw [State.reply_sessSlot, ← hz]
    exact htable.closeAll_sessSlot _ (.inl (State.mem_keySessions hi hx hmaint hslot))

end Sys2Proof.Machine

open Sys2Proof.Machine

/-- Settles O47: a key's id is four bytes of its digest, and KEY_ENROLL and KEY_REVOKE refuse, store, empty and close as R346 says. -/
theorem keysAreEnrolledAndRevoked : Obligations.KeysAreEnrolledAndRevoked := by
  refine ⟨keyId_eq, ?_, ?_⟩
  · rintro w t k p pub s h rfl rfl hk16
    exact ⟨keyEnroll_refuses h, keyEnroll_stores h rfl hk16 rfl⟩
  · intro w t k p s h hk hk16 hkeys
    exact keyRevoke_revokes h hk hk16 hkeys
end

section
/-!
SUPPORT. Single bits of a register, the lowest deliverable source of a target (R353, R357), and what claims and completions do to the
pending and active bits (R352, R357, R358).
-/
namespace Sys2Proof.Machine

open Sys2Proof.Claims

/-! ### Single bits -/

theorem bitOf_eq_testBit (n i : Nat) : bitOf n i = n.testBit i :=
  (Bool.beq_eq_decide_eq _ _).trans Nat.testBit_eq_decide_div_mod_eq.symm

theorem bitOf_setBits_same (n i : Nat) (on : Bool) : bitOf (setBits n i 1 (b2n on)) i = on := by
  change (bitsOf (setBits n i 1 (b2n on)) i 1 == 1) = on
  rw [bitsOf_setBits]
  cases on <;> rfl

/-- A bit of a register just set or cleared reads back. -/
theorem State.bitOf_setRaw_same {s : State} (r : Reg) (idx : List Nat) {i : Nat} (on : Bool) (hs : Sparse.sorted s.regs = true) (hi : i < 64) :
    bitOf ((s.setRaw r idx (setBits (s.raw r idx) i 1 (b2n on))).raw r idx) i = on := by
  have hlt : setBits (s.raw r idx) i 1 (b2n on) < 2 ^ 64 := setBits_lt (BitVec.isLt _) hi
  rw [State.raw, State.setRaw_regs, RegFile.raw_setRaw_same _ _ _ hs, BitVec.toNat_ofNat, Nat.mod_eq_of_lt hlt, bitOf_setBits_same]

/-! ### Pending and active bits -/

section
variable {s : State} (x : Nat) (on : Bool)

theorem regsBut_setPending : RegsBut s (s.setPending x on) [IPEND.addr [x / 32]] := regsBut_setRaw _ _ _ _

theorem regsBut_setActive : RegsBut s (s.setActive x on) [IACTIVE.addr [x / 32]] := regsBut_setRaw _ _ _ _

theorem State.sorted_setPending (hs : Sparse.sorted s.regs = true) : Sparse.sorted (s.setPending x on).regs = true :=
  State.sorted_setRaw _ _ _ hs

theorem State.bitOf_setPending (hs : Sparse.sorted s.regs = true) : bitOf ((s.setPending x on).raw IPEND [x / 32]) (x % 32) = on :=
  State.bitOf_setRaw_same _ _ on hs (by omega)

theorem State.bitOf_setActive (hs : Sparse.sorted s.regs = true) : bitOf ((s.setActive x on).raw IACTIVE [x / 32]) (x % 32) = on :=
  State.bitOf_setRaw_same _ _ on hs (by omega)

end

theorem State.upTo_self (s : State) : s.upTo s.now = s := by
  simp [State.upTo]

/-- A condition that holds makes its source pending at once, while the source is not active (R352). -/
theorem exec_pendingSet_pends {s : State} {x : Nat} (hs : Sparse.sorted s.regs = true) (hx : x < 1023) (hcond : s.irqCond x = true)
    (hactive : bitOf (s.raw IACTIVE [x / 32]) (x % 32) = false) :
    ∃ y, exec (.pendingSet x s.now) s = .next y ∧ bitOf (y.raw IPEND [x / 32]) (x % 32) = true := by
  refine ⟨s.setPending x true, ?_, State.bitOf_setPending x true hs⟩
  change execPendingSet x s.now s = _
  unfold execPendingSet
  rw [State.upTo_self]
  exact if_pos ⟨hx, hcond, hactive⟩

/-! ### Deliverable sources (R353) -/

/-- A source is deliverable to a target: ready in the target's class, and the target is one of its own (R353). -/
def State.deliverable (s : State) (t x : Nat) : Bool := bitOf (s.readyWord (x / 32) t) (x % 32) && s.targets x t

theorem State.deliverable_eq_false {s : State} {t x : Nat} :
    s.deliverable t x = false ↔ s.targets x t = false ∨ bitOf (s.readyWord (x / 32) t) (x % 32) = false := by
  rw [State.deliverable, Bool.and_eq_false_iff, Or.comm]

/-- An active source is ready for no target. -/
theorem State.not_deliverable_of_active {s : State} {x : Nat} (t : Nat) (h : bitOf (s.raw IACTIVE [x / 32]) (x % 32) = true) :
    s.deliverable t x = false := by
  rw [bitOf_eq_testBit] at h
  refine State.deliverable_eq_false.2 (.inr ?_)
  rw [bitOf_eq_testBit, State.readyWord, BitVec.testBit_toNat]
  have hbit : (BitVec.ofNat 32 (s.raw IACTIVE [x / 32])).getLsbD (x % 32) = true := by
    rw [BitVec.getLsbD_ofNat, h, Bool.and_true]
    exact decide_eq_true (Nat.mod_lt x (by decide))
  simp only [BitVec.getLsbD_and, BitVec.getLsbD_not, hbit, Bool.not_true, Bool.and_false, Bool.false_and]

/-- The search of one group finds its first deliverable source. -/
theorem State.firstIn_eq (s : State) (g t : Nat) :
    s.firstIn g t = ((List.range 32).find? (fun b => s.deliverable t (32 * g + b))).map (32 * g + ·) := by
  have hbit (b : Nat) (hb : b < 32) : s.deliverable t (32 * g + b) = (bitOf (s.readyWord g t) b && s.targets (32 * g + b) t) := by
    rw [State.deliverable, show (32 * g + b) / 32 = g by omega, show (32 * g + b) % 32 = b by omega]
  unfold State.firstIn
  dsimp only
  split
  · next hw =>
    have hnone : (List.range 32).find? (fun b => s.deliverable t (32 * g + b)) = none := by
      refine List.find?_range_eq_none.2 fun b hb => ?_
      rw [hbit b hb, hw]
      simp [bitOf]
    rw [hnone]
    rfl
  · rw [← List.head?_filter, ← List.head?_filter, List.filter_congr fun b hb => hbit b (List.mem_range.1 hb)]

/-- A search group by group is a search of all numbers in their order. -/
theorem findSome?_range_find? (p : Nat → Bool) (k n : Nat) :
    (List.range n).findSome? (fun g => ((List.range k).find? (fun b => p (k * g + b))).map (k * g + ·)) = (List.range (k * n)).find? p := by
  induction n with
  | zero => rfl
  | succ n ih =>
    rw [List.range_succ, List.findSome?_append, ih, List.findSome?_singleton, Nat.mul_succ, List.range_add, List.find?_append, List.find?_map]
    rfl

theorem State.lowest_eq (s : State) (t : Nat) : s.lowest t = (List.range 1024).find? (s.deliverable t) := by
  simp only [State.lowest, State.firstIn_eq]
  exact findSome?_range_find? (s.deliverable t) 32 32

theorem State.deliverable_of_lowest {s : State} {t x : Nat} (h : s.lowest t = some x) : s.deliverable t x = true :=
  List.find?_some (s.lowest_eq t ▸ h)

theorem State.lowest_of_lowestFor {s : State} {t x : Nat} (h : LowestFor s t x) : s.lowest t = some x := by
  obtain ⟨hx, htarget, hready, hleast⟩ := h
  rw [State.lowest_eq, List.find?_range_eq_some]
  refine ⟨by simp [State.deliverable, htarget, hready], List.mem_range.2 (by omega), fun y hy => ?_⟩
  rw [State.deliverable_eq_false.2 (hleast y hy)]
  rfl

/-! ### Claims (R357) -/

/-- A read of `ICLAIM` answered with an id and the notified flag, which it clears. -/
def State.answerClaim (s : State) (t id : Nat) : State :=
  (s.emit (.readValue (ICLAIM.addr [t]) 32 (id + s.rd ICLAIM.notified [t] * 2 ^ 10))).wr ICLAIM.notified [t] 0

theorem regsBut_answerClaim (s : State) (t id : Nat) : RegsBut s (s.answerClaim t id) [ICLAIM.addr [t]] :=
  regsBut_wr (s.emit _) ICLAIM.notified [t] 0

theorem State.sorted_answerClaim {s : State} (t id : Nat) (hs : Sparse.sorted s.regs = true) :
    Sparse.sorted (s.answerClaim t id).regs = true := RegFile.sorted_wr _ _ _ hs

theorem State.answerClaim_notified {s : State} (t id : Nat) (hs : Sparse.sorted s.regs = true) :
    (s.answerClaim t id).rd ICLAIM.notified [t] = 0 := RegFile.rd_wr_same ICLAIM.notified [t] 0 hs (by decide)

/-- A source becomes active and claimed by a target, and pending no more. -/
def State.takeSource (s : State) (t x : Nat) : State :=
  { (s.setPending x false).setActive x true with irq := { s.irq with claimedBy := Sparse.set 0 s.irq.claimedBy x (t + 1) } }

theorem regsBut_takeSource (s : State) (t x : Nat) : RegsBut s (s.takeSource t x) [IPEND.addr [x / 32], IACTIVE.addr [x / 32]] :=
  ((regsBut_setPending x false).mono (by simp)).trans ((regsBut_setActive (s := s.setPending x false) x true).mono (by simp))

/-- The bits of a source just claimed (R357). -/
theorem State.takeSource_bits {s : State} (t x : Nat) (hs : Sparse.sorted s.regs = true) :
    bitOf ((s.takeSource t x).raw IPEND [x / 32]) (x % 32) = false ∧ bitOf ((s.takeSource t x).raw IACTIVE [x / 32]) (x % 32) = true := by
  have hp := State.sorted_setPending x false hs
  have ha : IPEND.addr [x / 32] ∉ [IACTIVE.addr [x / 32]] := by simp [IPEND.addr_eq, IACTIVE.addr_eq]
  refine ⟨?_, State.bitOf_setActive x true hp⟩
  exact ((regsBut_setActive (s := s.setPending x false) x true).raw IPEND ha) ▸ State.bitOf_setPending x false hs

/-- The lowest source is claimed. -/
theorem State.claim_of_lowest {s : State} {t x : Nat} (h : s.lowest t = some x) (hx : x < 1023) :
    s.claim t = (s.answerClaim t x).takeSource t x := by
  have hid : x ≠ 0x3FF := by omega
  unfold State.claim
  rw [h]
  exact if_neg hid

/-- Where no source is deliverable, the read is answered with 0x3FF and claims nothing. -/
theorem State.claim_of_none {s : State} {t : Nat} (h : ∀ x, x < 1023 → s.deliverable t x = false) : s.claim t = s.answerClaim t 0x3FF := by
  cases hl : s.lowest t with
  | none =>
    unfold State.claim
    rw [hl]
    rfl
  | some x =>
    have hlt : x < 1024 := List.mem_range.1 (List.mem_of_find?_eq_some (s.lowest_eq t ▸ hl))
    have hge : ¬ x < 1023 := fun hx => by simpa [h x hx] using State.deliverable_of_lowest hl
    obtain rfl : x = 0x3FF := by omega
    unfold State.claim
    rw [hl]
    rfl

/-- The lowest deliverable source is read, claimed by its target alone, and no more deliverable to any. -/
theorem iclaimRead_claims {s : State} {t x : Nat} (hs : Sparse.sorted s.regs = true) (ht : t < 40) (h : LowestFor s t x) :
    ∃ z, exec (.iclaimRead t) s = .next z
      ∧ z.out = s.out ++ [.readValue (ICLAIM.addr [t]) 32 (x + s.rd ICLAIM.notified [t] * 2 ^ 10)] ∧ z.flag ICLAIM.notified [t] = false
      ∧ bitOf (z.raw IPEND [x / 32]) (x % 32) = false ∧ bitOf (z.raw IACTIVE [x / 32]) (x % 32) = true
      ∧ Sparse.get 0 z.irq.claimedBy x = t + 1 ∧ RegsBut s z [ICLAIM.addr [t], IPEND.addr [x / 32], IACTIVE.addr [x / 32]]
      ∧ ∀ u, u < 40 → z.lowest u ≠ some x := by
  have hx : x < 1023 := h.1
  have hclaim : exec (.iclaimRead t) s = .next ((s.answerClaim t x).takeSource t x) :=
    congrArg Host.Outcome.next (State.claim_of_lowest (State.lowest_of_lowestFor h) hx)
  have hy := State.sorted_answerClaim t x hs
  have hnotified := State.answerClaim_notified t x hs
  have hframe := regsBut_answerClaim s t x
  generalize hyeq : s.answerClaim t x = y at *
  have htake := regsBut_takeSource y t x
  obtain ⟨hpend, hactive⟩ := State.takeSource_bits t x hy
  refine ⟨_, hclaim, ?_, ?_, hpend, hactive, Sparse.get_set_ne _ _ (Nat.succ_ne_zero t),
    (hframe.mono (by simp)).trans (htake.mono (by simp)), fun u _ hu => ?_⟩
  · rw [← hyeq]; rfl
  · have ha : ICLAIM.addr [t] ∉ [IPEND.addr [x / 32], IACTIVE.addr [x / 32]] := by
      simp [ICLAIM.addr_eq, IPEND.addr_eq, IACTIVE.addr_eq]; omega
    exact beq_eq_false_iff_ne.2 (by rw [← State.rd_eq, htake.rd ICLAIM.notified ha, hnotified]; decide)
  · simpa [State.not_deliverable_of_active u hactive] using State.deliverable_of_lowest hu

/-- Nothing deliverable: the read answers 0x3FF, and only the notified flag changes. -/
theorem iclaimRead_none {s : State} {t : Nat} (hs : Sparse.sorted s.regs = true) (h : ∀ x, x < 1023 → s.deliverable t x = false) :
    ∃ z, exec (.iclaimRead t) s = .next z ∧ z = { s with regs := z.regs, out := z.out }
      ∧ z.out = s.out ++ [.readValue (ICLAIM.addr [t]) 32 (0x3FF + s.rd ICLAIM.notified [t] * 2 ^ 10)]
      ∧ z.flag ICLAIM.notified [t] = false ∧ RegsBut s z [ICLAIM.addr [t]] := by
  refine ⟨s.answerClaim t 0x3FF, congrArg Host.Outcome.next (State.claim_of_none h), rfl, rfl, ?_, regsBut_answerClaim s t 0x3FF⟩
  exact beq_eq_false_iff_ne.2 (by rw [← State.rd_eq, State.answerClaim_notified t 0x3FF hs]; decide)

/-! ### Completions (R358) -/

theorem State.complete_of_claimed {s : State} {t x : Nat} {v : W32} (hx : x = v.toNat % 1024) (h : Sparse.get 0 s.irq.claimedBy x = t + 1) :
    s.complete t v = { s.setActive x false with irq := { s.irq with claimedBy := Sparse.erase s.irq.claimedBy x } } := by
  subst hx
  exact if_pos h

theorem State.complete_of_not_claimed {s : State} {t : Nat} {v : W32} (h : Sparse.get 0 s.irq.claimedBy (v.toNat % 1024) ≠ t + 1) :
    s.complete t v = s.bump ISTRAY.count [] := if_neg h

/-- A completion by the target that claimed the source ends its active state, and the source can pend again. -/
theorem icompleteWrite_ends {s : State} {t x : Nat} {v : W32} (hs : Sparse.sorted s.regs = true) (hx : x = v.toNat % 1024)
    (hclaims : Sparse.sorted s.irq.claimedBy = true) (h : Sparse.get 0 s.irq.claimedBy x = t + 1) :
    ∃ z, exec (.icompleteWrite t v) s = .next z
      ∧ bitOf (z.raw IACTIVE [x / 32]) (x % 32) = false ∧ Sparse.get 0 z.irq.claimedBy x = 0 ∧ RegsBut s z [IACTIVE.addr [x / 32]]
      ∧ (x < 1023 → z.irqCond x = true → ∃ y, exec (.pendingSet x z.now) z = .next y ∧ bitOf (y.raw IPEND [x / 32]) (x % 32) = true) := by
  have hinactive := State.bitOf_setActive x false hs
  exact ⟨_, congrArg Host.Outcome.next (State.complete_of_claimed hx h), hinactive, Sparse.get_erase_same 0 x hclaims,
    regsBut_setActive x false, fun hlt hcond => exec_pendingSet_pends (State.sorted_setRaw _ _ _ hs) hlt hcond hinactive⟩

/-- A completion of what the target did not claim is counted and does nothing else. -/
theorem icompleteWrite_strays {s : State} {t : Nat} {v : W32} (h : Sparse.get 0 s.irq.claimedBy (v.toNat % 1024) ≠ t + 1) :
    exec (.icompleteWrite t v) s = .next (s.bump ISTRAY.count []) :=
  congrArg Host.Outcome.next (State.complete_of_not_claimed h)

end Sys2Proof.Machine

open Sys2Proof.Machine

/-- Settles O50: a read of `ICLAIM` claims what a search of the sources in their order finds first, and a write to `ICOMPLETE` ends what
its target claimed. -/
theorem claimsAndCompletions : Obligations.ClaimsAndCompletions := by
  intro t s ht hs
  refine ⟨fun x h => iclaimRead_claims hs ht h, fun h => iclaimRead_none hs fun x hx => State.deliverable_eq_false.2 (h x hx), ?_⟩
  rintro v x rfl hclaims
  exact ⟨icompleteWrite_ends hs rfl hclaims, icompleteWrite_strays⟩
end
